-- ==== Sys2Proof/Word.lean ====
section
/-!
DEFINITION. The machine words of the MLW-SV4-768 and their plainest arithmetic (00_scope.md, R9: bit 0 is the
least significant bit of every field).
-/
namespace Sys2Proof

/-- A 64-bit general register or register word (12, R373; 14, R447). -/
abbrev Word := BitVec 64

/-- The smallest addressable unit of device memory. -/
abbrev Byte := BitVec 8

/-- A 256-bit tensor descriptor (12, R380). -/
abbrev Desc := BitVec 256

/-- A 32-bit quantity: a handle, an OPID, a token counter, an FP32 pattern. -/
abbrev Half := BitVec 32

end Sys2Proof
end

