-- ==== Sys2Proof/Machine/Bits.lean ====
section
/-!
DEFINITION. Bytes, bit streams, check codes, digests and random bits: little-endian byte order (00, R9), packed
streams (03, R87), CRC-16 (05, R163), CRC-32C (09, R286, R300), CRC-64 (13, R422), SHA-512 (05, R172 and others),
Philox4x32-10 (03, R100).
-/
namespace Sys2Proof.Machine

/-- The low `n` bytes of a number, least significant first (00, R9). -/
def toBytes : Nat → Nat → List Byte
  | 0, _ => []
  | n + 1, v => BitVec.ofNat 8 v :: toBytes n (v / 256)

/-- The number that little-endian bytes spell (00, R9). -/
def fromBytes : List Byte → Nat
  | [] => 0
  | b :: bs => b.toNat + 256 * fromBytes bs

/-- The number that big-endian bytes spell (network byte order, 10, R338). -/
def fromBytesBE (bs : List Byte) : Nat := fromBytes bs.reverse

/-- The bytes of a number, most significant first. -/
def toBytesBE (n v : Nat) : List Byte := (toBytes n v).reverse

/-- Bits `[lo + len - 1 : lo]` of a number. -/
def bits (v lo len : Nat) : Nat := (v >>> lo) % 2 ^ len

/-- Bit `i` of a number. -/
def bit (v i : Nat) : Bool := v.testBit i

/-- A Boolean as a bit. -/
def b2n (b : Bool) : Nat := if b then 1 else 0

/-- A 32-bit or 64-bit number sign-extended to an integer. -/
def signed (len v : Nat) : Int := if v % 2 ^ len < 2 ^ (len - 1) then (v % 2 ^ len : Nat) else (v % 2 ^ len : Nat) - (2 ^ len : Nat)

/-- An integer cut to `len` bits of two's complement. -/
def wrapInt (len : Nat) (v : Int) : Nat := (v % (2 ^ len : Nat)).toNat

/-- The smallest multiple count: `ceil (a / b)`. -/
def ceilDiv (a b : Nat) : Nat := (a + b - 1) / b

/-- `a` rounded up to a multiple of `b`. -/
def roundUp (a b : Nat) : Nat := ceilDiv a b * b

/-- Add and stay at the largest value of `len` bits (a saturating counter). -/
def satAdd (len a b : Nat) : Nat := min (a + b) (2 ^ len - 1)

/-- Elements of `w` bits packed into one number, element 0 lowest (03, R87). -/
def packNat (w : Nat) : List Nat → Nat
  | [] => 0
  | x :: xs => x % 2 ^ w + 2 ^ w * packNat w xs

/-- `n` elements of `w` bits unpacked from a number, element 0 lowest (03, R87). -/
def unpackNat (w : Nat) : Nat → Nat → List Nat
  | 0, _ => []
  | n + 1, v => v % 2 ^ w :: unpackNat w n (v / 2 ^ w)

/-- The ASCII bytes of a tag such as "SVFW". -/
def ascii (s : String) : List Byte := s.toList.map fun c => BitVec.ofNat 8 c.toNat

/-- The list cut or padded with zeros to `n` bytes. -/
def padTo (n : Nat) (bs : List Byte) : List Byte := bs.take n ++ List.replicate (n - bs.length) 0

/-- Zeros that bring a list to a multiple of `m` bytes. -/
def padMul (m : Nat) (bs : List Byte) : List Byte := bs ++ List.replicate (roundUp bs.length m - bs.length) 0

/-- Bytes `[off, off + len)` of a list. -/
def slice (bs : List Byte) (off len : Nat) : List Byte := (bs.drop off).take len

/-- The little-endian field of `len` bytes at `off`. -/
def leField (bs : List Byte) (off len : Nat) : Nat := fromBytes (slice bs off len)

/-- The big-endian field of `len` bytes at `off`. -/
def beField (bs : List Byte) (off len : Nat) : Nat := fromBytesBE (slice bs off len)

/-- Cut a list into pieces of `n`, the last one shorter. The first argument bounds the number of pieces. -/
def chunks {α : Type} : Nat → Nat → List α → List (List α)
  | 0, _, _ => []
  | k + 1, n, xs => if xs.isEmpty then [] else xs.take n :: chunks k n (xs.drop n)

/-- Pieces of `n` elements, the last one shorter (`n` at least 1). -/
def pieces {α : Type} (n : Nat) (xs : List α) : List (List α) := chunks xs.length (max n 1) xs

/-! ## Check codes -/

/-- One bit of a CRC without reflection. -/
def crcBitMsb (w poly c : Nat) : Nat :=
  if c.testBit (w - 1) then ((c * 2) % 2 ^ w) ^^^ poly else (c * 2) % 2 ^ w

/-- A CRC without reflection and without a final XOR. -/
def crcMsb (w poly init : Nat) (bs : List Byte) : Nat :=
  bs.foldl (fun c b => (List.range 8).foldl (fun c _ => crcBitMsb w poly c) (c ^^^ (b.toNat <<< (w - 8)))) init

/-- CRC-16 of a block payload (05, R163). -/
def crc16 (bs : List Byte) : Nat := crcMsb 16 0x1021 0xFFFF bs

/-- CRC-64 of output bytes (13, R422). -/
def crc64 (bs : List Byte) : Nat := crcMsb 64 0x42F0E1EBA9EA3693 0 bs

/-- CRC-32C, the reflected Castagnoli code (09, R286, R300; 13, R421). -/
def crc32c (bs : List Byte) : Nat :=
  (bs.foldl (fun c b =>
    (List.range 8).foldl (fun c _ => if c % 2 = 1 then (c / 2) ^^^ 0x82F63B78 else c / 2) (c ^^^ b.toNat))
    0xFFFFFFFF) ^^^ 0xFFFFFFFF

/-! ## SHA-512 -/

/-- The round constants of SHA-512: fraction bits of the cube roots of the first 80 primes. -/
def sha512K : List (BitVec 64) :=
  [0x428a2f98d728ae22, 0x7137449123ef65cd, 0xb5c0fbcfec4d3b2f, 0xe9b5dba58189dbbc, 0x3956c25bf348b538] ++
  [0x59f111f1b605d019, 0x923f82a4af194f9b, 0xab1c5ed5da6d8118, 0xd807aa98a3030242, 0x12835b0145706fbe] ++
  [0x243185be4ee4b28c, 0x550c7dc3d5ffb4e2, 0x72be5d74f27b896f, 0x80deb1fe3b1696b1, 0x9bdc06a725c71235] ++
  [0xc19bf174cf692694, 0xe49b69c19ef14ad2, 0xefbe4786384f25e3, 0x0fc19dc68b8cd5b5, 0x240ca1cc77ac9c65] ++
  [0x2de92c6f592b0275, 0x4a7484aa6ea6e483, 0x5cb0a9dcbd41fbd4, 0x76f988da831153b5, 0x983e5152ee66dfab] ++
  [0xa831c66d2db43210, 0xb00327c898fb213f, 0xbf597fc7beef0ee4, 0xc6e00bf33da88fc2, 0xd5a79147930aa725] ++
  [0x06ca6351e003826f, 0x142929670a0e6e70, 0x27b70a8546d22ffc, 0x2e1b21385c26c926, 0x4d2c6dfc5ac42aed] ++
  [0x53380d139d95b3df, 0x650a73548baf63de, 0x766a0abb3c77b2a8, 0x81c2c92e47edaee6, 0x92722c851482353b] ++
  [0xa2bfe8a14cf10364, 0xa81a664bbc423001, 0xc24b8b70d0f89791, 0xc76c51a30654be30, 0xd192e819d6ef5218] ++
  [0xd69906245565a910, 0xf40e35855771202a, 0x106aa07032bbd1b8, 0x19a4c116b8d2d0c8, 0x1e376c085141ab53] ++
  [0x2748774cdf8eeb99, 0x34b0bcb5e19b48a8, 0x391c0cb3c5c95a63, 0x4ed8aa4ae3418acb, 0x5b9cca4f7763e373] ++
  [0x682e6ff3d6b2b8a3, 0x748f82ee5defb2fc, 0x78a5636f43172f60, 0x84c87814a1f0ab72, 0x8cc702081a6439ec] ++
  [0x90befffa23631e28, 0xa4506cebde82bde9, 0xbef9a3f7b2c67915, 0xc67178f2e372532b, 0xca273eceea26619c] ++
  [0xd186b8c721c0c207, 0xeada7dd6cde0eb1e, 0xf57d4f7fee6ed178, 0x06f067aa72176fba, 0x0a637dc5a2c898a6] ++
  [0x113f9804bef90dae, 0x1b710b35131c471b, 0x28db77f523047d84, 0x32caab7b40c72493, 0x3c9ebe0a15c9bebc] ++
  [0x431d67c49c100d4c, 0x4cc5d4becb3e42b6, 0x597f299cfc657e2a, 0x5fcb6fab3ad6faec, 0x6c44198c4a475817]

/-- The initial hash value of SHA-512: fraction bits of the square roots of the first 8 primes. -/
def sha512H : List (BitVec 64) :=
  [0x6a09e667f3bcc908, 0xbb67ae8584caa73b, 0x3c6ef372fe94f82b, 0xa54ff53a5f1d36f1, 0x510e527fade682d1] ++
  [0x9b05688c2b3e6c1f, 0x1f83d9abfb41bd6b, 0x5be0cd19137e2179]

/-- Padding to whole blocks of 128 bytes. -/
def sha512Pad (m : List Byte) : List Byte :=
  let z := (256 - (m.length + 17) % 128) % 128
  m ++ [0x80] ++ List.replicate z 0 ++ toBytesBE 16 (8 * m.length)

/-- The message schedule: newest word first. -/
def sha512Extend : Nat → List (BitVec 64) → List (BitVec 64)
  | 0, w => w
  | n + 1, w =>
    let w2 := w.getD 1 0
    let w7 := w.getD 6 0
    let w15 := w.getD 14 0
    let w16 := w.getD 15 0
    let s0 := w15.rotateRight 1 ^^^ w15.rotateRight 8 ^^^ (w15 >>> 7)
    let s1 := w2.rotateRight 19 ^^^ w2.rotateRight 61 ^^^ (w2 >>> 6)
    sha512Extend n ((w16 + s0 + w7 + s1) :: w)

/-- One round of the compression function. -/
def sha512Round (v : List (BitVec 64)) (kw : BitVec 64 × BitVec 64) : List (BitVec 64) :=
  match v with
  | [a, b, c, d, e, f, g, h] =>
    let s1 := e.rotateRight 14 ^^^ e.rotateRight 18 ^^^ e.rotateRight 41
    let ch := (e &&& f) ^^^ (~~~e &&& g)
    let t1 := h + s1 + ch + kw.1 + kw.2
    let s0 := a.rotateRight 28 ^^^ a.rotateRight 34 ^^^ a.rotateRight 39
    let mj := (a &&& b) ^^^ (a &&& c) ^^^ (b &&& c)
    [t1 + (s0 + mj), a, b, c, d + t1, e, f, g]
  | v => v

/-- One block of 128 bytes. -/
def sha512Block (h : List (BitVec 64)) (blk : List Byte) : List (BitVec 64) :=
  let w0 := (pieces 8 blk).map fun b => BitVec.ofNat 64 (fromBytesBE b)
  let w := (sha512Extend 64 w0.reverse).reverse
  let v := (sha512K.zip w).foldl sha512Round h
  (h.zip v).map fun p => p.1 + p.2

/-- SHA-512 of a byte list: 64 bytes. -/
def sha512 (m : List Byte) : List Byte :=
  ((pieces 128 (sha512Pad m)).foldl sha512Block sha512H).flatMap fun x => toBytesBE 8 x.toNat

/-- "The first 64 bits of SHA-512", kept as the eight bytes it is stored in and read little-endian (00, R9;
log 22). -/
def digest64 (m : List Byte) : Nat := fromBytes ((sha512 m).take 8)

/-! ## Philox4x32 with 10 rounds (03, R100) -/

/-- One round of Philox4x32 on a counter of four words under a key of two. -/
def philoxRound (c : Nat × Nat × Nat × Nat) (k : Nat × Nat) : Nat × Nat × Nat × Nat :=
  let p0 := 0xD2511F53 * c.1
  let p1 := 0xCD9E8D57 * c.2.2.1
  ((p1 / 2 ^ 32) ^^^ c.2.1 ^^^ k.1, p1 % 2 ^ 32, (p0 / 2 ^ 32) ^^^ c.2.2.2 ^^^ k.2, p0 % 2 ^ 32)

/-- Ten rounds, the key moved on by the Weyl constants between them. -/
def philox (c : Nat × Nat × Nat × Nat) (k : Nat × Nat) : Nat × Nat × Nat × Nat :=
  (List.range 10).foldl (fun c i =>
    philoxRound c ((k.1 + i * 0x9E3779B9) % 2 ^ 32, (k.2 + i * 0xBB67AE85) % 2 ^ 32)) c

/-- The 8-bit random value of element index `i` of tensor `t` on a stream, under a seed and a step (03, R100). -/
def randomByte (seed step stream t i : Nat) : Nat :=
  let j := i % 2 ^ 36
  let o := philox (j / 16, t % 2 ^ 24 + stream % 256 * 2 ^ 24, step % 2 ^ 32, step / 2 ^ 32 % 2 ^ 32)
    (seed % 2 ^ 32, seed / 2 ^ 32 % 2 ^ 32)
  bits (o.1 + o.2.1 * 2 ^ 32 + o.2.2.1 * 2 ^ 64 + o.2.2.2 * 2 ^ 96) (8 * (j % 16)) 8

end Sys2Proof.Machine
end

