-- ==== Sys2Proof/Config.lean ====
section
/-!
DEFINITION. What an implementation fixes and the free values: constants without a body, so that no proof can
see what they are. Each is named in the assumption log.
-/
namespace Sys2Proof.Config

/-- A fresh free value: the n-th one drawn, cut to the width its user needs (log 7). -/
opaque free : Nat → Word

/-- The FP32 output bits of the activation functions ACT 0x4 to 0xA on an FP32 input: fixed only by the
published test vectors (06, R202; log 20). -/
opaque activation : Nat → Half → Half

/-- The FP32 bits of the derivative of SiLU and GELU at a stored output, on the branch the bit names: that of the preimage which
the published inversion procedure returns (06, R203, R205; log 20). -/
opaque activationDeriv : Nat → Half → Bool → Half

/-- The exponent of a per-tensor scale whose power of two lies outside the range of FP32 (03, R108: the scale is an
FP32 power of two and the rule does not say what an unrepresentable one becomes; log 25). -/
opaque scaleBeyond : Int → Int

/-- The exponent of a per-tensor scale for a negative reference amax, which only a history that the host has written can
hold (03, R108, R111: the logarithm is not stated; log 25). -/
opaque scaleNegative : Rat → Int

/-- The element codes that a unit takes from a coded block it does not decode: block address and element index
(05, R168, R174: the elements are poisoned and their values are not stated; log 24). -/
opaque undecoded : Nat → Nat → Nat

/-- The FP32 bits of the elements of a row whose statistics record fails its check: a draw's number, the row and the
element (06, R200: the row's output is poisoned and its values are not stated; log 36). -/
opaque rowUnchecked : Nat → Nat → Nat → Half

/-- The accumulator of an element whose sum failed its check: a draw's number, the plane, the row and the column
(13, R417 to R420: the output is written as computed, and what was computed is wrong or not; log 111). -/
opaque disturbed : Nat → Nat → Nat → Nat → BitVec 178

/-- SAT of the stochastic rounding that stores BF16 moments (07, R230 gives RND and the streams but no SAT; log 41). -/
opaque momentSat : Bool

/-- The RSA-4096 modulus of the identity key for an epoch, as 512 big-endian bytes: it derives from the secret
fuses (15, R501; log 21). -/
opaque identityModulus : Nat → List Byte

/-- An RSASSA-PSS signature of a message under the identity key of an epoch (07, R250; 15, R503; log 21). -/
opaque sign : Nat → List Byte → List Byte

/-- Whether an RSASSA-PSS signature of a message verifies under a modulus and exponent (15, R488; log 21). -/
opaque verify : List Byte → Nat → List Byte → List Byte → Bool

/-- SHA-512 of the vendor key that the fuses hold (15, R488; log 21). -/
opaque keyHash : List Byte

/-- The boot ROM digest of measurement block 1 (15, R504; log 21). -/
opaque bootRomDigest : List Byte

/-- The certificate chain that Eloathiah provisions in slot 0 (15, R502; log 21). -/
opaque slot0Chain : List Byte

/-- Whether the leaf of a certificate chain holds a given public modulus (15, R502; log 21). -/
opaque leafHolds : List Byte → List Byte → Bool

/-- The station address of a far port, as the fuses hold it (10, R317; log 4). -/
opaque fuseMac : Nat → BitVec 48

/-- RANK and FORM of a context record, and its SHAPE, OFFSET and EXTENT fields as one number, for its data's length
(07, R248 states them for binding content only; log 42). -/
opaque contextRank : Nat
opaque contextForm : Nat
opaque contextShape : Nat → Nat

/-- TGEN of a fragment's table image and blocks and SLOT of its blocks, for a tensor and a round (10, R335, R336 and 05,
R187 state neither; log 43). -/
opaque fragmentGen : Nat → Nat → Nat
opaque fragmentSlot : Nat → Nat → Nat

/-- The place among a fragment's kept values of one of its elements that are not +0, for the fragment's digest and the
element's number among them, when fewer of them than KEPT are not +0 (10, R324, R336: which +0 elements are kept values
is not stated; log 44). -/
opaque keptPlace : Nat → Nat → Nat

/-- The image that the slot holds as shipped (15; log 4). -/
opaque shippedImage : List Byte

/-- Spare blocks that the dies of a channel hold at shipping beyond those of the superblocks (16, R510: at least none;
log 53). -/
opaque spareBlocks : Nat → Nat

/-- The wave rate of a region in Mwave/s at an applied supply in mV and a junction temperature in degrees, before the bounds
of R2 and R589 are laid on it; what they leave is open (log 54). -/
opaque waveRate : Nat → Nat → Nat → Nat

/-- The row of a memory device that holds a device address, the bank of a row, and the spare rows of a bank of a device: the
mapping above the device is not architectural, and the number of spares is not stated (11, R353, R355, R361; log 55). -/
opaque memRow : Nat → Nat
opaque rowBank : Nat → Nat
opaque spareRows : Nat → Nat → Nat

/-- What the sensor of a memory device reads at a time of the time base, in degrees (11, R364; log 123). -/
opaque deviceTemp : Nat → Nat → Nat

end Sys2Proof.Config
end

