-- ==== Sys2Proof/Machine/Formats.lean ====
section
/-!
DEFINITION. Number formats, exact values and rounding (03, R83 to R110). A value is held exactly, as a rational
number, an infinity or NaN; it is narrowed only by the conversions of this file.
-/
namespace Sys2Proof.Machine

/-! ## Exact values -/

/-- An exact value: NaN, an infinity or a zero with its sign, or a finite number that is not zero. -/
inductive Val where
  | nan
  | inf (neg : Bool)
  | zero (neg : Bool)
  | fin (q : Rat)
  deriving DecidableEq, Repr

/-- A rational as a value; zero is +0. -/
def Val.ofRat (q : Rat) : Val := if q = 0 then .zero false else .fin q

/-- The rational of a finite value; NaN and the infinities give 0. -/
def Val.rat : Val → Rat
  | .fin q => q
  | _ => 0

/-- The sign of a value. -/
def Val.isNeg : Val → Bool
  | .nan => false
  | .inf n => n
  | .zero n => n
  | .fin q => decide (q < 0)

def Val.isFinite : Val → Bool
  | .nan | .inf _ => false
  | .zero _ | .fin _ => true

def Val.isZero : Val → Bool
  | .zero _ => true
  | _ => false

def Val.neg : Val → Val
  | .nan => .nan
  | .inf n => .inf (!n)
  | .zero n => .zero (!n)
  | .fin q => .fin (-q)

/-- The magnitude of a finite value. -/
def Val.mag (v : Val) : Rat := |v.rat|

/-- The exact sum under the rules of IEEE 754 for zeros and non-finite values. -/
def Val.add (x y : Val) : Val :=
  match x, y with
  | .nan, _ | _, .nan => .nan
  | .inf a, .inf b => if a = b then .inf a else .nan
  | .inf a, _ => .inf a
  | _, .inf b => .inf b
  | .zero a, .zero b => .zero (a && b)
  | .zero _, y => y
  | x, .zero _ => x
  | .fin p, .fin q => Val.ofRat (p + q)

def Val.sub (x y : Val) : Val := x.add y.neg

/-- The exact product. -/
def Val.mul (x y : Val) : Val :=
  let s := x.isNeg != y.isNeg
  match x, y with
  | .nan, _ | _, .nan => .nan
  | .inf _, .zero _ | .zero _, .inf _ => .nan
  | .inf _, _ | _, .inf _ => .inf s
  | .zero _, _ | _, .zero _ => .zero s
  | .fin p, .fin q => .fin (p * q)

/-- The exact quotient. -/
def Val.div (x y : Val) : Val :=
  let s := x.isNeg != y.isNeg
  match x, y with
  | .nan, _ | _, .nan => .nan
  | .inf _, .inf _ | .zero _, .zero _ => .nan
  | .inf _, _ => .inf s
  | _, .inf _ => .zero s
  | .zero _, _ => .zero s
  | .fin _, .zero _ => .inf s
  | .fin p, .fin q => .fin (p / q)

/-- Is `x` less than `y`? +0 counts as greater than −0 (12, R386, R401). NaN is less than nothing. -/
def Val.lt (x y : Val) : Bool :=
  match x, y with
  | .nan, _ | _, .nan => false
  | .inf a, .inf b => a && !b
  | .inf a, _ => a
  | _, .inf b => !b
  | .zero a, .zero b => a && !b
  | x, y => decide (x.rat < y.rat)

/-- The larger value; a NaN operand gives NaN. -/
def Val.max (x y : Val) : Val := if x = .nan ∨ y = .nan then .nan else if x.lt y then y else x

/-- The smaller value; a NaN operand gives NaN. -/
def Val.min (x y : Val) : Val := if x = .nan ∨ y = .nan then .nan else if y.lt x then y else x

/-! ## Powers of two and integer parts -/

/-- 2 to an integer power. -/
def twoPow (e : Int) : Rat := if 0 ≤ e then ((2 ^ e.toNat : Nat) : Rat) else 1 / ((2 ^ (-e).toNat : Nat) : Rat)

/-- The floor of log2 of a positive rational. -/
def floorLog2 (q : Rat) : Int :=
  let e : Int := (q.num.toNat.log2 : Int) - (q.den.log2 : Int)
  if q < twoPow e then e - 1 else if twoPow (e + 1) ≤ q then e + 1 else e

/-- The ceiling of log2 of a positive rational. -/
def ceilLog2 (q : Rat) : Int := if twoPow (floorLog2 q) = q then floorLog2 q else floorLog2 q + 1

/-- Integer square root by bits: the largest `r` with `r * r ≤ n`, where `n < 4 ^ k`. -/
def isqrtBits (n : Nat) : Nat → Nat → Nat
  | 0, r => r
  | k + 1, r => isqrtBits n k (if (r + 2 ^ k) * (r + 2 ^ k) ≤ n then r + 2 ^ k else r)

/-- Integer square root. -/
def isqrt (n : Nat) : Nat := isqrtBits n (n.log2 / 2 + 1) 0

/-- The square root of a non-negative rational to far more bits than any format holds; an inexact root is moved to
the middle of its last step, so that rounding sees on which side of every tie it lies. -/
def sqrtRat (q : Rat) : Rat :=
  if q ≤ 0 then 0
  else
    let e := floorLog2 q / 2
    let k : Int := 300 - e
    let n := (q * twoPow (2 * k)).floor.toNat
    let r := isqrt n
    if ((r * r : Nat) : Rat) = q * twoPow (2 * k) then (r : Rat) * twoPow (-k) else ((r : Rat) + 1 / 2) * twoPow (-k)

/-- The exact square root under IEEE 754. -/
def Val.sqrt : Val → Val
  | .nan => .nan
  | .inf n => if n then .nan else .inf false
  | .zero n => .zero n
  | .fin q => if q < 0 then .nan else .fin (sqrtRat q)

/-! ## Floating-point formats (03, R84, R85) -/

/-- A format with a sign bit above a magnitude code whose order is the order of the magnitudes. -/
structure FloatFmt where
  width : Nat
  p     : Nat
  bias  : Nat
  /-- The magnitude code of the largest finite value. -/
  top   : Nat
  /-- The magnitude codes of infinity and of the canonical NaN, where the format has them. -/
  infCode : Option Nat
  nanCode : Option Nat
  /-- A zero keeps its sign (03, R89). -/
  signedZero : Bool
  deriving DecidableEq, Repr

def fp64 : FloatFmt := ⟨64, 52, 1023, 0x7FEFFFFFFFFFFFFF, some 0x7FF0000000000000, some 0x7FF8000000000000, true⟩
def fp32 : FloatFmt := ⟨32, 23, 127, 0x7F7FFFFF, some 0x7F800000, some 0x7FC00000, true⟩
def bf16 : FloatFmt := ⟨16, 7, 127, 0x7F7F, some 0x7F80, some 0x7FC0, true⟩
def fp16 : FloatFmt := ⟨16, 10, 15, 0x7BFF, some 0x7C00, some 0x7E00, true⟩
def e4m3 : FloatFmt := ⟨8, 3, 7, 0x7E, none, some 0x7F, true⟩
def e5m2 : FloatFmt := ⟨8, 2, 15, 0x7B, some 0x7C, some 0x7E, true⟩
def e2m1 : FloatFmt := ⟨4, 1, 1, 7, none, none, false⟩
def t3 : FloatFmt := ⟨3, 0, 1, 3, none, none, false⟩

/-- The exponent of the smallest normal value. -/
def FloatFmt.emin (f : FloatFmt) : Int := 1 - (f.bias : Int)

/-- The value of a finite magnitude code (03, R84, R85). -/
def FloatFmt.magnitude (f : FloatFmt) (m : Nat) : Rat :=
  let e := m / 2 ^ f.p
  let t := m % 2 ^ f.p
  if e = 0 then (t : Rat) * twoPow (f.emin - f.p)
  else ((2 ^ f.p + t : Nat) : Rat) * twoPow ((e : Int) - f.bias - f.p)

/-- The value of a code (03, R84 to R90). -/
def FloatFmt.decode (f : FloatFmt) (code : Nat) : Val :=
  let c := code % 2 ^ f.width
  let neg := c.testBit (f.width - 1)
  let m := c % 2 ^ (f.width - 1)
  if m = 0 then .zero (neg && f.signedZero)
  else if m ≤ f.top then .fin (if neg then -f.magnitude m else f.magnitude m)
  else if f.infCode = some m then .inf neg
  else .nan

/-- The largest code magnitude at or below a positive magnitude, and the fraction of the way to its upper neighbour
(03, R97). Beyond the largest finite magnitude the neighbour is the next value on the grid of significands. -/
def FloatFmt.below (f : FloatFmt) (m : Rat) : Nat × Rat :=
  let e := Max.max (floorLog2 m) f.emin
  let n := (m / twoPow (e - f.p)).floor.toNat
  let code := if n < 2 ^ f.p then n else (e - f.emin + 1).toNat * 2 ^ f.p + (n - 2 ^ f.p)
  if code ≤ f.top then (code, m / twoPow (e - f.p) - (n : Rat))
  else
    let a := f.magnitude f.top
    let et := Max.max (floorLog2 a) f.emin
    (f.top, (m - a) / twoPow (et - f.p))

/-- Does a rounding mode take the upper neighbour (03, R98, R99, R102)? `even` says that the lower code is even. -/
def roundsUp (rnd : Nat) (r : Nat) (even : Bool) (f : Rat) : Bool :=
  match rnd with
  | 0 => decide (1 / 2 < f) || (decide (f = 1 / 2) && !even)
  | 1 => decide (256 ≤ (256 * f).floor.toNat + r)
  | _ => false

/-- What a conversion wrote and what it counts (03, R104 to R107, R113). -/
structure Conv where
  code : Nat
  sat  : Bool
  wrap : Bool
  nonFinite : Bool
  /-- The written code is a zero code. -/
  zero : Bool
  deriving DecidableEq, Repr

/-- The code of a sign and a magnitude code. -/
def FloatFmt.pack (f : FloatFmt) (neg : Bool) (m : Nat) : Nat :=
  if m = 0 ∧ f.signedZero = false then 0 else m + (if neg then 2 ^ (f.width - 1) else 0)

/-- Convert an exact value into a floating-point format or T3 (03, R97 to R106). DEDUCED (log 126): a negative zero is a zero code
and counts in ZEROS (03, R113). -/
def FloatFmt.convert (f : FloatFmt) (rnd : Nat) (sat : Bool) (r : Nat) (v : Val) : Conv :=
  match v with
  | .nan =>
    match f.nanCode with
    | some c => ⟨c, false, false, true, false⟩
    | none => ⟨0, false, false, true, true⟩
  | .inf neg =>
    match f.infCode, f.nanCode with
    | some c, _ => ⟨f.pack neg c, false, false, true, false⟩
    | none, some c => if sat then ⟨f.pack neg f.top, false, false, true, false⟩ else ⟨c, false, false, true, false⟩
    | none, none => ⟨f.pack neg f.top, false, false, true, false⟩
  | .zero neg => ⟨f.pack neg 0, false, false, false, true⟩
  | .fin q =>
    let neg := decide (q < 0)
    let (a, fr) := f.below |q|
    let m := if fr = 0 then a else if roundsUp rnd r (a % 2 == 0) fr then a + 1 else a
    if m ≤ f.top then ⟨f.pack neg m, false, false, false, m == 0⟩
    else if sat || f.infCode.isNone && f.nanCode.isNone then ⟨f.pack neg f.top, true, false, false, false⟩
    else match f.infCode, f.nanCode with
      | some c, _ => ⟨f.pack neg c, true, false, false, false⟩
      | none, some c => ⟨c, true, false, false, false⟩
      | none, none => ⟨f.pack neg f.top, true, false, false, false⟩

/-! ## Integer formats (03, R86, R105, R106) -/

/-- Round an exact rational to an integer (03, R97, R98, R99, R102). -/
def roundInt (rnd r : Nat) (q : Rat) : Int :=
  let a := |q|.floor
  let f := |q| - (a : Rat)
  let n := if f = 0 then a else if roundsUp rnd r (a % 2 == 0) f then a + 1 else a
  if q < 0 then -n else n

/-- Convert an exact value into a two's complement format of `w` bits. DEDUCED (log 126): the largest code with the sign of -∞ is
that of the most negative integer (03, R106). -/
def convertInt (w rnd : Nat) (wrap : Bool) (r : Nat) (v : Val) : Conv :=
  let lo : Int := -(2 ^ (w - 1) : Nat)
  let hi : Int := (2 ^ (w - 1) : Nat) - 1
  match v with
  | .nan => ⟨0, false, false, true, true⟩
  | .inf neg => ⟨wrapInt w (if neg then lo else hi), false, false, true, false⟩
  | .zero _ => ⟨0, false, false, false, true⟩
  | .fin q =>
    let n := roundInt rnd r q
    if lo ≤ n ∧ n ≤ hi then ⟨wrapInt w n, false, false, false, n == 0⟩
    else if wrap then ⟨wrapInt w n, true, true, false, wrapInt w n == 0⟩
    else ⟨wrapInt w (if n < lo then lo else hi), true, false, false, false⟩

/-! ## FMT and SCL codes (03, R83, R91) -/

/-- FMT codes. -/
def fmtFP32 : Nat := 0
def fmtBF16 : Nat := 1
def fmtFP16 : Nat := 2
def fmtE4M3 : Nat := 3
def fmtE5M2 : Nat := 4
def fmtE2M1 : Nat := 5
def fmtT3 : Nat := 6
def fmtINT8 : Nat := 8
def fmtINT4 : Nat := 9
def fmtINT2 : Nat := 10
def fmtINT32 : Nat := 11
def fmtFP64 : Nat := 12
def fmtLadder : Nat := 15

/-- The floating-point format of a FMT code. -/
def floatFmt? (fmt : Nat) : Option FloatFmt :=
  match fmt with
  | 0 => some fp32 | 1 => some bf16 | 2 => some fp16 | 3 => some e4m3 | 4 => some e5m2 | 5 => some e2m1
  | 6 => some t3 | 12 => some fp64 | _ => none

/-- Width in bits of an element (03, R83); 0 for a reserved code. -/
def fmtBits (fmt : Nat) : Nat :=
  match fmt with
  | 0 => 32 | 1 => 16 | 2 => 16 | 3 => 8 | 4 => 8 | 5 => 4 | 6 => 3 | 8 => 8 | 9 => 4 | 10 => 2 | 11 => 32
  | 12 => 64 | _ => 0

/-- Formats that may be read as operands; INT32 is an output only. -/
def fmtOperand (fmt : Nat) : Bool := fmtBits fmt != 0 && fmt != fmtINT32

/-- Does a format accept a scale mode (03, R91)? -/
def fmtAccepts (fmt scl : Nat) : Bool :=
  match fmt with
  | 11 | 12 => scl == 0
  | 0 | 1 | 2 | 8 | 9 | 10 => scl ≤ 1
  | 3 | 4 | 5 | 6 => true
  | _ => false

/-- The code value of an element code (03, R84 to R86). -/
def codeValue (fmt code : Nat) : Val :=
  match floatFmt? fmt with
  | some f => f.decode code
  | none => Val.ofRat ((signed (fmtBits fmt) code : Int) : Rat)

/-- The largest finite magnitude M of a format, for the choice of scales (03, R108). -/
def fmtMax (fmt : Nat) : Rat :=
  match floatFmt? fmt with
  | some f => f.magnitude f.top
  | none => ((2 ^ (fmtBits fmt - 1) - 1 : Nat) : Rat)

/-- Convert an exact value into a FMT. -/
def convertTo (fmt rnd : Nat) (sat wrap : Bool) (r : Nat) (v : Val) : Conv :=
  match floatFmt? fmt with
  | some f => f.convert rnd sat r v
  | none => convertInt (fmtBits fmt) rnd wrap r v

/-- The format of a rung (03, R95). -/
def rungFmt (rung : Nat) : Nat :=
  match rung with
  | 0 => fmtT3 | 1 => fmtE2M1 | 2 => fmtE4M3 | _ => fmtBF16

/-- FMT and SCL of a descriptor after the ladder is resolved (03, R95). -/
def resolveFmt (fmt scl rung : Nat) : Nat × Nat :=
  if fmt = fmtLadder then (rungFmt rung, if rung ≥ 3 ∧ scl ≥ 2 then 0 else scl) else (fmt, scl)

/-! ## Block scales (03, R93, R109, R110) -/

/-- The value of an MX32 scale code; 0xFF is NaN. -/
def mxValue (c : Nat) : Option Rat := if c = 0xFF then none else some (twoPow ((c : Int) - 127))

/-- The grades of a QS16 scale. -/
def qsGrade (j : Nat) : Rat :=
  match j with
  | 0 => 1 | 1 => 5 / 4 | 2 => 11 / 8 | _ => 13 / 8

/-- The value of a QS16 scale code; 0xFF is NaN. -/
def qsValue (c : Nat) : Option Rat :=
  if c = 0xFF then none
  else if c = 0 then some 0
  else
    let k : Int := (c : Int) - 128
    some (twoPow (k / 4) * qsGrade (k % 4).toNat)

/-- The value of a block scale code in a mode. -/
def blockScale (scl c : Nat) : Option Rat := if scl = 2 then mxValue c else qsValue c

/-- The block length of a mode; other modes have one scale for no block. -/
def blockLen (scl : Nat) : Nat := if scl = 2 then 32 else 16

/-- The MX32 code chosen for a block amax (03, R109). -/
def mxChoose (fmt : Nat) (nonFinite : Bool) (amax : Rat) : Nat :=
  if nonFinite then 0xFF
  else if amax = 0 then 127
  else (Max.max 0 (Min.min 254 (ceilLog2 (amax / fmtMax fmt) + 127))).toNat

/-- The QS16 code chosen for a block amax under a per-tensor scale (03, R110): the smallest code from 0x01 to 0xFE
whose value is at least the amax over the scale and M. -/
def qsChoose (fmt : Nat) (nonFinite : Bool) (st amax : Rat) : Nat :=
  if nonFinite then 0xFF
  else if amax = 0 then 0
  else
    let t := amax / (st * fmtMax fmt)
    match ((List.range 254).map (· + 1)).find? fun c => decide (t ≤ (qsValue c).getD 0) with
    | some c => c
    | none => 0xFE

/-- The power of two of a per-tensor scale; one that FP32 cannot hold has no stated value (log 25). -/
def scaleOfExp (e : Int) : Rat := twoPow (if -149 ≤ e ∧ e ≤ 127 then e else Config.scaleBeyond e)

/-- The per-tensor scale for a reference amax (03, R108). -/
def tensorScale (fmt scl : Nat) (amax : Rat) : Rat :=
  if amax = 0 then 1
  else if amax < 0 then twoPow (Config.scaleNegative amax)
  else if scl = 3 then scaleOfExp (ceilLog2 (amax / (fmtMax fmt * 256)))
  else scaleOfExp (ceilLog2 (amax / fmtMax fmt))

/-! ## Rounding to FP32 and FP64 -/

/-- The FP32 bits of an exact value, rounded to nearest even (12, R386; 06, R190). -/
def toF32 (v : Val) : Nat := (fp32.convert 0 false 0 v).code

/-- An exact value rounded to FP32, as a value: rn. -/
def rn (v : Val) : Val := fp32.decode (toF32 v)

/-- The FP64 bits of an exact value, rounded to nearest even. -/
def toF64 (v : Val) : Nat := (fp64.convert 0 false 0 v).code

/-- An exact value rounded to FP64. -/
def rn64 (v : Val) : Val := fp64.decode (toF64 v)

/-- The FP32 value of a pattern. -/
def ofF32 (b : Nat) : Val := fp32.decode b

/-- The FP64 value of a pattern. -/
def ofF64 (b : Nat) : Val := fp64.decode b

/-- An exact amax in FP32, rounded toward +infinity and held at the largest finite value (03, R113). -/
def amaxF32 (q : Rat) : Nat :=
  if q ≤ 0 then 0
  else
    let (a, f) := fp32.below q
    Min.min (if f = 0 then a else a + 1) fp32.top

end Sys2Proof.Machine
end

