-- ==== Sys2Proof/Machine/Coding.lean ====
section
/-!
DEFINITION. Exponent coding (05, R159 to R173): symbols, tables, codewords and blocks, as functions on element codes
and bytes.
-/
namespace Sys2Proof.Machine

/-! ## What is coded (R159) -/

/-- Exponent width and mantissa width of a coded format. -/
def codedFmt? (fmt : Nat) : Option (Nat × Nat) :=
  match fmt with
  | 0 => some (8, 23) | 1 => some (8, 7) | 2 => some (5, 10) | 3 => some (4, 3) | 4 => some (5, 2) | _ => none

/-- The exponent field of an element code. -/
def exponentField (fmt code : Nat) : Nat :=
  match codedFmt? fmt with
  | some (e, p) => bits code p e
  | none => 0

/-- Sign and mantissa of an element, as the raw section holds them (R164). -/
def rawPart (fmt code : Nat) : Nat :=
  match codedFmt? fmt with
  | some (e, p) => bits code (e + p) 1 * 2 ^ p + bits code 0 p
  | none => code

/-- Bits of the raw part. -/
def rawBits (fmt : Nat) : Nat :=
  match codedFmt? fmt with
  | some (_, p) => p + 1
  | none => fmtBits fmt

/-- An element from its exponent and its raw part. -/
def joinElement (fmt ex raw : Nat) : Nat :=
  match codedFmt? fmt with
  | some (e, p) => bits raw p 1 * 2 ^ (e + p) + ex * 2 ^ p + bits raw 0 p
  | none => raw

/-- Valid symbols of a format (R170): its exponent symbols and the runs. -/
def validSymbols (fmt : Nat) : List Nat :=
  match codedFmt? fmt with
  | some (e, _) => List.range (2 ^ e) ++ (List.range 16).map (· + 256)
  | none => 0 :: (List.range 16).map (· + 256)

/-! ## Symbols (R165) -/

/-- Run symbols of an even number of +0 elements, longest first. -/
def runSymbols (n : Nat) : List Nat := ((List.range 17).reverse.filter fun j => decide (1 ≤ j) && n.testBit j).map (255 + ·)

/-- The length of the run of +0 elements at the front. -/
def zeroRun : List Nat → Nat
  | 0 :: xs => zeroRun xs + 1
  | _ => 0

/-- Symbols and raw parts of elements, in order. The first argument bounds the number of elements. -/
def blockSymbols (fmt : Nat) : Nat → List Nat → List Nat × List Nat
  | 0, _ => ([], [])
  | _, [] => ([], [])
  | k + 1, x :: xs =>
    let n := zeroRun (x :: xs)
    if n ≥ 2 then
      let m := n - n % 2
      let (s, r) := blockSymbols fmt k ((x :: xs).drop m)
      (runSymbols m ++ s, r)
    else
      let (s, r) := blockSymbols fmt k xs
      (exponentField fmt x :: s, rawPart fmt x :: r)

/-- Symbols and raw parts of a block. -/
def symbolsOf (fmt : Nat) (xs : List Nat) : List Nat × List Nat := blockSymbols fmt xs.length xs

/-! ## Tables (R170 to R173) -/

/-- A loaded table: its generation, its format and the length of each of the 272 symbols. -/
structure Table where
  gen     : Nat
  fmt     : Nat
  lengths : List Nat
  deriving DecidableEq, Repr

/-- The length that a count alone asks for: the smallest l with count * 2^l at least the total, held to 1 to 12. -/
def lengthFor (count total : Nat) : Nat :=
  if count = 0 then 12
  else Min.min 12 (Max.max 1 (((List.range 13).find? fun l => decide (total ≤ count * 2 ^ l)).getD 12))

/-- The sum of 2^(12 - length) over the valid symbols. -/
def kraftSum (lengths : List Nat) (valid : List Nat) : Nat :=
  valid.foldl (fun a s => a + 2 ^ (12 - lengths.getD s 0)) 0

/-- The valid symbol whose length is the greatest below 12, the lowest of those. -/
def longestBelow12 (lengths valid : List Nat) : Option Nat :=
  valid.foldl (fun best s =>
    let l := lengths.getD s 0
    if l < 12 then
      match best with
      | none => some s
      | some b => if lengths.getD b 0 < l then some s else best
    else best) none

/-- Lengthen symbols until the sum fits 4,096. -/
def fitLengths (valid : List Nat) : Nat → List Nat → List Nat
  | 0, ls => ls
  | k + 1, ls =>
    if kraftSum ls valid > 4096 then
      match longestBelow12 ls valid with
      | some s => fitLengths valid k (ls.set s (ls.getD s 0 + 1))
      | none => ls
    else ls

/-- Code lengths of a census (R170). -/
def buildLengths (fmt : Nat) (counts : List Nat) : List Nat :=
  let valid := validSymbols fmt
  let total := valid.foldl (fun a s => a + counts.getD s 0) 0
  let init := valid.foldl (fun ls s => ls.set s (lengthFor (counts.getD s 0) total)) (List.replicate 272 0)
  fitLengths valid 3264 init

/-- Codewords (R171): symbols by length, then by number; each with its length and code. -/
def canonicalCodes (lengths : List Nat) : List (Nat × Nat × Nat) :=
  let syms := (List.range 12).flatMap fun l =>
    ((List.range 272).filter fun s => lengths.getD s 0 == l + 1).map fun s => (s, l + 1)
  (syms.foldl (fun (acc : List (Nat × Nat × Nat) × Option (Nat × Nat)) p =>
    let c := match acc.2 with
      | none => 0
      | some (l, c) => (c + 1) * 2 ^ (p.2 - l)
    ((p.1, p.2, c) :: acc.1, some (p.2, c))) ([], none)).1.reverse

/-- A table image of 152 bytes (R172). -/
def tableImage (t : Table) : List Byte :=
  let body := ascii "SVXT" ++ [BitVec.ofNat 8 t.fmt, BitVec.ofNat 8 t.gen, 0, 0] ++ toBytes 136 (packNat 4 t.lengths)
  body ++ (sha512 body).take 8

/-- The table of an image, or none where R173 refuses it. DEDUCED (log 127): an image of a FMT that is not one of R159's has no
valid symbols and no table, and is refused too. -/
def readImage (bs : List Byte) : Option Table :=
  let fmt := leField bs 4 1
  let gen := leField bs 5 1
  let lengths := unpackNat 4 272 (leField bs 8 136)
  let valid := validSymbols fmt
  if slice bs 0 4 = ascii "SVXT" ∧ slice bs 144 8 = (sha512 (slice bs 0 144)).take 8 ∧ fmt < 16 ∧ gen < 16 ∧
      leField bs 6 2 = 0 ∧ (codedFmt? fmt).isSome = true ∧
      (valid.all fun s => decide (1 ≤ lengths.getD s 0) && decide (lengths.getD s 0 ≤ 12)) = true ∧
      ((List.range 272).all fun s => decide (s ∈ valid) || lengths.getD s 0 == 0) = true ∧
      kraftSum lengths valid ≤ 4096
  then some ⟨gen, fmt, lengths⟩ else none

/-! ## Blocks (R163, R164, R167) -/

/-- The bits of a codeword, most significant first. -/
def codeBits (len code : Nat) : List Bool := (List.range len).map fun i => code.testBit (len - 1 - i)

/-- A number from bits, the first at position 0. -/
def bitsToNat : List Bool → Nat
  | [] => 0
  | b :: bs => b2n b + 2 * bitsToNat bs

/-- The codeword of a symbol. -/
def codeOf (codes : List (Nat × Nat × Nat)) (s : Nat) : List Bool :=
  match codes.find? fun c => c.1 == s with
  | some (_, l, c) => codeBits l c
  | none => []

/-- The coded payload of symbols and raw parts: CODE_BITS, the number of words and the bytes (R164). -/
def codedPayload (t : Table) (syms raws : List Nat) : Nat × Nat × List Byte :=
  let codes := canonicalCodes t.lengths
  let cb := syms.flatMap (codeOf codes)
  let rawStart := 64 * ceilDiv cb.length 64
  let n := bitsToNat cb + packNat (rawBits t.fmt) raws * 2 ^ rawStart
  let words := ceilDiv (rawStart + rawBits t.fmt * raws.length) 64
  (cb.length, words, toBytes (8 * words) n)

/-- The header of a block (R163). -/
def blockHeader (coded poison : Bool) (slot gen fmt count codeBits words crc : Nat) : List Byte :=
  toBytes 8 (b2n coded + b2n poison * 2 + slot * 4 + gen * 32 + fmt * 512 + count * 8192 + codeBits * 2 ^ 22 +
    words * 2 ^ 34 + crc * 2 ^ 48)

/-- A block of element codes, coded with a slot's table or raw (R163 to R167). With no table in the slot the block
is stored raw (log 23). -/
def encodeBlock (slot : Nat) (t : Option Table) (fmt : Nat) (poison : Bool) (xs : List Nat) : List Byte :=
  let rawW := ceilDiv (xs.length * fmtBits fmt) 64
  let raw := toBytes (8 * rawW) (packNat (fmtBits fmt) xs)
  let rawBlock := blockHeader false poison 0 0 fmt xs.length 0 rawW (crc16 raw) ++ raw
  match t with
  | none => rawBlock
  | some t =>
    if t.fmt ≠ fmt then rawBlock
    else
      let (syms, raws) := symbolsOf fmt xs
      let (cb, words, pay) := codedPayload t syms raws
      if 15 * (xs.length * fmtBits fmt) ≤ 16 * (64 * words) then rawBlock
      else blockHeader true poison slot t.gen fmt xs.length cb words (crc16 pay) ++ pay

/-- Why a block is not decoded (R168, R174). -/
inductive BlockError where
  | malformed
  | format
  | generation
  deriving DecidableEq, Repr

/-- The reason code of a block error. -/
def BlockError.reason : BlockError → Nat
  | .malformed => 0xA5 | .format => 0xA3 | .generation => 0xA4

/-- Read one codeword from bits: the symbol and the bits after it. -/
def readCode (codes : List (Nat × Nat × Nat)) : Nat → Nat → Nat → List Bool → Option (Nat × List Bool)
  | 0, _, _, _ => none
  | _, _, _, [] => none
  | k + 1, len, acc, b :: bs =>
    let c := 2 * acc + b2n b
    match codes.find? fun e => e.2.1 == len + 1 && e.2.2 == c with
    | some (s, _, _) => some (s, bs)
    | none => readCode codes k (len + 1) c bs

/-- All symbols of a code section. -/
def readSymbols (codes : List (Nat × Nat × Nat)) : Nat → List Bool → Option (List Nat)
  | _, [] => some []
  | 0, _ => none
  | k + 1, bs =>
    match readCode codes 12 0 0 bs with
    | none => none
    | some (s, rest) =>
      match readSymbols codes k rest with
      | none => none
      | some ss => some (s :: ss)

/-- The elements of symbols, taking a raw part for each exponent symbol. -/
def expandSymbols (fmt : Nat) : List Nat → List Nat → List Nat
  | [], _ => []
  | s :: ss, raws =>
    if s ≥ 256 then List.replicate (2 ^ (s - 255)) 0 ++ expandSymbols fmt ss raws
    else joinElement fmt s (raws.headD 0) :: expandSymbols fmt ss raws.tail

/-- Number of elements that symbols yield. -/
def symbolCount (ss : List Nat) : Nat := ss.foldl (fun a s => a + if s ≥ 256 then 2 ^ (s - 255) else 1) 0

/-- The bits of bytes, position 0 first. -/
def bytesToBits (bs : List Byte) : List Bool := bs.flatMap fun b => (List.range 8).map fun i => b.toNat.testBit i

/-- Fields of a block header. -/
structure BlockHead where
  coded : Bool
  poison : Bool
  slot : Nat
  gen : Nat
  fmt : Nat
  count : Nat
  codeBits : Nat
  words : Nat
  reserved : Nat
  check : Nat
  deriving DecidableEq, Repr

/-- Read a block header. -/
def readHead (bs : List Byte) : BlockHead :=
  let h := leField bs 0 8
  ⟨bit h 0, bit h 1, bits h 2 3, bits h 5 4, bits h 9 4, bits h 13 9, bits h 22 12, bits h 34 8, bits h 42 6, bits h 48 16⟩

/-- Decode a block under the tables of a unit's slots: its elements, or why not (R168, R174). -/
def decodeBlock (slots : Nat → Option Table) (bs : List Byte) : Except BlockError (List Nat) :=
  let h := readHead bs
  let pay := slice bs 8 (8 * h.words)
  let rawTotal := h.count * fmtBits h.fmt
  if h.reserved ≠ 0 ∨ h.check ≠ crc16 pay ∨ ceilDiv rawTotal 64 < h.words ∨ 64 * h.words < h.codeBits ∨
      (codedFmt? h.fmt).isNone = true ∨ h.count = 0 ∨ 256 < h.count then .error .malformed
  else if h.coded = false then
    (if 64 * h.words < rawTotal then .error .malformed
     else .ok (unpackNat (fmtBits h.fmt) h.count (fromBytes pay)))
  else
    match slots h.slot with
    | none => .error .generation
    | some t =>
      if t.fmt ≠ h.fmt then .error .format
      else if t.gen ≠ h.gen then .error .generation
      else
        match readSymbols (canonicalCodes t.lengths) h.codeBits ((bytesToBits pay).take h.codeBits) with
        | none => .error .malformed
        | some ss =>
          if symbolCount ss ≠ h.count then .error .malformed
          else
            let n := (ss.filter fun s => decide (s < 256)).length
            let raws := unpackNat (rawBits h.fmt) n (fromBytes pay / 2 ^ (64 * ceilDiv h.codeBits 64))
            .ok (expandSymbols h.fmt ss raws)

/-- What the census of an area gains from a block (R169). -/
def censusOf (fmt : Nat) (xs : List Nat) : List Nat := (symbolsOf fmt xs).1

end Sys2Proof.Machine
end

