-- ==== Sys2Proof/Machine/Layout.lean ====
section
/-!
DEFINITION. The register tables of the spec: for every register, window entry and counter set, its fields with
their places, access codes and reset values (00, R10, R11; the table of each rule named below). A reserved bit
has no field, so it reads 0 and keeps nothing. Resets that the spec gives as "from fuses", "from training",
"from the journal" or "measured" are those of log 4 and log 5.
-/
namespace Sys2Proof.Machine

/-- Access codes of register tables (00_scope.md). -/
inductive Access where
  | ro | rw | rw1c | wo | rwl
  deriving DecidableEq, Repr

/-- Where a field's reset value comes from: a constant, a handle of the kind with the entry's own index, or the
fuses. -/
inductive Source where
  | const | handle | fuse
  deriving DecidableEq, Repr

/-- The register tables, one name for each table or register of the spec. -/
inductive Tab where
  | hubRwlRefused | hubIdent | hubD2d | ctx | ctxSel | gauSel | gauge | gauRung | census | censusSum 
  | tsqSplit | bindSel | bind | upuLend | upuAudit | upuStatus | chan | colStep | fabArb | fabId | fabRoute 
  | fabPort | whdPort | round | partner | memDev | scrub | tmvStatus | part | rasLog | rasTest | hubLink 
  | ring | evtStatus | evtCtrl | secBoot | secState | secOp | cisStatus | cisCtrl | cisWear | mould 
  | pwrRegion | pwrCap | pwrStatus | pwrInput | tbsStatus | tileCnt | regionCnt | dieCnt | moduleCnt | sample 
  | trace | evtEnable | obsMark | secFwBuild | secOpAddr | secOpLen | secOpArg | cisWritten | cisNand | cisOp 
  | cisOpAddr | cisOpLen | cisOpArg | tbsTime | colSel | chanSel | roundSel | mouldSel | sampleSel | msix 
  | msixPba
  deriving DecidableEq, Repr

/-- One field of a table: its lowest bit, width, access code and reset value. -/
structure Fld where
  tab : Tab
  lo  : Nat
  len : Nat
  acc : Access
  rst : Nat
  src : Source
  deriving DecidableEq, Repr

/-- The value a field holds after reset in entry `i`. -/
def Fld.default (f : Fld) (i : Nat) : Nat :=
  match f.src with
  | .const => f.rst
  | .handle => f.rst + i
  | .fuse => (Config.fuseMac i).toNat

namespace HubRwlRefused
/-! R583 -/
def COUNT : Fld := ⟨.hubRwlRefused, 0, 32, .ro, 0, .const⟩
def LAST_REFUSED : Fld := ⟨.hubRwlRefused, 32, 8, .ro, 0, .const⟩
/-- Every field, in ascending order. -/
def fields : List Fld := [ COUNT, LAST_REFUSED]
end HubRwlRefused

namespace HubIdent
/-! R12 -/
def PART : Fld := ⟨.hubIdent, 0, 16, .ro, 0x768, .const⟩
def STEP_MINOR : Fld := ⟨.hubIdent, 16, 4, .ro, 0, .const⟩
def STEP_MAJOR : Fld := ⟨.hubIdent, 20, 4, .ro, 0, .const⟩
def TILES_ENABLED : Fld := ⟨.hubIdent, 32, 11, .ro, 0x400, .const⟩
def FAMILY : Fld := ⟨.hubIdent, 48, 16, .ro, 0x4d4c, .const⟩
/-- Every field, in ascending order. -/
def fields : List Fld := [ PART, STEP_MINOR, STEP_MAJOR, TILES_ENABLED, FAMILY]
end HubIdent

namespace HubD2d
/-! R44 -/
def LINK_01 : Fld := ⟨.hubD2d, 0, 4, .ro, 2, .const⟩
def LINK_12 : Fld := ⟨.hubD2d, 4, 4, .ro, 2, .const⟩
def LINK_23 : Fld := ⟨.hubD2d, 8, 4, .ro, 2, .const⟩
def LINK_30 : Fld := ⟨.hubD2d, 12, 4, .ro, 2, .const⟩
def HUB_0 : Fld := ⟨.hubD2d, 16, 4, .ro, 2, .const⟩
def HUB_1 : Fld := ⟨.hubD2d, 20, 4, .ro, 2, .const⟩
def HUB_2 : Fld := ⟨.hubD2d, 24, 4, .ro, 2, .const⟩
def HUB_3 : Fld := ⟨.hubD2d, 28, 4, .ro, 2, .const⟩
def DETOUR : Fld := ⟨.hubD2d, 32, 4, .ro, 0, .const⟩
def DIE_RETIRED : Fld := ⟨.hubD2d, 36, 4, .ro, 0, .const⟩
def CHANGED : Fld := ⟨.hubD2d, 40, 1, .rw1c, 0, .const⟩
/-- Every field, in ascending order. -/
def fields : List Fld := [ LINK_01, LINK_12, LINK_23, LINK_30, HUB_0, HUB_1, HUB_2, HUB_3, DETOUR, DIE_RETIRED, CHANGED]
end HubD2d

namespace Ctx
/-! R57 -/
def HANDLE : Fld := ⟨.ctx, 0, 32, .ro, 0x10000000, .handle⟩
def STATE : Fld := ⟨.ctx, 32, 3, .ro, 0, .const⟩
def PENDING_ENABLE : Fld := ⟨.ctx, 35, 1, .ro, 0, .const⟩
def PARTITION : Fld := ⟨.ctx, 36, 5, .rwl, 0, .const⟩
def CHECK : Fld := ⟨.ctx, 41, 2, .rwl, 0, .const⟩
def GATE_POLICY : Fld := ⟨.ctx, 43, 1, .rw, 0, .const⟩
def PRIV : Fld := ⟨.ctx, 44, 1, .rwl, 0, .const⟩
def LADDER_LO : Fld := ⟨.ctx, 48, 2, .rwl, 1, .const⟩
def LADDER_HI : Fld := ⟨.ctx, 50, 2, .rwl, 3, .const⟩
def END_REASON : Fld := ⟨.ctx, 56, 8, .ro, 0, .const⟩
def SEED : Fld := ⟨.ctx, 64, 64, .rwl, 0, .const⟩
def STEP : Fld := ⟨.ctx, 128, 64, .rwl, 0, .const⟩
def ATTEMPT : Fld := ⟨.ctx, 192, 64, .rwl, 0, .const⟩
def MASTER_BASE : Fld := ⟨.ctx, 256, 48, .rwl, 0, .const⟩
def MOMENT_BASE : Fld := ⟨.ctx, 320, 48, .rwl, 0, .const⟩
def WORK_BASE : Fld := ⟨.ctx, 384, 48, .rwl, 0, .const⟩
def FACTOR_BASE : Fld := ⟨.ctx, 448, 48, .rwl, 0, .const⟩
def GAUGE_BASE : Fld := ⟨.ctx, 512, 14, .rwl, 0, .const⟩
def GAUGE_COUNT : Fld := ⟨.ctx, 528, 15, .rwl, 0, .const⟩
def LIVE_THREADS : Fld := ⟨.ctx, 576, 22, .ro, 0, .const⟩
def FAULT_OPID : Fld := ⟨.ctx, 640, 32, .ro, 0, .const⟩
def FAULT_TILE : Fld := ⟨.ctx, 672, 10, .ro, 0, .const⟩
def FAULT_SLOT : Fld := ⟨.ctx, 682, 11, .ro, 0, .const⟩
/-- Every field, in ascending order. -/
def fields : List Fld :=
  [ HANDLE, STATE, PENDING_ENABLE, PARTITION, CHECK, GATE_POLICY, PRIV, LADDER_LO, LADDER_HI, END_REASON, SEED, STEP] ++
  [ ATTEMPT, MASTER_BASE, MOMENT_BASE, WORK_BASE, FACTOR_BASE, GAUGE_BASE, GAUGE_COUNT, LIVE_THREADS, FAULT_OPID, FAULT_TILE, FAULT_SLOT]
end Ctx

namespace CtxSel
/-! R62 -/
def INDEX : Fld := ⟨.ctxSel, 0, 16, .rw, 0, .const⟩
def REFRESH : Fld := ⟨.ctxSel, 16, 1, .wo, 0, .const⟩
/-- Every field, in ascending order. -/
def fields : List Fld := [ INDEX, REFRESH]
end CtxSel

namespace GauSel
/-! R115 -/
def INDEX : Fld := ⟨.gauSel, 0, 14, .rw, 0, .const⟩
def REFRESH : Fld := ⟨.gauSel, 14, 1, .wo, 0, .const⟩
/-- Every field, in ascending order. -/
def fields : List Fld := [ INDEX, REFRESH]
end GauSel

namespace Gau
/-! R116 -/
def SAT_LIMIT : Fld := ⟨.gauge, 0, 16, .rw, 0x40, .const⟩
def UNDER_LIMIT : Fld := ⟨.gauge, 16, 16, .rw, 0x400, .const⟩
def PERSIST : Fld := ⟨.gauge, 32, 4, .rw, 2, .const⟩
def NF_PROMOTE : Fld := ⟨.gauge, 36, 1, .rw, 1, .const⟩
def CLEAR_HISTORY : Fld := ⟨.gauge, 37, 1, .wo, 0, .const⟩
def HIST_COUNT : Fld := ⟨.gauge, 40, 5, .rwl, 0, .const⟩
def HIST_NEXT : Fld := ⟨.gauge, 45, 4, .rwl, 0, .const⟩
def TRIP_RUN : Fld := ⟨.gauge, 49, 4, .ro, 0, .const⟩
def LAST_OBSERVED : Fld := ⟨.gauge, 64, 64, .ro, 0, .const⟩
def LAST_ZEROS : Fld := ⟨.gauge, 128, 64, .ro, 0, .const⟩
def LAST_UNDER : Fld := ⟨.gauge, 192, 64, .ro, 0, .const⟩
def LAST_SATS : Fld := ⟨.gauge, 256, 64, .ro, 0, .const⟩
def LAST_NONFINITE : Fld := ⟨.gauge, 320, 64, .ro, 0, .const⟩
def LAST_AMAX : Fld := ⟨.gauge, 384, 32, .ro, 0, .const⟩
def LAST_ATTEMPT : Fld := ⟨.gauge, 448, 64, .ro, 0, .const⟩
def HISTORY : Fld := ⟨.gauge, 512, 512, .rwl, 0, .const⟩
/-- Every field, in ascending order. -/
def fields : List Fld :=
  [ SAT_LIMIT, UNDER_LIMIT, PERSIST, NF_PROMOTE, CLEAR_HISTORY, HIST_COUNT, HIST_NEXT, TRIP_RUN, LAST_OBSERVED, LAST_ZEROS, LAST_UNDER, LAST_SATS] ++
  [ LAST_NONFINITE, LAST_AMAX, LAST_ATTEMPT, HISTORY]
end Gau

namespace GauRung
/-! R119 -/
def INDEX : Fld := ⟨.gauRung, 0, 16, .rw, 0, .const⟩
def RUNG : Fld := ⟨.gauRung, 16, 2, .rw, 1, .const⟩
def SET : Fld := ⟨.gauRung, 18, 1, .wo, 0, .const⟩
def PENDING : Fld := ⟨.gauRung, 19, 1, .ro, 0, .const⟩
def PROMOTIONS : Fld := ⟨.gauRung, 32, 16, .ro, 0, .const⟩
/-- Every field, in ascending order. -/
def fields : List Fld := [ INDEX, RUNG, SET, PENDING, PROMOTIONS]
end GauRung

namespace Census
/-! R154 -/
def BYPASS : Fld := ⟨.census, 0, 64, .ro, 0, .const⟩
def W : Fld := ⟨.census, 64, 7, .ro, 0x40, .const⟩
def RETIRED : Fld := ⟨.census, 71, 1, .ro, 0, .const⟩
def FUSED_OFF : Fld := ⟨.census, 72, 1, .ro, 0, .const⟩
def PENDING : Fld := ⟨.census, 73, 1, .ro, 0, .const⟩
def GROWN : Fld := ⟨.census, 80, 8, .ro, 0, .const⟩
def RATE : Fld := ⟨.census, 96, 16, .ro, 0x76c, .const⟩
/-- Every field, in ascending order. -/
def fields : List Fld := [ BYPASS, W, RETIRED, FUSED_OFF, PENDING, GROWN, RATE]
end Census

namespace CensusSum
/-! R155 -/
def COLUMNS : Fld := ⟨.censusSum, 0, 17, .ro, 0x10000, .const⟩
def TILES_LIVE : Fld := ⟨.censusSum, 17, 11, .ro, 0x400, .const⟩
def GENERATION : Fld := ⟨.censusSum, 32, 16, .ro, 0, .const⟩
def CHANGED : Fld := ⟨.censusSum, 48, 1, .rw1c, 0, .const⟩
def ANY_PENDING : Fld := ⟨.censusSum, 49, 1, .ro, 0, .const⟩
/-- Every field, in ascending order. -/
def fields : List Fld := [ COLUMNS, TILES_LIVE, GENERATION, CHANGED, ANY_PENDING]
end CensusSum

namespace TsqSplit
/-! R211 -/
def MODE : Fld := ⟨.tsqSplit, 0, 1, .rwl, 0, .const⟩
def AUDIT_HELD : Fld := ⟨.tsqSplit, 1, 1, .ro, 0, .const⟩
def ROLE : Fld := ⟨.tsqSplit, 64, 64, .ro, 0, .const⟩
/-- Every field, in ascending order. -/
def fields : List Fld := [ MODE, AUDIT_HELD, ROLE]
end TsqSplit

namespace BindSel
/-! R215 -/
def INDEX : Fld := ⟨.bindSel, 0, 13, .rw, 0, .const⟩
def REFRESH : Fld := ⟨.bindSel, 13, 1, .wo, 0, .const⟩
/-- Every field, in ascending order. -/
def fields : List Fld := [ INDEX, REFRESH]
end BindSel

namespace Bind
/-! R216 -/
def HANDLE : Fld := ⟨.bind, 0, 32, .ro, 0x80000000, .handle⟩
def STATE : Fld := ⟨.bind, 32, 3, .ro, 0, .const⟩
def PENDING_ENABLE : Fld := ⟨.bind, 35, 1, .ro, 0, .const⟩
def RULE : Fld := ⟨.bind, 36, 4, .rwl, 0, .const⟩
def MOM_FMT : Fld := ⟨.bind, 40, 1, .rwl, 0, .const⟩
def NESTEROV : Fld := ⟨.bind, 41, 1, .rwl, 0, .const⟩
def CONTEXT : Fld := ⟨.bind, 48, 16, .rwl, 0, .const⟩
def TENSOR : Fld := ⟨.bind, 64, 24, .rwl, 0, .const⟩
def DIM0 : Fld := ⟨.bind, 96, 32, .rwl, 0, .const⟩
def DIM1 : Fld := ⟨.bind, 128, 32, .rwl, 0, .const⟩
def SHARD_ROWS : Fld := ⟨.bind, 160, 20, .rwl, 0, .const⟩
def SHARD_COLS : Fld := ⟨.bind, 180, 20, .rwl, 0, .const⟩
def SHARD_FIRST : Fld := ⟨.bind, 200, 32, .rwl, 0, .const⟩
def SHARD_COUNT : Fld := ⟨.bind, 232, 20, .rwl, 0, .const⟩
def P0 : Fld := ⟨.bind, 256, 40, .rwl, 0, .const⟩
def MOMENT_OFFSET : Fld := ⟨.bind, 320, 32, .rwl, 0, .const⟩
def FACTOR_OFFSET : Fld := ⟨.bind, 352, 32, .rwl, 0, .const⟩
def WORK_OFFSET : Fld := ⟨.bind, 384, 32, .rwl, 0, .const⟩
def REGION_MASK : Fld := ⟨.bind, 416, 32, .rwl, 0, .const⟩
def BETA1 : Fld := ⟨.bind, 448, 32, .rw, 0x3f666666, .const⟩
def BETA2 : Fld := ⟨.bind, 480, 32, .rw, 0x3f7fbe77, .const⟩
def EPS : Fld := ⟨.bind, 512, 32, .rw, 0x322bcc77, .const⟩
def WD : Fld := ⟨.bind, 544, 32, .rw, 0, .const⟩
def CA : Fld := ⟨.bind, 576, 32, .rw, 0x3fc00000, .const⟩
def CB : Fld := ⟨.bind, 608, 32, .rw, 0xbf000000, .const⟩
def CC : Fld := ⟨.bind, 640, 32, .rw, 0, .const⟩
def SHAPE_SCALE : Fld := ⟨.bind, 672, 32, .rw, 0x3f800000, .const⟩
def ITERS : Fld := ⟨.bind, 704, 8, .rw, 5, .const⟩
def ROOT_EVERY : Fld := ⟨.bind, 712, 16, .rw, 0x64, .const⟩
def ROOT_EPS : Fld := ⟨.bind, 736, 32, .rw, 0x3727c5ac, .const⟩
def HELD_COUNT : Fld := ⟨.bind, 768, 32, .ro, 0, .const⟩
def LAST_HELD_STEP : Fld := ⟨.bind, 800, 64, .ro, 0, .const⟩
def LAST_HELD_SHARD : Fld := ⟨.bind, 864, 32, .ro, 0, .const⟩
def WORK_FMT : Fld := ⟨.bind, 896, 4, .rwl, 0xf, .const⟩
def WORK_SCL : Fld := ⟨.bind, 900, 2, .rwl, 2, .const⟩
def WORK_DUAL : Fld := ⟨.bind, 902, 1, .rwl, 1, .const⟩
def WORK_GAUGE_EN : Fld := ⟨.bind, 903, 1, .rwl, 0, .const⟩
def WORK_GAUGE : Fld := ⟨.bind, 904, 14, .rwl, 0, .const⟩
def WORK_TSCALE : Fld := ⟨.bind, 928, 32, .rwl, 0x3f800000, .const⟩
/-- Every field, in ascending order. -/
def fields : List Fld :=
  [ HANDLE, STATE, PENDING_ENABLE, RULE, MOM_FMT, NESTEROV, CONTEXT, TENSOR, DIM0, DIM1, SHARD_ROWS, SHARD_COLS] ++
  [ SHARD_FIRST, SHARD_COUNT, P0, MOMENT_OFFSET, FACTOR_OFFSET, WORK_OFFSET, REGION_MASK, BETA1, BETA2, EPS, WD, CA] ++
  [ CB, CC, SHAPE_SCALE, ITERS, ROOT_EVERY, ROOT_EPS, HELD_COUNT, LAST_HELD_STEP, LAST_HELD_SHARD, WORK_FMT, WORK_SCL, WORK_DUAL] ++
  [ WORK_GAUGE_EN, WORK_GAUGE, WORK_TSCALE]
end Bind

namespace UpuLend
/-! R235 -/
def LEND : Fld := ⟨.upuLend, 0, 4, .rwl, 0, .const⟩
def ROOT_POOL : Fld := ⟨.upuLend, 8, 5, .rwl, 0, .const⟩
/-- Every field, in ascending order. -/
def fields : List Fld := [ LEND, ROOT_POOL]
end UpuLend

namespace UpuAudit
/-! R245 -/
def SHARDS_PER_STEP : Fld := ⟨.upuAudit, 0, 5, .rw, 1, .const⟩
def MISMATCHES : Fld := ⟨.upuAudit, 32, 32, .ro, 0, .const⟩
/-- Every field, in ascending order. -/
def fields : List Fld := [ SHARDS_PER_STEP, MISMATCHES]
end UpuAudit

namespace UpuStatus
/-! R253 -/
def SUMP_BYTES : Fld := ⟨.upuStatus, 0, 22, .ro, 0, .const⟩
def STATE_BYTES : Fld := ⟨.upuStatus, 32, 23, .ro, 0, .const⟩
def LENDING : Fld := ⟨.upuStatus, 55, 1, .ro, 0, .const⟩
def ROOT_BUSY : Fld := ⟨.upuStatus, 56, 1, .ro, 0, .const⟩
/-- Every field, in ascending order. -/
def fields : List Fld := [ SUMP_BYTES, STATE_BYTES, LENDING, ROOT_BUSY]
end UpuStatus

namespace Chan
/-! R254, R305 -/
def HANDLE : Fld := ⟨.chan, 0, 32, .ro, 0x20000000, .handle⟩
def STATE : Fld := ⟨.chan, 32, 3, .ro, 0, .const⟩
def PENDING_ENABLE : Fld := ⟨.chan, 35, 1, .ro, 0, .const⟩
def END_REASON : Fld := ⟨.chan, 36, 8, .ro, 0, .const⟩
def CONTEXT : Fld := ⟨.chan, 48, 16, .rwl, 0, .const⟩
def CODE_SLOT : Fld := ⟨.chan, 64, 3, .rwl, 0, .const⟩
def CODE_EN : Fld := ⟨.chan, 67, 1, .rwl, 0, .const⟩
def REJECTS : Fld := ⟨.chan, 128, 32, .ro, 0, .const⟩
def SEQ_GAPS : Fld := ⟨.chan, 160, 32, .ro, 0, .const⟩
def LAST_ERROR : Fld := ⟨.chan, 192, 8, .ro, 0, .const⟩
def TX_FRAMES : Fld := ⟨.chan, 256, 64, .ro, 0, .const⟩
def RX_FRAMES : Fld := ⟨.chan, 320, 64, .ro, 0, .const⟩
def TX_BYTES : Fld := ⟨.chan, 384, 64, .ro, 0, .const⟩
def RX_BYTES : Fld := ⟨.chan, 448, 64, .ro, 0, .const⟩
def MEMBERS : Fld := ⟨.chan, 512, 13, .rwl, 0, .const⟩
def GATE_JOIN : Fld := ⟨.chan, 525, 1, .rwl, 1, .const⟩
def LATENESS : Fld := ⟨.chan, 526, 2, .rwl, 0, .const⟩
def QUORUM : Fld := ⟨.chan, 528, 13, .rwl, 0, .const⟩
def DEADLINE : Fld := ⟨.chan, 544, 32, .rw, 0, .const⟩
def ABANDON : Fld := ⟨.chan, 576, 16, .rw, 0x3e8, .const⟩
def LEASE_TIMEOUT : Fld := ⟨.chan, 592, 16, .rwl, 0xa, .const⟩
def BINDING : Fld := ⟨.chan, 608, 13, .rwl, 0, .const⟩
def SELF : Fld := ⟨.chan, 624, 13, .rwl, 0, .const⟩
def SPM : Fld := ⟨.chan, 640, 32, .rwl, 0, .const⟩
def MEMBER_BASE : Fld := ⟨.chan, 672, 48, .rwl, 0, .const⟩
def LOG_BASE : Fld := ⟨.chan, 736, 48, .rwl, 0, .const⟩
def LOG_ENTRIES : Fld := ⟨.chan, 784, 16, .rwl, 0, .const⟩
def CARRY_BASE : Fld := ⟨.chan, 800, 48, .rwl, 0, .const⟩
def CARRY_SLOTS : Fld := ⟨.chan, 848, 16, .rwl, 0, .const⟩
def LOG_HEAD : Fld := ⟨.chan, 864, 32, .ro, 0, .const⟩
/-- Every field, in ascending order. -/
def fields : List Fld :=
  [ HANDLE, STATE, PENDING_ENABLE, END_REASON, CONTEXT, CODE_SLOT, CODE_EN, REJECTS, SEQ_GAPS, LAST_ERROR, TX_FRAMES, RX_FRAMES] ++
  [ TX_BYTES, RX_BYTES, MEMBERS, GATE_JOIN, LATENESS, QUORUM, DEADLINE, ABANDON, LEASE_TIMEOUT, BINDING, SELF, SPM] ++
  [ MEMBER_BASE, LOG_BASE, LOG_ENTRIES, CARRY_BASE, CARRY_SLOTS, LOG_HEAD]
end Chan

namespace ColStep
/-! R281 -/
def ATTEMPT : Fld := ⟨.colStep, 0, 64, .ro, 0, .const⟩
def GATHERS : Fld := ⟨.colStep, 64, 32, .ro, 0, .const⟩
def STALE : Fld := ⟨.colStep, 96, 32, .ro, 0, .const⟩
def MAX_STALENESS : Fld := ⟨.colStep, 128, 8, .ro, 0, .const⟩
def REDUCTIONS : Fld := ⟨.colStep, 160, 32, .ro, 0, .const⟩
def AT_QUORUM : Fld := ⟨.colStep, 192, 32, .ro, 0, .const⟩
def CARRIED : Fld := ⟨.colStep, 224, 32, .ro, 0, .const⟩
def DROPPED : Fld := ⟨.colStep, 256, 32, .ro, 0, .const⟩
def DUPLICATES : Fld := ⟨.colStep, 288, 32, .ro, 0, .const⟩
def QUORUM_LOST : Fld := ⟨.colStep, 320, 16, .ro, 0, .const⟩
def LEASES_EXPIRED : Fld := ⟨.colStep, 336, 16, .ro, 0, .const⟩
/-- Every field, in ascending order. -/
def fields : List Fld := [ ATTEMPT, GATHERS, STALE, MAX_STALENESS, REDUCTIONS, AT_QUORUM, CARRIED, DROPPED, DUPLICATES, QUORUM_LOST, LEASES_EXPIRED]
end ColStep

namespace FabArb
/-! R293 -/
def W1 : Fld := ⟨.fabArb, 0, 8, .rw, 8, .const⟩
def W2 : Fld := ⟨.fabArb, 8, 8, .rw, 4, .const⟩
def W3 : Fld := ⟨.fabArb, 16, 8, .rw, 1, .const⟩
/-- Every field, in ascending order. -/
def fields : List Fld := [ W1, W2, W3]
end FabArb

namespace FabId
/-! R298 -/
def MODULE_ID : Fld := ⟨.fabId, 0, 14, .rwl, 0, .const⟩
def ID_SET : Fld := ⟨.fabId, 14, 1, .ro, 0, .const⟩
def HOP_LIMIT : Fld := ⟨.fabId, 16, 5, .rwl, 8, .const⟩
/-- Every field, in ascending order. -/
def fields : List Fld := [ MODULE_ID, ID_SET, HOP_LIMIT]
end FabId

namespace FabRoute
/-! R299 -/
def PORTS : Fld := ⟨.fabRoute, 0, 32, .rw, 0, .const⟩
def VALID : Fld := ⟨.fabRoute, 32, 1, .rw, 0, .const⟩
/-- Every field, in ascending order. -/
def fields : List Fld := [ PORTS, VALID]
end FabRoute

namespace FabPort
/-! R315 -/
def STATE : Fld := ⟨.fabPort, 0, 3, .ro, 0, .const⟩
def WIDTH : Fld := ⟨.fabPort, 3, 3, .ro, 0, .const⟩
def LANES_OK : Fld := ⟨.fabPort, 6, 4, .ro, 0, .const⟩
def DISABLE : Fld := ⟨.fabPort, 10, 1, .rw, 0, .const⟩
def RETRAIN : Fld := ⟨.fabPort, 11, 1, .wo, 0, .const⟩
def LANE_FORCE : Fld := ⟨.fabPort, 12, 4, .rw, 0, .const⟩
def REVERSED : Fld := ⟨.fabPort, 16, 1, .ro, 0, .const⟩
def POLARITY : Fld := ⟨.fabPort, 17, 4, .ro, 0, .const⟩
def CHANGED : Fld := ⟨.fabPort, 21, 1, .rw1c, 0, .const⟩
def CORRECTED : Fld := ⟨.fabPort, 64, 64, .ro, 0, .const⟩
def UNCORRECTABLE : Fld := ⟨.fabPort, 128, 64, .ro, 0, .const⟩
def RESENT : Fld := ⟨.fabPort, 192, 64, .ro, 0, .const⟩
def RETRAINS : Fld := ⟨.fabPort, 256, 32, .ro, 0, .const⟩
def C0_OVER : Fld := ⟨.fabPort, 288, 32, .ro, 0, .const⟩
def TX_FLITS : Fld := ⟨.fabPort, 320, 64, .ro, 0, .const⟩
def RX_FLITS : Fld := ⟨.fabPort, 384, 64, .ro, 0, .const⟩
def FORWARDED : Fld := ⟨.fabPort, 448, 64, .ro, 0, .const⟩
/-- Every field, in ascending order. -/
def fields : List Fld :=
  [ STATE, WIDTH, LANES_OK, DISABLE, RETRAIN, LANE_FORCE, REVERSED, POLARITY, CHANGED, CORRECTED, UNCORRECTABLE, RESENT] ++
  [ RETRAINS, C0_OVER, TX_FLITS, RX_FLITS, FORWARDED]
end FabPort

namespace WhdPort
/-! R317 -/
def HANDLE : Fld := ⟨.whdPort, 0, 32, .ro, 0x40000000, .handle⟩
def STATE : Fld := ⟨.whdPort, 32, 3, .ro, 0, .const⟩
def PENDING_ENABLE : Fld := ⟨.whdPort, 35, 1, .ro, 0, .const⟩
def LINK_UP : Fld := ⟨.whdPort, 36, 1, .ro, 0, .const⟩
def PTP_EN : Fld := ⟨.whdPort, 37, 1, .rwl, 0, .const⟩
def MAC : Fld := ⟨.whdPort, 64, 48, .rwl, 0, .fuse⟩
def VLAN : Fld := ⟨.whdPort, 112, 16, .rwl, 0, .const⟩
def IPV4 : Fld := ⟨.whdPort, 128, 32, .rwl, 0, .const⟩
def V4_PREFIX : Fld := ⟨.whdPort, 160, 8, .rwl, 0, .const⟩
def V6_PREFIX : Fld := ⟨.whdPort, 168, 8, .rwl, 0, .const⟩
def UDP_PORT : Fld := ⟨.whdPort, 176, 16, .rwl, 0xa6dd, .const⟩
def IPV6 : Fld := ⟨.whdPort, 192, 128, .rwl, 0, .const⟩
def MTU : Fld := ⟨.whdPort, 320, 16, .rwl, 0x23ea, .const⟩
def GATEWAY_MAC : Fld := ⟨.whdPort, 336, 48, .rwl, 0, .const⟩
def RX_DROPPED : Fld := ⟨.whdPort, 384, 64, .ro, 0, .const⟩
def PACE_DROPPED : Fld := ⟨.whdPort, 448, 64, .ro, 0, .const⟩
/-- Every field, in ascending order. -/
def fields : List Fld :=
  [ HANDLE, STATE, PENDING_ENABLE, LINK_UP, PTP_EN, MAC, VLAN, IPV4, V4_PREFIX, V6_PREFIX, UDP_PORT, IPV6] ++
  [ MTU, GATEWAY_MAC, RX_DROPPED, PACE_DROPPED]
end WhdPort

namespace Round
/-! R318 -/
def HANDLE : Fld := ⟨.round, 0, 32, .ro, 0x50000000, .handle⟩
def STATE : Fld := ⟨.round, 32, 3, .ro, 0, .const⟩
def PENDING_ENABLE : Fld := ⟨.round, 35, 1, .ro, 0, .const⟩
def END_REASON : Fld := ⟨.round, 36, 8, .ro, 0, .const⟩
def JOINER : Fld := ⟨.round, 44, 1, .rwl, 0, .const⟩
def NESTEROV : Fld := ⟨.round, 45, 1, .rwl, 1, .const⟩
def RND : Fld := ⟨.round, 46, 1, .rwl, 0, .const⟩
def CONTEXT : Fld := ⟨.round, 48, 16, .rwl, 0, .const⟩
def JOB : Fld := ⟨.round, 64, 64, .rwl, 0, .const⟩
def H : Fld := ⟨.round, 128, 16, .rwl, 0, .const⟩
def TOPK_SHIFT : Fld := ⟨.round, 144, 4, .rwl, 6, .const⟩
def QFMT : Fld := ⟨.round, 148, 4, .rwl, 5, .const⟩
def PIECE : Fld := ⟨.round, 152, 2, .rwl, 3, .const⟩
def SELF_SITE : Fld := ⟨.round, 154, 6, .rwl, 0, .const⟩
def SEED_SITE : Fld := ⟨.round, 160, 6, .rwl, 0, .const⟩
def DEADLINE_STEPS : Fld := ⟨.round, 176, 16, .rwl, 0, .const⟩
def TAKEOVER_STEPS : Fld := ⟨.round, 192, 16, .rwl, 0, .const⟩
def OUTER_LR : Fld := ⟨.round, 224, 32, .rw, 0x3f333333, .const⟩
def OUTER_MU : Fld := ⟨.round, 256, 32, .rw, 0x3f666666, .const⟩
def OUTER_BASE : Fld := ⟨.round, 288, 48, .rwl, 0, .const⟩
def OUTER_PARAMS : Fld := ⟨.round, 352, 40, .rwl, 0, .const⟩
def STORE_BASE : Fld := ⟨.round, 400, 48, .rwl, 0, .const⟩
def STORE_MIB : Fld := ⟨.round, 448, 32, .rwl, 0, .const⟩
def SITES : Fld := ⟨.round, 512, 64, .rwl, 0, .const⟩
def ROUND : Fld := ⟨.round, 576, 32, .rwl, 0, .const⟩
def APPLIED : Fld := ⟨.round, 608, 32, .rwl, 0xffffffff, .const⟩
def LEDGER_DIGEST : Fld := ⟨.round, 640, 64, .ro, 0, .const⟩
def FRAGS_SENT : Fld := ⟨.round, 704, 32, .ro, 0, .const⟩
def FRAGS_LEFT_OUT : Fld := ⟨.round, 736, 32, .ro, 0, .const⟩
def CUTS_DEFERRED : Fld := ⟨.round, 768, 32, .ro, 0, .const⟩
def TAKEOVERS : Fld := ⟨.round, 800, 16, .ro, 0, .const⟩
def HELD : Fld := ⟨.round, 816, 16, .ro, 0, .const⟩
/-- Every field, in ascending order. -/
def fields : List Fld :=
  [ HANDLE, STATE, PENDING_ENABLE, END_REASON, JOINER, NESTEROV, RND, CONTEXT, JOB, H, TOPK_SHIFT, QFMT] ++
  [ PIECE, SELF_SITE, SEED_SITE, DEADLINE_STEPS, TAKEOVER_STEPS, OUTER_LR, OUTER_MU, OUTER_BASE, OUTER_PARAMS, STORE_BASE, STORE_MIB, SITES] ++
  [ ROUND, APPLIED, LEDGER_DIGEST, FRAGS_SENT, FRAGS_LEFT_OUT, CUTS_DEFERRED, TAKEOVERS, HELD]
end Round

namespace Partner
/-! R319 -/
def ADDRESS : Fld := ⟨.partner, 0, 128, .rwl, 0, .const⟩
def UDP_PORT : Fld := ⟨.partner, 128, 16, .rwl, 0xa6dd, .const⟩
def VALID : Fld := ⟨.partner, 144, 1, .rwl, 0, .const⟩
def FAR_PORT : Fld := ⟨.partner, 145, 1, .rwl, 0, .const⟩
def PACE : Fld := ⟨.partner, 160, 32, .rwl, 0, .const⟩
def PSTATE : Fld := ⟨.partner, 192, 3, .ro, 0, .const⟩
def SRTT : Fld := ⟨.partner, 208, 32, .ro, 0, .const⟩
def RTTVAR : Fld := ⟨.partner, 240, 32, .ro, 0, .const⟩
def RTO : Fld := ⟨.partner, 272, 32, .ro, 0, .const⟩
def RESENT : Fld := ⟨.partner, 304, 32, .ro, 0, .const⟩
def DUPLICATES : Fld := ⟨.partner, 336, 32, .ro, 0, .const⟩
def BAD_PACKETS : Fld := ⟨.partner, 368, 32, .ro, 0, .const⟩
/-- Every field, in ascending order. -/
def fields : List Fld := [ ADDRESS, UDP_PORT, VALID, FAR_PORT, PACE, PSTATE, SRTT, RTTVAR, RTO, RESENT, DUPLICATES, BAD_PACKETS]
end Partner

namespace MemDev
/-! R364 -/
def STATE : Fld := ⟨.memDev, 0, 2, .ro, 0, .const⟩
def CHANGED : Fld := ⟨.memDev, 2, 1, .rw1c, 0, .const⟩
def TEMP : Fld := ⟨.memDev, 8, 8, .ro, 0, .const⟩
def SPARED : Fld := ⟨.memDev, 16, 16, .ro, 0, .const⟩
def CORRECTED : Fld := ⟨.memDev, 64, 64, .ro, 0, .const⟩
def UNCORRECTABLE : Fld := ⟨.memDev, 128, 64, .ro, 0, .const⟩
def LINK_CORRECTED : Fld := ⟨.memDev, 192, 64, .ro, 0, .const⟩
def LAST_ADDR : Fld := ⟨.memDev, 256, 48, .ro, 0, .const⟩
def PATROLS : Fld := ⟨.memDev, 320, 32, .ro, 0, .const⟩
/-- Every field, in ascending order. -/
def fields : List Fld := [ STATE, CHANGED, TEMP, SPARED, CORRECTED, UNCORRECTABLE, LINK_CORRECTED, LAST_ADDR, PATROLS]
end MemDev

namespace Scrub
/-! R365 -/
def PERIOD_H : Fld := ⟨.scrub, 0, 8, .rw, 0x18, .const⟩
def REPAIR_EN : Fld := ⟨.scrub, 8, 1, .rw, 1, .const⟩
/-- Every field, in ascending order. -/
def fields : List Fld := [ PERIOD_H, REPAIR_EN]
end Scrub

namespace TmvStatus
/-! R371 -/
def DEMAND : Fld := ⟨.tmvStatus, 0, 10, .ro, 0, .const⟩
def HINT : Fld := ⟨.tmvStatus, 10, 10, .ro, 0, .const⟩
def BUSY : Fld := ⟨.tmvStatus, 20, 1, .ro, 0, .const⟩
def REFUSED : Fld := ⟨.tmvStatus, 32, 32, .ro, 0, .const⟩
/-- Every field, in ascending order. -/
def fields : List Fld := [ DEMAND, HINT, BUSY, REFUSED]
end TmvStatus

namespace Part
/-! R433 -/
def HANDLE : Fld := ⟨.part, 0, 32, .ro, 0x30000000, .handle⟩
def STATE : Fld := ⟨.part, 32, 3, .ro, 0, .const⟩
def PENDING_ENABLE : Fld := ⟨.part, 35, 1, .ro, 0, .const⟩
def END_REASON : Fld := ⟨.part, 36, 8, .ro, 0, .const⟩
def PAIR : Fld := ⟨.part, 44, 1, .rwl, 0, .const⟩
def POISON_ON_DETECT : Fld := ⟨.part, 45, 1, .rw, 0, .const⟩
def AUDIT_SHIFT : Fld := ⟨.part, 48, 4, .rwl, 6, .const⟩
def REGIONS : Fld := ⟨.part, 64, 32, .rwl, 0, .const⟩
def RESET : Fld := ⟨.part, 96, 1, .wo, 0, .const⟩
def RESETS : Fld := ⟨.part, 128, 32, .ro, 0, .const⟩
def LAST_RESET : Fld := ⟨.part, 160, 64, .ro, 0, .const⟩
def AUDITS_RUN : Fld := ⟨.part, 224, 32, .ro, 0, .const⟩
def AUDITS_SKIPPED : Fld := ⟨.part, 256, 32, .ro, 0, .const⟩
def DETECTIONS : Fld := ⟨.part, 288, 32, .ro, 0, .const⟩
/-- Every field, in ascending order. -/
def fields : List Fld :=
  [ HANDLE, STATE, PENDING_ENABLE, END_REASON, PAIR, POISON_ON_DETECT, AUDIT_SHIFT, REGIONS, RESET, RESETS, LAST_RESET, AUDITS_RUN] ++
  [ AUDITS_SKIPPED, DETECTIONS]
end Part

namespace RasLog
/-! R440 -/
def HEAD : Fld := ⟨.rasLog, 0, 16, .ro, 0, .const⟩
def TAIL : Fld := ⟨.rasLog, 16, 16, .rw, 0, .const⟩
def DROPPED : Fld := ⟨.rasLog, 32, 16, .ro, 0, .const⟩
def OVERFLOW : Fld := ⟨.rasLog, 48, 1, .rw1c, 0, .const⟩
/-- Every field, in ascending order. -/
def fields : List Fld := [ HEAD, TAIL, DROPPED, OVERFLOW]
end RasLog

namespace RasTest
/-! R442 -/
def TILE : Fld := ⟨.rasTest, 0, 10, .rw, 0, .const⟩
def START : Fld := ⟨.rasTest, 10, 1, .wo, 0, .const⟩
def BUSY : Fld := ⟨.rasTest, 11, 1, .ro, 0, .const⟩
def FAILED : Fld := ⟨.rasTest, 12, 1, .ro, 0, .const⟩
def STRIKE_LIMIT : Fld := ⟨.rasTest, 16, 4, .rw, 3, .const⟩
/-- Every field, in ascending order. -/
def fields : List Fld := [ TILE, START, BUSY, FAILED, STRIKE_LIMIT]
end RasTest

namespace HubLink
/-! R449 -/
def WIDTH : Fld := ⟨.hubLink, 0, 5, .ro, 0, .const⟩
def SPEED : Fld := ⟨.hubLink, 5, 2, .ro, 0, .const⟩
def CACHE_EN : Fld := ⟨.hubLink, 7, 1, .ro, 0, .const⟩
def MEM_EN : Fld := ⟨.hubLink, 8, 1, .ro, 0, .const⟩
def IDE_IO : Fld := ⟨.hubLink, 9, 1, .ro, 0, .const⟩
def IDE_CM : Fld := ⟨.hubLink, 10, 1, .ro, 0, .const⟩
def HOST_LOAD : Fld := ⟨.hubLink, 11, 1, .ro, 0, .const⟩
def RETRAINS : Fld := ⟨.hubLink, 32, 16, .ro, 0, .const⟩
def IDE_FAILS : Fld := ⟨.hubLink, 48, 16, .ro, 0, .const⟩
/-- Every field, in ascending order. -/
def fields : List Fld := [ WIDTH, SPEED, CACHE_EN, MEM_EN, IDE_IO, IDE_CM, HOST_LOAD, RETRAINS, IDE_FAILS]
end HubLink

namespace Ring
/-! R459 -/
def HANDLE : Fld := ⟨.ring, 0, 32, .ro, 0x90000000, .handle⟩
def STATE : Fld := ⟨.ring, 32, 3, .ro, 0, .const⟩
def PENDING_ENABLE : Fld := ⟨.ring, 35, 1, .ro, 0, .const⟩
def PRIV : Fld := ⟨.ring, 36, 1, .rwl, 0, .const⟩
def ENABLE : Fld := ⟨.ring, 37, 1, .wo, 0, .const⟩
def DISABLE : Fld := ⟨.ring, 38, 1, .wo, 0, .const⟩
def IRQ_EN : Fld := ⟨.ring, 39, 1, .rw, 1, .const⟩
def CMD_LOG2 : Fld := ⟨.ring, 40, 5, .rwl, 6, .const⟩
def CPL_LOG2 : Fld := ⟨.ring, 45, 5, .rwl, 6, .const⟩
def VECTOR : Fld := ⟨.ring, 50, 11, .rwl, 0, .const⟩
def CMD_BASE : Fld := ⟨.ring, 64, 48, .rwl, 0, .const⟩
def CPL_BASE : Fld := ⟨.ring, 128, 48, .rwl, 0, .const⟩
def CMD_HEAD : Fld := ⟨.ring, 192, 32, .ro, 0, .const⟩
def CMD_TAIL : Fld := ⟨.ring, 224, 32, .ro, 0, .const⟩
def CPL_TAIL : Fld := ⟨.ring, 256, 32, .ro, 0, .const⟩
def CPL_HEAD : Fld := ⟨.ring, 288, 32, .ro, 0, .const⟩
def MOD_COUNT : Fld := ⟨.ring, 320, 8, .rw, 1, .const⟩
def MOD_TIME : Fld := ⟨.ring, 328, 16, .rw, 0, .const⟩
def LAST_REASON : Fld := ⟨.ring, 344, 8, .ro, 0, .const⟩
def BAD_ENTRIES : Fld := ⟨.ring, 352, 32, .ro, 0, .const⟩
/-- Every field, in ascending order. -/
def fields : List Fld :=
  [ HANDLE, STATE, PENDING_ENABLE, PRIV, ENABLE, DISABLE, IRQ_EN, CMD_LOG2, CPL_LOG2, VECTOR, CMD_BASE, CPL_BASE] ++
  [ CMD_HEAD, CMD_TAIL, CPL_TAIL, CPL_HEAD, MOD_COUNT, MOD_TIME, LAST_REASON, BAD_ENTRIES]
end Ring

namespace Evt
/-! R469 -/
def D2D : Fld := ⟨.evtStatus, 0, 1, .rw1c, 0, .const⟩
def CENSUS : Fld := ⟨.evtStatus, 1, 1, .rw1c, 0, .const⟩
def RAS_RECORD : Fld := ⟨.evtStatus, 2, 1, .rw1c, 0, .const⟩
def RAS_OVERFLOW : Fld := ⟨.evtStatus, 3, 1, .rw1c, 0, .const⟩
def FAB_PORT : Fld := ⟨.evtStatus, 4, 1, .rw1c, 0, .const⟩
def MEMORY : Fld := ⟨.evtStatus, 5, 1, .rw1c, 0, .const⟩
def HOST_LINK : Fld := ⟨.evtStatus, 6, 1, .rw1c, 0, .const⟩
def POWER : Fld := ⟨.evtStatus, 7, 1, .rw1c, 0, .const⟩
def CISTERN : Fld := ⟨.evtStatus, 8, 1, .rw1c, 0, .const⟩
def OBSERVE : Fld := ⟨.evtStatus, 9, 1, .rw1c, 0, .const⟩
def SECURITY : Fld := ⟨.evtStatus, 10, 1, .rw1c, 0, .const⟩
def EVENT_DROPPED : Fld := ⟨.evtStatus, 11, 1, .rw1c, 0, .const⟩
/-- Every field, in ascending order. -/
def fields : List Fld := [ D2D, CENSUS, RAS_RECORD, RAS_OVERFLOW, FAB_PORT, MEMORY, HOST_LINK, POWER, CISTERN, OBSERVE, SECURITY, EVENT_DROPPED]
end Evt

namespace EvtCtrl
/-! R470 -/
def RING : Fld := ⟨.evtCtrl, 0, 7, .rw, 0, .const⟩
def EN : Fld := ⟨.evtCtrl, 7, 1, .rw, 0, .const⟩
def VECTOR : Fld := ⟨.evtCtrl, 8, 11, .rw, 0, .const⟩
def DROPPED : Fld := ⟨.evtCtrl, 32, 16, .ro, 0, .const⟩
/-- Every field, in ascending order. -/
def fields : List Fld := [ RING, EN, VECTOR, DROPPED]
end EvtCtrl

namespace SecBoot
/-! R493 -/
def STAGE : Fld := ⟨.secBoot, 0, 4, .ro, 0, .const⟩
def READY : Fld := ⟨.secBoot, 4, 1, .ro, 0, .const⟩
def HOST_LOAD : Fld := ⟨.secBoot, 5, 1, .ro, 0, .const⟩
def LAST_REASON : Fld := ⟨.secBoot, 8, 8, .ro, 0, .const⟩
def FW_SVN : Fld := ⟨.secBoot, 32, 8, .ro, 0, .const⟩
/-- Every field, in ascending order. -/
def fields : List Fld := [ STAGE, READY, HOST_LOAD, LAST_REASON, FW_SVN]
end SecBoot

namespace SecState
/-! R494 -/
def SVN_FLOOR : Fld := ⟨.secState, 0, 8, .ro, 0, .const⟩
def EPOCH : Fld := ⟨.secState, 8, 4, .ro, 0, .const⟩
def SEAL_BROKEN : Fld := ⟨.secState, 12, 1, .ro, 0, .const⟩
def DEBUG_UNLOCKED : Fld := ⟨.secState, 13, 1, .ro, 0, .const⟩
def PRESENCE : Fld := ⟨.secState, 14, 1, .ro, 0, .const⟩
def CFG_DEFAULTED : Fld := ⟨.secState, 15, 1, .ro, 0, .const⟩
def CFG_ENTRIES : Fld := ⟨.secState, 16, 12, .ro, 0, .const⟩
def HIGH_SVN : Fld := ⟨.secState, 32, 8, .ro, 0, .const⟩
/-- Every field, in ascending order. -/
def fields : List Fld := [ SVN_FLOOR, EPOCH, SEAL_BROKEN, DEBUG_UNLOCKED, PRESENCE, CFG_DEFAULTED, CFG_ENTRIES, HIGH_SVN]
end SecState

namespace SecOp
/-! R495 -/
def OP : Fld := ⟨.secOp, 0, 4, .rw, 0, .const⟩
def START : Fld := ⟨.secOp, 4, 1, .wo, 0, .const⟩
def BUSY : Fld := ⟨.secOp, 5, 1, .ro, 0, .const⟩
def REASON : Fld := ⟨.secOp, 8, 8, .ro, 0, .const⟩
/-- Every field, in ascending order. -/
def fields : List Fld := [ OP, START, BUSY, REASON]
end SecOp

namespace CisStatus
/-! R525 -/
def STATE : Fld := ⟨.cisStatus, 0, 2, .ro, 0, .const⟩
def CHANGED : Fld := ⟨.cisStatus, 2, 1, .rw1c, 0, .const⟩
def PATROL_BUSY : Fld := ⟨.cisStatus, 3, 1, .ro, 0, .const⟩
def OPEN_WRITES : Fld := ⟨.cisStatus, 4, 3, .ro, 0, .const⟩
def FREE_ENTRIES : Fld := ⟨.cisStatus, 8, 13, .ro, 0x1000, .const⟩
def FREE_SB : Fld := ⟨.cisStatus, 32, 16, .ro, 0x7ff9, .const⟩
def TORN_DISCARDED : Fld := ⟨.cisStatus, 48, 16, .ro, 0, .const⟩
/-- Every field, in ascending order. -/
def fields : List Fld := [ STATE, CHANGED, PATROL_BUSY, OPEN_WRITES, FREE_ENTRIES, FREE_SB, TORN_DISCARDED]
end CisStatus

namespace CisCtrl
/-! R526 -/
def KEEP : Fld := ⟨.cisCtrl, 0, 4, .rw, 0, .const⟩
def PATROL_DAYS : Fld := ⟨.cisCtrl, 4, 8, .rw, 7, .const⟩
/-- Every field, in ascending order. -/
def fields : List Fld := [ KEEP, PATROL_DAYS]
end CisCtrl

namespace CisWear
/-! R527 -/
def PERCENT_USED : Fld := ⟨.cisWear, 0, 8, .ro, 0, .const⟩
def SPARE_PERCENT : Fld := ⟨.cisWear, 8, 8, .ro, 0x64, .const⟩
def ERASE_MAX : Fld := ⟨.cisWear, 16, 16, .ro, 0, .const⟩
def ERASE_AVG : Fld := ⟨.cisWear, 32, 16, .ro, 0, .const⟩
def GROWN_BAD : Fld := ⟨.cisWear, 48, 16, .ro, 0, .const⟩
/-- Every field, in ascending order. -/
def fields : List Fld := [ PERCENT_USED, SPARE_PERCENT, ERASE_MAX, ERASE_AVG, GROWN_BAD]
end CisWear

namespace Mould
/-! R528 -/
def STATE : Fld := ⟨.mould, 0, 3, .ro, 0, .const⟩
def SIGNED : Fld := ⟨.mould, 3, 1, .ro, 0, .const⟩
def CONTEXT : Fld := ⟨.mould, 8, 16, .ro, 0, .const⟩
def RECORDS : Fld := ⟨.mould, 32, 32, .ro, 0, .const⟩
def SERIAL : Fld := ⟨.mould, 64, 64, .ro, 0, .const⟩
def STEP : Fld := ⟨.mould, 128, 64, .ro, 0, .const⟩
def ROUND : Fld := ⟨.mould, 192, 32, .ro, 0, .const⟩
def BYTES : Fld := ⟨.mould, 256, 64, .ro, 0, .const⟩
def COMMIT_TIME : Fld := ⟨.mould, 320, 64, .ro, 0, .const⟩
def DIGEST : Fld := ⟨.mould, 384, 64, .ro, 0, .const⟩
/-- Every field, in ascending order. -/
def fields : List Fld := [ STATE, SIGNED, CONTEXT, RECORDS, SERIAL, STEP, ROUND, BYTES, COMMIT_TIME, DIGEST]
end Mould

namespace PwrRegion
/-! R540 -/
def VSET : Fld := ⟨.pwrRegion, 0, 10, .rw, 0x2d0, .const⟩
def VAPPLIED : Fld := ⟨.pwrRegion, 16, 10, .ro, 0x2d0, .const⟩
def LIMITER : Fld := ⟨.pwrRegion, 26, 2, .ro, 0, .const⟩
def STOP : Fld := ⟨.pwrRegion, 28, 1, .rwl, 0, .const⟩
def STOPPED : Fld := ⟨.pwrRegion, 29, 1, .ro, 0, .const⟩
def TJ : Fld := ⟨.pwrRegion, 32, 8, .ro, 0, .const⟩
def RATE : Fld := ⟨.pwrRegion, 48, 16, .ro, 0, .const⟩
def STOP_TIME : Fld := ⟨.pwrRegion, 64, 64, .ro, 0, .const⟩
def RESUME_TIME : Fld := ⟨.pwrRegion, 128, 64, .ro, 0, .const⟩
def CGATE : Fld := ⟨.pwrRegion, 192, 8, .rwl, 0, .const⟩
/-- Every field, in ascending order. -/
def fields : List Fld := [ VSET, VAPPLIED, LIMITER, STOP, STOPPED, TJ, RATE, STOP_TIME, RESUME_TIME, CGATE]
end PwrRegion

namespace PwrCap
/-! R543 -/
def CAP_W : Fld := ⟨.pwrCap, 0, 12, .rw, 0xaf0, .const⟩
/-- Every field, in ascending order. -/
def fields : List Fld := [ CAP_W]
end PwrCap

namespace PwrStatus
/-! R549 -/
def LOW_INPUT : Fld := ⟨.pwrStatus, 0, 1, .ro, 0, .const⟩
def HIGH_INPUT : Fld := ⟨.pwrStatus, 1, 1, .ro, 0, .const⟩
def CAP_ACTIVE : Fld := ⟨.pwrStatus, 2, 1, .ro, 0, .const⟩
def CAP_UNMET : Fld := ⟨.pwrStatus, 3, 1, .ro, 0, .const⟩
def THERMAL_ACTIVE : Fld := ⟨.pwrStatus, 4, 1, .ro, 0, .const⟩
def ALERT : Fld := ⟨.pwrStatus, 5, 1, .ro, 0, .const⟩
def CHANGED : Fld := ⟨.pwrStatus, 6, 1, .rw1c, 0, .const⟩
def TJ_MAX : Fld := ⟨.pwrStatus, 8, 8, .ro, 0, .const⟩
def TJ_LIMIT : Fld := ⟨.pwrStatus, 16, 8, .rw, 0x5f, .const⟩
def VCAP : Fld := ⟨.pwrStatus, 32, 10, .ro, 0x2f8, .const⟩
/-- Every field, in ascending order. -/
def fields : List Fld := [ LOW_INPUT, HIGH_INPUT, CAP_ACTIVE, CAP_UNMET, THERMAL_ACTIVE, ALERT, CHANGED, TJ_MAX, TJ_LIMIT, VCAP]
end PwrStatus

namespace PwrInput
/-! R549 -/
def VIN : Fld := ⟨.pwrInput, 0, 16, .ro, 0x9c40, .const⟩
def POWER : Fld := ⟨.pwrInput, 16, 16, .ro, 0, .const⟩
def PEAK : Fld := ⟨.pwrInput, 32, 16, .ro, 0, .const⟩
/-- Every field, in ascending order. -/
def fields : List Fld := [ VIN, POWER, PEAK]
end PwrInput

namespace TbsStatus
/-! R554 -/
def REF_LOST : Fld := ⟨.tbsStatus, 0, 1, .ro, 0, .const⟩
def PTP_LOCKED : Fld := ⟨.tbsStatus, 1, 1, .ro, 0, .const⟩
def SLEWING : Fld := ⟨.tbsStatus, 2, 1, .ro, 0, .const⟩
def CHANGED : Fld := ⟨.tbsStatus, 3, 1, .rw1c, 0, .const⟩
def SLEW_PPM : Fld := ⟨.tbsStatus, 8, 8, .rw, 0xc8, .const⟩
def STEP_FWD : Fld := ⟨.tbsStatus, 16, 1, .rw, 0, .const⟩
def REMAINING : Fld := ⟨.tbsStatus, 32, 32, .ro, 0, .const⟩
/-- Every field, in ascending order. -/
def fields : List Fld := [ REF_LOST, PTP_LOCKED, SLEWING, CHANGED, SLEW_PPM, STEP_FWD, REMAINING]
end TbsStatus

namespace TileCnt
/-! R557 -/
def WAVES : Fld := ⟨.tileCnt, 0, 64, .ro, 0, .const⟩
def STALL_WAVES : Fld := ⟨.tileCnt, 64, 64, .ro, 0, .const⟩
def XPD_STALL : Fld := ⟨.tileCnt, 128, 64, .ro, 0, .const⟩
def LEND_WAIT : Fld := ⟨.tileCnt, 192, 64, .ro, 0, .const⟩
def INSNS : Fld := ⟨.tileCnt, 256, 64, .ro, 0, .const⟩
def CMDS : Fld := ⟨.tileCnt, 320, 64, .ro, 0, .const⟩
def POST_DROPPED : Fld := ⟨.tileCnt, 384, 64, .ro, 0, .const⟩
def C0_HELD : Fld := ⟨.tileCnt, 448, 64, .ro, 0, .const⟩
def AUDIT_WAVES : Fld := ⟨.tileCnt, 512, 64, .ro, 0, .const⟩
/-- Every field, in ascending order. -/
def fields : List Fld := [ WAVES, STALL_WAVES, XPD_STALL, LEND_WAIT, INSNS, CMDS, POST_DROPPED, C0_HELD, AUDIT_WAVES]
end TileCnt

namespace RegionCnt
/-! R558 -/
def ROW_ELEMENTS : Fld := ⟨.regionCnt, 0, 64, .ro, 0, .const⟩
def SHARDS_COMMITTED : Fld := ⟨.regionCnt, 64, 64, .ro, 0, .const⟩
def SUMP_FULL_NS : Fld := ⟨.regionCnt, 128, 64, .ro, 0, .const⟩
def GAUGE_ELEMENTS : Fld := ⟨.regionCnt, 192, 64, .ro, 0, .const⟩
/-- Every field, in ascending order. -/
def fields : List Fld := [ ROW_ELEMENTS, SHARDS_COMMITTED, SUMP_FULL_NS, GAUGE_ELEMENTS]
end RegionCnt

namespace DieCnt
/-! R558 -/
def HBM_READ_BYTES : Fld := ⟨.dieCnt, 0, 64, .ro, 0, .const⟩
def HBM_WRITE_BYTES : Fld := ⟨.dieCnt, 64, 64, .ro, 0, .const⟩
def TMOVE_BYTES : Fld := ⟨.dieCnt, 128, 64, .ro, 0, .const⟩
def COL_ELEMENTS : Fld := ⟨.dieCnt, 192, 64, .ro, 0, .const⟩
def COL_LINE_WAIT_NS : Fld := ⟨.dieCnt, 256, 64, .ro, 0, .const⟩
def TRACE_RECORDS : Fld := ⟨.dieCnt, 320, 64, .ro, 0, .const⟩
def TRACE_DROPPED : Fld := ⟨.dieCnt, 384, 64, .ro, 0, .const⟩
/-- Every field, in ascending order. -/
def fields : List Fld := [ HBM_READ_BYTES, HBM_WRITE_BYTES, TMOVE_BYTES, COL_ELEMENTS, COL_LINE_WAIT_NS, TRACE_RECORDS, TRACE_DROPPED]
end DieCnt

namespace ModuleCnt
/-! R558 -/
def LPDDR_READ_BYTES : Fld := ⟨.moduleCnt, 0, 64, .ro, 0, .const⟩
def LPDDR_WRITE_BYTES : Fld := ⟨.moduleCnt, 64, 64, .ro, 0, .const⟩
def CXL_RX_BYTES : Fld := ⟨.moduleCnt, 128, 64, .ro, 0, .const⟩
def CXL_TX_BYTES : Fld := ⟨.moduleCnt, 192, 64, .ro, 0, .const⟩
def WXP_TX_BYTES : Fld := ⟨.moduleCnt, 256, 64, .ro, 0, .const⟩
def WXP_RX_BYTES : Fld := ⟨.moduleCnt, 320, 64, .ro, 0, .const⟩
def ENERGY_MJ : Fld := ⟨.moduleCnt, 384, 64, .ro, 0, .const⟩
/-- Every field, in ascending order. -/
def fields : List Fld := [ LPDDR_READ_BYTES, LPDDR_WRITE_BYTES, CXL_RX_BYTES, CXL_TX_BYTES, WXP_TX_BYTES, WXP_RX_BYTES, ENERGY_MJ]
end ModuleCnt

namespace Sample
/-! R561 -/
def HANDLE : Fld := ⟨.sample, 0, 32, .ro, 0x70000000, .handle⟩
def STATE : Fld := ⟨.sample, 32, 3, .ro, 0, .const⟩
def PENDING_ENABLE : Fld := ⟨.sample, 35, 1, .ro, 0, .const⟩
def ALL_CONTEXTS : Fld := ⟨.sample, 36, 1, .rwl, 0, .const⟩
def PERIOD_LOG2 : Fld := ⟨.sample, 40, 5, .rwl, 0xa, .const⟩
def CONTEXT : Fld := ⟨.sample, 48, 16, .rwl, 0, .const⟩
def OPID_MATCH : Fld := ⟨.sample, 64, 32, .rwl, 0, .const⟩
def OPID_MASK : Fld := ⟨.sample, 96, 32, .rwl, 0, .const⟩
def FIRST_TILE : Fld := ⟨.sample, 128, 10, .rwl, 0, .const⟩
def TILE_COUNT : Fld := ⟨.sample, 138, 11, .rwl, 0, .const⟩
def EVENTS : Fld := ⟨.sample, 160, 36, .rwl, 0, .const⟩
def RING_LOG2 : Fld := ⟨.sample, 200, 5, .rwl, 6, .const⟩
def RING_BASE : Fld := ⟨.sample, 208, 48, .rwl, 0, .const⟩
def HEAD : Fld := ⟨.sample, 256, 32, .ro, 0, .const⟩
def TAIL : Fld := ⟨.sample, 288, 32, .rw, 0, .const⟩
def MERGED : Fld := ⟨.sample, 320, 32, .ro, 0, .const⟩
def LAST_ERROR : Fld := ⟨.sample, 352, 8, .ro, 0, .const⟩
/-- Every field, in ascending order. -/
def fields : List Fld :=
  [ HANDLE, STATE, PENDING_ENABLE, ALL_CONTEXTS, PERIOD_LOG2, CONTEXT, OPID_MATCH, OPID_MASK, FIRST_TILE, TILE_COUNT, EVENTS, RING_LOG2] ++
  [ RING_BASE, HEAD, TAIL, MERGED, LAST_ERROR]
end Sample

namespace Trace
/-! R566 -/
def HANDLE : Fld := ⟨.trace, 0, 32, .ro, 0x60000000, .handle⟩
def STATE : Fld := ⟨.trace, 32, 3, .ro, 0, .const⟩
def PENDING_ENABLE : Fld := ⟨.trace, 35, 1, .ro, 0, .const⟩
def EXPORT_MODE : Fld := ⟨.trace, 36, 1, .rwl, 0, .const⟩
def TRIG_LINK : Fld := ⟨.trace, 37, 1, .rwl, 0, .const⟩
def CLASSES : Fld := ⟨.trace, 40, 8, .rwl, 0xff, .const⟩
def TRIG_SRC : Fld := ⟨.trace, 48, 5, .rwl, 1, .const⟩
def TRIG_SEV : Fld := ⟨.trace, 53, 3, .rwl, 2, .const⟩
def CONTEXT : Fld := ⟨.trace, 64, 16, .rwl, 0, .const⟩
def ALL_CONTEXTS : Fld := ⟨.trace, 80, 1, .rwl, 1, .const⟩
def OPID_MATCH : Fld := ⟨.trace, 96, 32, .rwl, 0, .const⟩
def OPID_MASK : Fld := ⟨.trace, 128, 32, .rwl, 0, .const⟩
def POST_FILL : Fld := ⟨.trace, 160, 17, .rwl, 0x8000, .const⟩
def CAPTURE : Fld := ⟨.trace, 177, 3, .ro, 0, .const⟩
def ARM : Fld := ⟨.trace, 180, 1, .wo, 0, .const⟩
def EXP_BASE : Fld := ⟨.trace, 192, 48, .rwl, 0, .const⟩
def EXP_LOG2 : Fld := ⟨.trace, 240, 5, .rwl, 0xa, .const⟩
def EXP_HEAD : Fld := ⟨.trace, 256, 32, .ro, 0, .const⟩
def EXP_TAIL : Fld := ⟨.trace, 288, 32, .rw, 0, .const⟩
def TRIGGER_TIME : Fld := ⟨.trace, 320, 64, .ro, 0, .const⟩
def MARKS : Fld := ⟨.trace, 384, 32, .ro, 0, .const⟩
def DROPPED : Fld := ⟨.trace, 416, 32, .ro, 0, .const⟩
def LAST_ERROR : Fld := ⟨.trace, 448, 8, .ro, 0, .const⟩
/-- Every field, in ascending order. -/
def fields : List Fld :=
  [ HANDLE, STATE, PENDING_ENABLE, EXPORT_MODE, TRIG_LINK, CLASSES, TRIG_SRC, TRIG_SEV, CONTEXT, ALL_CONTEXTS, OPID_MATCH, OPID_MASK] ++
  [ POST_FILL, CAPTURE, ARM, EXP_BASE, EXP_LOG2, EXP_HEAD, EXP_TAIL, TRIGGER_TIME, MARKS, DROPPED, LAST_ERROR]
end Trace

namespace EvtEnable
/-! R469 -/
def ALL : Fld := ⟨.evtEnable, 0, 12, .rw, 0, .const⟩
/-- Every field, in ascending order. -/
def fields : List Fld := [ ALL]
end EvtEnable

namespace ObsMark
/-! R566 -/
/-- Every field, in ascending order. -/
def fields : List Fld := [ ]
end ObsMark

namespace SecFwBuild
/-! R493 -/
def BUILD : Fld := ⟨.secFwBuild, 0, 64, .ro, 0, .const⟩
/-- Every field, in ascending order. -/
def fields : List Fld := [ BUILD]
end SecFwBuild

namespace SecOpAddr
/-! R495 -/
def ALL : Fld := ⟨.secOpAddr, 0, 64, .rw, 0, .const⟩
/-- Every field, in ascending order. -/
def fields : List Fld := [ ALL]
end SecOpAddr

namespace SecOpLen
/-! R495 -/
def ALL : Fld := ⟨.secOpLen, 0, 64, .rw, 0, .const⟩
/-- Every field, in ascending order. -/
def fields : List Fld := [ ALL]
end SecOpLen

namespace SecOpArg
/-! R495 -/
def ALL : Fld := ⟨.secOpArg, 0, 64, .rw, 0, .const⟩
/-- Every field, in ascending order. -/
def fields : List Fld := [ ALL]
end SecOpArg

namespace CisWritten
/-! R527 -/
def ALL : Fld := ⟨.cisWritten, 0, 64, .ro, 0, .const⟩
/-- Every field, in ascending order. -/
def fields : List Fld := [ ALL]
end CisWritten

namespace CisNand
/-! R527 -/
def ALL : Fld := ⟨.cisNand, 0, 64, .ro, 0, .const⟩
/-- Every field, in ascending order. -/
def fields : List Fld := [ ALL]
end CisNand

namespace CisOp
/-! R529 -/
def OP : Fld := ⟨.cisOp, 0, 4, .rw, 0, .const⟩
def START : Fld := ⟨.cisOp, 4, 1, .wo, 0, .const⟩
def BUSY : Fld := ⟨.cisOp, 5, 1, .ro, 0, .const⟩
def REASON : Fld := ⟨.cisOp, 8, 8, .ro, 0, .const⟩
/-- Every field, in ascending order. -/
def fields : List Fld := [ OP, START, BUSY, REASON]
end CisOp

namespace CisOpAddr
/-! R529 -/
def ALL : Fld := ⟨.cisOpAddr, 0, 64, .rw, 0, .const⟩
/-- Every field, in ascending order. -/
def fields : List Fld := [ ALL]
end CisOpAddr

namespace CisOpLen
/-! R529 -/
def ALL : Fld := ⟨.cisOpLen, 0, 64, .rw, 0, .const⟩
/-- Every field, in ascending order. -/
def fields : List Fld := [ ALL]
end CisOpLen

namespace CisOpArg
/-! R529 -/
def ALL : Fld := ⟨.cisOpArg, 0, 64, .rw, 0, .const⟩
/-- Every field, in ascending order. -/
def fields : List Fld := [ ALL]
end CisOpArg

namespace TbsTime
/-! R554 -/
def ALL : Fld := ⟨.tbsTime, 0, 64, .ro, 0, .const⟩
/-- Every field, in ascending order. -/
def fields : List Fld := [ ALL]
end TbsTime

namespace ColSel
/-! R281 -/
def INDEX : Fld := ⟨.colSel, 0, 16, .rw, 0, .const⟩
def REFRESH : Fld := ⟨.colSel, 16, 1, .wo, 0, .const⟩
/-- Every field, in ascending order. -/
def fields : List Fld := [ INDEX, REFRESH]
end ColSel

namespace ChanSel
/-! R305 -/
def INDEX : Fld := ⟨.chanSel, 0, 16, .rw, 0, .const⟩
def REFRESH : Fld := ⟨.chanSel, 16, 1, .wo, 0, .const⟩
/-- Every field, in ascending order. -/
def fields : List Fld := [ INDEX, REFRESH]
end ChanSel

namespace RoundSel
/-! R318 -/
def INDEX : Fld := ⟨.roundSel, 0, 16, .rw, 0, .const⟩
def REFRESH : Fld := ⟨.roundSel, 16, 1, .wo, 0, .const⟩
/-- Every field, in ascending order. -/
def fields : List Fld := [ INDEX, REFRESH]
end RoundSel

namespace MouldSel
/-! R528 -/
def INDEX : Fld := ⟨.mouldSel, 0, 16, .rw, 0, .const⟩
def REFRESH : Fld := ⟨.mouldSel, 16, 1, .wo, 0, .const⟩
/-- Every field, in ascending order. -/
def fields : List Fld := [ INDEX, REFRESH]
end MouldSel

namespace SampleSel
/-! R561 -/
def INDEX : Fld := ⟨.sampleSel, 0, 16, .rw, 0, .const⟩
def REFRESH : Fld := ⟨.sampleSel, 16, 1, .wo, 0, .const⟩
/-- Every field, in ascending order. -/
def fields : List Fld := [ INDEX, REFRESH]
end SampleSel

namespace Msix
/-! R448 -/
def ADDRESS : Fld := ⟨.msix, 0, 64, .rw, 0, .const⟩
def DATA : Fld := ⟨.msix, 64, 32, .rw, 0, .const⟩
def MASK : Fld := ⟨.msix, 96, 1, .rw, 1, .const⟩
/-- Every field, in ascending order. -/
def fields : List Fld := [ ADDRESS, DATA, MASK]
end Msix

namespace MsixPba
/-! R448 -/
def PENDING : Fld := ⟨.msixPba, 0, 1, .ro, 0, .const⟩
/-- Every field, in ascending order. -/
def fields : List Fld := [ PENDING]
end MsixPba

/-- The fields of a table. -/
def Tab.fields : Tab → List Fld
  | .hubRwlRefused => HubRwlRefused.fields
  | .hubIdent => HubIdent.fields
  | .hubD2d => HubD2d.fields
  | .ctx => Ctx.fields
  | .ctxSel => CtxSel.fields
  | .gauSel => GauSel.fields
  | .gauge => Gau.fields
  | .gauRung => GauRung.fields
  | .census => Census.fields
  | .censusSum => CensusSum.fields
  | .tsqSplit => TsqSplit.fields
  | .bindSel => BindSel.fields
  | .bind => Bind.fields
  | .upuLend => UpuLend.fields
  | .upuAudit => UpuAudit.fields
  | .upuStatus => UpuStatus.fields
  | .chan => Chan.fields
  | .colStep => ColStep.fields
  | .fabArb => FabArb.fields
  | .fabId => FabId.fields
  | .fabRoute => FabRoute.fields
  | .fabPort => FabPort.fields
  | .whdPort => WhdPort.fields
  | .round => Round.fields
  | .partner => Partner.fields
  | .memDev => MemDev.fields
  | .scrub => Scrub.fields
  | .tmvStatus => TmvStatus.fields
  | .part => Part.fields
  | .rasLog => RasLog.fields
  | .rasTest => RasTest.fields
  | .hubLink => HubLink.fields
  | .ring => Ring.fields
  | .evtStatus => Evt.fields
  | .evtCtrl => EvtCtrl.fields
  | .secBoot => SecBoot.fields
  | .secState => SecState.fields
  | .secOp => SecOp.fields
  | .cisStatus => CisStatus.fields
  | .cisCtrl => CisCtrl.fields
  | .cisWear => CisWear.fields
  | .mould => Mould.fields
  | .pwrRegion => PwrRegion.fields
  | .pwrCap => PwrCap.fields
  | .pwrStatus => PwrStatus.fields
  | .pwrInput => PwrInput.fields
  | .tbsStatus => TbsStatus.fields
  | .tileCnt => TileCnt.fields
  | .regionCnt => RegionCnt.fields
  | .dieCnt => DieCnt.fields
  | .moduleCnt => ModuleCnt.fields
  | .sample => Sample.fields
  | .trace => Trace.fields
  | .evtEnable => EvtEnable.fields
  | .obsMark => ObsMark.fields
  | .secFwBuild => SecFwBuild.fields
  | .secOpAddr => SecOpAddr.fields
  | .secOpLen => SecOpLen.fields
  | .secOpArg => SecOpArg.fields
  | .cisWritten => CisWritten.fields
  | .cisNand => CisNand.fields
  | .cisOp => CisOp.fields
  | .cisOpAddr => CisOpAddr.fields
  | .cisOpLen => CisOpLen.fields
  | .cisOpArg => CisOpArg.fields
  | .tbsTime => TbsTime.fields
  | .colSel => ColSel.fields
  | .chanSel => ChanSel.fields
  | .roundSel => RoundSel.fields
  | .mouldSel => MouldSel.fields
  | .sampleSel => SampleSel.fields
  | .msix => Msix.fields
  | .msixPba => MsixPba.fields

end Sys2Proof.Machine
end

