-- ==== Sys2Proof/Machine/Map.lean ====
section
/-!
DEFINITION. Finite maps as lists of key and value pairs, in the order in which the keys were first written: the
plain-data form of every sparse table of the machine. A key that is not listed has the value its reader names.
-/
namespace Sys2Proof.Machine

/-- A finite map. -/
abbrev Map (κ α : Type) := List (κ × α)

variable {κ α : Type} [DecidableEq κ]

/-- The value at a key. -/
def look (k : κ) : Map κ α → Option α
  | [] => none
  | (j, v) :: m => if j = k then some v else look k m

/-- Write a key, keeping its place when it is listed already. -/
def put (k : κ) (v : α) : Map κ α → Map κ α
  | [] => [(k, v)]
  | (j, w) :: m => if j = k then (k, v) :: m else (j, w) :: put k v m

/-- Remove a key. -/
def del (k : κ) (m : Map κ α) : Map κ α := m.filter fun e => decide (e.1 ≠ k)

/-- The value at a key, or a default. -/
def lookD (k : κ) (d : α) (m : Map κ α) : α := (look k m).getD d

end Sys2Proof.Machine
end

