-- ==== Sys2Proof/Syntax.lean ====
section
/-!
DEFINITION. The commands of the block: one constructor of `Instr` for each row of the opcode table, with the
row's operands. A PLZ instruction (12_instruction_reference.md) names the thread that issues it and the fields of
its word or words; an event names the unit it happens to and what it brings from outside; a register row brings
the value written.
-/
namespace Sys2Proof

/-- A hardware thread: module tile number and slot (00, R7; 02, R45). -/
structure ThreadRef where
  tile : BitVec 10
  slot : BitVec 11
  deriving DecidableEq, Repr

/-- The fields of a 64-bit instruction below its opcode (12, R373). -/
structure FormS where
  pe   : Bool
  pn   : Bool
  pi   : BitVec 3
  dst  : BitVec 5
  src1 : BitVec 5
  src2 : BitVec 5
  fn   : BitVec 4
  imm  : BitVec 32
  deriving DecidableEq, Repr

/-- The fields of a 128-bit instruction: word 0 below its opcode, and word 1 whole (12, R374). -/
structure FormE where
  pe  : Bool
  pn  : Bool
  pi  : BitVec 3
  da  : BitVec 4
  db  : BitVec 4
  dc  : BitVec 4
  dd  : BitVec 4
  we  : Bool
  wk  : BitVec 4
  wv  : BitVec 5
  se  : Bool
  sk  : BitVec 4
  gs  : BitVec 5
  gt  : BitVec 5
  sa  : BitVec 5
  sae : Bool
  rsv : BitVec 4
  w1  : Word
  deriving DecidableEq, Repr

/-- A fabric frame: the fields of its flit headers and of its frame header, its body, and for each of its flits
whether the flit carried POISON (09, R286, R289). -/
structure Frame where
  cls      : Nat
  src      : Nat
  dest     : Nat
  channel  : Nat
  op       : Nat
  coded    : Bool
  member   : Nat
  shard    : Nat
  segment  : Nat
  gen      : Nat
  step     : Nat
  attempt  : Nat
  opid     : Nat
  seq      : Nat
  status   : Nat
  srcEpoch : Nat
  dstEpoch : Nat
  body     : List Byte
  poison   : List Bool
  deriving DecidableEq, Repr

/-- A flit (09, R286): its header fields and its valid payload bytes. `IDLE` flits carry nothing. -/
structure Flit where
  cls     : Nat
  poison  : Bool
  first   : Bool
  last    : Bool
  idle    : Bool
  dest    : Nat
  src     : Nat
  channel : Nat
  hops    : Nat
  payload : List Byte
  deriving DecidableEq, Repr

/-- A link block as it arrives (09, R284): the 1,285 bytes that FEC gives, the symbols that FEC corrected and the codewords
that it could not correct. -/
structure LinkBlock where
  bytes         : List Byte
  corrected     : Nat
  uncorrectable : Nat
  deriving DecidableEq, Repr

/-- The header of a WXP packet as it arrives (10, R338). `sound` says that its checksum, MAGIC and VERSION are
right, and `reserved` that a reserved bit of it, or of the fixed fields of its payload, is set (00, R10); `addr` is the source
address and `port` the far port it came by. -/
structure WxpHeader where
  port      : Nat
  addr      : BitVec 128
  sound     : Bool
  reserved  : Bool
  resent    : Bool
  job       : Word
  srcSite   : Nat
  dstSite   : Nat
  srcModule : Nat
  round     : Nat
  seq       : Nat
  txTime    : Nat
  echoTime  : Nat
  echoHold  : Nat
  reason    : Nat
  bytes     : Nat
  deriving DecidableEq, Repr

/-- What names an object that travels in pieces (10, R339). -/
structure ObjectKey where
  kind   : Nat
  origin : Nat
  round  : Nat
  tensor : Nat
  shard  : Nat
  deriving DecidableEq, Repr

/-- A piece header (10, R339). -/
structure PieceHeader where
  kind   : Nat
  origin : Nat
  piece  : Nat
  pieces : Nat
  tensor : Nat
  shard  : Nat
  bytes  : Nat
  digest : Word
  deriving DecidableEq, Repr

/-- What names a fragment within a round (10, R337, R338). -/
structure FragKey where
  origin : Nat
  tensor : Nat
  shard  : Nat
  deriving DecidableEq, Repr

/-- Other frames of a far port (10, R316), and a WXP packet of a reserved TYPE from an address (R338). -/
inductive FarFrame where
  | neighbourRequest | echoRequest | fragment | badChecksum | unknownPort | other
  | reservedType (addr : BitVec 128) (bytes : Nat)
  deriving DecidableEq, Repr

/-- What a controller's read of a line met (11, R354, R356, R358). -/
inductive LineRead where
  /-- Of the 72 bytes that store the line with its check bytes and its poison bit, how many read wrong. -/
  | wrong (bytes : Nat)
  /-- The link ECC of an LPDDR device corrected a transfer (11, R356). -/
  | linkCorrected
  deriving DecidableEq, Repr

/-- A read of a line: by an agent, or by the patrol; and what it met. -/
structure LineVisit where
  demand : Bool
  met    : LineRead
  deriving DecidableEq, Repr

/-- What the checks on the sums of a matrix command find (13, R417 to R419). -/
inductive ProductCheck where
  | agree
  /-- The residue of a block sum differs in a logical column. -/
  | residue (column : Nat)
  /-- By how much the block sums of logical columns are wrong, the four checksum columns being the last, and whether a
  checksum row differs. -/
  | checksum (errors : List (Nat × Int)) (row : Bool)
  deriving DecidableEq, Repr

/-- A unit of the memory tiers that can fail (11, R362). -/
inductive MemUnit where
  | stack (k : Nat)
  | pseudoChannel (stack pc : Nat)
  | lpddr (n : Nat)
  deriving DecidableEq, Repr

/-- What a read of the cistern met in a superblock (16, R512, R513, R516): `weak` that the corrected bits of a codeword
exceeded half of the hard-decision limit. -/
inductive FlashRead where
  | clean | weak | softDecoded | rebuilt | lost
  deriving DecidableEq, Repr

/-- The two IDE streams of the link (14, R445). -/
inductive IdeStream where
  | io | cachemem
  deriving DecidableEq, Repr

/-- A direction of an IDE stream. -/
inductive IdeDir where
  | transmit | receive
  deriving DecidableEq, Repr

/-- A protected item as the receiver finds it (14, R456): whether it carries the key-set change indication and
whether it verifies. -/
structure IdeItem where
  change : Bool
  passes : Bool
  deriving DecidableEq, Repr

/-- The transport and requester an SPDM request came by, and the session it lies in (0: none) (15, R503). -/
structure SpdmRef where
  doe     : Bool
  session : Nat
  deriving DecidableEq, Repr

/-- What a debug probe asks for (15, R500). -/
inductive DebugRequest where
  | halt | resume | step
  | readMemory (addr : Nat)
  | writeMemory (addr : Nat) (v : Byte)
  | scan (die : Nat)
  | store (addr : Nat)
  deriving DecidableEq, Repr

/-- An HDM decoder as the host commits it (14, R450). -/
structure HdmDecoder where
  base : Nat
  size : Nat
  ways : Nat
  deriving DecidableEq, Repr

/-- The commands: every row of the opcode table. -/
inductive Instr where
  /-- IADD, R385: Thread computes a 64-bit add, subtract or multiply into g[DST]. -/
  | iadd (t : ThreadRef) (f : FormS)
  /-- ILOGIC, R385: Thread computes a bitwise logic operation into g[DST]. -/
  | ilogic (t : ThreadRef) (f : FormS)
  /-- ISHIFT, R385: Thread shifts or rotates a register by a count modulo 64. -/
  | ishift (t : ThreadRef) (f : FormS)
  /-- ICMP, R385: Thread compares two integers and writes a predicate. -/
  | icmp (t : ThreadRef) (f : FormS)
  /-- IMOVI, R385: Thread moves an immediate into all or the high half of a register. -/
  | imovi (t : ThreadRef) (f : FormS)
  /-- PLOGIC, R385: Thread combines predicates or copies a register bit into a predicate. -/
  | plogic (t : ThreadRef) (f : FormS)
  /-- F32, R386: Thread performs an FP32 scalar operation with nearest-even rounding. -/
  | f32 (t : ThreadRef) (f : FormS)
  /-- F64, R386: Thread performs an FP64 scalar operation with nearest-even rounding. -/
  | f64 (t : ThreadRef) (f : FormS)
  /-- FCVT, R386: Thread converts between FP32, FP64 and INT64. -/
  | fcvt (t : ThreadRef) (f : FormS)
  /-- MOVS, R387: Thread reads or writes OPID, CTXID, STEP or ATTEMPT. -/
  | movs (t : ThreadRef) (f : FormS)
  /-- BR, R388: Thread branches relative to its own address. -/
  | br (t : ThreadRef) (f : FormS)
  /-- JMP, R388: Thread branches to the address in a register. -/
  | jmp (t : ThreadRef) (f : FormS)
  /-- CALL, R388: Thread saves the return address and branches relative. -/
  | call (t : ThreadRef) (f : FormS)
  /-- EXIT, R48: Thread ends; queued commands are discarded and started ones run on. -/
  | exit (t : ThreadRef) (f : FormS)
  /-- TSPAWN, R389: Thread reads a launch descriptor and asks the hub to launch threads of its own context. -/
  | tspawn (t : ThreadRef) (f : FormS)
  /-- SGATE, R390: Thread posts its own flags and waits at the step gate of its carried attempt. -/
  | sgate (t : ThreadRef) (f : FormS)
  /-- LD, R391: Thread loads 1 to 8 bytes into a register. -/
  | ld (t : ThreadRef) (f : FormS)
  /-- ST, R391: Thread stores 1 to 8 bytes of a register. -/
  | st (t : ThreadRef) (f : FormS)
  /-- FENCE, R78: Thread waits until its earlier scalar writes are visible within the named scope. -/
  | fence (t : ThreadRef) (f : FormS)
  /-- AADD, R392: Atomic add on an aligned 64-bit word returning the old value. -/
  | aadd (t : ThreadRef) (f : FormS)
  /-- AMIN, R392: Atomic signed minimum on an aligned 64-bit word. -/
  | amin (t : ThreadRef) (f : FormS)
  /-- AMAX, R392: Atomic signed maximum on an aligned 64-bit word. -/
  | amax (t : ThreadRef) (f : FormS)
  /-- ASWAP, R392: Atomic swap on an aligned 64-bit word. -/
  | aswap (t : ThreadRef) (f : FormS)
  /-- ACAS, R392: Atomic compare-and-swap on an aligned 64-bit word. -/
  | acas (t : ThreadRef) (f : FormS)
  /-- DLOAD, R393: Thread loads a 32-byte tensor descriptor from memory. -/
  | dload (t : ThreadRef) (f : FormS)
  /-- DSAVE, R393: Thread stores a tensor descriptor to memory. -/
  | dsave (t : ThreadRef) (f : FormS)
  /-- DSETF, R393: Thread writes one field of a descriptor register. -/
  | dsetf (t : ThreadRef) (f : FormS)
  /-- DGETF, R393: Thread reads one field of a descriptor register. -/
  | dgetf (t : ThreadRef) (f : FormS)
  /-- DCOPY, R393: Thread copies one descriptor register to another. -/
  | dcopy (t : ThreadRef) (f : FormS)
  /-- TWAIT, R73: Thread waits until a token counter reaches a value. -/
  | twait (t : ThreadRef) (f : FormS)
  /-- TPOST, R74: Thread adds to a token counter of another thread of its context. -/
  | tpost (t : ThreadRef) (f : FormS)
  /-- TSET, R394: Thread writes a token counter. -/
  | tset (t : ThreadRef) (f : FormS)
  /-- TGET, R394: Thread reads a token counter. -/
  | tget (t : ThreadRef) (f : FormS)
  /-- MMA, R395: Thread issues a matrix product command to its tile's array. -/
  | mma (t : ThreadRef) (e : FormE)
  /-- TBUILD, R398: Thread issues a command that builds a code table image from a census. -/
  | tbuild (t : ThreadRef) (e : FormE)
  /-- TLOAD, R399: Thread issues a command that loads a table image into a coding slot. -/
  | tload (t : ThreadRef) (e : FormE)
  /-- VACT, R400: Thread issues a vector activation command, optionally writing a branch bitmap. -/
  | vact (t : ThreadRef) (e : FormE)
  /-- VACTB, R205: Thread issues an activation derivative command. -/
  | vactb (t : ThreadRef) (e : FormE)
  /-- VEW, R401: Thread issues an elementwise vector command. -/
  | vew (t : ThreadRef) (e : FormE)
  /-- RNORM_F, R191: Thread issues a normalisation forward row command. -/
  | rnormF (t : ThreadRef) (e : FormE)
  /-- RNORM_B, R192: Thread issues a normalisation backward row command. -/
  | rnormB (t : ThreadRef) (e : FormE)
  /-- RSMAX_F, R193: Thread issues a soft-maximum forward row command. -/
  | rsmaxF (t : ThreadRef) (e : FormE)
  /-- RSMAX_B, R195: Thread issues a soft-maximum backward row command. -/
  | rsmaxB (t : ThreadRef) (e : FormE)
  /-- RMERGE, R196: Thread issues a merge of a partial soft-maximum row into a running row. -/
  | rmerge (t : ThreadRef) (e : FormE)
  /-- RSTAT, R201: Thread issues a recomputation of statistics records from saved input. -/
  | rstat (t : ThreadRef) (e : FormE)
  /-- CMOVE, R403: Thread issues a cluster mover copy. -/
  | cmove (t : ThreadRef) (e : FormE)
  /-- TMOVE, R404: Thread issues a tier mover copy with optional conversion. -/
  | tmove (t : ThreadRef) (e : FormE)
  /-- CGATHER, R405: Thread issues a gather of shard working copies on a channel. -/
  | cgather (t : ThreadRef) (e : FormE)
  /-- CREDUCE, R407: Thread issues a reduction contribution on a channel. -/
  | creduce (t : ThreadRef) (e : FormE)
  /-- CSHIFT, R408: Thread issues a shift of a buffer around the channel members. -/
  | cshift (t : ThreadRef) (e : FormE)
  /-- CSEND, R279: Thread issues a point-to-point send to a member. -/
  | csend (t : ThreadRef) (e : FormE)
  /-- CRECV, R279: Thread names a buffer for the next transfer from a member. -/
  | crecv (t : ThreadRef) (e : FormE)
  /-- UAPPLY, R223: Thread requests update of shards at the gate of its carried attempt. -/
  | uapply (t : ThreadRef) (e : FormE)
  /-- UPREFETCH, R228: Thread hints the update units to stage shard state. -/
  | uprefetch (t : ThreadRef) (e : FormE)
  /-- UCAST, R410: Level-1 thread requests a cast of a context. -/
  | ucast (t : ThreadRef) (e : FormE)
  /-- GREAD, R411: Thread reads one field of a gauge entry of its context. -/
  | gread (t : ThreadRef) (f : FormS)
  /-- GRUNG, R411: Thread reads its context's current rung. -/
  | grung (t : ThreadRef) (f : FormS)
  /-- XSTAT, R412: Thread reads ROUND, APPLIED or STATE of its context's round engine binding. -/
  | xstat (t : ThreadRef) (f : FormS)
  /-- SYSRD, R413: Level-1 thread reads a BAR0 register. -/
  | sysrd (t : ThreadRef) (f : FormS)
  /-- SYSWR, R413: Level-1 thread writes a BAR0 register. -/
  | syswr (t : ThreadRef) (f : FormS)
  /-- FWCALL, R413: Level-2 firmware passes arguments to a firmware service; threads fault. -/
  | fwcall (t : ThreadRef) (f : FormS)
  /-- QUEUE_ACCEPT, R379: An engine queue with room accepts the command of a BLOCKED thread, which becomes READY. -/
  | queueAccept (t : ThreadRef)
  /-- ENGINE_COMMAND_START, R71: An engine starts a queued command once its token wait is met and earlier commands have started. -/
  | engineCommandStart (id : Nat)
  /-- ENGINE_COMMAND_COMPLETE, R72: An engine completes a command, writes status and record, and signals its token. -/
  | engineCommandComplete (id : Nat) (found : ProductCheck)
  /-- HANDSHAKE_TIMEOUT, R33: A request held over 2 µs without acknowledge quiesces the region and requests a partition reset. -/
  | handshakeTimeout (region unit : Nat)
  /-- LAUNCH_ADMIT, R49: The hub checks a launch and admits or refuses it whole. -/
  | launchAdmit
  /-- LAUNCH_TILE_ARRIVAL, R51: An admitted launch reaches a tile, looks up the context cache and allocates slots. -/
  | launchTileArrival (tile : Nat)
  /-- CONTEXT_CACHE_FILL, R64: A missed context entry arrives from the hub, is pinned, and the threads become READY. -/
  | contextCacheFill (tile : Nat)
  /-- STEP_GATE_DECIDE, R17: A partition's gate is decided, combining flags and moving each taking-part context's counters. -/
  | stepGateDecide (part : Nat)
  /-- STATE_FETCH, R227: The update unit stages a shard's master and moments once its gradient is parked. -/
  | stateFetch (bind shard : Nat)
  /-- UPDATE_RULE_RUN, R230: After a passing gate the update unit runs the bound rule on a ready shard. -/
  | updateRuleRun (bind shard : Nat)
  /-- SHARD_COMMIT, R239: The update unit writes the shard's new state and working slot and publishes a generation. -/
  | shardCommit (bind shard : Nat)
  /-- MASTER_CORRECTION_COMMIT, R331: The update unit commits the outer master correction as its own commit. -/
  | masterCorrectionCommit (bind shard : Nat)
  /-- DRIFT_AUDIT, R245: After a phase's commits each unit re-derives sampled working slots and repairs mismatches. -/
  | driftAudit (region : Nat)
  /-- ROOT_JOB_START, R233: A KRON root job starts from the factors committed at its step. -/
  | rootJobStart (bind shard : Nat)
  /-- ROOT_JOB_DONE, R234: A root job finishes and leaves its roots in the root pool for installation. -/
  | rootJobDone (bind shard : Nat)
  /-- CAST_COMPLETE, R250: A cast has read all records and writes its manifest. -/
  | castComplete (ctx : Nat)
  /-- SUMP_WRITE, R226: The collective engine writes a reduced gradient into the sump when room exists. -/
  | sumpWrite (region : Nat)
  /-- GATHER_SERVE, R259: The owner reads a working slot and sends the copy once staleness allows. -/
  | gatherServe (chan member shard : Nat)
  /-- CONTRIBUTION_LINE_GRANT, R267: A contribution waiting for accumulator lines receives them and is added. -/
  | contributionLineGrant (die : Nat)
  /-- REDUCTION_DEADLINE, R268: At T0 plus DEADLINE segment 0 closes with the fresh contributions present. -/
  | reductionDeadline (chan shard : Nat)
  /-- REDUCTION_ABANDON, R269: A reduction unclosed at T0 plus ABANDON is lost. -/
  | reductionAbandon (chan shard : Nat)
  /-- LEASE_TIMEOUT, R263: An owner drops a lease held for LEASE_TIMEOUT seconds. -/
  | leaseTimeout (chan member shard gen : Nat)
  /-- CONTRIB_UNACCEPTED, R276: A contribution not accepted within ABANDON is lost and sets the non-finite flag. -/
  | contribUnaccepted (id shard : Nat)
  /-- GATHER_TIMEOUT, R276: A gathered shard with no answer within ABANDON completes with reason 0x2C. -/
  | gatherTimeout (id shard : Nat)
  /-- GATHER_REQ, R259: An owner receives a gather request frame. -/
  | gatherReq (f : Frame)
  /-- GATHER_DATA, R405: A requester receives gathered shard data or a refusal. -/
  | gatherData (f : Frame)
  /-- LEASE_RELEASE, R262: An owner receives a lease release frame. -/
  | leaseRelease (f : Frame)
  /-- CONTRIBUTION, R265: An owner receives a reduction contribution and adds it exactly, carries or discards it. -/
  | contribution (f : Frame)
  /-- SHIFT, R277: A member receives a CSHIFT buffer into its destination. -/
  | shift (f : Frame)
  /-- SEND, R279: A member receives a CSEND transfer matched to a CRECV. -/
  | send (f : Frame)
  /-- GRANT, R294: A sender receives an end-to-end window grant. -/
  | grant (f : Frame)
  /-- HELLO, R308: A member receives a channel HELLO and updates epochs and channel state. -/
  | hello (f : Frame)
  /-- REJECT, R309: A sender receives a REJECT and counts it. -/
  | reject (f : Frame)
  /-- TOKEN_POST, R74: A tile receives a remote token post and adds to the slot's counter or drops it. -/
  | tokenPost (f : Frame)
  /-- GATE_FLAGS, R275: A member receives another member's gate flags for a joined channel. -/
  | gateFlags (f : Frame)
  /-- DIGEST, R427: Half A receives a pair-mode digest and compares it. -/
  | digest (f : Frame)
  /-- BULK, R290: A receiver takes a background bulk frame. -/
  | bulk (f : Frame)
  /-- C0_ADMIT, R295: A source's policer admits a waiting C0 frame when its bucket refills. -/
  | c0Admit (source : Nat)
  /-- FLIT_TRANSMIT, R292: At a flit boundary a port sends the next flit by class priority when it holds a credit. -/
  | flitTransmit (port : Nat)
  /-- LINK_BLOCK_RECEIVE, R312: A port receives a link block, checks it, returns credits and acks, and delivers or forwards flits. -/
  | linkBlockReceive (port : Nat) (b : LinkBlock)
  /-- LINK_ACK_TIMEOUT, R312: With no new ACK for 2 µs the sender resends every unacknowledged block. -/
  | linkAckTimeout (port : Nat)
  /-- PORT_TRAINING_DONE, R311: Port training ends at the widest trained width or DOWN, and flows reselect. -/
  | portTrainingDone (port : Nat) (lanes polarity : BitVec 4) (reversed : Bool)
  /-- FRAME_SEQ_TIMEOUT, R302: A missing frame not arrived within 100 µs is skipped and recorded as a gap. -/
  | frameSeqTimeout (src chan cls : Nat)
  /-- CHANNEL_HELLO_TIMEOUT, R307: A channel lacking a HELLO 10 s after enable enters FAULT. -/
  | channelHelloTimeout (chan : Nat)
  /-- D2D_LINK_DOWN, R42: A neighbour link goes down and its traffic is detoured. -/
  | d2dLinkDown (link : Nat)
  /-- D2D_LINK_DEGRADED, R44: A die-to-die link drops to half width and writes a link record. -/
  | d2dLinkDegraded (link : Nat)
  /-- HUB_LINK_DOWN, R43: A hub link goes down and its die is retired. -/
  | hubLinkDown (die : Nat)
  /-- WXP_HELLO, R344: The wellhead receives a WXP HELLO and checks its configuration digest. -/
  | wxpHello (p : WxpHeader) (digest sites : Word)
  /-- PIECE, R341: The wellhead receives a piece of a fragment, ledger, seed or cast object. -/
  | piece (p : WxpHeader) (h : PieceHeader) (data : List Byte)
  /-- PIECE_ACK, R341: The wellhead receives a piece acknowledgement bitmap and updates timers. -/
  | pieceAck (p : WxpHeader) (o : ObjectKey) (nak : Bool) (bitmap : List Bool)
  /-- LEDGER_REQ, R333: A site holding the ledger answers a ledger request. -/
  | ledgerReq (p : WxpHeader)
  /-- FETCH, R344: The wellhead answers a fetch with pieces from its store. -/
  | fetch (p : WxpHeader) (entries : List FragKey)
  /-- APPLIED, R334: The wellhead receives a partner's applied digest and checks for ledger conflict. -/
  | applied (p : WxpHeader) (digest : Word) (attempt : Nat)
  /-- JOIN, R346: A seeder receives a JOIN and streams seed records or answers STATUS. -/
  | join (p : WxpHeader) (digest : Word)
  /-- HEARTBEAT, R343: The wellhead receives a heartbeat and keeps the partner UP. -/
  | heartbeat (p : WxpHeader)
  /-- STATUS, R338: The wellhead receives a STATUS carrying a reason code. -/
  | status (p : WxpHeader)
  /-- PACED_SEND, R343: The wellhead sends the next packet to a partner as its pace bucket allows. -/
  | pacedSend (site : Nat)
  /-- PIECE_RESEND_TIMEOUT, R341: Unacknowledged pieces are resent after RTO and the object's RTO doubles. -/
  | pieceResendTimeout (site : Nat) (o : ObjectKey)
  /-- PIECE_ACK_TIMER, R341: An acknowledgement is sent 2 ms after an object's last change. -/
  | pieceAckTimer (site : Nat) (o : ObjectKey)
  /-- HEARTBEAT_TIMER, R343: A heartbeat is sent to a partner idle for 100 ms. -/
  | heartbeatTimer (site : Nat)
  /-- PARTNER_SILENT, R343: A partner silent for 30 s becomes SILENT with a record. -/
  | partnerSilent (site : Nat)
  /-- FETCH_TIMEOUT, R345: An unanswered fetch is repeated and after 16 repeats the binding faults. -/
  | fetchTimeout (bind : Nat)
  /-- JOIN_RESEND, R346: A joiner resends its JOIN after RTO or after a refusal. -/
  | joinResend (bind : Nat)
  /-- FAR_PORT_CONTROL_FRAME, R316: A far port answers neighbour resolution or echo, or discards fragments and unknown traffic. -/
  | farPortControlFrame (port : Nat) (k : FarFrame)
  /-- PTP_EVENT_MESSAGE, R349: A far port time-stamps a PTP message and the PTP clock corrects the time base. -/
  | ptpEventMessage (port : Nat) (correction : Int) (locked : Bool)
  /-- MEM_PATROL_READ, R360: A controller's patrol reads a line, correcting or poisoning it; or, where `r` is a demand,
  an agent's read of the line, or the read of a write of part of it, meets what `r` says (R357, R358; log 122). -/
  | memPatrolRead (addr : Nat) (r : LineVisit)
  /-- MEM_DEVICE_FAILED, R362: A stack, pseudo-channel or device stops answering and is marked FAILED. -/
  | memDeviceFailed (u : MemUnit)
  /-- AUDIT_BAND_RUN, R422: An audit tile recomputes a sampled band and compares CRC-64 values. -/
  | auditBandRun (tile : Nat) (agree : Bool)
  /-- PAIR_TIMEOUT, R427: A pair digest missing 100 µs after half A's writes a record and strikes; from 1,024 on, `tile`
  names the update unit of a region (log 30). -/
  | pairTimeout (tile number : Nat)
  /-- COLUMN_TEST, R441: A scheduled column test of a tile starts when its partition is OFF. -/
  | columnTest (tile : Nat)
  /-- COLUMN_TEST_DONE, R441: A column test ends, bypassing failed columns or retiring the tile. -/
  | columnTestDone (tile : Nat) (failed : Word)
  /-- LAUNCH, R463: Ring command that launches threads with a launch descriptor. -/
  | launch (ring : Nat)
  /-- NOP, R463: Ring command that does nothing, optionally fencing earlier commands. -/
  | nop (ring : Nat)
  /-- CREATE, R476: Ring command that allocates an index of a kind and returns its handle. -/
  | create (ring : Nat)
  /-- ENABLE, R472: Ring command that enables a function according to its state. -/
  | enable (ring : Nat)
  /-- DISABLE, R472: Ring command that disables a function according to its state. -/
  | disable (ring : Nat)
  /-- DESTROY, R68: Ring command that destroys an OFF, unbound object and advances its generation. -/
  | destroy (ring : Nat)
  /-- CAST, R463: Level-1 ring command that requests a cast. -/
  | cast (ring : Nat)
  /-- FUNCTION_START_DONE, R471: A function's STARTING work completes and it enters ON. -/
  | functionStartDone (kind index : Nat)
  /-- START_ABORT, R474: An aborted start stops at its next consistent point and goes to STOPPING. -/
  | startAbort (kind index : Nat)
  /-- FUNCTION_STOP_DONE, R473: A function reaches OFF and any latched enable runs. -/
  | functionStopDone (kind index : Nat)
  /-- RING_COMMAND_TAKE, R464: The hub takes the next command from a ring round-robin. -/
  | ringCommandTake
  /-- COMPLETION_POST, R466: The hub posts a completion entry when the completion ring has room. -/
  | completionPost (ring : Nat)
  /-- FUNCTION_EVENT_POST, R470: A queued function event is posted to the event ring or dropped when the queue is full. -/
  | functionEventPost
  /-- INTERRUPT_MODERATION_TIMEOUT, R468: MOD_TIME after the first unsignalled entry the ring's vector fires. -/
  | interruptModerationTimeout (ring : Nat)
  /-- RING_ENABLE, R461: Write of RING ENABLE checks and starts a command ring. -/
  | ringEnable (ring : Nat)
  /-- RING_DISABLE, R461: Write of RING DISABLE stops a command ring. -/
  | ringDisable (ring : Nat)
  /-- CMD_TAIL_DOORBELL, R467: Doorbell write sets CMD_TAIL or is refused. -/
  | cmdTailDoorbell (ring : Nat) (v : Half)
  /-- CPL_HEAD_DOORBELL, R467: Doorbell write sets CPL_HEAD or is refused. -/
  | cplHeadDoorbell (ring : Nat) (v : Half)
  /-- HUB_EVT_STATUS_WRITE, R469: Clearing event bits, resending the message while any enabled bit stays set. -/
  | hubEvtStatusWrite (v : Word)
  /-- HUB_EVT_CTRL_READ, R470: A host read of HUB_EVT_CTRL returns and clears DROPPED. -/
  | hubEvtCtrlRead
  /-- HUB_RWL_REFUSED_READ, R583: A host read returns and clears COUNT and LAST_REFUSED. -/
  | hubRwlRefusedRead
  /-- REGISTER_WRITE, R11: A write to a register or window with no row of its own, with RWL fields refused when not OFF. -/
  | registerWrite (off width : Nat) (v : Word)
  /-- TSQ_CTX_SEL, R62: Write of INDEX or REFRESH takes a snapshot of a context entry. -/
  | tsqCtxSel (v : Word)
  /-- GAU_SEL, R115: Write takes a snapshot of a gauge entry. -/
  | gauSel (v : Word)
  /-- UPU_BIND_SEL, R215: Write takes a snapshot of a rule binding entry. -/
  | upuBindSel (v : Word)
  /-- COL_STEP_SEL, R281: Write takes a snapshot of a context's step record. -/
  | colStepSel (v : Word)
  /-- FAB_CHAN_SEL, R305: Write takes a snapshot of a channel entry. -/
  | fabChanSel (v : Word)
  /-- WHD_ROUND_SEL, R318: Write takes a snapshot of a round engine binding. -/
  | whdRoundSel (v : Word)
  /-- CIS_MOULD_SEL, R528: Write takes a snapshot of a mould table entry. -/
  | cisMouldSel (v : Word)
  /-- OBS_SAMPLE_SEL, R561: Write takes a snapshot of a sampling session entry. -/
  | obsSampleSel (v : Word)
  /-- CLEAR_HISTORY, R116: Write of CLEAR_HISTORY empties a gauge history now or at the next gate. -/
  | clearHistory (entry : Nat)
  /-- GAU_RUNG_SET, R120: Write of SET sets a context's rung, pending until its gate, or is refused. -/
  | gauRungSet (v : Word)
  /-- RAS_PART_RESET, R435: Write of RESET requests a partition reset or is refused. -/
  | rasPartReset (part : Nat)
  /-- RAS_TEST_START, R442: Write of START begins a column test of a tile or is refused. -/
  | rasTestStart (v : Word)
  /-- RAS_LOG_TAIL_WRITE, R440: Host advances TAIL of the error record ring, freeing entries. -/
  | rasLogTailWrite (v : BitVec 16)
  /-- FAB_PORT_RETRAIN, R315: Write of RETRAIN retrains a fabric port. -/
  | fabPortRetrain (port : Nat)
  /-- FAB_PORT_DISABLE, R314: Write of DISABLE takes a port out of service or returns it. -/
  | fabPortDisable (port : Nat) (v : Bool)
  /-- PWR_REGION_STOP, R541: Write of STOP removes or restores a region's supply. -/
  | pwrRegionStop (region : Nat) (v : Bool)
  /-- PWR_REGION_CGATE, R542: Write of CGATE gates or ungates clusters of a region. -/
  | pwrRegionCgate (region : Nat) (mask : Byte)
  /-- PWR_INPUT_READ, R549: A host read of PWR_INPUT returns and clears PEAK. -/
  | pwrInputRead
  /-- TBS_ADJ, R553: Write adds a signed correction to the time base's pending correction. -/
  | tbsAdj (v : Word)
  /-- OBS_MARK_TRIGGER, R566: Write of bits [3:0] triggers the selected trace sessions. -/
  | obsMarkTrigger (mask : BitVec 4)
  /-- HOST_MARK, R566: Write of bit [4] writes a HOST_MARK record into session 0. -/
  | hostMark (v : Half)
  /-- TRACE_ARM, R568: Write of ARM re-arms a frozen or done trace session. -/
  | traceArm (session : Nat)
  /-- LINKED_TRIGGER, R567: A linked session receives another session's trigger within 1 µs. -/
  | linkedTrigger (session source : Nat)
  /-- TRACE_EXPORT, R570: The exporter copies trace records into the export ring as room and reach allow. -/
  | traceExport (session : Nat)
  /-- SAMPLE_PERIOD_END, R564: At a period end the collector writes or merges a sample record. -/
  | samplePeriodEnd (session : Nat)
  /-- FW_UPDATE, R492: SEC operation that reads, verifies and writes a firmware image. -/
  | fwUpdate
  /-- CFG_WRITE, R508: SEC operation that validates and writes the configuration block. -/
  | cfgWrite
  /-- CFG_ERASE, R496: SEC operation that writes a valid block with no entries. -/
  | cfgErase
  /-- DEBUG_UNLOCK, R500: SEC operation needing presence that unlocks debug until reset. -/
  | debugUnlock
  /-- RAISE_FLOOR, R497: SEC operation needing presence that burns SVN_FLOOR fuses. -/
  | raiseFloor
  /-- REKEY, R497: SEC operation needing presence that advances EPOCH and derives a new key. -/
  | rekey
  /-- FACTORY_RESTORE, R497: SEC operation needing presence that discards configuration, slot 1 and moulds. -/
  | factoryRestore
  /-- SEC_OP_COMPLETE, R496: A SEC operation completes, clearing BUSY and setting REASON. -/
  | secOpComplete
  /-- MOULD_READ, R529: Cistern operation that copies a mould out and checks its digests. -/
  | mouldRead
  /-- MOULD_WRITE, R529: Cistern operation that writes a cast from device memory as a mould. -/
  | mouldWrite
  /-- MOULD_DELETE, R529: Cistern operation that erases a committed or damaged mould. -/
  | mouldDelete
  /-- CIS_OP_COMPLETE, R529: A cistern operation completes, clearing BUSY and setting REASON. -/
  | cisOpComplete
  /-- MOULD_COMMIT, R520: After the manifest is programmed the commit record is written and older moulds deleted. -/
  | mouldCommit (mould : Nat)
  /-- CIS_PATROL, R516: The cistern patrol reads programmed pages over its period; or a MOULD_READ that runs reads a superblock
  of its mould, and meets what `r` says (R512, R513; log 130). -/
  | cisPatrol (sb : Nat) (r : FlashRead)
  /-- CIS_RELOCATE, R516: A superblock is relocated verbatim after errors or read disturb. -/
  | cisRelocate (sb : Nat)
  /-- CIS_WEAR_LEVEL, R515: Data of the least-worn used superblock moves to the most-worn free one. -/
  | cisWearLevel
  /-- CIS_BLOCK_RETIRED, R514: A block failing erase or program is retired and replaced. -/
  | cisBlockRetired (sb channel : Nat)
  /-- CIS_CHANNEL_LOST, R523: Loss of a channel or both journals puts the cistern in FAILED. -/
  | cisChannelLost (channel : Option Nat)
  /-- POWER_GOOD, R536: Input stable in range for 20 ms causes a module reset and starts boot. -/
  | powerGood
  /-- IDENTITY_KEY_DERIVED, R501: Background derivation of a missing identity key completes and it is wrapped. -/
  | identityKeyDerived
  /-- PERST_N_ASSERT, R481: A PERST_N assertion of 1 µs or longer after power-good resets the module. -/
  | perstNAssert (long : Bool)
  /-- PERST_N_DEASSERT, R483: PERST_N release lets the CXL link train. -/
  | perstNDeassert
  /-- HOST_LINK_TRAINED, R446: The host link trains at its widest width and highest speed. -/
  | hostLinkTrained (width speed : Nat)
  /-- HOST_LINK_DOWN, R446: Loss of the host link discards IDE keys and holds completions. -/
  | hostLinkDown
  /-- HOST_LINK_DEGRADED, R446: A change of link width or speed after training writes a record. -/
  | hostLinkDegraded (width speed : Nat)
  /-- HDM_READ, R452: The host reads a device line through CXL.mem, with poison. -/
  | hdmRead (addr : Nat)
  /-- HDM_WRITE, R451: The host writes a device line through CXL.mem, tracked by the snoop filter. -/
  | hdmWrite (addr : Nat) (data : List Byte) (poison cached : Bool)
  /-- CXL_ITEM_RECEIVE, R456: The module receives a protected CXL item and checks it under IDE. -/
  | cxlItemReceive (st : IdeStream) (item : IdeItem)
  /-- KEY_PROG, R454: IDE_KM request that programs a key set into the free slot. -/
  | keyProg (st : IdeStream) (d : IdeDir) (slot : Bool)
  /-- K_SET_GO, R455: IDE_KM request that starts a transmit key switch. -/
  | kSetGo (st : IdeStream) (d : IdeDir)
  /-- IDE_KEY_SWITCH, R455: Once the retry buffer holds no current-key item, the transmitter switches keys. -/
  | ideKeySwitch (st : IdeStream)
  /-- GET_VERSION, R503: SPDM request for supported versions. -/
  | getVersion (q : SpdmRef)
  /-- GET_CAPABILITIES, R503: SPDM request for capabilities. -/
  | getCapabilities (q : SpdmRef)
  /-- NEGOTIATE_ALGORITHMS, R503: SPDM request negotiating algorithms. -/
  | negotiateAlgorithms (q : SpdmRef) (version : Nat) (supported : Bool)
  /-- GET_DIGESTS, R503: SPDM request for certificate chain digests. -/
  | getDigests (q : SpdmRef)
  /-- GET_CERTIFICATE, R502: SPDM request for a certificate chain. -/
  | getCertificate (q : SpdmRef) (slot offset len : Nat)
  /-- CHALLENGE, R503: SPDM challenge signed with the identity key. -/
  | challenge (q : SpdmRef) (slot : Nat) (nonce : List Byte)
  /-- GET_MEASUREMENTS, R504: SPDM request returning the measurement blocks. -/
  | getMeasurements (q : SpdmRef) (index : Nat) (signed : Bool) (nonce : List Byte)
  /-- KEY_EXCHANGE, R503: SPDM request opening a secure session. -/
  | keyExchange (q : SpdmRef) (session : Nat) (ok : Bool)
  /-- FINISH, R503: SPDM request completing session establishment. -/
  | finish (q : SpdmRef) (session : Nat) (ok : Bool)
  /-- SPDM_HEARTBEAT, R503: SPDM session heartbeat. -/
  | spdmHeartbeat (q : SpdmRef) (session : Nat)
  /-- KEY_UPDATE, R503: SPDM request updating session keys. -/
  | keyUpdate (q : SpdmRef) (session : Nat)
  /-- END_SESSION, R503: SPDM request ending a session. -/
  | endSession (q : SpdmRef) (session : Nat)
  /-- SET_CERTIFICATE, R502: SPDM request installing a chain in slot 1 under presence. -/
  | setCertificate (q : SpdmRef) (slot : Nat) (chain : List Byte)
  /-- INPUT_BAND_CHANGE, R535: The input enters or leaves a flagged band. -/
  | inputBandChange (mv : Nat)
  /-- POWER_FAIL, R537: Input below 34 V stops compute and runs hold-up for the cistern. -/
  | powerFail (mv : Nat)
  /-- OVER_VOLTAGE_STOP, R535: Input above 46 V for 1 µs stops the module as at a power fail. -/
  | overVoltageStop (mv : Nat)
  /-- THERMTRIP, R548: A junction at 110 °C asserts THERMTRIP_N and stops the module. -/
  | thermtrip
  /-- CAP_TICK, R544: Every 100 µs the power manager moves the cap ceiling against CAP_W. -/
  | capTick (power : Nat)
  /-- CAP_UNMET, R544: The cap ceiling at 560 mV for 10 ms sets CAP_UNMET. -/
  | capUnmet
  /-- THERMAL_TICK, R546: The power manager lowers or raises a region's thermal ceiling. -/
  | thermalTick (region tj : Nat)
  /-- RAIL_STEP, R539: A region's rail moves one 5 mV step toward its applied voltage. -/
  | railStep (region : Nat)
  /-- REF_LOST, R552: No reference edge for 1 µs switches the time base to the internal oscillator. -/
  | refLost
  /-- REF_RETURN, R552: The reference returns and REF_LOST clears without a step. -/
  | refReturn
  /-- PRESENCE_ASSERT, R498: PRES_N held low for 50 ms opens the presence window. -/
  | presenceAssert
  /-- PRESENCE_WINDOW_EXPIRE, R498: The presence window closes 30 s after deassertion. -/
  | presenceWindowExpire
  /-- SEAL_BROKEN, R499: A seal open for 1 ms burns the seal fuse and writes a record. -/
  | sealBroken
  /-- BOOT_ORDER_COMPLETE, R483: An order of the boot sequence completes, advancing SEC_BOOT.STAGE, entering host-load state at order 4 or setting READY at order 10. -/
  | bootOrderComplete (order : Nat)
  /-- PARTITION_RESET_END, R435: A partition reset reaches its last order, resetting its regions and putting its contexts and itself into FAULT within 50 ms. -/
  | partitionResetEnd (part : Nat)
  /-- HOLD_UP_END, R530: After the cistern finishes its programs and torn mark, the hub die stops at the end of hold-up. -/
  | holdUpEnd
  /-- MOULD_ERASE_DONE, R529: A mould in ERASING, or the superblocks of a discarded mould, finish erasing and the table entry becomes FREE. -/
  | mouldEraseDone (mould : Nat)
  /-- TBS_SLEW_DONE, R553: The pending time-base correction is spent, SLEWING clears and CHANGED and HUB_EVT_STATUS.POWER are set. -/
  | tbsSlewDone
  /-- PRESENCE_DEASSERT, R498: PRES_N is released and the 30 s presence timer starts from that moment. -/
  | presenceDeassert
  /-- FAR_PORT_LINK_CHANGE, R317: A far port's Ethernet link goes up or down and LINK_UP changes. -/
  | farPortLinkChange (port : Nat) (up : Bool)
  /-- DEBUG_ACCESS, R500: A debug request through the service header halts, steps or accesses the control processors, or does deep debug, as debug access allows. -/
  | debugAccess (r : DebugRequest)
  /-- DEBUG_HALT, R574: DBG_RST_N goes low or high, halting or releasing the control processors when debug access is granted. -/
  | debugHalt (low : Bool)
  /-- DYNAMIC_ADDRESS_ASSIGNMENT, R576: The I3C controller assigns the module a dynamic address in place of its static address. -/
  | dynamicAddressAssignment (addr : BitVec 7)
  /-- CXL_CACHE_MEM_ENABLE, R449: The host enables CXL.cache or CXL.mem, setting CACHE_EN or MEM_EN in HUB_LINK. -/
  | cxlCacheMemEnable (cache mem : Bool) (dec : List HdmDecoder)
  deriving DecidableEq, Repr

end Sys2Proof
end

