-- ==== Sys2Proof/Machine/State.lean ====
section
/-!
DEFINITION. The state of the block as plain data: the queue of commands, the device memory with its poison bits,
the register file, and for each unit what it holds beside its registers. INVENTORY.md lists every piece with the
rule that names it.
-/
namespace Sys2Proof.Machine

/-! ## Outcomes -/

/-- What stops the machine. -/
inductive Fault where
  /-- The host reaches through HDM an address that no committed decoder maps, or that is outside HBM and LPDDR:
  the spec says such an address is never reachable and gives no effect (14, R450). Raised by HDM_READ and
  HDM_WRITE. Safe. -/
  | unmapped
  deriving DecidableEq, Repr

/-- Why a command has no meaning here. -/
inductive Refusal where
  /-- The command has no meaning in this model yet. Raised by `exec`. Safe. -/
  | notModelled (mnemonic : String)
  deriving DecidableEq, Repr

/-! ## Registers -/

/-- Where a register field lives: its table, the entry's index and the field's lowest bit. -/
structure RegKey where
  tab : Tab
  i   : Nat
  lo  : Nat
  deriving DecidableEq, Repr

/-- The register file: the fields that differ, or once differed, from their reset values. -/
abbrev Regs := Map RegKey Nat

/-! ## Threads and engines (02, 12) -/

/-- What a thread is doing (02, R46). A slot in FREE is not listed. -/
inductive ThreadStatus where
  /-- READY: it can issue its next instruction. -/
  | ready
  /-- WAITING on a token counter (R73). -/
  | waitTok (k : BitVec 4) (v : Half)
  /-- WAITING at its step gate with its own two flags; `dst` takes the outcome (R390). -/
  | waitGate (dst : BitVec 5) (nonFinite poison : Bool)
  /-- BLOCKED on a full engine queue (R379). -/
  | blocked
  /-- ENDED; the slot is released when its started commands complete (R48). -/
  | ended
  deriving DecidableEq, Repr

/-- The registers of a thread (02, R52) and its status. -/
structure Thread where
  status  : ThreadStatus
  asking  : Option (BitVec 5)
  pc      : Word
  g       : Vector Word 32
  d       : Vector Desc 16
  p       : BitVec 8
  k       : Vector Half 16
  opid    : Half
  ctx     : Half
  step    : Word
  attempt : Word
  deriving DecidableEq, Repr

/-- The engines that serve a tile (12, R379). -/
inductive Engine where
  | matrix | vector | row | cluster | tier | collective | update
  deriving DecidableEq, Repr

/-- The engine instructions (12, R384). -/
inductive EngOp where
  | mma | tbuild | tload | vact | vactb | vew | rnormF | rnormB | rsmaxF | rsmaxB | rmerge | rstat
  | cmove | tmove | cgather | creduce | cshift | csend | crecv | uapply | uprefetch | ucast
  deriving DecidableEq, Repr

/-- A command in an engine queue, with everything it took at issue (12, R377, R378; 01, R13; 02, R53). -/
structure EngCmd where
  id      : Nat
  op      : EngOp
  thread  : ThreadRef
  ctx     : Half
  opid    : Half
  step    : Word
  attempt : Word
  /-- The time of issue (08, R276). -/
  issued  : Nat
  rung    : Nat
  check   : Nat
  wait    : Option (BitVec 4 × Half)
  signal  : Option (BitVec 4)
  signal2 : Option (BitVec 4)
  record  : Option Nat
  da      : Desc
  da1     : Desc
  db      : Desc
  db1     : Desc
  dc      : Desc
  dc1     : Desc
  dc2     : Desc
  dd      : Desc
  gs      : Word
  gt      : Word
  lr      : Word
  w1      : Word
  l1      : Option Nat
  /-- A pair-mode command's number among those of its thread (13, R427; log 9). -/
  pairNo  : Option Nat
  mirror  : Bool
  started : Bool
  deriving DecidableEq, Repr

/-- A launch as the hub holds it (02, R49; 12, R389). -/
structure LaunchReq where
  /-- The thread that asked by TSPAWN, or the ring command that asked. -/
  thread : Option (ThreadRef × Half)
  cmd    : Option Nat
  ctx    : Half
  first  : Nat
  count  : Nat
  threads : Nat
  entry  : Word
  arg0   : Word
  arg1   : Word
  /-- The 48 bytes as read, for the checks of R389. -/
  bytes  : List Byte
  /-- Why its context refuses it, as the hub found the context when the request reached it (02, R51). -/
  refusal : Option Nat
  deriving DecidableEq, Repr

/-- An admitted launch on its way to one tile, or waiting there for its context entry (02, launch table), with the slots
that its threads will take. -/
structure Arrival where
  tile  : Nat
  g1    : Nat
  ctx   : Half
  slots : List Nat
  entry : Word
  arg0  : Word
  arg1  : Word
  deriving DecidableEq, Repr

/-- A gate that has begun (01, R17; 02, R61): the contexts taking part with the policy each held then, the rule
binding fields as they stood then (07, R217), and the joined channels to which this module's flags have gone
(08, R275). -/
structure Gate where
  contexts : List (Nat × Bool)
  binds    : Regs
  sent     : List Nat
  deriving DecidableEq, Repr

/-- The flags that a context's owned reductions raised for an attempt (08, R225 of 07). -/
structure AttemptFlags where
  attempt   : Nat
  nonFinite : Bool
  poison    : Bool
  deriving DecidableEq, Repr

/-- A context's rung (03, R118 to R120). -/
structure RungState where
  rung       : Nat
  pending    : Option Nat
  promotions : Nat
  deriving DecidableEq, Repr

/-- The totals that a gauge entry gathers over the present attempt (03, R113, R114). `amax` is an exact FP32
pattern of a magnitude. -/
structure GaugeTotals where
  observed  : Nat
  zeros     : Nat
  under     : Nat
  sats      : Nat
  nonFinite : Nat
  amax      : Nat
  deriving DecidableEq, Repr

/-- Threads, launches, gates, gauges and engine queues. -/
structure Tsq where
  threads    : Map ThreadRef Thread
  caches     : Map Nat (List Nat)
  launches   : List LaunchReq
  /-- Answers to a half-A TSPAWN that its half-B twin has still to take (13, R425). -/
  answers    : List (ThreadRef × Nat)
  arrivals   : List Arrival
  fetching   : List Arrival
  cmds       : List EngCmd
  blockedCmd : Map ThreadRef EngCmd
  nextCmd    : Nat
  l1Next     : Map Nat Nat
  pairNext   : Map ThreadRef Nat
  gates      : Map Nat Gate
  flags      : Map Nat AttemptFlags
  rungs      : Map Nat RungState
  gauges     : Map Nat GaugeTotals
  clearing   : List Nat
  /-- Started commands that complete at once with a reason, such as one on a channel that is not ON (12, R408). -/
  early      : Map Nat Nat
  /-- The slot at which each tile's sequencer looks next (02, R47). -/
  turns      : Map (BitVec 10) (BitVec 11)
  deriving DecidableEq, Repr

/-! ## Hub: rings and function control (14) -/

/-- The kinds of enableable function (14, R471) by handle kind (02, R66). -/
inductive Kind where
  | context | channel | partition | farPort | round | trace | sample | binding | ring
  deriving DecidableEq, Repr

/-- A command taken from a ring and not completed (14, R462, R464). -/
structure Taken where
  id      : Nat
  ring    : Nat
  op      : Nat
  flags   : Nat
  tag     : Nat
  handle  : Nat
  body    : List Byte
  bad     : Bool
  started : Bool
  deriving DecidableEq, Repr

/-- A completion entry that waits in the hub (14, R465, R466). -/
structure Completion where
  ring   : Nat
  tag    : Nat
  handle : Nat
  reason : Nat
  deriving DecidableEq, Repr

/-- A command that waits on a function (14, R472): an ENABLE that waits for ON or a DISABLE that waits for OFF, of a ring
command or, with none, of a write to the function's register. -/
structure Waiter where
  kind   : Kind
  index  : Nat
  cmd    : Option Nat
  enable : Bool
  deriving DecidableEq, Repr

/-- A function event (14, R470). -/
structure FnEvent where
  handle : Nat
  state  : Nat
  reason : Nat
  deriving DecidableEq, Repr

/-- A function that is ending other than by a command: it enters FAULT, not OFF (02, R60; 13, R435). -/
structure Ending where
  kind  : Kind
  index : Nat
  deriving DecidableEq, Repr

/-- The hub's rings and its control of functions. -/
structure Hub where
  taken      : List Taken
  nextTaken  : Nat
  lastRing   : Nat
  completions : List Completion
  waiters    : List Waiter
  events     : List FnEvent
  ending     : List Ending
  /-- Starts whose abort a disable asked for (R472, R474). -/
  aborting   : List (Kind × Nat)
  /-- Latched enables with the level and the KEEP_PLANES flag they came with (R472, R473). -/
  latched    : Map (Kind × Nat) (Nat × Bool)
  /-- Entries whose storage holds a set reserved bit: none but by a corruption of the storage, which no command brings
  (00, R10; log 121). -/
  corrupted  : List (Kind × Nat)
  /-- Enables of a round engine binding with KEEP_PLANES (R462). -/
  keepPlanes : List Nat
  /-- Objects created and not destroyed (R476). -/
  allocated  : List (Kind × Nat)
  /-- Entries posted to a ring since its last message, and the time of the first (R468). -/
  unsignalled : Map Nat (Nat × Nat)
  /-- The snapshot that each data window shows (02, R63). -/
  snapshots  : Map Tab Nat
  /-- The upper word of the census entry whose lower word was read last, as it stood then (04, R154; log 125). -/
  latch      : Option (Nat × Nat)
  deriving DecidableEq, Repr

/-! ## Fabric (09) -/

/-- A flow: the other module, the channel and the class (09, R301). -/
structure FlowKey where
  peer : Nat
  chan : Nat
  cls  : Nat
  deriving DecidableEq, Repr

/-- Receive state of a flow (09, R302): the next FRAME_SEQ, and the frames held ahead of it, each with its time of
arrival. -/
structure FlowRx where
  next : Nat
  held : List (Nat × Frame)
  deriving DecidableEq, Repr

/-- A flit at an egress port, with the frame of this module that it belongs to; none for a forwarded flit. -/
structure PortFlit where
  flit : Flit
  out  : Option Nat
  deriving DecidableEq, Repr

/-- A frame of this module whose flits have not all been acknowledged at the first hop (09, R314). -/
structure OutFrame where
  frame : Frame
  port  : Nat
  left  : Nat
  cmd   : Option Nat
  deriving DecidableEq, Repr

/-- A link block sent and not acknowledged yet: its flits, its link word, and how often it was sent again (09, R288,
R312, R313). -/
structure SentBlock where
  flits       : List PortFlit
  seq         : Nat
  ack         : Nat
  nak         : Bool
  creditClass : Nat
  creditCount : Nat
  resends     : Nat
  deriving DecidableEq, Repr

/-- A port's link state (09, R291, R292, R312): flits waiting at its egress, the block being formed, the retry
buffer, sequence numbers, credits held and owed, and the turn of R292: its class, the flits taken in it, and its size as it
began (R293). -/
structure PortState where
  queue    : List PortFlit
  forming  : List PortFlit
  retry    : List SentBlock
  txSeq    : Nat
  rxLast   : Nat
  nak      : Bool
  ackWaits : Nat
  lastAck  : Nat
  credits  : List Nat
  owed     : List Nat
  turn     : Nat
  used     : Nat
  size     : Nat
  deriving DecidableEq, Repr

/-- A C0 source's policer (09, R295): frames waiting, the tokens in its bucket and when they were counted. -/
structure Policer where
  waiting : List (Frame × Option Nat)
  tokens  : Nat
  at_     : Nat
  deriving DecidableEq, Repr

/-- A frame in an end-to-end window (09, R294): its flits, and the contribution that its acceptance ends. -/
structure InWindow where
  flits : Nat
  cmd   : Option (Nat × Nat)
  deriving DecidableEq, Repr

/-- What the fabric holds. -/
structure Fabric where
  txSeq     : Map FlowKey Nat
  rx        : Map FlowKey FlowRx
  partials  : Map FlowKey (List Flit)
  /-- Frames delivered in order to this module's engines and not taken in yet. -/
  delivered : List Frame
  epochs    : Map Nat Nat
  peerEpoch : Map (Nat × Nat) Nat
  hellos    : List (Nat × Nat)
  /-- The member tables copied at enable (08, R255). -/
  members   : Map Nat (List Nat)
  /-- When each channel entered STARTING. -/
  started   : Map Nat Nat
  ports     : Map Nat PortState
  outs      : Map Nat OutFrame
  nextOut   : Nat
  sources   : Map Nat Policer
  windows   : Map FlowKey (List InWindow)
  /-- Frames that wait for their window. -/
  windowed  : List (Frame × Option Nat × Option (Nat × Nat))
  deriving DecidableEq, Repr

/-! ## Collectives (08) -/

/-- A gather request at its owner (08, R259, R260). -/
structure GatherReq where
  src      : Nat
  chan     : Nat
  member   : Nat
  shard    : Nat
  explicit : Bool
  gen      : Nat
  maxStale : Nat
  lease    : Bool
  copy     : Nat
  step     : Nat
  attempt  : Nat
  opid     : Nat
  tag      : Nat
  /-- Handle of the requesting context. -/
  ctx      : Nat
  deriving DecidableEq, Repr

/-- An element of a square on its way into a coded destination: its code and its poison. -/
abbrev Landed := Option (Nat × Bool)

/-- A gather command at its requester (12, R405): when it was issued and the status word of each answered shard. For
a coded destination (R406), numbered 0 for d[DC] and 1 for d[DC + 1]: the squares that have landed in part, where
each whole square lies, how far the blocks reach, the block scales by number and the per-tensor scale. -/
structure Gather where
  chan    : Nat
  first   : Nat
  count   : Nat
  issued  : Nat
  status  : Map Nat Nat
  parts   : Map (Nat × Nat) (List Landed)
  dir     : Map (Nat × Nat) Nat
  fill    : Nat
  fill1   : Nat
  /-- The block scales and the per-tensor scale of each coded destination, each with its poison. -/
  scales  : Map (Nat × Nat) (Nat × Bool)
  tscales : Map Nat (Nat × Bool)
  poison  : Bool
  /-- The lowest architectural index of a non-finite element that has landed (03, R107). -/
  lowest  : Option Nat
  deriving DecidableEq, Repr

/-- A lease at its owner (08, R261). -/
structure Lease where
  module_ : Nat
  chan    : Nat
  ctx     : Nat
  bind    : Nat
  shard   : Nat
  gen     : Nat
  since   : Nat
  deriving DecidableEq, Repr

/-- A lease that this module holds at an owner (08, R262). -/
structure HeldLease where
  chan    : Nat
  owner   : Nat
  shard   : Nat
  gen     : Nat
  ctx     : Nat
  attempt : Nat
  deriving DecidableEq, Repr

/-- A long accumulator (08, R265): the exact sum, its residue (13, R417), the exact extreme for MAX and MIN, and the
sideband. -/
structure Acc where
  sum    : Rat
  residue : Nat
  ext    : Option Val
  nan    : Bool
  pinf   : Bool
  ninf   : Bool
  poison : Bool
  deriving DecidableEq, Repr

/-- A segment of a reduction: its sums, the members that have arrived, and, once it has closed, the exact result of each
element with its poison; a segment holds accumulator lines until it closes (08, R267, R268). -/
structure Segment where
  index  : Nat
  accs   : List Acc
  fresh  : List Nat
  closed : Option (List (Val × Bool))
  deriving DecidableEq, Repr

/-- A reduction at its owner (08). `record` is fixed when segment 0 closes. -/
structure Reduction where
  chan    : Nat
  bind    : Nat
  shard   : Nat
  step    : Nat
  attempt : Nat
  op      : Nat
  toSump  : Bool
  opid    : Nat
  t0      : Nat
  record  : Option (List Nat)
  carried : List Nat
  segs    : List Segment
  /-- Members and segments of the late contributions that have arrived (08, R272). -/
  late    : List (Nat × Nat)
  deriving DecidableEq, Repr

/-- The result of a closed reduction, which waits in the long accumulators for the sump or for the owner's own
command: exact values with their poison (08, R266; 12, R407). -/
structure RedResult where
  chan    : Nat
  bind    : Nat
  shard   : Nat
  step    : Nat
  attempt : Nat
  toSump  : Bool
  opid    : Nat
  values  : List (Val × Bool)
  lost    : Bool
  deriving DecidableEq, Repr

/-- A closed or lost reduction of a step and attempt, by which later arrivals are judged, and the members it took in
(08, R270, R272). -/
structure ClosedRed where
  chan    : Nat
  shard   : Nat
  step    : Nat
  attempt : Nat
  members : List Nat
  late    : List (Nat × Nat)
  deriving DecidableEq, Repr

/-- A carried contribution (08, R271, R273): its carry slot, tag, member and the segments received. `included`
says in which attempt's reduction it is. -/
structure Carry where
  chan     : Nat
  slot     : Nat
  shard    : Nat
  step     : Nat
  attempt  : Nat
  member   : Nat
  segs     : List Nat
  included : Option Nat
  deriving DecidableEq, Repr

/-- A contribution command at its sender (08, R275, R276): each shard's frames not accepted yet. -/
structure Contrib where
  chan    : Nat
  ctx     : Nat
  opid    : Nat
  step    : Nat
  attempt : Nat
  issued  : Nat
  left    : Map Nat Nat
  /-- The code that a shard's contribution met. -/
  codes   : Map Nat Nat
  /-- Own shards with TO_SUMP clear, whose results this command waits for. -/
  own     : List Nat
  deriving DecidableEq, Repr

/-- A transfer that waits for its bytes (08, R277, R279): CSHIFT's destination or CRECV's buffer. -/
structure Landing where
  cmd    : Nat
  chan   : Nat
  member : Nat
  shift  : Bool
  deriving DecidableEq, Repr

/-- Flags of another member's gate (08, R275). -/
structure GateFlag where
  chan      : Nat
  member    : Nat
  step      : Nat
  attempt   : Nat
  nonFinite : Bool
  poison    : Bool
  deriving DecidableEq, Repr

/-- What the collective engine holds. -/
structure Collect where
  requests : List GatherReq
  gathers  : Map Nat Gather
  leases   : List Lease
  held     : List HeldLease
  reds     : List Reduction
  results  : List RedResult
  closed   : List ClosedRed
  carries  : List Carry
  /-- Contribution frames that wait for accumulator lines: the die, since when, and the frame. -/
  waitLine : List (Nat × Nat × Frame)
  contribs : Map Nat Contrib
  /-- Commands whose source frames are still unacknowledged at the first hop. -/
  sending  : Map Nat Nat
  /-- The counter that a CSHIFT signals when its source may be reused (R277). -/
  reuse    : Map Nat (ThreadRef × Half × BitVec 4)
  landings : List Landing
  /-- Commands whose buffer has landed: whether it carried poison, and whether it was written. -/
  landed   : Map Nat (Bool × Bool)
  flags    : List GateFlag
  /-- Counts of the open attempt of each context, in the field order of COL_STEP_DATA after ATTEMPT. -/
  counts   : Map Nat (List Nat)
  deriving DecidableEq, Repr

/-! ## Update units (07) -/

/-- A shard of a UAPPLY: what it completed with, once it has. -/
structure UShard where
  shard : Nat
  done  : Option Nat
  deriving DecidableEq, Repr

/-- A UAPPLY that an update unit holds (07, R223): `passed` once its gate is decided. -/
structure UApply where
  cmd     : Nat
  bind    : Nat
  ctx     : Nat
  attempt : Nat
  step    : Nat
  lr      : Nat
  opid    : Nat
  shards  : List UShard
  passed  : Bool
  /-- Its gate failed (07, R223). -/
  failed  : Bool
  /-- The rule binding fields in force for this phase (07, R217) and the rung after the gate (07, R244). -/
  binds   : Regs
  rung    : Nat
  deriving DecidableEq, Repr

/-- A gradient in a sump (07, R226). -/
structure Grad where
  bind    : Nat
  shard   : Nat
  step    : Nat
  attempt : Nat
  opid    : Nat
  data    : List Nat
  poison  : Bool
  deriving DecidableEq, Repr

/-- A shard's new state, computed and checked, before its commit (07, R239): bytes to write by address, and the
new master values. -/
structure NewState where
  apply   : Nat
  bind    : Nat
  shard   : Nat
  writes  : List (Nat × List Byte)
  master  : List (List Nat)
  installed : Option Nat
  /-- The UAPPLY's command, step, attempt and OPID, and the rung of the new working slot. -/
  step    : Nat
  attempt : Nat
  opid    : Nat
  rung    : Nat
  deriving DecidableEq, Repr

/-- What an owner retains of a shard: for each of its four slots the generation held, and the newest (07, R240;
08, R259). -/
structure Retained where
  slots  : List (Option Nat)
  /-- The step count and the rung with which each generation was made. -/
  steps  : List Nat
  rungs  : List Nat
  newest : Nat
  deriving DecidableEq, Repr

/-- A root job of a shard (07, R233): its number, whether it has finished, and its roots as FP32 patterns. -/
structure RootJob where
  job   : Nat
  done  : Bool
  held  : Bool
  left  : List (List Nat)
  right : List (List Nat)
  opid  : Nat
  /-- The step of the update that started it, as UAPPLY carries it. -/
  step  : Nat
  deriving DecidableEq, Repr

/-- A cast (07, R246): its context, content, destination, who asked (an engine command or a ring command), and the step
count it was taken at. -/
structure CastJob where
  ctx     : Nat
  content : Nat
  dest    : Nat
  addr    : Nat
  sign    : Bool
  cmd     : Option Nat
  ring    : Option Nat
  taken   : Option Nat
  /-- Whether the records have been read (07, R247). -/
  read    : Bool
  /-- What ended the cast (07, R246; 10, R350; 16, R521). -/
  reason  : Option Nat
  deriving DecidableEq, Repr

/-- An outer master correction (10, R330, R331): the step count of its apply gate, the rung after it, the FP32 patterns
of base - cut by rows, whether what they came from was finite, and their poison. -/
structure Correction where
  bind   : Nat
  shard  : Nat
  step   : Nat
  rung   : Nat
  delta  : List (List Nat)
  clean  : Bool
  poison : Bool
  deriving DecidableEq, Repr

/-- What the update units hold. -/
structure Update where
  applies  : List UApply
  sump     : List Grad
  /-- Shards whose state is staged in state SRAM, oldest first, with its bytes (07, R227, R228). -/
  staged   : List (Nat × Nat × Nat)
  /-- Shards that UPREFETCH asked for and that are not staged yet, in the order asked. -/
  wanted   : List (Nat × Nat)
  /-- Demand chunks that each die's tier mover moved since its last hint chunk, up to 15 (11, R368). -/
  chunks   : Map Nat Nat
  ready    : List NewState
  retained : Map (Nat × Nat) Retained
  roots    : Map (Nat × Nat) RootJob
  /-- Shards with a job installed: the number of the last one. -/
  installed : Map (Nat × Nat) Nat
  /-- Each region's last audited binding and shard, and the regions whose audit is due, once for each phase (07, R245). -/
  audit    : Map Nat (Nat × Nat)
  auditDue : List Nat
  casts    : List CastJob
  /-- The step count at which a shard was last held (07, R241, R248 FLAGS). -/
  held     : Map (Nat × Nat) Nat
  /-- Outer master corrections that wait for their own commit (10, R331). -/
  corrections : List Correction
  deriving DecidableEq, Repr

/-! ## Wellhead (10) -/

/-- A fragment that the store holds, complete and verified (10, R335, R344). `bind` is the round engine binding. -/
structure Fragment where
  bind   : Nat
  round  : Nat
  origin : Nat
  tensor : Nat
  shard  : Nat
  digest : Nat
  body   : List Byte
  deriving DecidableEq, Repr

/-- A verified ledger (10, R337). -/
structure Ledger where
  bind    : Nat
  round   : Nat
  attempt : Nat
  digest  : Nat
  body    : List Byte
  deriving DecidableEq, Repr

/-- An object that arrives in pieces from a site (10, R341): the pieces received, how many are new since its last
acknowledgement, since when one is due, and whether the object is complete. -/
structure Assembly where
  bind   : Nat
  site   : Nat
  key    : ObjectKey
  digest : Nat
  pieces : Nat
  bytes  : Nat
  got    : Map Nat (List Byte)
  fresh  : Nat
  due    : Option Nat
  done   : Bool
  deriving DecidableEq, Repr

/-- An object on its way to a site (10, R341): the piece size, the pieces acknowledged, when each piece was last sent
and how often, the object's own timeout in us once it has doubled, and whether a FETCH asked for it. -/
structure Outgoing where
  bind   : Nat
  site   : Nat
  key    : ObjectKey
  digest : Nat
  body   : List Byte
  size   : Nat
  acked  : List Nat
  sent   : Map Nat (Nat × Nat)
  rto    : Option Rat
  asked  : Bool
  queued : Bool
  deriving DecidableEq, Repr

/-- A packet that waits for its partner's pace (10, R338, R343). `piece` names the piece that it carries. -/
structure WxpOut where
  bind    : Nat
  site    : Nat
  type    : Nat
  round   : Nat
  reason  : Nat
  resent  : Bool
  payload : List Byte
  piece   : Option (ObjectKey × Nat × Nat)
  deriving DecidableEq, Repr

/-- What a far port has sent, each with its 802.1Q tag, PCP above VID, where the port tags (10, R316, R317): a WXP datagram
with its destination, an answer to neighbour resolution or echo, or the delay request of the PTP clock with its time stamp
(R349). -/
inductive FarPacket where
  | wxp (port : Nat) (tag : Option Nat) (addr udp : Nat) (bytes : List Byte)
  | neighbourReply (port : Nat) (tag : Option Nat)
  | echoReply (port : Nat) (tag : Option Nat)
  | delayRequest (port : Nat) (tag : Option Nat) (stamp : Nat)
  deriving DecidableEq, Repr

/-- What the wellhead keeps of a partner site (10, R338, R342, R343): SRTT and RTTVAR in us, TX_TIME and arrival of the
newest packet from it, when it was last heard, when a heartbeat was last sent, the next packet number, and the pace
bucket in units of 1/8,000 byte with the time it was counted. -/
structure Peer where
  rtt    : Option (Rat × Rat)
  echo   : Option (Nat × Nat)
  heard  : Nat
  beat   : Nat
  seq    : Nat
  tokens : Nat
  at_    : Nat
  deriving DecidableEq, Repr

/-- A cut that has begun (10, R323): its round, the step count of its gate, the shards still to be read, and the kept
places of those that were, each with its FP32 pattern. -/
structure Cut where
  round : Nat
  step  : Nat
  left  : List (Nat × Nat)
  kept  : List (Nat × Nat × List (Nat × Nat))
  deriving DecidableEq, Repr

/-- A seed record that a joiner has received (10, R346). -/
structure Seed where
  tensor  : Nat
  shard   : Nat
  content : Nat
  round   : Nat
  data    : List Byte
  deriving DecidableEq, Repr

/-- What the wellhead keeps of a round engine binding beside its entry: the rule bindings it covers, the local steps since
its last cut and the step count of that cut, whether the next cut has been deferred, the cut that has begun, the
digest of the ledger whose plane 4 has been computed, whether LEDGER_REQ was sent, since when a FETCH is unanswered
and how often it was repeated, the digests of applied rounds, a joiner's seeds and the time of its next JOIN, and
the sites that are being seeded. -/
structure Run where
  covers  : List Nat
  steps   : Nat
  cutStep : Option Nat
  late    : Bool
  cutting : Option Cut
  ready   : Option Nat
  asked   : Bool
  fetch   : Option (Nat × Nat)
  applied : Map Nat Nat
  seeds   : List Seed
  joinAt  : Nat
  seeding : List Nat
  /-- Non-finite values that cuts kept in the well (10, R325), and fragments that the store did not take (R345): counts that no
  register shows. -/
  nonFinite : Nat
  discarded : Nat
  deriving DecidableEq, Repr

/-- What the wellhead holds. -/
structure Wellhead where
  runs       : Map Nat Run
  frags      : List Fragment
  ledgers    : List Ledger
  assemblies : List Assembly
  outgoing   : List Outgoing
  queue      : List WxpOut
  peers      : Map Nat Peer
  farOut     : List FarPacket
  /-- The site whose packet left last: partners take turns (10, R343). -/
  lastSite   : Nat
  /-- The time stamp of each far port's newest PTP event message (10, R349). -/
  ptpStamps  : Map Nat Nat
  deriving DecidableEq, Repr

/-! ## Reliability (13) -/

/-- An error record (13, R438), without its record number and its time, which the log adds. -/
structure ErrRec where
  type      : Nat
  severity  : Nat
  reason    : Nat
  context   : Nat := 0
  opid      : Nat := 0
  partition : Nat := 0xFF
  die       : Nat := 0xFF
  region    : Nat := 0xFF
  cluster   : Nat := 0xFF
  tile      : Nat := 0xFF
  column    : Nat := 0xFF
  unit      : Nat := 0xFFFF
  seq       : Nat := 0
  step      : Nat := 0
  time      : Nat := 0
  address   : Nat := 0
  detail    : Nat := 0
  deriving DecidableEq, Repr

/-- An MSI-X message sent (14, R468, R469). -/
structure MsixMessage where
  vector  : Nat
  address : Nat
  data    : Nat
  deriving DecidableEq, Repr

/-- A sampled band that waits for its audit (13, R421 to R423): the command's tile and number, the band, the audit
tile, and whose command it is. -/
structure Audit where
  tile   : Nat
  number : Nat
  band   : Nat
  by_    : Nat
  ctx    : Nat
  opid   : Nat
  step   : Nat
  deriving DecidableEq, Repr

/-- The digest of a pair-mode command in half A, or of an update commit (13, R427): the tile, the command's number, the
digest, and when it was formed. -/
structure PairDigest where
  tile   : Nat
  number : Nat
  digest : Nat
  at_    : Nat
  ctx    : Nat
  opid   : Nat
  step   : Nat
  deriving DecidableEq, Repr

/-- Partition resets in progress, strikes, column tests, bypasses that wait, audits and pair digests. -/
structure Ras where
  /-- Partitions whose reset is in progress, and whether a die retirement came during it (13, R435, R437). -/
  resets      : Map Nat Bool
  /-- Strikes of a tile's physical columns, and of tiles (13, R441). -/
  colStrikes  : Map (Nat × Nat) Nat
  tileStrikes : Map Nat Nat
  /-- Tiles with a test scheduled, and the tile under test (13, R441, R442). -/
  testsDue    : List Nat
  testing     : Option Nat
  /-- Bypass masks that wait for a partition's next OFF (04, R153). -/
  bypasses    : Map Nat Nat
  audits      : List Audit
  digests     : List PairDigest
  /-- Digests of half B that came before half A's. -/
  early       : List (Nat × Nat × Nat)
  deriving DecidableEq, Repr

/-! ## Coding slots (05) -/

/-- A slot of a coding unit: unit 0 a tile's encoder and expanders, 1 a die's tier mover coder, 2 a die's
collective coder, 3 a region's update unit reader (05, R174, R185; 12, R399). -/
structure SlotKey where
  unit : Nat
  i    : Nat
  slot : Nat
  deriving DecidableEq, Repr

/-! ## Observability (18) -/

/-- A trace record (18, R565). -/
structure TraceRec where
  kind  : Nat
  flags : Nat
  loc   : Nat
  ctx   : Nat
  time  : Nat
  opid  : Nat
  a     : Nat
  b     : Nat
  deriving DecidableEq, Repr

/-- A die's trace buffer (18, R564, R567 to R570): the records held, oldest first; how many were written since the
last arming, how many of those the exporter has passed, how many more the capture takes after its trigger; the regions whose
next record is preceded by a gap marker (17, R551); whether the export ring's memory cannot be reached; and the stamp of
the first record that was overwritten before its export. -/
structure TraceBuf where
  recs     : List TraceRec
  written  : Nat
  exported : Nat
  left     : Nat
  gapStops : List Nat
  stalled  : Bool
  lost     : Option Nat
  deriving DecidableEq, Repr

/-- What a sampling session has gathered since its last record (18, R563, R564): its counts up to `endTime`, and by their ends
the counts of later periods, whose events were stamped before this one's record was written. -/
structure Sampler where
  counts  : List Nat
  periods : Nat
  endTime : Nat
  stopped : Bool
  later   : Map Nat (List Nat)
  deriving DecidableEq, Repr

/-- Trace buffers, sampling counts and triggers on their way to linked sessions (18, R567). -/
structure Obs where
  bufs     : Map Nat TraceBuf
  samplers : Map Nat Sampler
  linked   : List (Nat × Nat)
  deriving DecidableEq, Repr

/-! ## Memory tiers (11) and the host's view of device memory (14) -/

/-- What the memory controllers and the snoop filter hold beside their registers. -/
structure Tiers where
  failed    : List MemUnit
  /-- Corrected errors of a row of a device in the present patrol period (11, R361). -/
  rowErrors : Map (Nat × Nat) Nat
  /-- Rows repaired by soft repair, by device (11, R361). -/
  spared    : List (Nat × Nat)
  /-- Device lines that host caches may hold, oldest first (14, R451). -/
  snoop     : List Nat
  deriving DecidableEq, Repr

/-! ## The cistern (16) and the fuses (15) -/

/-- What holds a superblock (16, R510, R519, R524). -/
inductive SbUse where
  | free | system
  | mould (index pos : Nat)
  /-- Its mould is gone and its blocks wait to be erased. -/
  | erasing (index : Nat)
  deriving DecidableEq, Repr

/-- A superblock (16, R513 to R516): its use, the erase count of its blocks, the order of its last programming, the reads
of a block since its last erase, and whether it is to be relocated. -/
structure Superblock where
  use    : SbUse
  erases : Nat
  age    : Nat
  reads  : Nat
  due    : Bool
  deriving DecidableEq, Repr

/-- What a mould holds (16, R513, R519): records and manifest as stored, where its manifest begins, and the 64-byte lines
that carry poison or are lost. -/
structure MouldBody where
  bytes    : List Byte
  manifest : Nat
  dirty    : List Nat
  deriving DecidableEq, Repr

/-- Who waits for a mould write (16, R521): a cast of a context, or the operation that runs. -/
inductive MouldOwner where
  | cast (ctx : Nat)
  | op
  deriving DecidableEq, Repr

/-- A mould being written (16, R519 to R521), with what its commit record takes from its manifest. -/
structure MouldWrite where
  index   : Nat
  ctx     : Nat
  records : Nat
  step    : Nat
  round   : Nat
  signed  : Bool
  body    : MouldBody
  owner   : MouldOwner
  deriving DecidableEq, Repr

/-- An operation of CIS_OP or SEC_OP with the registers that it took (15, R495; 16, R529): the reason it will complete
with, once it has one, and whether the presence window was open at its START (15, R496). -/
structure OpRun where
  op     : Nat
  addr   : Nat
  len    : Nat
  arg    : Nat
  reason : Option Nat
  present : Bool
  deriving DecidableEq, Repr

/-- The configuration block as stored (15, R505): a sound block of no entries with its WRITES, a block's bytes, or one
that is erased or torn. -/
inductive CfgStore where
  | empty (writes : Nat)
  | block (bytes : List Byte)
  | torn
  deriving DecidableEq, Repr

/-- A system item that is kept in two copies (16, R511). -/
inductive SysItem where
  | svn | column | memory | key | cert | restore | journal
  deriving DecidableEq, Repr

/-- What a copy of a system item holds; the two copies of the journal never differ. -/
inductive SysValue where
  | svn (high : Nat)
  | column (record : Map Nat (Nat × Bool × Nat))
  | memory (rows : List (Nat × Nat))
  | key (epoch : Option Nat)
  | cert (chain : Option (List Byte))
  | restore (pending : Bool)
  | journal
  deriving DecidableEq, Repr

/-- The two copies of a system item (16, R511): the sequence number of the newer, whether it is valid, and what the other
holds where that one is valid. -/
structure Copies where
  seq   : Nat
  valid : Bool
  other : Option SysValue
  deriving DecidableEq, Repr

/-- The cause of a stop (17, R538). -/
inductive StopCause where
  | powerFail | overVoltage | thermtrip | reset
  deriving DecidableEq, Repr

/-- The torn mark (16, R530; 17, R538): the time base at t0, the cause, the moulds in WRITING and the open superblocks. -/
structure TornMark where
  time   : Nat
  cause  : StopCause
  moulds : List Nat
  sbs    : List Nat
  deriving DecidableEq, Repr

/-- What the cistern keeps without power (16). -/
structure Cistern where
  /-- The image slot: header and body of a valid write, none while it holds no whole image or its header cannot be read,
  and whether a codeword of its body is lost. -/
  image    : Option (List Byte)
  imageLost : Bool
  cfg      : CfgStore
  /-- HIGH_SVN, the column record by tile (BYPASS, RETIRED, GROWN), the rows of the memory record, the epoch of the wrapped
  identity key, certificate slot 1 and the pending mark of a factory restore. -/
  highSvn  : Nat
  columns  : Map Nat (Nat × Bool × Nat)
  rows     : List (Nat × Nat)
  keyEpoch : Option Nat
  cert     : Option (List Byte)
  restore  : Bool
  /-- The copies of the items, both valid and alike unless listed. -/
  copies   : Map SysItem Copies
  torn     : Option TornMark
  sbs      : Map Nat Superblock
  /-- Superblocks taken apart for spare blocks, and the spare blocks so gained less those used, by channel. -/
  broken   : List Nat
  spares   : Map Nat Int
  nextAge  : Nat
  bodies   : Map Nat MouldBody
  /-- The commit records of the journal, by mould index (16, R520). -/
  commits  : Map Nat (List Byte)
  /-- Table entries that are not FREE. -/
  used     : List Nat
  serial   : Nat
  written  : Nat
  nand     : Nat
  grown    : Nat
  failed   : Bool
  readOnly : Bool
  deriving DecidableEq, Repr

/-- What the cistern holds only while it runs: the moulds being written, the operation, the moulds to delete when their
read completes, and the superblocks that the patrol has read in this period with its beginning. -/
structure CisRun where
  writes    : List MouldWrite
  op        : Option OpRun
  afterRead : List Nat
  patrolled : List Nat
  since     : Nat
  deriving DecidableEq, Repr

/-- Fuses that the module burns (15, R497, R499). -/
structure Fuses where
  svnFloor : Nat
  epoch    : Nat
  broken   : Bool
  deriving DecidableEq, Repr

/-! ## Start-up and security (15, 19) -/

/-- An answer of the SPDM responder (15, R503, R504): the request it answers, whether it is an error and which, the bytes
that the spec gives the answer, and a signature. -/
structure SpdmReply where
  doe       : Bool
  session   : Nat
  request   : Nat
  error     : Option Nat
  bytes     : List Byte
  signature : Option (List Byte)
  deriving DecidableEq, Repr

/-- The SPDM responder: the version agreed, whether algorithms are agreed, and the sessions with whether each is
established (15, R503). -/
structure Spdm where
  version    : Option Nat
  negotiated : Bool
  sessions   : Map Nat Bool
  out        : List SpdmReply
  deriving DecidableEq, Repr

/-- Security and start-up beside its registers: the boot orders completed; the SEC operation; whether the identity key is
available; PRES_N and the end of the presence window; the I3C address; the control processors; the configuration block
as applied. -/
structure Security where
  orders    : List Nat
  op        : Option OpRun
  identity  : Bool
  present   : Bool
  windowEnd : Nat
  i3c       : Nat
  dbgLow    : Bool
  halted    : Bool
  applied   : Option (List Byte)
  image     : List Byte
  spdm      : Spdm
  /-- What debug requests were granted and answered with, oldest first. -/
  debug     : List DebugRequest
  deriving DecidableEq, Repr

/-! ## Power and time (17) and the host link (14) -/

/-- Power beside its registers: whether the module runs; the stop whose hold-up goes on; THERMTRIP_N; PERST_N; the
region's thermal ceilings and when each last rose or fell; since when the cap ceiling stands at its floor, and whether the
power was above CAP_W when it was last compared; the input energy beyond whole millijoules, in tenths; the pending correction
of the time base and the part of a nanosecond that slewing has gathered, in millionths; when each rail last moved. -/
structure Power where
  running   : Bool
  holdUp    : Option StopCause
  thermtrip : Bool
  perst     : Bool
  ceilings  : Map Nat Nat
  moved     : Map Nat Nat
  floorAt   : Option Nat
  above     : Bool
  energy    : Nat
  pending   : Int
  part      : Int
  lastStep  : Map Nat Nat
  deriving DecidableEq, Repr

/-- The key sets of an IDE stream in one direction (14, R454 to R456): the slot of the current set, that of a set that has
been programmed and not used, that of the previous set while a receiver keeps it, and whether a transmitter waits to
switch. -/
structure IdeKeys where
  current  : Option Bool
  next     : Option Bool
  previous : Option Bool
  waiting  : Bool
  deriving DecidableEq, Repr

/-- The host link beside HUB_LINK: the key sets, the committed HDM decoders, and the last answer to a host read, its bytes
and whether it carries poison (14, R450, R452, R454). -/
structure HostLink where
  ide      : Map (IdeStream × IdeDir) IdeKeys
  decoders : List (Option HdmDecoder)
  answer   : Option (List Byte × Bool)
  deriving DecidableEq, Repr

/-- The state of the block. -/
structure State where
  pending   : List Instr
  mem       : List Host.Cell
  poison    : List Nat
  regs      : Regs
  tsq       : Tsq
  hub       : Hub
  slots     : Map SlotKey Table
  obs       : Obs
  tiers     : Tiers
  fabric    : Fabric
  collect   : Collect
  update    : Update
  wellhead  : Wellhead
  cistern   : Cistern
  cis       : CisRun
  fuses     : Fuses
  security  : Security
  power     : Power
  link      : HostLink
  ras       : Ras
  rasLog    : Map Nat ErrRec
  rasSeq    : Nat
  msixOut   : List MsixMessage
  freeCount : Nat
  deriving DecidableEq, Repr

/-- The cistern and the fuses as shipped (log 4): a sound configuration block of no entries, and nothing else. -/
def Cistern.shipped : Cistern :=
  { image := some Config.shippedImage, imageLost := false, cfg := .empty 0, highSvn := 0, columns := [], rows := [], keyEpoch := some 0
    cert := none, restore := false, copies := [], torn := none, sbs := [], broken := [], spares := [], nextAge := 1
    bodies := [], commits := [], used := [], serial := 0, written := 0, nand := 0, grown := 0, failed := false, readOnly := false }

/-- Security at reset: no order completed; PRES_N not asserted; SLOT_ID open (log 4). -/
def Security.reset : Security :=
  { orders := [], op := none, identity := false, present := false, windowEnd := 0, i3c := 0x37, dbgLow := false
    halted := false, applied := none, image := []
    spdm := { version := none, negotiated := false, sessions := [], out := [] }, debug := [] }

/-- Power at reset: the module runs and PERST_N is still asserted (19, R578). -/
def Power.reset : Power :=
  { running := true, holdUp := none, thermtrip := false, perst := true, ceilings := [], moved := [], floorAt := none
    above := false, energy := 0, pending := 0, part := 0, lastStep := [] }

/-- The block right after reset: nothing listed anywhere, so every register reads its reset value and every byte
of memory reads 0. -/
def State.reset : State where
  pending := []
  mem := []
  poison := []
  regs := []
  tsq :=
    { threads := [], caches := [], launches := [], answers := [], arrivals := [], fetching := [], cmds := [], blockedCmd := [],
      nextCmd := 0, l1Next := [], pairNext := [], gates := [], flags := [], rungs := [], gauges := [], clearing := [],
      early := [], turns := [] }
  hub :=
    { taken := [], nextTaken := 0, lastRing := 127, completions := [], waiters := [], events := [], ending := [],
      aborting := [], latched := [], corrupted := [], keepPlanes := [], allocated := [], unsignalled := [], snapshots := [], latch := none }
  slots := []
  obs := { bufs := [], samplers := [], linked := [] }
  tiers := { failed := [], rowErrors := [], spared := [], snoop := [] }
  fabric :=
    { txSeq := [], rx := [], partials := [], delivered := [], epochs := [], peerEpoch := [], hellos := [],
      members := [], started := [], ports := [], outs := [], nextOut := 0, sources := [], windows := [],
      windowed := [] }
  collect :=
    { requests := [], gathers := [], leases := [], held := [], reds := [], results := [], closed := [],
      carries := [], waitLine := [], contribs := [], sending := [], reuse := [], landings := [], landed := [], flags := [],
      counts := [] }
  update :=
    { applies := [], sump := [], staged := [], wanted := [], chunks := [], ready := [], retained := [], roots := [],
      installed := [], audit := [], auditDue := [], casts := [], held := [], corrections := [] }
  wellhead :=
    { runs := [], frags := [], ledgers := [], assemblies := [], outgoing := [], queue := [], peers := [], farOut := [], lastSite := 63,
      ptpStamps := [] }
  cistern := Cistern.shipped
  cis := { writes := [], op := none, afterRead := [], patrolled := [], since := 0 }
  fuses := { svnFloor := 0, epoch := 0, broken := false }
  security := Security.reset
  power := Power.reset
  link := { ide := [], decoders := [none, none], answer := none }
  ras :=
    { resets := [], colStrikes := [], tileStrikes := [], testsDue := [], testing := none, bypasses := [], audits := [],
      digests := [], early := [] }
  rasLog := []
  rasSeq := 0
  msixOut := []
  freeCount := 0

end Sys2Proof.Machine
end

