-- ==== Sys2Proof/Machine/Memory.lean ====
section
/-!
DEFINITION. The device memory: one sorted list of (address, byte) pairs for the whole 48-bit space of 11, R351 and
R352, with a poison bit for each 64-byte line (11, R354, R357). A byte that is not listed reads 0 (11, R363 for the
two tiers, 01, R25 and 13, R436 for the on-chip stores; host memory: log 3).
-/
namespace Sys2Proof.Machine

/-! ## Cells -/

/-- What an unlisted address reads as. -/
def Memory.blank : Byte := 0

/-- The canonical form: addresses strictly rising, and no entry that equals what an unlisted address reads as. -/
def Memory.wf : List Host.Cell → Bool
  | [] => true
  | [(_, b)] => decide (b ≠ Memory.blank)
  | (a, b) :: (c, d) :: m => decide (b ≠ Memory.blank) && decide (a < c) && Memory.wf ((c, d) :: m)

/-- The byte at an address. -/
def Memory.read (a : Nat) : List Host.Cell → Byte
  | [] => Memory.blank
  | (c, b) :: m => if c = a then b else Memory.read a m

/-- Write one byte, keeping the canonical form. -/
def Memory.write (a : Nat) (v : Byte) : List Host.Cell → List Host.Cell
  | [] => if v = Memory.blank then [] else [(a, v)]
  | (c, b) :: m =>
    if a < c then (if v = Memory.blank then (c, b) :: m else (a, v) :: (c, b) :: m)
    else if a = c then (if v = Memory.blank then m else (a, v) :: m)
    else (c, b) :: Memory.write a v m

/-- Write consecutive bytes. -/
def Memory.writes (a : Nat) : List Byte → List Host.Cell → List Host.Cell
  | [], m => m
  | b :: bs, m => Memory.writes (a + 1) bs (Memory.write a b m)

/-- Read `n` consecutive bytes. -/
def Memory.reads (a n : Nat) (m : List Host.Cell) : List Byte := (List.range n).map fun i => Memory.read (a + i) m

/-- Clear `[lo, hi)`: every byte of it reads 0 afterwards. -/
def Memory.clear (lo hi : Nat) (m : List Host.Cell) : List Host.Cell :=
  m.filter fun c => decide (c.1 < lo ∨ hi ≤ c.1)

/-! ## Spaces (11, R351, R352) -/

/-- The spaces of the address map. -/
inductive Space where
  | hbm
  | lpddr
  | basin (tile : Nat)
  | pool (region : Nat)
  | side (cluster : Nat)
  | host
  | hole
  deriving DecidableEq, Repr

def hbmBytes : Nat := 0x00C000000000
def lpddrBase : Nat := 0x010000000000
def basinBase : Nat := 0x0F0000000000
def poolBase : Nat := 0x0F0080000000
def sideBase : Nat := 0x0F00C0000000
def hostBase : Nat := 0x800000000000
def basinBytes : Nat := 0x180000
def poolBytes : Nat := 0x1800000

/-- The base of a tile's basin. -/
def basinOf (t : Nat) : Nat := basinBase + 0x200000 * t

/-- The base of a region's pool. -/
def poolOf (r : Nat) : Nat := poolBase + 0x2000000 * r

/-- The base of a cluster's side memory. -/
def sideOf (c : Nat) : Nat := sideBase + 0x80000 * c

/-- The space that backs an address, supplies apart. -/
def spaceOf (a : Nat) : Space :=
  if a < hbmBytes then .hbm
  else if lpddrBase ≤ a ∧ a < lpddrBase + hbmBytes then .lpddr
  else if basinBase ≤ a ∧ a < poolBase then
    (if (a - basinBase) % 0x200000 < basinBytes then .basin ((a - basinBase) / 0x200000) else .hole)
  else if poolBase ≤ a ∧ a < sideBase then
    (if (a - poolBase) % 0x2000000 < poolBytes then .pool ((a - poolBase) / 0x2000000) else .hole)
  else if sideBase ≤ a ∧ a < sideBase + 0x8000000 then .side ((a - sideBase) / 0x80000)
  else if hostBase ≤ a ∧ a < 2 * hostBase then .host
  else .hole

/-- The region of a tile (00, R7). -/
def regionOfTile (t : Nat) : Nat := t / 32

/-- The die of a tile. -/
def dieOfTile (t : Nat) : Nat := t / 256

/-- The cluster of a tile, module-wide (11, R352). -/
def clusterOfTile (t : Nat) : Nat := t / 4

/-- The HBM stack of an address (11, R353). -/
def stackOf (a : Nat) : Nat := 4 * (a / 0x003000000000) + a % 0x003000000000 / 256 % 4

/-- The pseudo-channel within the stack (11, R353). -/
def pseudoOf (a : Nat) : Nat := a % 0x003000000000 / 1024 % 32

/-- The LPDDR device of an address (11, R355). -/
def lpddrOf (a : Nat) : Nat := (a - lpddrBase) / 256 % 16

/-- The channel within the LPDDR device (11, R355). -/
def channelOf (a : Nat) : Nat := (a - lpddrBase) / 4096 % 4

/-! ## Poison (11, R357; 13, R430) -/

/-- The line of an address. -/
def lineOf (a : Nat) : Nat := a / 64

/-- The lines that `[a, a + n)` touches. -/
def linesOf (a n : Nat) : List Nat :=
  if n = 0 then [] else (List.range (lineOf (a + n - 1) + 1 - lineOf a)).map fun i => lineOf a + i

/-- Insert a line into the sorted list of poisoned lines. -/
def addLine (l : Nat) : List Nat → List Nat
  | [] => [l]
  | x :: xs => if l < x then l :: x :: xs else if l = x then x :: xs else x :: addLine l xs

/-- Set or clear the poison bit of a line. -/
def markLine (l : Nat) (p : Bool) (ps : List Nat) : List Nat :=
  if p then addLine l ps else ps.filter fun x => decide (x ≠ l)

end Sys2Proof.Machine
end

