-- ==== Sys2Proof/Machine/Ops.lean ====
section
/-!
DEFINITION. The named operations over the register file, the error log, the event bits, the counters and the trace
(00, R10, R11; 13, R438 to R440; 14, R468 to R470; 18).
-/
namespace Sys2Proof.Machine

/-! ## Registers -/

/-- A field of entry `i`. -/
def State.rget (s : State) (f : Fld) (i : Nat := 0) : Nat :=
  lookD ⟨f.tab, i, f.lo⟩ (f.default i) s.regs

/-- Write a field of entry `i`, cut to its width. -/
def State.rput (s : State) (f : Fld) (i v : Nat) : State :=
  { s with regs := put ⟨f.tab, i, f.lo⟩ (v % 2 ^ f.len) s.regs }

/-- A one-bit field as a Boolean. -/
def State.rbit (s : State) (f : Fld) (i : Nat := 0) : Bool := s.rget f i == 1

/-- Count: add and stay at the field's largest value. -/
def State.rinc (s : State) (f : Fld) (i : Nat := 0) (n : Nat := 1) : State :=
  s.rput f i (satAdd f.len (s.rget f i) n)

/-- Count modulo the field's width. -/
def State.rwrap (s : State) (f : Fld) (i : Nat := 0) (n : Nat := 1) : State := s.rput f i (s.rget f i + n)

/-- Every field of an entry back at its reset value (14, R476). -/
def State.rreset (s : State) (t : Tab) (i : Nat) : State :=
  { s with regs := s.regs.filter fun e => decide (¬(e.1.tab = t ∧ e.1.i = i)) }

/-- The stored bits of an entry as one number, bit 0 lowest. -/
def State.entry (s : State) (t : Tab) (i : Nat) : Nat :=
  t.fields.foldl (fun acc f => acc + (if f.acc = .wo then 0 else s.rget f i * 2 ^ f.lo)) 0

/-- The time base (17, R550). -/
def State.now (s : State) : Nat := s.rget TbsTime.ALL

/-- Draw a fresh free value (log 7). -/
def State.draw (s : State) : Word × State := (Config.free s.freeCount, { s with freeCount := s.freeCount + 1 })

/-- A register write refused with a code (00, R583). -/
def State.refuse (s : State) (code : Nat) : State := s.rput HubRwlRefused.LAST_REFUSED 0 code

/-! ## Interrupt messages (14, R468, R469) -/

/-- Send an MSI-X message, or leave the vector's pending bit set while it is masked. -/
def State.sendMsix (s : State) (v : Nat) : State :=
  if s.rbit Msix.MASK v then s.rput MsixPba.PENDING v 1
  else { s with msixOut := s.msixOut ++ [⟨v, s.rget Msix.ADDRESS v, s.rget Msix.DATA v⟩] }

/-- Set a bit of HUB_EVT_STATUS; a message goes out when the bit becomes set and is enabled (14, R469). -/
def State.setEvt (s : State) (f : Fld) : State :=
  if s.rbit f then s
  else
    let s := s.rput f 0 1
    if bit (s.rget EvtEnable.ALL) f.lo then s.sendMsix (s.rget EvtCtrl.VECTOR) else s

/-! ## Handles (02, R66; 14, R471) -/

/-- The code of a kind. -/
def Kind.code : Kind → Nat
  | .context => 1 | .channel => 2 | .partition => 3 | .farPort => 4 | .round => 5
  | .trace => 6 | .sample => 7 | .binding => 8 | .ring => 9

/-- The kind that a code names. -/
def Kind.ofCode (c : Nat) : Option Kind :=
  [Kind.context, .channel, .partition, .farPort, .round, .trace, .sample, .binding, .ring].find? fun k => k.code == c

/-- The number of indices of a kind (02, R66 and the chapters it names). -/
def Kind.size : Kind → Nat
  | .context => 65536 | .channel => 32768 | .partition => 32 | .farPort => 2 | .round => 64
  | .trace => 4 | .sample => 64 | .binding => 8192 | .ring => 128

/-- Kinds that the hub creates and destroys (14, R458, R463). -/
def Kind.created : Kind → Bool
  | .context | .channel | .round | .trace | .sample | .binding => true
  | .partition | .farPort | .ring => false

/-- The table that holds a kind's entries. -/
def Kind.tab : Kind → Tab
  | .context => .ctx | .channel => .chan | .partition => .part | .farPort => .whdPort | .round => .round
  | .trace => .trace | .sample => .sample | .binding => .bind | .ring => .ring

/-- The HANDLE, STATE, PENDING_ENABLE and END_REASON fields lie at the same places in every entry but END_REASON. -/
def Kind.handleFld (k : Kind) : Fld :=
  match k with
  | .context => Ctx.HANDLE | .channel => Chan.HANDLE | .partition => Part.HANDLE | .farPort => WhdPort.HANDLE
  | .round => Round.HANDLE | .trace => Trace.HANDLE | .sample => Sample.HANDLE | .binding => Bind.HANDLE
  | .ring => Ring.HANDLE

/-- The STATE field of a kind. -/
def Kind.stateFld (k : Kind) : Fld :=
  match k with
  | .context => Ctx.STATE | .channel => Chan.STATE | .partition => Part.STATE | .farPort => WhdPort.STATE
  | .round => Round.STATE | .trace => Trace.STATE | .sample => Sample.STATE | .binding => Bind.STATE
  | .ring => Ring.STATE

/-- The PENDING_ENABLE field of a kind. -/
def Kind.pendFld (k : Kind) : Fld :=
  match k with
  | .context => Ctx.PENDING_ENABLE | .channel => Chan.PENDING_ENABLE | .partition => Part.PENDING_ENABLE
  | .farPort => WhdPort.PENDING_ENABLE | .round => Round.PENDING_ENABLE | .trace => Trace.PENDING_ENABLE
  | .sample => Sample.PENDING_ENABLE | .binding => Bind.PENDING_ENABLE | .ring => Ring.PENDING_ENABLE

/-- The END_REASON field of a kind, where its entry has one. -/
def Kind.endFld : Kind → Option Fld
  | .context => some Ctx.END_REASON | .channel => some Chan.END_REASON | .partition => some Part.END_REASON
  | .round => some Round.END_REASON
  | .farPort | .trace | .sample | .binding | .ring => none

/-- The CONTEXT field of a kind that names a context (02, R68). -/
def Kind.ctxFld : Kind → Option Fld
  | .channel => some Chan.CONTEXT | .round => some Round.CONTEXT | .binding => some Bind.CONTEXT
  | .sample => some Sample.CONTEXT | .trace => some Trace.CONTEXT
  | .context | .partition | .farPort | .ring => none

/-- The current handle of an object. -/
def State.handle (s : State) (k : Kind) (i : Nat) : Nat := s.rget k.handleFld i

/-- The STATE of a function: 0 OFF, 1 STARTING, 2 ON, 3 STOPPING, 4 FAULT. -/
def State.fstate (s : State) (k : Kind) (i : Nat) : Nat := s.rget k.stateFld i

/-- Is a function ON? -/
def State.isOn (s : State) (k : Kind) (i : Nat) : Bool := s.fstate k i == 2

/-- Is an index allocated? Fixed kinds always are (14, R458, R476). -/
def State.isAllocated (s : State) (k : Kind) (i : Nat) : Bool := !k.created || decide ((k, i) ∈ s.hub.allocated)

/-- The index that a handle of kind `k` names: right kind, index in range, allocated, current generation
(02, R69; 14, R476). -/
def State.resolve (s : State) (k : Kind) (h : Nat) : Option Nat :=
  let i := bits h 0 16
  if bits h 28 4 = k.code ∧ i < k.size ∧ s.isAllocated k i = true ∧ s.handle k i = h then some i else none

/-- The level of a context's threads. -/
def State.levelOf (s : State) (c : Nat) : Nat := s.rget Ctx.PRIV c

/-! ## Counters and trace (18) -/

/-- Does an OPID pass a match under a mask (18, R561)? -/
def opidPasses (opid mtch mask : Nat) : Bool := ((opid ^^^ mtch) &&& mask) == 0

/-- Event codes of a sampling session (18, R561). -/
def sampleEvents (s : State) (i : Nat) : List Nat := unpackNat 6 6 (s.rget Sample.EVENTS i)

/-- Does a session's range touch the tiles `[lo, lo + n)`? -/
def sampleCovers (s : State) (i lo n : Nat) : Bool :=
  decide (s.rget Sample.FIRST_TILE i < lo + n ∧ lo < s.rget Sample.FIRST_TILE i + s.rget Sample.TILE_COUNT i)

/-- Nanoseconds of a session's period. -/
def State.samplePeriod (s : State) (i : Nat) : Nat := 2 ^ s.rget Sample.PERIOD_LOG2 i * 1000

/-- Counts with none yet. -/
def noCounts : List Nat := List.replicate 6 0

/-- An event joins the period in which it is stamped (18, R563). -/
def Sampler.bump (m : Sampler) (now period : Nat) (add : List Nat → List Nat) : Sampler :=
  if now < m.endTime then { m with counts := add m.counts }
  else
    let ends := (now / period + 1) * period
    { m with later := put ends (add (lookD ends noCounts m.later)) m.later }

/-- Count `n` events of a code at the tiles `[lo, lo + cnt)` for a context and OPID (none: unattributed) in every
session that is ON or ends its last period (18, R559, R560, R562, R563). -/
def State.countEvent (s : State) (code lo cnt : Nat) (ctx : Option Half) (opid : Half) (n : Nat) : State :=
  if n = 0 then s
  else
    { s with
      obs := { s.obs with
        samplers := s.obs.samplers.map fun e =>
          let i := e.1
          let priv := decide (0x20 ≤ code)
          let ctxOk := s.rbit Sample.ALL_CONTEXTS i ||
            (match ctx with
             | some h => bits h.toNat 0 16 == s.rget Sample.CONTEXT i
             | none => false)
          let opOk := opidPasses opid.toNat (s.rget Sample.OPID_MATCH i) (s.rget Sample.OPID_MASK i)
          if (s.isOn .sample i || s.fstate .sample i == 3) && (priv || (ctxOk && opOk && sampleCovers s i lo cnt)) then
            (i, e.2.bump s.now (s.samplePeriod i) fun cs => (cs.zip (sampleEvents s i)).map fun p =>
                    if p.2 == code then p.1 + n else p.1)
          else e } }

/-- Tiles `[lo, lo + cnt)` stop: the periods in progress of the sessions that cover them carry STOPPED (18, R564). -/
def State.stopSamples (s : State) (lo cnt : Nat) : State :=
  { s with obs := { s.obs with samplers := s.obs.samplers.map fun e =>
    (e.1, if sampleCovers s e.1 lo cnt then { e.2 with stopped := true } else e.2) } }

/-- Count at a tile: its counter and the sessions. -/
def State.countTile (s : State) (f : Fld) (code t : Nat) (ctx : Option Half) (opid : Half) (n : Nat) : State :=
  (s.rwrap f t n).countEvent code t 1 ctx opid n

/-- The trace session of a die; the hub's events go to session 0 (18). -/
def traceSession (die : Nat) : Nat := if die < 4 then die else 0

/-- The buffer of a session. -/
def State.traceBuf (s : State) (d : Nat) : TraceBuf :=
  lookD d { recs := [], written := 0, exported := 0, left := 0, gapStops := [], stalled := false, lost := none } s.obs.bufs

def State.setTraceBuf (s : State) (d : Nat) (b : TraceBuf) : State :=
  { s with obs := { s.obs with bufs := put d b s.obs.bufs } }

/-- Records of a die's trace buffer (18, R564). -/
def traceCapacity : Nat := 131072

/-- CAPTURE codes (18, R566). -/
def captureIdle : Nat := 0
def captureArmed : Nat := 1
def captureFilling : Nat := 2
def captureFrozen : Nat := 3
def captureExporting : Nat := 4
def captureDone : Nat := 5

/-- A record joins a buffer, and in a full one takes the place of the oldest; the stamp of the first that was not yet
exported is kept (18, R570). -/
def TraceBuf.add (b : TraceBuf) (r : TraceRec) : TraceBuf :=
  let b := if b.recs.length < traceCapacity then b
    else { b with
      recs := b.recs.drop 1
      lost := if b.lost.isNone && decide (b.exported ≤ b.written - b.recs.length) then (b.recs.head?).map TraceRec.time
        else b.lost }
  { b with recs := b.recs ++ [r], written := b.written + 1 }

/-- Write one record into a session's buffer while it captures (18, R567): the oldest record gives way, and a
record after the trigger carries FLAGS [0]; the last of them ends the capture. -/
def State.traceWrite (s : State) (d : Nat) (r : TraceRec) : State :=
  let c := s.rget Trace.CAPTURE d
  let b := s.traceBuf d
  if c = captureArmed then (s.rwrap DieCnt.TRACE_RECORDS d).setTraceBuf d (b.add r)
  else if c = captureFilling ∧ 0 < b.left then
    let s := (s.rwrap DieCnt.TRACE_RECORDS d).setTraceBuf d { b.add { r with flags := 1 } with left := b.left - 1 }
    if b.left = 1 then s.rput Trace.CAPTURE d captureFrozen else s
  else s

/-- Does a session select a record of a class for a context and an OPID (18, R566)? -/
def State.traceSelects (s : State) (d cls ctx opid : Nat) : Bool :=
  (s.isOn .trace d || s.fstate .trace d == 3) && bit (s.rget Trace.CLASSES d) cls &&
  (s.rbit Trace.ALL_CONTEXTS d || (ctx != 0 && bits ctx 0 16 == s.rget Trace.CONTEXT d)) &&
  opidPasses opid (s.rget Trace.OPID_MATCH d) (s.rget Trace.OPID_MASK d)

/-- The GAP_STOP markers that the region of a record owes come before it (17, R551; 18, R565). -/
def State.traceGaps (s : State) (d region : Nat) : State :=
  let b := s.traceBuf d
  if decide (region ∈ b.gapStops) then
    let s := s.setTraceBuf d { b with gapStops := b.gapStops.filter fun x => decide (x ≠ region) }
    s.traceWrite d ⟨0x11, 0, region % 8, 0, s.rget PwrRegion.RESUME_TIME region, 0, 0, s.rget PwrRegion.STOP_TIME region⟩
  else s

/-- Trace a record of a class at a location of a die, when the die's session selects it. -/
def State.traceEvent (s : State) (d cls kind loc region : Nat) (ctx opid a b : Nat) : State :=
  if s.traceSelects d cls ctx opid then
    (s.traceGaps d region).traceWrite d ⟨kind, 0, loc, ctx, s.now, opid, a, b⟩
  else s

/-! ## Error records (13, R438 to R440) -/

/-- Put a record into entry HEAD mod 1,024 and move HEAD on. -/
def State.logWrite (s : State) (r : ErrRec) : State :=
  let r := { r with seq := s.rasSeq, time := s.now }
  let s := { s with rasLog := put (s.rget RasLog.HEAD % 1024) r s.rasLog, rasSeq := (s.rasSeq + 1) % 2 ^ 32 }
  (s.rwrap RasLog.HEAD).setEvt Evt.RAS_RECORD

/-- LOG_OVERFLOW (13, R440). -/
def overflowRec : ErrRec := { type := 0x00A9, severity := 0, reason := 0x3F }

/-- Write a record to the ring of 1,024: the last free entry takes LOG_OVERFLOW in the place of the record that
finds it, and from then on records are counted in DROPPED until the host moves TAIL on (13, R440; log 11). -/
def State.logRing (s : State) (r : ErrRec) : State :=
  let used := (s.rget RasLog.HEAD + 65536 - s.rget RasLog.TAIL) % 65536
  if used < 1023 then s.logWrite r
  else if used = 1023 then
    let t := s.logWrite overflowRec
    (if s.rbit RasLog.OVERFLOW then t else (t.rput RasLog.OVERFLOW 0 1).setEvt Evt.RAS_OVERFLOW).rput RasLog.DROPPED 0 1
  else s.rinc RasLog.DROPPED

/-- The die's trace session that records and triggers on an error record. -/
def ErrRec.session (r : ErrRec) : Nat := traceSession r.die

/-- The ERROR trace record of an error record (18, R565), in every session that it concerns. -/
def State.traceError (s : State) (r : ErrRec) (seq : Nat) : State :=
  let loc := if r.region < 8 then r.region + 8 * (if r.cluster < 8 then r.cluster else 0) +
    64 * (if r.tile < 4 then r.tile else 0) else 0xFFFF
  s.traceEvent r.session 6 0x06 loc (r.session * 8 + (if r.region < 8 then r.region else 0)) r.context r.opid
    (r.type + r.reason * 65536) seq

/-- OBS_TRIGGERED (18, R571). -/
def triggeredRec (d : Nat) : ErrRec := { type := 0x00E1, severity := 0, reason := 0, die := d }

/-- A mark: a trigger after the first (18, R568). -/
def State.traceMark (s : State) (d src die : Nat) : State :=
  let s := if s.rget Trace.CAPTURE d = captureFilling then
      s.traceWrite d ⟨0x13, 0, 0xFFFF, 0, s.now, 0, src, die⟩ else s
  s.rinc Trace.MARKS d

/-- The capture of a session fires: it freezes at once or fills on, and its time is kept (18, R567). -/
def State.traceCapture (s : State) (d src die fill : Nat) : State :=
  let s := s.traceWrite d ⟨0x12, 0, 0xFFFF, 0, s.now, 0, src, die⟩
  let s := s.setTraceBuf d { s.traceBuf d with left := fill }
  (s.rput Trace.CAPTURE d (if fill = 0 then captureFrozen else captureFilling)).rput Trace.TRIGGER_TIME d s.now

/-- TRACE_TRIGGERED of a session's capture. -/
def State.traceReport (s : State) (d : Nat) : State :=
  ((s.setEvt Evt.OBSERVE).logRing (triggeredRec d)).traceError (triggeredRec d) s.rasSeq

/-- The linked sessions that a session's trigger reaches next. -/
def State.linkSessions (s : State) (d : Nat) : List (Nat × Nat) :=
  ([0, 1, 2, 3].filter fun e => decide (e ≠ d) && s.isOn .trace e && bit (s.rget Trace.TRIG_SRC e) 4).map fun e => (e, d)

/-- A session's trigger goes on to the sessions linked to it. -/
def State.passOn (s : State) (d : Nat) : State :=
  if s.rbit Trace.TRIG_LINK d then { s with obs := { s.obs with linked := s.obs.linked ++ s.linkSessions d } } else s

/-- The first trigger of a session (18, R567, order 3): the TRIGGER record, the freezing of the window, OBSERVE,
the record OBS_TRIGGERED, and the passing of the trigger to linked sessions. `fill` is the post-trigger count. -/
def State.traceFire (s : State) (d src die fill : Nat) : State :=
  let s := (s.traceCapture d src die fill).traceReport d
  let s := if s.rget Trace.TRIG_SEV d = 0 ∧ bit (s.rget Trace.TRIG_SRC d) 1 = true then s.traceMark d 1 d else s
  s.passOn d

/-- A trigger source fires at a session (18, R567, R568). -/
def State.traceTrigger (s : State) (d src die : Nat) : State :=
  if s.isOn .trace d && bit (s.rget Trace.TRIG_SRC d) src then
    if s.rget Trace.CAPTURE d = captureArmed then s.traceFire d src die (s.rget Trace.POST_FILL d)
    else if s.rget Trace.CAPTURE d = captureIdle then s else s.traceMark d src die
  else s

/-- Write an error record: the ring, the trace, and the trigger on its severity (13, R440; 18, R565, R566). -/
def State.logError (s : State) (r : ErrRec) : State :=
  let seq := s.rasSeq
  let s := (s.logRing r).traceError r seq
  if s.rget Trace.TRIG_SEV r.session ≤ r.severity then s.traceTrigger r.session 1 r.session else s

/-- The location fields of a tile (00, R7). -/
def ErrRec.atTile (r : ErrRec) (t : Nat) : ErrRec :=
  { r with die := t / 256, region := t / 32 % 8, cluster := t / 4 % 8, tile := t % 4 }

/-- The location fields of a region. -/
def ErrRec.atRegion (r : ErrRec) (g : Nat) : ErrRec := { r with die := g / 8, region := g % 8 }

/-- The location fields of a die. -/
def ErrRec.atDie (r : ErrRec) (d : Nat) : ErrRec := { r with die := d }

/-- The location of the hub die. -/
def ErrRec.atHub (r : ErrRec) : ErrRec := { r with die := 4 }

/-- The partition that holds a region and is not OFF, if any (13, R434). -/
def State.partOfRegion (s : State) (g : Nat) : Option Nat :=
  (List.range 32).find? fun n => s.fstate .partition n != 0 &&
    (bit (s.rget Part.REGIONS n) g ||
     (s.rbit Part.PAIR n && decide (g / 8 < 4) && bit (s.rget Part.REGIONS n) ((3 - g / 8) * 8 + g % 8)))

/-- The context fields of a record. -/
def ErrRec.ofCtx (r : ErrRec) (s : State) (h opid step : Nat) : ErrRec :=
  { r with context := h, opid := opid, step := step,
           partition := if h = 0 then r.partition else s.rget Ctx.PARTITION (bits h 0 16) }

/-- A detection's record: counted in its partition's DETECTIONS (13, R433). -/
def State.detect (s : State) (p : Nat) (r : ErrRec) : State := (s.logError r).rinc Part.DETECTIONS p

/-! ## System items of the cistern (16, R511) -/

/-- The item that a content is of. -/
def SysValue.item : SysValue → SysItem
  | .svn _ => .svn
  | .column _ => .column
  | .memory _ => .memory
  | .key _ => .key
  | .cert _ => .cert
  | .restore _ => .restore
  | .journal => .journal

/-- What a reader finds in an item. -/
def Cistern.value (c : Cistern) : SysItem → SysValue
  | .svn => .svn c.highSvn
  | .column => .column c.columns
  | .memory => .memory c.rows
  | .key => .key c.keyEpoch
  | .cert => .cert c.cert
  | .restore => .restore c.restore
  | .journal => .journal

/-- The copy that a reader takes holds a content. -/
def Cistern.hold (c : Cistern) : SysValue → Cistern
  | .svn n => { c with highSvn := n }
  | .column m => { c with columns := m }
  | .memory rs => { c with rows := rs }
  | .key e => { c with keyEpoch := e }
  | .cert x => { c with cert := x }
  | .restore b => { c with restore := b }
  | .journal => c

/-- The copies of an item. -/
def Cistern.copyOf (c : Cistern) (i : SysItem) : Copies := lookD i ⟨0, true, some (c.value i)⟩ c.copies

/-- Write an item: the older copy is replaced and takes the next sequence number. -/
def State.writeItem (s : State) (v : SysValue) : State :=
  let c := s.cistern
  let k := c.copyOf v.item
  { s with cistern := { c.hold v with
      copies := put v.item ⟨k.seq + 1, true, if k.valid then some (c.value v.item) else none⟩ c.copies
      nand := c.nand + 16384 } }

/-- Write both copies of an item: the journal, and what is erased. -/
def State.writeBoth (s : State) (v : SysValue) : State :=
  let c := s.cistern
  { s with cistern := { c.hold v with
      copies := put v.item ⟨(c.copyOf v.item).seq + 1, true, some v⟩ c.copies
      nand := c.nand + 2 * 16384 } }

/-- Valid copies of an item. -/
def State.copiesOf (s : State) (i : SysItem) : Nat :=
  let k := s.cistern.copyOf i
  b2n k.valid + b2n k.other.isSome

/-- A copy of an item is lost: where it is the newer, a reader takes the other one (16, R511, R513). -/
def State.loseCopy (s : State) (i : SysItem) (newer : Bool) : State :=
  let k := s.cistern.copyOf i
  let set : Cistern → Copies → State := fun c x => { s with cistern := { c with copies := put i x s.cistern.copies } }
  match newer, k.other with
  | true, some v => set (s.cistern.hold v) ⟨k.seq - 1, true, none⟩
  | true, none => set s.cistern ⟨k.seq, false, none⟩
  | false, _ => set s.cistern ⟨k.seq, k.valid, none⟩

/-! ## Strikes (13, R441) -/

/-- A census entry has changed (04, R155). -/
def State.censusMoved (s : State) : State :=
  let s := s.rwrap CensusSum.GENERATION
  if s.rbit CensusSum.CHANGED then s else (s.rput CensusSum.CHANGED 0 1).setEvt Evt.CENSUS

/-- A count of strikes of a tile has risen to `n`: at STRIKE_LIMIT a column test is scheduled, with PENDING set while the
tile's partition is not OFF. -/
def State.strikesReach (s : State) (t n : Nat) : State :=
  if s.rget RasTest.STRIKE_LIMIT ≤ n ∧ ¬ t ∈ s.ras.testsDue then
    let s := { s with ras := { s.ras with testsDue := s.ras.testsDue ++ [t] } }
    if (s.partOfRegion (t / 32)).isSome then (s.rput Census.PENDING t 1).censusMoved else s
  else s

/-- A tile receives a strike. -/
def State.strikeTile (s : State) (t : Nat) : State :=
  let n := lookD t 0 s.ras.tileStrikes + 1
  ({ s with ras := { s.ras with tileStrikes := put t n s.ras.tileStrikes } } : State).strikesReach t n

/-- A physical column of a tile receives a strike. -/
def State.strikeColumn (s : State) (t p : Nat) : State :=
  let n := lookD (t, p) 0 s.ras.colStrikes + 1
  ({ s with ras := { s.ras with colStrikes := put (t, p) n s.ras.colStrikes } } : State).strikesReach t n

end Sys2Proof.Machine
end

