-- ==== Sys2Proof/Machine/Access.lean ====
section
/-!
DEFINITION. Accesses to device memory with their poison, their byte counters, failed devices and the snoop filter
(11, R351 to R363; 14, R451; 18, R558), and which addresses a thread or an engine may reach (02, R584; 07, R236;
17, R541, R542).
-/
namespace Sys2Proof.Machine

/-! ## Supplies and reserved areas -/

/-- A region whose supply STOP removed (17, R541). -/
def State.regionUp (s : State) (g : Nat) : Bool := !s.rbit PwrRegion.STOP g

/-- A cluster that has its supply (17, R541, R542). -/
def State.clusterUp (s : State) (c : Nat) : Bool :=
  s.regionUp (c / 8) && !bit (s.rget PwrRegion.CGATE (c / 8)) (c % 8)

/-- Is an address backed now (11, R351; 17, R541, R542)? -/
def State.backed (s : State) (a : Nat) : Bool :=
  match spaceOf a with
  | .hole => false
  | .basin t => s.clusterUp (t / 4)
  | .pool g => s.regionUp g
  | .side c => s.clusterUp c
  | .hbm | .lpddr | .host => true

/-- First byte of a tile's lend area (07, R235); the codes 9 to 15 of LEND are reserved and lend 8 units. -/
def State.lendBase (s : State) (t : Nat) : Nat :=
  basinOf t + basinBytes - 0x10000 * min (s.rget UpuLend.LEND (t / 32)) 8

/-- First byte of a region's root pool (07, R235). -/
def State.rootBase (s : State) (g : Nat) : Nat :=
  poolOf g + poolBytes - 0x100000 * min (s.rget UpuLend.ROOT_POOL g) 16

/-- Does an address lie in a lend area or a root pool (07, R236)? -/
def State.reserved (s : State) (a : Nat) : Bool :=
  match spaceOf a with
  | .basin t => decide (s.lendBase t ≤ a)
  | .pool g => decide (s.rootBase g ≤ a)
  | _ => false

/-- Is an address open to a thread's own accesses on a tile (02, R584; 11, R351)? -/
def State.openToThread (s : State) (tile a : Nat) : Bool :=
  s.backed a && !s.reserved a &&
  match spaceOf a with
  | .hbm | .lpddr | .host => true
  | .basin t => t == tile
  | .pool g => g == tile / 32
  | .side _ | .hole => false

/-- Every space boundary is a multiple of 64 KiB, so a range is open when its two ends lie in one space and are
open; a range across two spaces is checked at both of its ends and is never longer than the gap between them. -/
def State.rangeOpen (s : State) (tile a n : Nat) : Bool :=
  s.openToThread tile a && s.openToThread tile (a + n - 1)

/-! ## Failed devices (11, R362) and stores without supply (17, R541) -/

/-- Does an address lie in a failed stack, pseudo-channel or LPDDR device, or in an on-chip store without its supply, where
an access that is in flight reads poison and writes nothing? -/
def State.deadLine (s : State) (a : Nat) : Bool :=
  match spaceOf a with
  | .hbm => s.tiers.failed.any fun u =>
      match u with
      | .stack k => k == stackOf a
      | .pseudoChannel k p => k == stackOf a && p == pseudoOf a
      | .lpddr _ => false
  | .lpddr => s.tiers.failed.any fun u =>
      match u with
      | .lpddr n => n == lpddrOf a
      | _ => false
  | .basin t => !s.clusterUp (t / 4)
  | .pool g => !s.regionUp g
  | .side c => !s.clusterUp c
  | .host | .hole => false

/-! ## Counters of bytes (18, R558, R560) -/

/-- Count bytes read or written at the space of an address. The privileged events count module-wide. -/
def State.countBytes (s : State) (a n : Nat) (write : Bool) : State :=
  match spaceOf a with
  | .hbm =>
    (s.rwrap (if write then DieCnt.HBM_WRITE_BYTES else DieCnt.HBM_READ_BYTES) (a / 0x003000000000) n).countEvent
      (if write then 0x21 else 0x20) 0 1024 none 0 n
  | .lpddr =>
    (s.rwrap (if write then ModuleCnt.LPDDR_WRITE_BYTES else ModuleCnt.LPDDR_READ_BYTES) 0 n).countEvent
      (if write then 0x23 else 0x22) 0 1024 none 0 n
  | .host => s.rwrap (if write then ModuleCnt.CXL_TX_BYTES else ModuleCnt.CXL_RX_BYTES) 0 n
  | _ => s

/-! ## The snoop filter (14, R451) -/

/-- Back-invalidate the lines of a range that host caches hold. -/
def State.snoopOut (s : State) (a n : Nat) : State :=
  if s.tiers.snoop.isEmpty then s
  else { s with tiers := { s.tiers with snoop := s.tiers.snoop.filter fun l => decide (l ∉ linesOf a n) } }

/-! ## Reads and writes -/

/-- The bytes of a range, as stored. -/
def State.peek (s : State) (a n : Nat) : List Byte := Memory.reads a n s.mem

/-- Does a range touch a poisoned line, a failed device or a store without supply (11, R357, R362; 17, R541)? -/
def State.poisoned (s : State) (a n : Nat) : Bool :=
  (linesOf a n).any fun l => decide (l ∈ s.poison) || s.deadLine (l * 64)

/-- A read of device memory: its bytes, its poison, and the state with the read counted and host copies called
back. -/
def State.load (s : State) (a n : Nat) : List Byte × Bool × State :=
  (s.peek a n, s.poisoned a n, (s.snoopOut a n).countBytes a n false)

/-- The state after a read, its bytes apart. -/
def State.touch (s : State) (a n : Nat) : State := (s.load a n).2.2

/-- The poison bit of a line after a write of `[a, a + n)` with a mark: a whole line takes the mark, part of a line
keeps a poison that was there (11, R357). -/
def poisonAfter (a n : Nat) (mark : Bool) (l : Nat) (old : Bool) : Bool :=
  if a ≤ l * 64 ∧ l * 64 + 64 ≤ a + n then mark else old || mark

/-- A write to device memory of bytes with a poison mark. Writes to a failed device or a store without
supply are discarded (11, R362; 17, R541). -/
def State.store (s : State) (a : Nat) (bs : List Byte) (mark : Bool) : State :=
  let n := bs.length
  let s := (s.snoopOut a n).countBytes a n true
  let live := linesOf a n |>.filter fun l => !s.deadLine (l * 64)
  let bs' := (List.range n).zip bs |>.filter fun p => !s.deadLine (a + p.1)
  { s with
    mem := bs'.foldl (fun m p => Memory.write (a + p.1) p.2 m) s.mem
    poison := live.foldl (fun ps l => markLine l (poisonAfter a n mark l (decide (l ∈ ps))) ps) s.poison }

/-- Write a number of `n` bytes, least significant byte first (00, R9). -/
def State.storeNat (s : State) (a n v : Nat) (mark : Bool) : State := s.store a (toBytes n v) mark

/-- The little-endian number in a range. -/
def State.peekNat (s : State) (a n : Nat) : Nat := fromBytes (s.peek a n)

/-- Write zero with poison clear over a range that loses its contents (01, R25; 13, R436; 17, R541). -/
def State.wipe (s : State) (lo hi : Nat) : State :=
  { s with
    mem := Memory.clear lo hi s.mem
    poison := s.poison.filter fun l => decide (l * 64 < lo ∨ hi ≤ l * 64) }

/-- May the module reach host memory (11, R370)? -/
def State.hostUp (s : State) : Bool := s.rbit HubLink.CACHE_EN && decide (s.rget HubLink.SPEED ≠ 0)

end Sys2Proof.Machine
end

