-- ==== Sys2Proof/Machine/Threads.lean ====
section
/-!
DEFINITION. Shared operations on threads, contexts and functions: completing ring commands and posting function
events (14, R465 to R475), ending threads and contexts (02, R48, R59, R60; 14, R477), instruction faults and the
consuming of poison (12, R414; 13, R431).
-/
namespace Sys2Proof.Machine

/-! ## Completions and function events -/

/-- A taken ring command completes: its entry waits in the hub for room in the completion ring (14, R465, R466). -/
def State.finishCmd (s : State) (id handle reason : Nat) : State :=
  match s.hub.taken.find? fun t => t.id == id with
  | none => s
  | some t =>
    { s with hub := { s.hub with
        taken := s.hub.taken.filter fun u => u.id != id
        completions := s.hub.completions ++ [⟨t.ring, t.tag, handle, reason⟩] } }

/-- EVENT_DROPPED (14, R480). -/
def eventDroppedRec : ErrRec := { type := 0x00F4, severity := 0, reason := 0x0E, die := 4 }

/-- Post a function event into the hub's queue of 256; a full queue drops it (14, R470). -/
def State.postEvent (s : State) (k : Kind) (i reason : Nat) : State :=
  if s.hub.events.length < 256 then
    { s with hub := { s.hub with events := s.hub.events ++ [⟨s.handle k i, s.fstate k i, reason⟩] } }
  else
    let fresh := !s.rbit Evt.EVENT_DROPPED
    let s := (s.rinc EvtCtrl.DROPPED).setEvt Evt.EVENT_DROPPED
    if fresh then s.logError eventDroppedRec else s

/-- Answer one command that waits on a function. A register write that enables a ring reports in LAST_REASON (14, R459,
R478). -/
def State.answerWaiter (s : State) (w : Waiter) (code : Nat) : State :=
  match w.cmd with
  | some id =>
    let h := ((s.hub.taken.find? fun t => t.id == id).map Taken.handle).getD (s.handle w.kind w.index)
    s.finishCmd id h code
  | none => if code = 0 then s else s.rput Ring.LAST_REASON w.index code

/-- Complete every command that waits on a function, each with the code given for its kind. Answers whether any
waited. -/
def State.finishWaiters (s : State) (k : Kind) (i : Nat) (onEnable onDisable : Nat) : Bool × State :=
  let ws := s.hub.waiters.filter fun w => w.kind == k && w.index == i
  let s := { s with hub := { s.hub with waiters := s.hub.waiters.filter fun w => !(w.kind == k && w.index == i) } }
  (!ws.isEmpty, ws.foldl (fun s w => s.answerWaiter w (if w.enable then onEnable else onDisable)) s)

/-- A function enters ON (14, R472, R473). -/
def State.reachOn (s : State) (k : Kind) (i : Nat) : State :=
  let s := s.rput k.stateFld i 2
  match s.finishWaiters k i 0 0 with
  | (true, s) => s
  | (false, s) => s.postEvent k i 0

/-- A function enters OFF, its latched enable apart (14, R472, R473). -/
def State.reachOff (s : State) (k : Kind) (i : Nat) : State :=
  let s := { s.rput k.stateFld i 0 with hub := { s.hub with
    ending := s.hub.ending.filter fun e => !(e.kind == k && e.index == i)
    aborting := s.hub.aborting.filter fun e => !(e.1 == k && e.2 == i) } }
  match s.finishWaiters k i 0x07 0 with
  | (true, s) => s
  | (false, s) => s.postEvent k i 0

/-- A function enters FAULT: the commands that wait on it complete with the code of its end, and a latched enable
is cleared with an event (14, R472, R475). -/
def State.reachFault (s : State) (k : Kind) (i reason : Nat) : State :=
  let latched := s.rbit k.pendFld i
  let s := (s.rput k.stateFld i 4).rput k.pendFld i 0
  let s := { s with hub := { s.hub with
    latched := del (k, i) s.hub.latched
    ending := s.hub.ending.filter fun e => !(e.kind == k && e.index == i)
    aborting := s.hub.aborting.filter fun e => !(e.1 == k && e.2 == i) } }
  let s := match s.finishWaiters k i reason reason with
    | (true, s) => s
    | (false, s) => s.postEvent k i reason
  if latched then s.postEvent k i 0x07 else s

/-- Is a function on its way to FAULT? -/
def State.isEnding (s : State) (k : Kind) (i : Nat) : Bool := s.hub.ending.any fun e => e.kind == k && e.index == i

/-! ## Threads -/

/-- The thread in a slot. -/
def State.thread? (s : State) (t : ThreadRef) : Option Thread := look t s.tsq.threads

/-- Write the thread of a slot. -/
def State.setThread (s : State) (t : ThreadRef) (th : Thread) : State :=
  { s with tsq := { s.tsq with threads := put t th s.tsq.threads } }

/-- The slot returns to FREE (02, R48). -/
def State.freeSlot (s : State) (t : ThreadRef) : State :=
  { s with tsq := { s.tsq with threads := del t s.tsq.threads } }

/-- Threads of a context, module-wide: LIVE_THREADS (02, R57). -/
def State.liveThreads (s : State) (c : Nat) : Nat :=
  (s.tsq.threads.filter fun e => bits e.2.ctx.toNat 0 16 == c).length

/-- Started commands of a thread. -/
def State.startedCmds (s : State) (t : ThreadRef) : Bool := s.tsq.cmds.any fun c => c.thread == t && c.started

/-- A context whose last thread has ended stops taking part in the gate that has begun (01, R17). -/
def State.leaveIfLast (s : State) (c : Nat) : State :=
  if s.tsq.threads.any fun e => bits e.2.ctx.toNat 0 16 == c && decide (e.2.status ≠ .ended) then s
  else { s with tsq := { s.tsq with gates := s.tsq.gates.map fun e =>
    (e.1, { e.2 with contexts := e.2.contexts.filter fun x => x.1 != c }) } }

/-- A thread ends: commands it has queued and not started are discarded, its slot is FREE as soon as no started
command of it remains, and its context leaves the open gate with its last thread (02, R48; 01, R17). -/
def State.endThread (s : State) (t : ThreadRef) : State :=
  match s.thread? t with
  | none => s
  | some th =>
    let s := { s with tsq := { s.tsq with
      cmds := s.tsq.cmds.filter fun c => !(c.thread == t && !c.started)
      blockedCmd := del t s.tsq.blockedCmd } }
    (if s.startedCmds t then s.setThread t { th with status := .ended, asking := none } else s.freeSlot t).leaveIfLast
      (bits th.ctx.toNat 0 16)

/-- Every thread of a context ends (02, R60). -/
def State.endThreads (s : State) (c : Nat) : State :=
  (s.tsq.threads.filter fun e => bits e.2.ctx.toNat 0 16 == c).foldl (fun s e => s.endThread e.1) s

/-! ## Ends of contexts and functions -/

/-- Does the CONTEXT field of a function name its context (02, R68)? Sessions over all contexts name none. -/
def State.namesContext (s : State) (k : Kind) (i : Nat) : Bool :=
  match k with
  | .sample => !s.rbit Sample.ALL_CONTEXTS i
  | .trace => !s.rbit Trace.ALL_CONTEXTS i
  | _ => true

/-- Functions of a kind that are bound to a context and allocated (02, R68). -/
def State.boundTo (s : State) (k : Kind) (c : Nat) : List Nat :=
  match k.ctxFld with
  | none => []
  | some f => (s.hub.allocated.filter fun e => e.1 == k && s.rget f e.2 == c && s.namesContext k e.2).map Prod.snd

/-- A channel that stops sends no new frame (09, R310): what waits for a window is not sent. A frame that waits for a
policer has been issued and is never dropped (R295). -/
def State.haltChannel (s : State) (ch : Nat) : State :=
  let gone := s.fabric.windowed.filter fun e => e.1.channel == ch
  let left := gone.foldl (fun m e => match e.2.1 with
    | some c => put c (lookD c 0 m - 1) m
    | none => m) s.collect.sending
  { s with
    fabric := { s.fabric with windowed := s.fabric.windowed.filter fun e => e.1.channel != ch }
    collect := { s.collect with sending := left } }

/-- What stops at once when a function leaves ON. -/
def State.halt (s : State) (k : Kind) (i : Nat) : State :=
  match k with
  | .channel => s.haltChannel i
  | _ => s

/-- A function that is STARTING or ON stops on its way to FAULT (08, R310 of 09; 10, R348; 07, R243; 18, R562). -/
def State.stopForFault (s : State) (k : Kind) (i reason : Nat) : State :=
  if s.fstate k i = 1 ∨ s.fstate k i = 2 then
    let s := s.rput k.stateFld i 3
    let s := match k.endFld with
      | some f => s.rput f i reason
      | none => s
    ({ s with hub := { s.hub with ending := s.hub.ending ++ [Ending.mk k i] } } : State).halt k i
  else s

/-- A context is on its way to FAULT with an END_REASON (02, R60): all its threads end, and the functions bound to
it stop. The reason of the first event stays. -/
def State.endContext (s : State) (c reason : Nat) : State :=
  if (s.fstate .context c = 1 ∨ s.fstate .context c = 2 ∨ s.fstate .context c = 3) ∧ ¬ s.isEnding .context c = true then
    let s := (s.rput Ctx.STATE c 3).rput Ctx.END_REASON c reason
    let s := { s with hub := { s.hub with ending := s.hub.ending ++ [Ending.mk .context c] } }
    let s := s.endThreads c
    [Kind.round, .binding, .channel, .sample].foldl (fun s k =>
      (s.boundTo k c).foldl (fun s i => s.stopForFault k i reason) s) s
  else s

/-- Where a context's last FAULT came from: the OPID, tile and slot of its instruction or command (02, R57). -/
def State.blameAt (s : State) (c opid : Nat) (t : ThreadRef) : State :=
  ((s.rput Ctx.FAULT_OPID c opid).rput Ctx.FAULT_TILE c t.tile.toNat).rput Ctx.FAULT_SLOT c t.slot.toNat

/-- The instruction that brought a context's last FAULT (02, R57). -/
def State.blame (s : State) (t : ThreadRef) (th : Thread) : State := s.blameAt (bits th.ctx.toNat 0 16) th.opid.toNat t

/-- The error record types of instruction faults (12, R414). -/
inductive InsnFault where
  | undefined | privilege | address | misaligned | descriptor
  deriving DecidableEq, Repr

/-- The record type of an instruction fault (12, R414; 13, R439). -/
def InsnFault.type : InsnFault → Nat
  | .undefined => 0x0010 | .privilege => 0x0011 | .address => 0x0012 | .misaligned => 0x0013 | .descriptor => 0x0014

/-- The record of an instruction fault of a thread. -/
def insnRec (s : State) (t : ThreadRef) (th : Thread) (f : InsnFault) (reason addr : Nat) : ErrRec :=
  (({ type := f.type, severity := 3, reason := reason, address := addr } : ErrRec).ofCtx s th.ctx.toNat
    th.opid.toNat th.step.toNat).atTile t.tile.toNat

/-- An instruction fault (12, R414): the error record, and the end of the thread's context with 0x1D. -/
def State.insnFault (s : State) (t : ThreadRef) (th : Thread) (f : InsnFault) (reason : Nat) (addr : Nat := 0) : State :=
  let s := s.logError (insnRec s t th f reason addr)
  (s.blame t th).endContext (bits th.ctx.toNat 0 16) 0x1D

/-- POISON_CONSUMED of a thread (13, R431). -/
def poisonRec (s : State) (t : ThreadRef) (th : Thread) (addr : Nat) : ErrRec :=
  (({ type := 0x00A5, severity := 3, reason := 0x1B, address := addr } : ErrRec).ofCtx s th.ctx.toNat
    th.opid.toNat th.step.toNat).atTile t.tile.toNat

/-- A thread's context consumes poison (13, R431): the record, and the end of the context with 0x1B. -/
def State.consumePoison (s : State) (t : ThreadRef) (th : Thread) (addr : Nat) : State :=
  let s := s.logError (poisonRec s t th addr)
  (s.blame t th).endContext (bits th.ctx.toNat 0 16) 0x1B

/-! ## Rungs (03, R118 to R120) -/

/-- A context's rung and what waits for its gate. -/
def State.rungOf (s : State) (c : Nat) : RungState :=
  lookD c { rung := 1, pending := none, promotions := 0 } s.tsq.rungs

end Sys2Proof.Machine
end

