-- ==== Sys2Proof/Machine/Frames.lean ====
section
/-!
DEFINITION. Frames and their way out of the module: operations and classes (09, R290), flits (09, R286, R289),
egress selection (09, R300), the C0 policer (09, R295), end-to-end windows (09, R294) and the flow numbers of a
channel (09, R302, R308). Traffic whose destination is this module is delivered here without the fabric (08).
-/
namespace Sys2Proof.Machine

/-! ## Operations (09, R290) -/

def opGatherReq : Nat := 0x01
def opGatherData : Nat := 0x02
def opLeaseRelease : Nat := 0x03
def opContribution : Nat := 0x04
def opShift : Nat := 0x05
def opSend : Nat := 0x06
def opGrant : Nat := 0x07
def opHello : Nat := 0x08
def opReject : Nat := 0x09
def opTokenPost : Nat := 0x0A
def opGateFlags : Nat := 0x0B
def opDigest : Nat := 0x0C
def opBulk : Nat := 0x0D

/-- The class of an operation. -/
def opClass (op : Nat) : Nat :=
  match op with
  | 0x01 | 0x02 | 0x03 | 0x05 | 0x06 => 2
  | 0x04 => 1
  | 0x0D => 3
  | _ => 0

/-- A frame with nothing in it. -/
def blankFrame : Frame :=
  { cls := 0, src := 0, dest := 0, channel := 0, op := 0, coded := false, member := 0, shard := 0, segment := 0,
    gen := 0, step := 0, attempt := 0, opid := 0, seq := 0, status := 0, srcEpoch := 0, dstEpoch := 0, body := [],
    poison := [] }

/-! ## Bytes and flits (09, R286, R289) -/

/-- The 40-byte frame header. -/
def frameHeader (f : Frame) : List Byte :=
  toBytes 1 f.op ++ toBytes 1 (b2n f.coded) ++ toBytes 2 (f.member % 8192) ++ toBytes 4 f.shard ++
  toBytes 2 f.segment ++ toBytes 2 f.gen ++ toBytes 4 f.body.length ++ toBytes 8 f.step ++ toBytes 4 f.attempt ++
  toBytes 4 f.opid ++ toBytes 4 f.seq ++ toBytes 1 f.status ++ toBytes 1 f.srcEpoch ++ toBytes 1 f.dstEpoch ++ [0]

/-- The frame that a payload spells, with the flow fields of its flits. -/
def readFrame (cls src dest channel : Nat) (poison : List Bool) (bs : List Byte) : Frame :=
  { cls := cls, src := src, dest := dest, channel := channel, op := leField bs 0 1, coded := bit (leField bs 1 1) 0,
    member := leField bs 2 2 % 8192, shard := leField bs 4 4, segment := leField bs 8 2, gen := leField bs 10 2,
    step := leField bs 16 8, attempt := leField bs 24 4, opid := leField bs 28 4, seq := leField bs 32 4,
    status := leField bs 36 1, srcEpoch := leField bs 37 1, dstEpoch := leField bs 38 1,
    body := slice bs 40 (leField bs 12 4), poison := poison }

/-- Payload bytes of a full flit. -/
def flitBytes : Nat := 244

/-- Flits of a frame. -/
def flitCount (f : Frame) : Nat := ceilDiv (40 + f.body.length) flitBytes

/-- The flits of a frame, with HOPS 0. -/
def flitsOf (f : Frame) : List Flit :=
  let ps := pieces flitBytes (frameHeader f ++ f.body)
  ((List.range ps.length).zip ps).map fun e =>
    { cls := f.cls, poison := f.poison.getD e.1 false, first := e.1 == 0, last := e.1 + 1 == ps.length, idle := false,
      dest := f.dest, src := f.src, channel := f.channel, hops := 0, payload := e.2 }

/-- The 64-bit header of a flit. -/
def flitHeader (f : Flit) : Nat :=
  f.cls % 4 + b2n f.poison * 2 ^ 2 + b2n f.first * 2 ^ 3 + b2n f.last * 2 ^ 4 + b2n f.idle * 2 ^ 5 + f.dest % 2 ^ 14 * 2 ^ 8 +
  f.src % 2 ^ 14 * 2 ^ 22 + f.channel % 2 ^ 15 * 2 ^ 36 + f.payload.length % 2 ^ 8 * 2 ^ 51 + f.hops % 2 ^ 5 * 2 ^ 59

/-- The 256 bytes of a flit: its header, its payload, zeros up to 244 bytes of it, and the CRC over both. -/
def flitImage (f : Flit) : List Byte :=
  let bs := toBytes 8 (flitHeader f) ++ f.payload ++ List.replicate (flitBytes - f.payload.length) 0
  bs ++ toBytes 4 (crc32c bs)

/-- Does the CRC of 256 bytes pass? -/
def flitSound (bs : List Byte) : Bool := leField bs 252 4 == crc32c (bs.take 252)

/-- The flit that 256 bytes spell. -/
def readFlit (bs : List Byte) : Flit :=
  let h := leField bs 0 8
  { cls := bits h 0 2, poison := bit h 2, first := bit h 3, last := bit h 4, idle := bit h 5, dest := bits h 8 14
    src := bits h 22 14, channel := bits h 36 15, hops := bits h 59 5, payload := slice bs 8 (min flitBytes (bits h 51 8)) }

/-! ## Link blocks (09, R284, R288) -/

/-- Flits of a link block. -/
def blockFlits : Nat := 5

/-- Bytes of a link block: its flits and the link word. -/
def blockBytes : Nat := 256 * blockFlits + 5

/-- The 40-bit link word of a block sent. -/
def SentBlock.linkWord (b : SentBlock) : Nat :=
  b.seq % 2 ^ 12 + b.ack % 2 ^ 12 * 2 ^ 12 + b2n b.nak * 2 ^ 24 + b.creditClass % 4 * 2 ^ 25 + b.creditCount % 2 ^ 9 * 2 ^ 27

/-- The bytes of a block as it is sent, and sent again: its link word stays as it was formed. -/
def SentBlock.image (b : SentBlock) : List Byte := b.flits.flatMap (fun q => flitImage q.flit) ++ toBytes 5 b.linkWord

/-- The bytes of a block's flits as they arrive. -/
def arrivedFlits (b : LinkBlock) : List (List Byte) := (List.range blockFlits).map fun i => slice b.bytes (256 * i) 256

/-- A block as it arrives, read: its flits, its link word, and whether FEC and every CRC passed. -/
structure LinkRead where
  flits       : List Flit
  seq         : Nat
  ack         : Nat
  nak         : Bool
  creditClass : Nat
  creditCount : Nat
  intact      : Bool
  deriving DecidableEq, Repr

/-- Read a block that arrives. -/
def readBlock (b : LinkBlock) : LinkRead :=
  let w := leField b.bytes (256 * blockFlits) 5
  let fs := arrivedFlits b
  { flits := fs.map readFlit, seq := bits w 0 12, ack := bits w 12 12, nak := bit w 24, creditClass := bits w 25 2
    creditCount := bits w 27 9, intact := b.uncorrectable == 0 && fs.all flitSound }

/-- Does any flit that carries body bytes `[off, off + n)` carry poison? -/
def bodyPoison (f : Frame) (off n : Nat) : Bool :=
  let lo := (40 + off) / flitBytes
  let hi := (40 + off + n - 1) / flitBytes
  decide (0 < n) && (List.range (hi + 1 - lo)).any fun i => f.poison.getD (lo + i) false

/-- The POISON bits of a frame's flits, from the poison of each body byte. -/
def flitPoison (len : Nat) (dirty : Nat → Nat → Bool) : List Bool :=
  (List.range (ceilDiv (40 + len) flitBytes)).map fun i =>
    let lo := i * flitBytes - 40
    let hi := min len ((i + 1) * flitBytes - 40)
    decide (lo < hi) && dirty lo (hi - lo)

/-! ## Counters (02, R70, R73) -/

/-- Has a counter reached a value (02, R70)? -/
def reached (k v : Half) : Bool := decide ((k - v).toNat < 2 ^ 31)

/-- The thread with counter `k` raised by `v`; a TWAIT that this satisfies ends (02, R73). -/
def Thread.addToken (th : Thread) (k : BitVec 4) (v : Half) : Thread :=
  let ks := th.k.set k.toNat (th.k[k.toNat]'k.isLt + v) k.isLt
  { th with
    k := ks
    status := match th.status with
      | .waitTok j w => if reached (ks[j.toNat]'j.isLt) w then .ready else .waitTok j w
      | st => st }

/-! ## Ports and egress (09, R300) -/

/-- This module's id. -/
def State.moduleId (s : State) : Nat := s.rget FabId.MODULE_ID

/-- A port that is UP and not disabled. -/
def State.portUp (s : State) (p : Nat) : Bool := s.rget FabPort.STATE p == 2 && !s.rbit FabPort.DISABLE p

/-- The usable ports towards a module. -/
def State.usablePorts (s : State) (m : Nat) : List Nat :=
  if s.rbit FabRoute.VALID m then
    (List.range 32).filter fun p => bit (s.rget FabRoute.PORTS m) p && s.portUp p
  else []

/-- The egress port of a flow (09, R300); none when it is undeliverable. -/
def State.egress (s : State) (dest src chan cls : Nat) : Option Nat :=
  let ports := s.usablePorts dest
  let key := dest + src * 2 ^ 14 + chan * 2 ^ 28 + cls * 2 ^ 43
  if ports.isEmpty then none else ports[crc32c (toBytes 8 key) % ports.length]?

/-- The receive credits of R291. -/
def linkCredits : List Nat := [16, 384, 384, 128]

/-- A port's link state at a start: the first turn is C1's (R292). -/
def freshPort : PortState :=
  { queue := [], forming := [], retry := [], txSeq := 0, rxLast := 4095, nak := false, ackWaits := 0, lastAck := 0
    credits := linkCredits, owed := [0, 0, 0, 0], turn := 3, used := 0, size := 0 }

/-- The link state of a port. -/
def State.port (s : State) (p : Nat) : PortState :=
  lookD p freshPort s.fabric.ports

def State.setPort (s : State) (p : Nat) (v : PortState) : State :=
  { s with fabric := { s.fabric with ports := put p v s.fabric.ports } }

/-- FAB_UNROUTABLE (09, R301). -/
def unroutableRec (chan : Nat) : ErrRec := { type := 0x0060, severity := 3, reason := 0x29, die := 4, unit := chan }

/-- An undeliverable flit or frame is discarded and counted in its channel. -/
def State.dropUnroutable (s : State) (chan : Nat) : State :=
  ((s.rinc Chan.REJECTS chan).rput Chan.LAST_ERROR chan 0x29).logError (unroutableRec chan)

/-- C0 flits that wait at a port's egress. -/
def PortState.waitingC0 (p : PortState) : Nat := (p.queue.filter fun q => q.flit.cls == 0).length

/-- Put flits at a port's egress; a C0 flit that finds more than 8 others waiting is counted (09, R297). -/
def State.enqueueFlits (s : State) (p : Nat) (out : Option Nat) (fs : List Flit) : State :=
  fs.foldl (fun s f =>
    let q := s.port p
    let s := if f.cls = 0 ∧ 8 < q.waitingC0 then s.rinc FabPort.C0_OVER p else s
    s.setPort p { q with queue := q.queue ++ [PortFlit.mk f out] }) s

/-- A command's frames that are not acknowledged yet: one more. -/
def State.addSending (s : State) (cmd : Option Nat) : State :=
  match cmd with
  | none => s
  | some c =>
    { s with collect := { s.collect with sending := put c (lookD c 0 s.collect.sending + 1) s.collect.sending } }

/-- A CSHIFT's source may be reused: the counter that it named rises (08, R277). -/
def State.signalReuse (s : State) (c : Nat) : State :=
  match look c s.collect.reuse with
  | none => s
  | some (t, ctx, k) =>
    let s := { s with collect := { s.collect with reuse := del c s.collect.reuse } }
    match s.thread? t with
    | some th => if th.ctx = ctx then s.setThread t (th.addToken k 1) else s
    | none => s

/-- One frame of a command less; with the last one its source may be reused (09, R314). -/
def State.doneSending (s : State) (cmd : Option Nat) : State :=
  match cmd with
  | none => s
  | some c =>
    let n := lookD c 0 s.collect.sending - 1
    let s := { s with collect := { s.collect with sending := put c n s.collect.sending } }
    if n = 0 then s.signalReuse c else s

/-- A channel's epoch on this module (09, R308). -/
def State.epoch (s : State) (chan : Nat) : Nat := lookD chan 0 s.fabric.epochs

/-- A frame of this module leaves: locally, or with its flow's number and epochs to its egress port (09, R302,
R308). HELLO and REJECT lie outside the flow's numbers (log 26). -/
def State.launchFrame (s : State) (f : Frame) (cmd : Option Nat) : State :=
  let own := s.moduleId
  let f := { f with src := own, cls := opClass f.op }
  if f.dest = own then
    { (s.doneSending cmd) with fabric := { s.fabric with delivered := s.fabric.delivered ++ [f] } }
  else
    let key : FlowKey := ⟨f.dest, f.channel, f.cls⟩
    let bare := f.op == opHello || f.op == opReject
    let n := lookD key 0 s.fabric.txSeq
    let peer := lookD (f.channel, f.dest) 0 s.fabric.peerEpoch
    let f := { f with
      seq := if bare then 0 else n
      srcEpoch := s.epoch f.channel
      dstEpoch := if f.op = opHello then 0 else peer }
    let s := { s with fabric := { s.fabric with
      txSeq := if bare then s.fabric.txSeq else put key ((n + 1) % 2 ^ 32) s.fabric.txSeq } }
    let s := (s.rwrap Chan.TX_FRAMES f.channel).rwrap Chan.TX_BYTES f.channel f.body.length
    match s.egress f.dest own f.channel f.cls with
    | none => s.dropUnroutable f.channel
    | some p =>
      let id := s.fabric.nextOut
      let fs := flitsOf f
      let s := { s with fabric := { s.fabric with
        outs := put id ⟨f, p, fs.length, cmd⟩ s.fabric.outs
        nextOut := id + 1 } }
      s.enqueueFlits p (some id) fs

/-! ## Windows and policers -/

/-- Flits of this module in the end-to-end window of a destination and class. -/
def State.windowUsed (s : State) (dest cls : Nat) : Nat :=
  (lookD ⟨dest, 0, cls⟩ [] s.fabric.windows).foldl (fun n w => n + w.flits) 0

/-- Does a window of 32 flits have room for a frame (09, R294)? A frame longer than the window has it to itself (log 27). -/
def State.windowRoom (s : State) (dest cls : Nat) (f : Frame) : Bool :=
  let used := s.windowUsed dest cls
  used == 0 || decide (used + flitCount f ≤ 32)

/-- A frame of class C1 or C2 leaves when its window has room, and waits otherwise (09, R294). -/
def State.windowFrame (s : State) (f : Frame) (cmd : Option Nat) (win : Option (Nat × Nat)) : State :=
  let cls := opClass f.op
  let waits := s.fabric.windowed.any fun w => w.1.dest == f.dest && opClass w.1.op == cls
  if f.dest = s.moduleId then s.launchFrame f cmd
  else if waits || !s.windowRoom f.dest cls f then
    { s with fabric := { s.fabric with windowed := s.fabric.windowed ++ [(f, cmd, win)] } }
  else
    let key : FlowKey := ⟨f.dest, 0, cls⟩
    let s := { s with fabric := { s.fabric with
      windows := put key (lookD key [] s.fabric.windows ++ [InWindow.mk (flitCount f) win]) s.fabric.windows } }
    s.launchFrame f cmd

/-- The policer of a C0 source (09, R295). -/
def State.policer (s : State) (src : Nat) : Policer := lookD src ⟨[], 4, 0⟩ s.fabric.sources

/-- The tokens of a bucket now: one more each 50 ns, up to 4. -/
def Policer.level (p : Policer) (now : Nat) : Nat := min 4 (p.tokens + (now - p.at_) / 50)

/-- The bucket after its refill up to now and a frame that takes a token. -/
def Policer.take (p : Policer) (now : Nat) : Policer :=
  { p with tokens := p.level now - 1, at_ := if p.level now = 4 then now else p.at_ + (now - p.at_) / 50 * 50 }

def State.setPolicer (s : State) (src : Nat) (p : Policer) : State :=
  { s with fabric := { s.fabric with sources := put src p s.fabric.sources } }

/-- The C0 sources beside the tiles (09, R295; log 26): the gate, the start and end of channels, and the grants of the
collective slices. -/
def hubSource (op : Nat) : Nat := if op = opGateFlags then 1024 else if op = opGrant then 1026 else 1025

/-- A C0 frame reaches its policer: it is admitted, or it waits and its tile counts the wait. -/
def State.policeFrame (s : State) (src : Nat) (f : Frame) (ctx : Option Half) (opid : Half) : State :=
  let p := s.policer src
  if p.waiting.isEmpty ∧ 0 < p.level s.now then (s.setPolicer src (p.take s.now)).launchFrame f none
  else
    let s := s.setPolicer src { p with waiting := p.waiting ++ [(f, none)] }
    if src < 1024 then s.countTile TileCnt.C0_HELD 0x07 src ctx opid 1 else s

/-- Send a frame from an engine of the module: C0 through its agent's policer, C1 and C2 through their windows. -/
def State.sendFrame (s : State) (f : Frame) (cmd : Option Nat := none) (win : Option (Nat × Nat) := none) : State :=
  let cls := opClass f.op
  if cls = 0 then s.policeFrame (hubSource f.op) f none 0
  else if cls = 3 then s.launchFrame f cmd
  else s.windowFrame f cmd win

/-- Frames that waited for a window leave while it has room. The first argument bounds their number. -/
def State.pumpWindow : Nat → Nat → Nat → State → State
  | 0, _, _, s => s
  | n + 1, dest, cls, s =>
    match s.fabric.windowed.find? fun w => w.1.dest == dest && opClass w.1.op == cls with
    | none => s
    | some w =>
      if !s.windowRoom dest cls w.1 then s
      else
        let key : FlowKey := ⟨dest, 0, cls⟩
        let s := { s with fabric := { s.fabric with
          windowed := s.fabric.windowed.erase w
          windows := put key (lookD key [] s.fabric.windows ++ [InWindow.mk (flitCount w.1) w.2.2]) s.fabric.windows } }
        State.pumpWindow n dest cls (s.launchFrame w.1 w.2.1)

/-! ## Token posts (02, R74) -/

/-- The body of TOKEN_POST: tile, slot, counter, value and context handle (log 28). -/
def tokenBody (tile slot k v ctx : Nat) : List Byte :=
  toBytes 2 tile ++ toBytes 2 slot ++ toBytes 1 k ++ [0, 0, 0] ++ toBytes 4 v ++ toBytes 4 ctx

/-- A post reaches a slot: its counter rises, or the post is dropped and counted (02, R74). -/
def State.postToken (s : State) (t : ThreadRef) (k : BitVec 4) (v ctx : Half) : State :=
  match s.thread? t with
  | some th =>
    if th.ctx = ctx then s.setThread t (th.addToken k v) else s.rwrap TileCnt.POST_DROPPED t.tile.toNat
  | none => s.rwrap TileCnt.POST_DROPPED t.tile.toNat

/-! ## Frames that this module takes in -/

/-- Transfers that wait for their buffer hold back only their own kind (09, R294). -/
def opLane (op : Nat) : Nat := if op = opShift then 1 else if op = opSend then 2 else 0

/-- Is a frame the next of its flow among those delivered? -/
def State.frontFrame (s : State) (f : Frame) : Bool :=
  match s.fabric.delivered.find? fun g =>
      g.src == f.src && g.channel == f.channel && g.cls == f.cls && opLane g.op == opLane f.op with
  | some g => g == f
  | none => false

/-- The window of a frame taken in is granted back to another module, with a reason code for a refused request
(09, R294); the grant of a contribution names its command too. STATUS is 0, and the code stands in the body (09, R289; log 30). -/
def State.grantFrame (s : State) (f : Frame) (code : Nat := 0) : State :=
  if f.src = s.moduleId ∨ ¬ (f.cls = 1 ∨ f.cls = 2) then s
  else s.sendFrame { blankFrame with
    op := opGrant, dest := f.src, channel := f.channel, member := s.rget Chan.SELF f.channel, shard := f.shard
    opid := f.opid
    body := toBytes 1 f.cls ++ toBytes 2 (flitCount f) ++ toBytes 1 code ++ toBytes 4 (if f.cls = 1 then leField f.body 8 4 else 0) }

/-- A delivered frame of an operation leaves the queue. Nothing happens when it is not there. -/
def State.popFrame (s : State) (op : Nat) (f : Frame) : Option State :=
  if f.op = op ∧ s.frontFrame f = true then
    some { s with fabric := { s.fabric with delivered := s.fabric.delivered.erase f } }
  else none

/-- Take a delivered frame in: it leaves the queue and its window is granted back. -/
def State.takeFrame (s : State) (op : Nat) (f : Frame) : Option State :=
  (s.popFrame op f).map fun s => s.grantFrame f

end Sys2Proof.Machine
end

