-- ==== Sys2Proof/Machine/Issue.lean ====
section
/-!
DEFINITION. What every PLZ instruction shares: the fetch at the thread's address, the order of its checks
(12, R372, R375, R376, R384), the registers of a thread, checked scalar accesses (02, R584; 12, R391), and the
beginning of a step gate (01, R17).
-/
namespace Sys2Proof.Machine

/-! ## A thread's registers -/

/-- A general register. -/
def Thread.reg (th : Thread) (r : BitVec 5) : Word := th.g[r.toNat]'r.isLt

/-- Write a general register. -/
def Thread.setReg (th : Thread) (r : BitVec 5) (v : Word) : Thread := { th with g := th.g.set r.toNat v r.isLt }

/-- A descriptor register. -/
def Thread.desc (th : Thread) (r : BitVec 4) : Desc := th.d[r.toNat]'r.isLt

/-- Write a descriptor register. -/
def Thread.setDesc (th : Thread) (r : BitVec 4) (v : Desc) : Thread := { th with d := th.d.set r.toNat v r.isLt }

/-- A token counter. -/
def Thread.token (th : Thread) (k : BitVec 4) : Half := th.k[k.toNat]'k.isLt

/-- Write a token counter. -/
def Thread.setToken (th : Thread) (k : BitVec 4) (v : Half) : Thread := { th with k := th.k.set k.toNat v k.isLt }

/-- A predicate. -/
def Thread.pred (th : Thread) (i : BitVec 3) : Bool := th.p.getLsbD i.toNat

/-- Write a predicate. -/
def Thread.setPred (th : Thread) (i : BitVec 3) (v : Bool) : Thread :=
  { th with p := if v then th.p ||| BitVec.twoPow 8 i.toNat else th.p &&& ~~~(BitVec.twoPow 8 i.toNat) }

/-- The index of the thread's context. -/
def Thread.ctxIx (th : Thread) : Nat := bits th.ctx.toNat 0 16

/-- The thread at its next instruction. -/
def Thread.advance (th : Thread) (n : Nat) : Thread := { th with pc := th.pc + BitVec.ofNat 64 n }

/-- A scalar instruction of one word ends: its thread goes on at the next word. -/
def State.retire (s : State) (t : ThreadRef) (th : Thread) : State := s.setThread t (th.advance 8)

/-! ## Operands of form S (12, R373) -/

/-- a: g[SRC1]. -/
def opA (f : FormS) (th : Thread) : Word := th.reg f.src1

/-- IMM as a number. -/
def immNum (f : FormS) : Word := f.imm.signExtend 64

/-- b: g[SRC2], or IMM when FN[3] is 1. -/
def opB (f : FormS) (th : Thread) : Word := if f.fn.getLsbD 3 then immNum f else th.reg f.src2

/-- FN[2:0]. -/
def fnLow (f : FormS) : Nat := f.fn.toNat % 8

/-- The three low bits of DST and of the sources, which name predicates. -/
def low3 (r : BitVec 5) : BitVec 3 := r.truncate 3

/-- The four low bits of a register field, which name descriptors and counters. -/
def low4 (r : BitVec 5) : BitVec 4 := r.truncate 4

/-- Does a register field name one of the eight predicates, or of the sixteen descriptors or counters? One that names a register
beyond them makes its instruction undefined (12, R376; log 110). -/
def isPred (r : BitVec 5) : Bool := decide (r.toNat < 8)
def isReg16 (r : BitVec 5) : Bool := decide (r.toNat < 16)

/-! ## Issue -/

/-- Can a thread issue: READY, and not waiting for the hub's answer (02, R46; 12, R389)? -/
def Thread.canIssue (th : Thread) : Bool := decide (th.status = .ready) && th.asking.isNone

/-- The turn of a tile's sequencer (02, R47): from the slot at which it looks next, in ascending order and wrapping to slot 0,
is this slot the first whose thread can issue? -/
def State.hasTurn (s : State) (t : ThreadRef) : Bool :=
  let p := lookD t.tile 0 s.tsq.turns
  s.tsq.threads.all fun e =>
    e.1.tile != t.tile || !e.2.canIssue || decide ((t.slot - p).toNat ≤ (e.1.slot - p).toNat)

/-- A slot has issued: the sequencer of its tile looks at the next one. -/
def State.passTurn (s : State) (t : ThreadRef) : State :=
  { s with tsq := { s.tsq with turns := put t.tile (t.slot + 1) s.tsq.turns } }

/-- The fetch of an instruction of `size` bytes at the thread's address: what it faults with (12, R372, R388,
R414). -/
def fetchFault (s : State) (t : ThreadRef) (th : Thread) (size : Nat) : Option (InsnFault × Nat) :=
  if !s.rangeOpen t.tile.toNat th.pc.toNat size then some (.address, 0x62)
  else if th.pc.toNat % 8 ≠ 0 then some (.misaligned, 0x1D)
  else none

/-- A thread issues an instruction: the fetch, then the checks in the order of R375, then `body`, which finds the
thread still at the instruction's address. A thread that cannot issue, or whose turn it is not, is left as it is. -/
def State.issue (s : State) (t : ThreadRef) (size : Nat) (pe pn : Bool) (pi : BitVec 3) (defined : Bool)
    (level : Nat) (body : Thread → State → State) : State :=
  match s.thread? t with
  | none => s
  | some th =>
    if th.canIssue && s.hasTurn t then
      let s := s.passTurn t
      match fetchFault s t th size with
      | some (k, reason) => s.insnFault t th k reason th.pc.toNat
      | none =>
        if s.poisoned th.pc.toNat size then s.consumePoison t th th.pc.toNat
        else
          let s := (s.touch th.pc.toNat size).countTile TileCnt.INSNS 0x05 t.tile.toNat (some th.ctx) th.opid 1
          if !defined then s.insnFault t th .undefined 0x1D
          else if pe && !(th.pred pi ^^ pn) then s.setThread t (th.advance size)
          else if s.levelOf th.ctxIx < level then s.insnFault t th .privilege 0x02
          else body th s
    else s

/-- A scalar instruction. -/
def scalar (t : ThreadRef) (f : FormS) (defined : Bool) (level : Nat) (body : Thread → State → State) (s : State) :
    Host.Outcome State Fault Refusal :=
  .next (s.issue t 8 f.pe f.pn f.pi defined level body)

/-- A scalar instruction that writes one general register from the thread's registers. -/
def regWrite (t : ThreadRef) (f : FormS) (defined : Bool) (value : Thread → Word) (s : State) :
    Host.Outcome State Fault Refusal :=
  scalar t f defined 0 (fun th s => s.retire t (th.setReg f.dst (value th))) s

/-! ## Checked scalar accesses (02, R584; 12, R391 to R393, R414) -/

/-- An access of `n` bytes that must be aligned to `al`: why it faults. -/
def accessFault (s : State) (t : ThreadRef) (a n al : Nat) : Option (InsnFault × Nat) :=
  if !s.rangeOpen t.tile.toNat a n then some (.address, 0x62)
  else if a % al ≠ 0 then some (.misaligned, 0x1D)
  else none

/-- Read `n` bytes for a thread and go on with their number, or fault, or consume poison (13, R431). -/
def State.scalarRead (s : State) (t : ThreadRef) (th : Thread) (a n al : Nat) (k : Nat → State → State) : State :=
  match accessFault s t a n al with
  | some (e, reason) => s.insnFault t th e reason a
  | none => if s.poisoned a n then s.consumePoison t th a else k (s.peekNat a n) (s.touch a n)

/-- Write `n` bytes for a thread, or fault. -/
def State.scalarWrite (s : State) (t : ThreadRef) (th : Thread) (a n al v : Nat) (k : State → State) : State :=
  match accessFault s t a n al with
  | some (e, reason) => s.insnFault t th e reason a
  | none => k (s.storeNat a n v false)

/-! ## The beginning of a step gate (01, R17) -/

/-- The partition of a context. -/
def State.partOf (s : State) (c : Nat) : Nat := s.rget Ctx.PARTITION c

/-- Contexts with a thread that is neither FREE nor ENDED, each once. -/
def State.busyContexts (s : State) : List Nat :=
  (s.tsq.threads.filter fun e => decide (e.2.status ≠ .ended)).foldl
    (fun cs e => if decide (e.2.ctxIx ∈ cs) then cs else cs ++ [e.2.ctxIx]) []

/-- Contexts that take part in a gate that begins now: ON, in the partition, with a live thread; with the policy
each holds now (02, R61). -/
def State.takingPart (s : State) (p : Nat) : List (Nat × Bool) :=
  (s.busyContexts.filter fun c => s.isOn .context c && s.partOf c == p).map fun c => (c, s.rbit Ctx.GATE_POLICY c)

/-- The register fields of the rule bindings (07, R217). -/
def State.bindRegs (s : State) : Regs := s.regs.filter fun e => decide (e.1.tab = .bind)

/-- A thread waits in SGATE: the partition's gate begins unless one has begun already. -/
def State.beginGate (s : State) (p : Nat) : State :=
  match look p s.tsq.gates with
  | some _ => s
  | none =>
    { s with tsq := { s.tsq with gates := put p ⟨s.takingPart p, s.bindRegs, []⟩ s.tsq.gates } }

end Sys2Proof.Machine
end

