-- ==== Sys2Proof/Machine/Control.lean ====
section
/-!
DEFINITION. Launches by threads, the step gate's arrival, loads, stores, atomics, descriptor and token
instructions, gauge and exchange reads, and the firmware call (12, R389 to R394, R411 to R413; 02, R50, R73, R74).
-/
namespace Sys2Proof.Machine

/-! ## TSPAWN and SGATE -/

/-- A launch as its 48 bytes describe it (12, R389). -/
def launchOf (thread : Option (ThreadRef × Half)) (cmd : Option Nat) (bs : List Byte) : LaunchReq :=
  { thread := thread, cmd := cmd, ctx := BitVec.ofNat 32 (leField bs 0 4), first := leField bs 4 2,
    count := leField bs 6 2, threads := leField bs 8 2, entry := BitVec.ofNat 64 (leField bs 16 8),
    arg0 := BitVec.ofNat 64 (leField bs 24 8), arg1 := BitVec.ofNat 64 (leField bs 32 8), bytes := bs, refusal := none }

/-- Why a context refuses a launch that reaches the hub now: its handle names no context, or the context is not ON (02, R49,
R51). -/
def State.launchRefusal (s : State) (ctx : Half) : Option Nat :=
  match s.resolve .context ctx.toNat with
  | none => some 0x10
  | some c => if s.isOn .context c then none else some 0x17

/-- A launch request reaches the hub, which handles the launches and the state changes of one context in the order in which
they reach it: what the context was at that moment decides (02, R51). -/
def State.addLaunch (s : State) (r : LaunchReq) : State :=
  { s with tsq := { s.tsq with launches := s.tsq.launches ++ [{ r with refusal := s.launchRefusal r.ctx }] } }

def execTspawn (t : ThreadRef) (f : FormS) (s : State) : Host.Outcome State Fault Refusal :=
  scalar t f true 0 (fun th s =>
    let a := (opA f th).toNat
    let bs := s.peek a 48
    s.scalarRead t th a 48 16 fun _ s =>
      (s.setThread t { th.advance 8 with asking := some f.dst }).addLaunch (launchOf (some (t, th.ctx)) none bs)) s

def execSgate (t : ThreadRef) (f : FormS) (s : State) : Host.Outcome State Fault Refusal :=
  scalar t f true 0 (fun th s =>
    let v := opA f th
    (s.setThread t { th.advance 8 with status := .waitGate f.dst (v.getLsbD 0) (v.getLsbD 1) }).beginGate
      (s.partOf th.ctxIx)) s

/-! ## Loads, stores and FENCE (12, R391, R392; 02, R78) -/

/-- The address g[SRC1] + IMM. -/
def accessAddr (f : FormS) (th : Thread) : Nat := (opA f th + immNum f).toNat

/-- The size that FN[1:0] gives. -/
def accessSize (f : FormS) : Nat := 2 ^ (f.fn.toNat % 4)

/-- What LD writes: zero-extended, or sign-extended when FN[2] is 1. -/
def loadResult (f : FormS) (v : Nat) : Word :=
  if f.fn.getLsbD 2 then BitVec.ofInt 64 (signed (8 * accessSize f) v) else BitVec.ofNat 64 v

def execLd (t : ThreadRef) (f : FormS) (s : State) : Host.Outcome State Fault Refusal :=
  scalar t f (decide (f.fn.toNat < 8)) 0 (fun th s =>
    s.scalarRead t th (accessAddr f th) (accessSize f) (accessSize f) fun v s =>
      s.retire t (th.setReg f.dst (loadResult f v))) s

def execSt (t : ThreadRef) (f : FormS) (s : State) : Host.Outcome State Fault Refusal :=
  scalar t f (decide (f.fn.toNat < 4)) 0 (fun th s =>
    s.scalarWrite t th (accessAddr f th) (accessSize f) (accessSize f) (th.reg f.src2).toNat fun s =>
      s.retire t th) s

def execFence (t : ThreadRef) (f : FormS) (s : State) : Host.Outcome State Fault Refusal :=
  scalar t f (decide (f.fn.toNat < 4)) 0 (fun th s => s.retire t th) s

/-! ## Atomics (12, R392; 02, R79) -/

/-- An atomic on the word at g[SRC1]: `new` gives what it leaves there, from the thread and the old value; none
leaves it as it is. -/
def atomic (t : ThreadRef) (f : FormS) (new : Thread → Word → Option Word) (s : State) :
    Host.Outcome State Fault Refusal :=
  scalar t f true 0 (fun th s =>
    let a := (opA f th).toNat
    s.scalarRead t th a 8 8 fun v s =>
      let old := BitVec.ofNat 64 v
      let s := match new th old with
        | some w => s.storeNat a 8 w.toNat false
        | none => s
      s.retire t (th.setReg f.dst old)) s

def execAadd (t : ThreadRef) (f : FormS) (s : State) : Host.Outcome State Fault Refusal :=
  atomic t f (fun th old => some (old + th.reg f.src2)) s

def execAmin (t : ThreadRef) (f : FormS) (s : State) : Host.Outcome State Fault Refusal :=
  atomic t f (fun th old => some (if (th.reg f.src2).slt old then th.reg f.src2 else old)) s

def execAmax (t : ThreadRef) (f : FormS) (s : State) : Host.Outcome State Fault Refusal :=
  atomic t f (fun th old => some (if old.slt (th.reg f.src2) then th.reg f.src2 else old)) s

def execAswap (t : ThreadRef) (f : FormS) (s : State) : Host.Outcome State Fault Refusal :=
  atomic t f (fun th _ => some (th.reg f.src2)) s

def execAcas (t : ThreadRef) (f : FormS) (s : State) : Host.Outcome State Fault Refusal :=
  atomic t f (fun th old => if old = th.reg f.dst then some (th.reg f.src2) else none) s

/-! ## Descriptors (12, R393) -/

/-- A descriptor as it is held: its reserved bits [63:62] and [79:78] read 0 (12, R380; 00, R10). -/
def heldDesc (v : Nat) : Desc := BitVec.ofNat 256 (v - bits v 62 2 * 2 ^ 62 - bits v 78 2 * 2 ^ 78)

def execDload (t : ThreadRef) (f : FormS) (s : State) : Host.Outcome State Fault Refusal :=
  scalar t f (isReg16 f.dst) 0 (fun th s =>
    s.scalarRead t th (accessAddr f th) 32 32 fun v s =>
      s.retire t (th.setDesc (low4 f.dst) (heldDesc v))) s

def execDsave (t : ThreadRef) (f : FormS) (s : State) : Host.Outcome State Fault Refusal :=
  scalar t f (isReg16 f.src2) 0 (fun th s =>
    s.scalarWrite t th (accessAddr f th) 32 32 (th.desc (low4 f.src2)).toNat fun s => s.retire t th) s

/-- The field of a descriptor that FN selects: its lowest bit and width. -/
def descField (fn : Nat) : Nat × Nat :=
  match fn with
  | 0 => (0, 48)
  | 1 => (48, 16)
  | 2 => (64, 14)
  | 3 => (80, 24)
  | 4 => (104, 24)
  | 5 => (128, 24)
  | 6 => (152, 24)
  | 7 => (176, 24)
  | 8 => (200, 24)
  | _ => (224, 32)

/-- A number with `len` bits at `lo` replaced. -/
def setBits (n lo len v : Nat) : Nat := n - bits n lo len * 2 ^ lo + v % 2 ^ len * 2 ^ lo

/-- A descriptor with one field written. Reserved bits keep 0 (12, R380). -/
def writeField (d : Desc) (fn v : Nat) : Desc :=
  let (lo, len) := descField fn
  BitVec.ofNat 256 (setBits d.toNat lo len (if fn = 1 then v % 2 ^ 14 else v))

def execDsetf (t : ThreadRef) (f : FormS) (s : State) : Host.Outcome State Fault Refusal :=
  scalar t f (decide (f.fn.toNat ≤ 9) && isReg16 f.dst) 0 (fun th s =>
    s.retire t (th.setDesc (low4 f.dst)
      (writeField (th.desc (low4 f.dst)) f.fn.toNat (opA f th + immNum f).toNat))) s

def execDgetf (t : ThreadRef) (f : FormS) (s : State) : Host.Outcome State Fault Refusal :=
  regWrite t f (decide (f.fn.toNat ≤ 9) && isReg16 f.src1) (fun th =>
    let (lo, len) := descField f.fn.toNat
    BitVec.ofNat 64 (bits (th.desc (low4 f.src1)).toNat lo len)) s

def execDcopy (t : ThreadRef) (f : FormS) (s : State) : Host.Outcome State Fault Refusal :=
  scalar t f (isReg16 f.dst && isReg16 f.src1) 0 (fun th s => s.retire t (th.setDesc (low4 f.dst) (th.desc (low4 f.src1)))) s

/-! ## Tokens (12, R394; 02, R70, R73, R74) -/

def execTwait (t : ThreadRef) (f : FormS) (s : State) : Host.Outcome State Fault Refusal :=
  scalar t f (decide (fnLow f = 0) && isReg16 f.dst) 0 (fun th s =>
    let k := low4 f.dst
    let v : Half := (opB f th).truncate 32
    s.retire t { th with status := if reached (th.token k) v then .ready else .waitTok k v }) s

/-- The slot that TPOST names: module tile g[SRC1][9:0] and slot g[SRC1][26:16]. -/
def postTarget (f : FormS) (th : Thread) : ThreadRef :=
  ⟨(opA f th).extractLsb' 0 10, (opA f th).extractLsb' 16 11⟩

def execTpost (t : ThreadRef) (f : FormS) (s : State) : Host.Outcome State Fault Refusal :=
  scalar t f true 0 (fun th s =>
    let dst := postTarget f th
    let k : BitVec 4 := f.imm.truncate 4
    let v : Half := (th.reg f.src2).truncate 32
    let s := s.retire t th
    if dst.tile = t.tile then s.postToken dst k v th.ctx
    else s.policeFrame t.tile.toNat { blankFrame with
      op := opTokenPost, dest := s.moduleId, opid := th.opid.toNat, step := th.step.toNat
      attempt := th.attempt.toNat % 2 ^ 32
      body := tokenBody dst.tile.toNat dst.slot.toNat k.toNat v.toNat th.ctx.toNat } (some th.ctx) th.opid) s

def execTset (t : ThreadRef) (f : FormS) (s : State) : Host.Outcome State Fault Refusal :=
  scalar t f (isReg16 f.dst) 0 (fun th s => s.retire t (th.setToken (low4 f.dst) ((opA f th).truncate 32))) s

def execTget (t : ThreadRef) (f : FormS) (s : State) : Host.Outcome State Fault Refusal :=
  regWrite t f (isReg16 f.src1) (fun th => (th.token (low4 f.src1)).zeroExtend 64) s

/-! ## Gauge and exchange reads (12, R411, R412) -/

/-- The gauge field that FN selects. -/
def gaugeField (fn : Nat) : Fld :=
  match fn with
  | 0 => Gau.LAST_OBSERVED
  | 1 => Gau.LAST_ZEROS
  | 2 => Gau.LAST_UNDER
  | 3 => Gau.LAST_SATS
  | 4 => Gau.LAST_NONFINITE
  | 5 => Gau.LAST_AMAX
  | 6 => Gau.LAST_ATTEMPT
  | _ => Gau.TRIP_RUN

def execGread (t : ThreadRef) (f : FormS) (s : State) : Host.Outcome State Fault Refusal :=
  scalar t f (decide (f.fn.toNat ≤ 7)) 0 (fun th s =>
    let c := th.ctxIx
    let i := (immNum f).toNat
    if i < s.rget Ctx.GAUGE_COUNT c then
      s.retire t (th.setReg f.dst
        (BitVec.ofNat 64 (s.rget (gaugeField f.fn.toNat) (s.rget Ctx.GAUGE_BASE c + i))))
    else s.insnFault t th .descriptor 0x1D) s

def execGrung (t : ThreadRef) (f : FormS) (s : State) : Host.Outcome State Fault Refusal :=
  scalar t f true 0 (fun th s =>
    s.retire t (th.setReg f.dst (BitVec.ofNat 64 (s.rungOf th.ctxIx).rung))) s

/-- The ON round engine binding of a context, the lowest index first. -/
def State.roundOf (s : State) (c : Nat) : Option Nat :=
  (List.range 64).find? fun i =>
    s.isAllocated .round i && s.isOn .round i && s.rget Round.CONTEXT i == c

/-- What XSTAT reads. -/
def exchangeResult (s : State) (fn c : Nat) : Word :=
  match s.roundOf c with
  | none => BitVec.allOnes 64
  | some i =>
    BitVec.ofNat 64 (match fn with
      | 0 => s.rget Round.ROUND i
      | 1 => s.rget Round.APPLIED i
      | _ => s.rget Round.STATE i)

def execXstat (t : ThreadRef) (f : FormS) (s : State) : Host.Outcome State Fault Refusal :=
  scalar t f (decide (f.fn.toNat ≤ 2)) 0 (fun th s =>
    s.retire t (th.setReg f.dst (exchangeResult s f.fn.toNat th.ctxIx))) s

/-! ## Firmware call (12, R413; 02, R82): no thread holds level 2 -/

def execFwcall (t : ThreadRef) (f : FormS) (s : State) : Host.Outcome State Fault Refusal :=
  scalar t f true 2 (fun th s => s.retire t th) s

end Sys2Proof.Machine
end

