-- ==== Sys2Proof/Machine/Math.lean ====
section
/-!
DEFINITION. Correctly rounded functions of the row engines, the vector lanes and the update units (06, R190; 07,
The rules): sums, exponentials, roots and powers, each computed exactly or far beyond the precision of its result
and rounded once.
-/
namespace Sys2Proof.Machine

/-- The exact sum of values; a zero sum is +0. -/
def sumVals (vs : List Val) : Val := vs.foldl (fun s v => s.add v) (.zero false)

/-- exact_sum: added exactly and rounded once to FP32 (06, R190; log 33). -/
def exactSum (vs : List Val) : Val := rn (sumVals vs)

/-- Fixed-point bits of the exponential. -/
def expBits : Nat := 320

/-- Terms `k` on of the exponential's series at `r`, in fixed point: the first argument bounds their number. -/
def expTerms (r : Nat) : Nat → Nat → Nat → Nat → Nat
  | 0, _, _, acc => acc
  | n + 1, k, term, acc =>
    let t := term * r / 2 ^ expBits / k
    expTerms r n (k + 1) t (acc + t)

/-- Square a fixed-point number several times. -/
def squareTimes : Nat → Nat → Nat
  | 0, x => x
  | n + 1, x => squareTimes n (x * x / 2 ^ expBits)

/-- e^q for a rational q from 0 to 128, to about 300 bits. -/
def expPos (q : Rat) : Rat :=
  let r := (q * twoPow ((expBits : Int) - 8)).floor.toNat
  (squareTimes 8 (expTerms r 90 1 (2 ^ expBits) (2 ^ expBits)) : Rat) / twoPow expBits

/-- exp_rn: the correctly rounded FP32 exponential. -/
def expRn (v : Val) : Val :=
  match v with
  | .nan => .nan
  | .inf n => if n then .zero false else .inf false
  | .zero _ => .fin 1
  | .fin q =>
    if 128 < q then .inf false
    else if q < -128 then .zero false
    else rn (.fin (if q < 0 then 1 / expPos (-q) else expPos q))

/-- sqrt_rn: the FP32 square root. -/
def sqrtRn (v : Val) : Val := rn v.sqrt

/-- rsqrt_rn: the FP32 reciprocal square root. -/
def rsqrtRn (v : Val) : Val :=
  match v with
  | .nan => .nan
  | .inf n => if n then .nan else .zero false
  | .zero n => .inf n
  | .fin q => if q < 0 then .nan else rn (.fin (sqrtRat (1 / q)))

/-- sqrt_cr: the correctly rounded FP64 square root. -/
def sqrtCr (v : Val) : Val := rn64 v.sqrt

/-- pow_cr with a whole exponent: the correctly rounded FP64 power. -/
def powCr (v : Val) (n : Nat) : Val :=
  match v with
  | .nan => .nan
  | .inf s => if n = 0 then .fin 1 else .inf (s && n % 2 == 1)
  | .zero s => if n = 0 then .fin 1 else .zero (s && n % 2 == 1)
  | .fin q => rn64 (.fin (q ^ n))

/-- pow_cr(z, 0.25): the correctly rounded FP64 fourth root. -/
def rootCr4 (v : Val) : Val :=
  match v with
  | .nan => .nan
  | .inf n => if n then .nan else .inf false
  | .zero _ => .zero false
  | .fin q => if q < 0 then .nan else rn64 (.fin (sqrtRat (sqrtRat q)))

end Sys2Proof.Machine
end

