-- ==== Sys2Proof/Machine/Operands.lean ====
section
/-!
DEFINITION. Tensor descriptors (12, R380 to R383), the plain layout in squares (04, R138, R587), the coded layout
(05, R162), scale areas (12, R382) and the reading of a tensor's values (03, R92).
-/
namespace Sys2Proof.Machine

/-! ## Descriptor fields (12, R380) -/

/-- The fields of a descriptor. -/
structure Operand where
  base    : Nat
  fmt     : Nat
  scl     : Nat
  coded   : Bool
  slot    : Nat
  colAxis : Bool
  present : Bool
  gaugeEn : Bool
  cen     : Bool
  gidx    : Nat
  tensor  : Nat
  whole1  : Nat
  ext0    : Nat
  ext1    : Nat
  off0    : Nat
  off1    : Nat
  pitch0  : Nat
  deriving DecidableEq, Repr

/-- The fields of a descriptor register as they stand. -/
def operandOf (d : Desc) : Operand :=
  let n := d.toNat
  ⟨bits n 0 48, bits n 48 4, bits n 52 2, bit n 54, bits n 55 3, bit n 58, bit n 59, bit n 60, bit n 61, bits n 64 14,
   bits n 80 24, bits n 104 24, bits n 128 24, bits n 152 24, bits n 176 24, bits n 200 24, bits n 224 32⟩

/-- The fields with FMT and SCL resolved at a rung (03, R95). -/
def resolved (d : Desc) (rung : Nat) : Operand :=
  let o := operandOf d
  let (f, c) := resolveFmt o.fmt o.scl rung
  { o with fmt := f, scl := c }

/-- The dim1 extent of the whole tensor (12, R381). -/
def Operand.whole (o : Operand) : Nat := if o.whole1 = 0 then o.ext1 else o.whole1

/-- The architectural index of an element (12, R381). -/
def Operand.index (o : Operand) (r c : Nat) : Nat := (o.off0 + r) * o.whole + o.off1 + c

/-- Rows and columns of the grid of squares. -/
def Operand.gridRows (o : Operand) : Nat := ceilDiv o.ext0 32
def Operand.gridCols (o : Operand) : Nat := ceilDiv o.ext1 32

/-- Bytes of a square: 128 times the element width. -/
def Operand.squareBytes (o : Operand) : Nat := 128 * fmtBits o.fmt

/-- The address of square (I, J) of the plain layout. -/
def Operand.square (o : Operand) (i j : Nat) : Nat := o.base + 128 * o.pitch0 * i + o.squareBytes * j

/-! ## Blocks of the scale modes -/

/-- Number of block scales. -/
def Operand.blockCount (o : Operand) : Nat :=
  if o.scl < 2 then 0
  else if o.colAxis then ceilDiv o.ext0 (blockLen o.scl) * o.ext1
  else o.ext0 * ceilDiv o.ext1 (blockLen o.scl)

/-- The number of the block of an element, in the order of the blocks' first elements (12, R382). -/
def Operand.blockOf (o : Operand) (r c : Nat) : Nat :=
  if o.colAxis then r / blockLen o.scl * o.ext1 + c
  else r * ceilDiv o.ext1 (blockLen o.scl) + c / blockLen o.scl

/-- Bytes of the per-tensor scale at the front of the scale area. -/
def Operand.tscaleBytes (o : Operand) : Nat := if o.scl = 1 ∨ o.scl = 3 then 8 else 0

/-- Bytes of the scale area. -/
def Operand.scaleBytes (o : Operand) : Nat := o.tscaleBytes + o.blockCount

/-! ## Where the bytes lie -/

/-- Entries of the directory of a coded tensor, the final one apart. -/
def Operand.squares (o : Operand) : Nat := o.gridRows * o.gridCols

/-- An entry of the directory (05, R162). -/
def dirEntry (s : State) (o : Operand) (j : Nat) : Nat := s.peekNat (o.base + 4 * j) 4

/-- Where the directory ends and the first square of a written coded tensor starts. -/
def Operand.dirBytes (o : Operand) : Nat := roundUp (4 * (o.squares + 1)) 8

/-- The largest coded form: directory, and every block at raw size with its header. -/
def Operand.codedMax (o : Operand) : Nat := o.dirBytes + o.squares * (o.squareBytes + 32)

/-- The end of the element data (12, R382). -/
def elementEnd (s : State) (o : Operand) : Nat :=
  if o.coded then o.base + 8 * dirEntry s o o.squares else o.base + 128 * o.pitch0 * o.gridRows

/-- The scale area begins at the next 64-byte boundary (12, R382). -/
def scaleBase (s : State) (o : Operand) : Nat := roundUp (elementEnd s o) 64

/-- The byte ranges of a tensor that is read: squares row by row, or directory and blocks; and the scale area. -/
def readRanges (s : State) (o : Operand) : List (Nat × Nat) :=
  (if o.coded then [(o.base, 8 * dirEntry s o o.squares)]
   else (List.range o.gridRows).map fun i => (o.square i 0, o.squareBytes * o.gridCols)) ++
  (if o.scaleBytes = 0 then [] else [(scaleBase s o, o.scaleBytes)])

/-- The byte ranges that writing a tensor may touch. -/
def writeRanges (o : Operand) : List (Nat × Nat) :=
  if o.coded then
    [(o.base, if o.scaleBytes = 0 then o.codedMax else roundUp (o.base + o.codedMax) 64 - o.base + o.scaleBytes)]
  else
    ((List.range o.gridRows).map fun i => (o.square i 0, o.squareBytes * o.gridCols)) ++
    (if o.scaleBytes = 0 then [] else [(roundUp (o.base + 128 * o.pitch0 * o.gridRows) 64, o.scaleBytes)])

/-- The byte ranges of an input that are checked when its command is issued: a coded tensor's directory, because
its squares lie where the directory says when the command reads it; those are checked then (log 29). -/
def inputRanges (s : State) (o : Operand) : List (Nat × Nat) :=
  if o.coded then [(o.base, o.dirBytes)] else readRanges s o

/-! ## Validity (12, R383) -/

/-- Is a range backed (11, R351)? Every store is one interval, so two ends in one store are enough; side memories
lie one after another, and each that the range touches must have its supply. -/
def State.rangeBacked (s : State) (a n : Nat) : Bool :=
  if n = 0 then true
  else
    match spaceOf a, spaceOf (a + n - 1) with
    | .side c, .side e => (List.range (e + 1 - c)).all fun i => s.clusterUp (c + i)
    | x, y => x == y && s.backed a && s.backed (a + n - 1)

/-- Does a range stay out of the lend areas and root pools (07, R236)? -/
def State.rangeUnreserved (s : State) (a n : Nat) : Bool := n == 0 || !s.reserved (a + n - 1)

/-- The reason of an invalid descriptor: 0x62 for a hole, 0x1D otherwise (12, R414). -/
def firstBad (checks : List (Bool × Nat)) : Option Nat := (checks.find? fun c => !c.1).map Prod.snd

/-- The checks of R383 on a descriptor after the ladder is resolved, in their order, for an input or an output. -/
def descCheck (s : State) (ctx : Nat) (out : Bool) (o : Operand) : Option Nat :=
  let ranges := if out then writeRanges o else inputRanges s o
  firstBad [
    (decide (o.ext0 ≠ 0 ∧ o.ext1 ≠ 0), 0x1D),
    (fmtBits o.fmt != 0 && (out || fmtOperand o.fmt) && fmtAccepts o.fmt o.scl, 0x1D),
    (!o.coded || (codedFmt? o.fmt).isSome, 0x1D),
    (o.whole1 == 0 || decide (o.off1 + o.ext1 ≤ o.whole1), 0x1D),
    (if o.coded then o.base % 8 == 0 else o.base % 128 == 0, 0x1D),
    (ranges.all fun r => s.rangeBacked r.1 r.2, 0x62),
    (!o.gaugeEn || decide (o.gidx < s.rget Ctx.GAUGE_COUNT ctx), 0x1D),
    (!o.cen || (decide (1088 ≤ o.base) &&
      (match spaceOf (o.base - 1088), spaceOf (o.base - 1) with
       | .basin a, .basin b => a == b
       | .pool a, .pool b => a == b
       | _, _ => false)), 0x1D),
    (o.coded || decide (fmtBits o.fmt * o.gridCols ≤ o.pitch0), 0x1D)]

/-- Are all ranges of a tensor inside stores that a predicate allows, and out of the reserved areas? -/
def rangesIn (s : State) (allow : Space → Bool) (ranges : List (Nat × Nat)) : Bool :=
  ranges.all fun r => allow (spaceOf r.1) && allow (spaceOf (r.1 + r.2 - 1)) && s.rangeUnreserved r.1 r.2

/-- Why ranges that a command of a tile names are not where its engine may reach them: 0x62 where one lies in a space that is
not open to the thread either, such as another tile's basin, a lend area or a root pool, and 0x1D for any other store
(12, R414; 02, R584; 07, R236). -/
def placeFault (s : State) (tile : Nat) (allow : Space → Bool) (ranges : List (Nat × Nat)) : Option Nat :=
  let strange := ranges.filter fun r => !rangesIn s allow [r]
  if strange.isEmpty then none
  else if strange.all fun r => s.rangeOpen tile r.1 r.2 then some 0x1D else some 0x62

/-- A checked operand that must lie in allowed stores: a descriptor that names any other is invalid. -/
def operandCheck (s : State) (c : EngCmd) (out : Bool) (allow : Space → Bool) (o : Operand) : Option Nat :=
  match descCheck s (bits c.ctx.toNat 0 16) out o with
  | some r => some r
  | none => placeFault s c.thread.tile.toNat allow
      ((if out then writeRanges o else inputRanges s o) ++ (if o.cen && out then [(o.base - 1088, 1088)] else []))

/-- The ranges of `n` blocks that lie one after another from an address. -/
def blockSpansAt (s : State) : Nat → Nat → List (Nat × Nat)
  | 0, _ => []
  | k + 1, a =>
    let len := 8 + 8 * (readHead (s.peek a 8)).words
    (a, len) :: blockSpansAt s k (a + len)

/-- The ranges of a coded tensor that is read: its directory, the blocks that the directory names, and its scale area. -/
def bodyRanges (s : State) (o : Operand) : List (Nat × Nat) :=
  readRanges s o ++ (List.range o.squares).flatMap fun j => blockSpansAt s 4 (o.base + 8 * dirEntry s o j)

/-- The body of a coded input as its command finds it: every byte that the directory names and the scale area are checked as
R383 and R414 check a plain tensor's (12, R383; log 29). -/
def bodyFault (s : State) (c : EngCmd) (allow : Space → Bool) (o : Operand) : Option Nat :=
  if !o.coded then none
  else if !((bodyRanges s o).all fun r => s.rangeBacked r.1 r.2) then some 0x62
  else placeFault s c.thread.tile.toNat allow (bodyRanges s o)

/-! ## Reading elements -/

/-- The codes of row `r` of a plain tensor: 32 elements of a square row are 4 bytes for each bit of width. -/
def plainRow (s : State) (o : Operand) (r : Nat) : List Nat :=
  let b := fmtBits o.fmt
  ((List.range o.gridCols).flatMap fun j =>
    unpackNat b 32 (s.peekNat (o.square (r / 32) j + r % 32 * 4 * b) (4 * b))).take o.ext1

/-- The four blocks of a coded square that starts at an address: the elements of each, or why it is not decoded,
and whether its header carries poison. -/
def squareBlocks (s : State) (slots : Nat → Option Table) : Nat → Nat → List (Nat × Except BlockError (List Nat) × Bool)
  | 0, _ => []
  | k + 1, a =>
    let h := readHead (s.peek a 8)
    (a, decodeBlock slots (s.peek a (8 + 8 * h.words)), h.poison) :: squareBlocks s slots k (a + 8 + 8 * h.words)

/-- The elements of a block as the reading unit takes them (05, R168; log 24). -/
def blockElements (fmt : Nat) (b : Nat × Except BlockError (List Nat) × Bool) : List Nat :=
  match b.2.1 with
  | .ok xs => xs ++ List.replicate (256 - xs.length) 0
  | .error _ => (List.range 256).map fun i => Config.undecoded b.1 i % 2 ^ fmtBits fmt

/-- What reading a tensor gives: the element codes by rows, whether any of it carries poison, and the blocks that
were not decoded. -/
structure TensorRead where
  rows   : List (List Nat)
  poison : Bool
  errors : List BlockError
  deriving DecidableEq, Repr

/-- The element codes of a tensor under a unit's coding slots. -/
def readCodes (s : State) (slots : Nat → Option Table) (o : Operand) : TensorRead :=
  let dirty := (readRanges s o).any fun r => s.poisoned r.1 r.2
  if o.coded then
    let sq := (List.range o.squares).map fun j => squareBlocks s slots 4 (o.base + 8 * dirEntry s o j)
    let errs := sq.flatMap fun q => q.filterMap fun b =>
      match b.2.1 with
      | .ok _ => none
      | .error e => some e
    let elems := sq.map fun q => q.flatMap (blockElements o.fmt)
    { rows := (List.range o.ext0).map fun r =>
        ((List.range o.gridCols).flatMap fun j => slice' (elems.getD (r / 32 * o.gridCols + j) []) (r % 32 * 32) 32).take o.ext1
      poison := dirty || !errs.isEmpty || sq.any fun q => q.any fun b => b.2.2
      errors := errs }
  else { rows := (List.range o.ext0).map (plainRow s o), poison := dirty, errors := [] }
where
  /-- `n` elements from place `i`. -/
  slice' (xs : List Nat) (i n : Nat) : List Nat := (xs.drop i).take n

/-- The per-tensor scale of a stored tensor. -/
def tensorScaleOf (s : State) (o : Operand) : Val :=
  if o.tscaleBytes = 0 then .fin 1 else ofF32 (s.peekNat (scaleBase s o) 4)

/-- The value of an element code under its scales (03, R92, R93). -/
def elementValue (fmt scl : Nat) (st : Val) (sb : Nat) (code : Nat) : Val :=
  let e := codeValue fmt code
  if scl < 2 then (if scl = 1 then st.mul e else e)
  else
    match blockScale scl sb with
    | none => .nan
    | some q => if q = 0 then .zero false else (st.mul (.fin q)).mul e

/-- The values of a stored tensor, row by row. -/
def valuesOf (s : State) (o : Operand) (t : TensorRead) : List (List Val) :=
  let st := tensorScaleOf s o
  let sbase := scaleBase s o + o.tscaleBytes
  ((List.range o.ext0).zip t.rows).map fun (r, row) =>
    ((List.range o.ext1).zip row).map fun (c, code) =>
      elementValue o.fmt o.scl st (if o.scl < 2 then 0 else (Memory.read (sbase + o.blockOf r c) s.mem).toNat) code

/-- Does a block of a coded tensor carry poison: in its header, in its bytes, or because a unit does not decode it? -/
def blockPoison (s : State) (slots : Nat → Option Table) (o : Operand) (square q : Nat) : Bool :=
  match (squareBlocks s slots 4 (o.base + 8 * dirEntry s o square))[q]? with
  | some x => x.2.2 || s.poisoned x.1 (8 + 8 * (readHead (s.peek x.1 8)).words) ||
      (match x.2.1 with
       | .ok _ => false
       | .error _ => true)
  | none => false

/-- A slot table of a unit. -/
def State.slotTable (s : State) (unit i slot : Nat) : Option Table := look ⟨unit, i, slot⟩ s.slots

/-- Element (r, c) of a matrix of values; outside it, +0. -/
def at2 (m : List (List Val)) (r c : Nat) : Val := (m.getD r []).getD c (.zero false)

/-- The transposed matrix of `n` columns. -/
def transpose (n : Nat) (m : List (List Val)) : List (List Val) := (List.range n).map fun c => m.map fun row => row.getD c (.zero false)

end Sys2Proof.Machine
end

