-- ==== Sys2Proof/Machine/Flags.lean ====
section
/-!
DEFINITION. Writing a tensor: the choice of its scales, the conversion of its exact values, the output status word,
the gauge and the census (03, R96 to R114; 04, R587; 05, R162 to R169; 12, R382).
-/
namespace Sys2Proof.Machine

/-! ## Output status (03, R107) -/

/-- What a command's output reports. `first` is the lowest architectural index of a non-finite element. -/
structure OutStat where
  nonFinite : Bool
  sat       : Bool
  wrap      : Bool
  under     : Bool
  poison    : Bool
  first     : Option Nat
  deriving DecidableEq, Repr

def OutStat.clean : OutStat := ⟨false, false, false, false, false, none⟩

/-- The status word (03, R107). -/
def OutStat.word (o : OutStat) : Nat :=
  b2n o.nonFinite + 2 * b2n o.sat + 4 * b2n o.wrap + 8 * b2n o.under + 16 * b2n o.poison +
    256 * ((o.first.getD 0) % 2 ^ 40)

/-- The lower of two optional indices. -/
def lower (a b : Option Nat) : Option Nat :=
  match a, b with
  | some x, some y => some (Min.min x y)
  | some x, none => some x
  | none, y => y

/-- Status of two outputs of one command: FIRST_INDEX is that of the first output that has non-finite elements
(12, R378). -/
def OutStat.merge (a b : OutStat) : OutStat :=
  ⟨a.nonFinite || b.nonFinite, a.sat || b.sat, a.wrap || b.wrap, a.under || b.under, a.poison || b.poison,
   if a.nonFinite then a.first else b.first⟩

/-! ## What the producing command brings -/

/-- What a conversion takes from its command (12, R377). -/
structure Producer where
  ctx    : Nat
  region : Nat
  tile   : Nat
  opid   : Half
  step   : Nat
  rnd    : Nat
  sat    : Bool
  wrap   : Bool
  stream : Nat
  poison : Bool
  /-- The coding unit that writes coded blocks. -/
  unit   : Nat
  unitIx : Nat
  deriving DecidableEq, Repr

/-- The random byte of an element (03, R100). -/
def Producer.random (p : Producer) (s : State) (o : Operand) (r c : Nat) : Nat :=
  if p.rnd = 1 then randomByte (s.rget Ctx.SEED p.ctx) p.step p.stream o.tensor (o.index r c) else 0

/-! ## Scales -/

/-- The number of a context's gauge entry that a descriptor names. -/
def gaugeIndex (s : State) (ctx gidx : Nat) : Nat := s.rget Ctx.GAUGE_BASE ctx + gidx

/-- The largest finite value among the valid places of an entry's history (03, R111). -/
def historyAmax (s : State) (e : Nat) : Option Rat :=
  let n := s.rget Gau.HIST_COUNT e
  let next := s.rget Gau.HIST_NEXT e
  let h := s.rget Gau.HISTORY e
  ((List.range (Min.min n 16)).filterMap fun k =>
    let v := ofF32 (bits h (32 * ((next + 15 - k) % 16)) 32)
    if v.isFinite then some v.rat else none).foldl (fun best q =>
      match best with
      | none => some q
      | some b => some (if b < q then q else b)) none

/-- The largest finite magnitude of a matrix of values (03, R111, R113). -/
def amaxOf (m : List (List Val)) : Rat :=
  m.foldl (fun a row => row.foldl (fun a v => if v.isFinite && decide (a < v.mag) then v.mag else a) a) 0

/-- The per-tensor scale of an output in mode 1 or 3: from the history of its gauge entry, or from the output itself
(03, R108, R111). -/
def chooseScale (s : State) (p : Producer) (o : Operand) (m : List (List Val)) : Rat :=
  let delayed := if o.present || !o.gaugeEn then none else historyAmax s (gaugeIndex s p.ctx o.gidx)
  tensorScale o.fmt o.scl (delayed.getD (amaxOf m))

/-- Does a command run twice for its scale (03, R111; 04, R158)? -/
def runsTwice (s : State) (ctx : Nat) (o : Operand) : Bool :=
  (o.scl == 1 || o.scl == 3) &&
  (o.present || !o.gaugeEn || (historyAmax s (gaugeIndex s ctx o.gidx)).isNone)

/-- The elements of a block: its number, the largest finite magnitude and whether a NaN or an infinity is in it. -/
def blockFacts (o : Operand) (m : List (List Val)) : List (Rat × Bool) :=
  if o.scl < 2 then []
  else
    let l := blockLen o.scl
    (List.range o.blockCount).map fun b =>
      let cells :=
        if o.colAxis then
          (List.range l).filterMap fun i =>
            let r := b / o.ext1 * l + i
            if r < o.ext0 then some (at2 m r (b % o.ext1)) else none
        else
          let w := ceilDiv o.ext1 l
          (List.range l).filterMap fun i =>
            let c := b % w * l + i
            if c < o.ext1 then some (at2 m (b / w) c) else none
      (amaxOf [cells], cells.any fun v => !v.isFinite)

/-- The block scale codes of an output (03, R109, R110). -/
def chooseBlocks (o : Operand) (st : Rat) (facts : List (Rat × Bool)) : List Nat :=
  facts.map fun f => if o.scl = 2 then mxChoose o.fmt f.2 f.1 else qsChoose o.fmt f.2 st f.1

/-! ## Conversion of one tensor -/

/-- One converted element, with what it counts (03, R106, R107, R113). -/
structure Elem where
  code : Nat
  nonFinite : Bool
  sat : Bool
  wrap : Bool
  under : Bool
  zero : Bool
  index : Nat
  mag : Rat
  deriving DecidableEq, Repr

/-- Convert an element under its scales. An element of a block whose scale is NaN is written as the zero code and
counts only as a zero, and as non-finite where its exact value is (03, R106). -/
def convertElem (s : State) (p : Producer) (o : Operand) (st : Rat) (blocks : List Nat) (r c : Nat) (v : Val) : Elem :=
  let idx := o.index r c
  let mag := if v.isFinite then v.mag else 0
  let sb := if o.scl < 2 then some 1 else blockScale o.scl (blocks.getD (o.blockOf r c) 0)
  match sb with
  | none => ⟨0, !v.isFinite, false, false, false, true, idx, mag⟩
  | some q =>
    let x := if q = 0 then Val.zero v.isNeg else v.div (.fin (st * q))
    let k := convertTo o.fmt p.rnd p.sat p.wrap (p.random s o r c) x
    ⟨k.code, k.nonFinite, k.sat, k.wrap, k.zero && v.isFinite && !v.isZero, k.zero, idx, mag⟩

/-- A converted tensor: its per-tensor scale, its block scales and its elements. -/
structure Converted where
  scale  : Rat
  blocks : List Nat
  elems  : List (List Elem)
  deriving DecidableEq, Repr

/-- Convert a matrix of exact values under given scales. -/
def convertWith (s : State) (p : Producer) (o : Operand) (st : Rat) (blocks : List Nat) (m : List (List Val)) : Converted :=
  ⟨st, blocks, (List.range o.ext0).map fun r => (List.range o.ext1).map fun c =>
    convertElem s p o st blocks r c (at2 m r c)⟩

/-- Convert a matrix of exact values, choosing its scales. -/
def convertTensor (s : State) (p : Producer) (o : Operand) (m : List (List Val)) : Converted :=
  let st := if o.scl = 1 ∨ o.scl = 3 then chooseScale s p o m else 1
  convertWith s p o st (chooseBlocks o st (blockFacts o m)) m

/-- The status of a converted tensor. -/
def Converted.stat (k : Converted) (poison : Bool) : OutStat :=
  k.elems.foldl (fun a row => row.foldl (fun a e =>
    ⟨a.nonFinite || e.nonFinite, a.sat || e.sat, a.wrap || e.wrap, a.under || e.under, a.poison,
     if e.nonFinite then lower a.first (some e.index) else a.first⟩) a) { OutStat.clean with poison := poison }

/-! ## Gauge (03, R113) -/

/-- The totals of an entry in the present attempt. -/
def State.gaugeTotals (s : State) (e : Nat) : GaugeTotals := lookD e ⟨0, 0, 0, 0, 0, 0⟩ s.tsq.gauges

/-- Observe converted elements under a gauge entry: each once (03, R113). -/
def State.observe (s : State) (region e : Nat) (k : Converted) : State :=
  let t := s.gaugeTotals e
  let es := k.elems.flatten
  let count := fun (f : Elem → Bool) => (es.filter f).length
  let amax := es.foldl (fun a x => if a < x.mag then x.mag else a) 0
  let t' : GaugeTotals :=
    { observed := t.observed + es.length
      zeros := t.zeros + count (·.zero)
      under := t.under + count (·.under)
      sats := t.sats + count (·.sat)
      nonFinite := t.nonFinite + count (·.nonFinite)
      amax := Max.max t.amax (amaxF32 amax) }
  { s.rwrap RegionCnt.GAUGE_ELEMENTS region es.length with tsq := { s.tsq with gauges := put e t' s.tsq.gauges } }

/-- Observe an output under the entry that its descriptor names. -/
def State.observeOut (s : State) (p : Producer) (o : Operand) (k : Converted) : State :=
  if o.gaugeEn then s.observe p.region (gaugeIndex s p.ctx o.gidx) k else s

/-! ## Bytes of a written tensor -/

/-- Code (r, c), or the zero code outside the extents (04, R587). -/
def codeAt (k : List (List Nat)) (o : Operand) (r c : Nat) : Nat :=
  if r < o.ext0 ∧ c < o.ext1 then (k.getD r []).getD c 0 else 0

/-- The 1,024 codes of a square, row by row. -/
def squareCodes (k : List (List Nat)) (o : Operand) (i j : Nat) : List Nat :=
  (List.range 1024).map fun e => codeAt k o (32 * i + e / 32) (32 * j + e % 32)

/-- The scale area's bytes (12, R382). -/
def scaleArea (o : Operand) (st : Rat) (blocks : List Nat) : List Byte :=
  (if o.tscaleBytes = 0 then [] else toBytes 4 (toF32 (Val.ofRat st)) ++ toBytes 4 0) ++
  blocks.map fun b => BitVec.ofNat 8 b

/-- Write the element codes and the scale area of a plain tensor. -/
def storePlain (s : State) (o : Operand) (codes : List (List Nat)) (scales : List Byte) (poison : Bool) : State :=
  let s := (List.range o.gridRows).foldl (fun s i => (List.range o.gridCols).foldl (fun s j =>
    s.store (o.square i j) (toBytes o.squareBytes (packNat (fmtBits o.fmt) (squareCodes codes o i j))) poison) s) s
  if scales.isEmpty then s else s.store (roundUp (o.base + 128 * o.pitch0 * o.gridRows) 64) scales poison

/-- The blocks of a coded square: `table` codes them; `marks` says which of the square's blocks carry poison. -/
def codedSquare (slot : Nat) (table : Option Table) (fmt : Nat) (marks : Nat → Bool) (xs : List Nat) : List Byte :=
  ((List.range 4).map fun q => encodeBlock slot table fmt (marks q) ((xs.drop (256 * q)).take 256)).flatten

/-- The bytes of a coded tensor: directory and squares (05, R162). -/
def codedBytes (o : Operand) (table : Option Table) (codes : List (List Nat)) (marks : Nat → Nat → Bool) : List Byte :=
  let sq := (List.range o.squares).map fun j =>
    codedSquare o.slot table o.fmt (marks j) (squareCodes codes o (j / o.gridCols) (j % o.gridCols))
  let offs := sq.foldl (fun (acc : List Nat × Nat) b => (acc.1 ++ [acc.2], acc.2 + b.length)) ([], o.dirBytes)
  padMul 8 ((offs.1 ++ [offs.2]).flatMap fun x => toBytes 4 (x / 8)) ++ sq.flatten

/-- Write the element codes and the scale area of a tensor in its layout. -/
def storeTensor (s : State) (p : Producer) (o : Operand) (codes : List (List Nat)) (scales : List Byte) : State :=
  if o.coded then
    let bs := codedBytes o (s.slotTable p.unit p.unitIx o.slot) codes fun _ _ => p.poison
    let s := s.store o.base bs p.poison
    if scales.isEmpty then s else s.store (roundUp (o.base + bs.length) 64) scales p.poison
  else storePlain s o codes scales p.poison

/-- Add the symbols of an output's blocks to its census area, each counter saturating (05, R169). -/
def addCensus (s : State) (o : Operand) (codes : List (List Nat)) : State :=
  if o.cen && (codedFmt? o.fmt).isSome then
    let a := o.base - 1088
    let syms := (List.range o.squares).flatMap fun j =>
      let xs := squareCodes codes o (j / o.gridCols) (j % o.gridCols)
      (List.range 4).flatMap fun q => censusOf o.fmt ((xs.drop (256 * q)).take 256)
    let counts := syms.foldl (fun (cs : List Nat) x => cs.set x (cs.getD x 0 + 1)) (List.replicate 272 0)
    s.store a (((List.range 272).zip counts).flatMap fun e =>
      toBytes 4 (satAdd 32 (s.peekNat (a + 4 * e.1) 4) e.2)) (s.poisoned a 1088)
  else s

/-! ## What a copy leaves (03, R107, R113) -/

/-- An element that a command copies: nothing is converted, so that only what its code and its scales say counts. -/
def copiedElem (o : Operand) (r c code : Nat) (v : Val) : Elem :=
  { code := code, nonFinite := !v.isFinite, sat := false, wrap := false, under := false
    zero := (codeValue o.fmt code).isZero, index := o.index r c, mag := if v.isFinite then v.mag else 0 }

/-- The elements of a tensor that a command has copied to a descriptor, as a coding unit's slots read them: they are
observed and reported like any output's. DEDUCED (log 83): R107 and R113 speak of every element that a command writes. -/
def copiedTensor (s : State) (slots : Nat → Option Table) (o : Operand) : Converted :=
  let t := readCodes s slots o
  ⟨1, [], ((List.range o.ext0).zip (t.rows.zip (valuesOf s o t))).map fun e =>
    ((List.range o.ext1).zip (e.2.1.zip e.2.2)).map fun x => copiedElem o e.1 x.1 x.2.1 x.2.2⟩

/-- The codes of a converted tensor. -/
def Converted.codes (k : Converted) : List (List Nat) := k.elems.map fun row => row.map Elem.code

/-- Write a converted tensor: elements, scale area and census. -/
def writeConverted (s : State) (p : Producer) (o : Operand) (k : Converted) : State :=
  addCensus (storeTensor s p o k.codes (scaleArea o k.scale k.blocks)) o k.codes

/-- Convert a matrix of exact values into a descriptor's tensor, write it, observe it, and report it. -/
def writeTensor (s : State) (p : Producer) (o : Operand) (m : List (List Val)) : OutStat × State :=
  let k := convertTensor s p o m
  (k.stat p.poison, (writeConverted s p o k).observeOut p o k)

end Sys2Proof.Machine
end

