-- ==== Sys2Proof/Machine/Bindings.lean ====
section
/-!
DEFINITION. Rule bindings: how a tensor is cut into shards, where the state of a shard lies, its working slots, and
the derivation of a working copy from a master (07, R216, R219 to R222, R240, R244).
-/
namespace Sys2Proof.Machine

/-! ## Shards (07, R219, R220) -/

/-- A shard's place in its tensor. -/
structure Box where
  r0   : Nat
  c0   : Nat
  rows : Nat
  cols : Nat
  deriving DecidableEq, Repr

def State.shardRows (s : State) (b : Nat) : Nat := s.rget Bind.SHARD_ROWS b
def State.shardCols (s : State) (b : Nat) : Nat := s.rget Bind.SHARD_COLS b

/-- P: the places of a shard. -/
def State.places (s : State) (b : Nat) : Nat := s.shardRows b * s.shardCols b

/-- Columns of the grid of shards. -/
def State.gridWidth (s : State) (b : Nat) : Nat := ceilDiv (s.rget Bind.DIM1 b) (s.shardCols b)

/-- Shards of the tensor. -/
def State.shardTotal (s : State) (b : Nat) : Nat := ceilDiv (s.rget Bind.DIM0 b) (s.shardRows b) * s.gridWidth b

/-- The box of a shard, cut short at the edges of the tensor. -/
def State.shardBox (s : State) (b j : Nat) : Box :=
  let r0 := j / s.gridWidth b * s.shardRows b
  let c0 := j % s.gridWidth b * s.shardCols b
  ⟨r0, c0, min (s.shardRows b) (s.rget Bind.DIM0 b - r0), min (s.shardCols b) (s.rget Bind.DIM1 b - c0)⟩

/-- Does this module own a shard of a binding? -/
def State.ownsShard (s : State) (b j : Nat) : Bool :=
  decide (s.rget Bind.SHARD_FIRST b ≤ j ∧ j < s.rget Bind.SHARD_FIRST b + s.rget Bind.SHARD_COUNT b)

/-- The local index of an owned shard. -/
def State.localShard (s : State) (b j : Nat) : Nat := j - s.rget Bind.SHARD_FIRST b

/-- The owning regions in ascending order. -/
def State.bindRegions (s : State) (b : Nat) : List Nat :=
  (List.range 32).filter fun g => bit (s.rget Bind.REGION_MASK b) g

/-- The region that owns a shard. -/
def State.shardRegion (s : State) (b j : Nat) : Nat :=
  (s.bindRegions b).getD (s.localShard b j % (s.bindRegions b).length) 0

/-- The context of a binding. -/
def State.bindCtx (s : State) (b : Nat) : Nat := s.rget Bind.CONTEXT b

/-- The state with the rule binding fields as they stood when a gate began (07, R217). -/
def State.withBinds (s : State) (binds : Regs) : State :=
  { s with regs := (s.regs.filter fun e => decide (e.1.tab ≠ .bind)) ++ binds }

/-! ## Where state lies (07, R221) -/

/-- The optimiser rules. -/
def ruleElem : Nat := 0
def ruleOrtho : Nat := 1
def ruleKron : Nat := 2

/-- Bytes of moments per parameter. -/
def State.momentBytes (s : State) (b : Nat) : Nat :=
  if s.rget Bind.RULE b = ruleElem then (if s.rbit Bind.MOM_FMT b then 4 else 8)
  else if s.rget Bind.RULE b = ruleOrtho then 4 else 0

/-- Bytes of one moment value. -/
def State.momentWidth (s : State) (b : Nat) : Nat :=
  if s.rget Bind.RULE b = ruleElem ∧ s.rbit Bind.MOM_FMT b = true then 2 else 4

def State.masterBase (s : State) (b j : Nat) : Nat :=
  s.rget Ctx.MASTER_BASE (s.bindCtx b) + 4 * (s.rget Bind.P0 b + s.localShard b j * s.places b)

/-- The first byte of a shard's moment `k`: 0 the first or the momentum, 1 the second. -/
def State.momentBase (s : State) (b j k : Nat) : Nat :=
  s.rget Ctx.MOMENT_BASE (s.bindCtx b) + 4096 * s.rget Bind.MOMENT_OFFSET b +
    s.localShard b j * s.momentBytes b * s.places b + k * s.momentWidth b * s.places b

/-- Bytes of a shard's factor block. -/
def State.factorBytes (s : State) (b : Nat) : Nat := 12 * (s.shardRows b ^ 2 + s.shardCols b ^ 2)

/-- The first byte of a part of a shard's factor block: 0 left factor, 1 left root, 2 left snapshot, 3 to 5 the right
ones. -/
def State.factorBase (s : State) (b j k : Nat) : Nat :=
  s.rget Ctx.FACTOR_BASE (s.bindCtx b) + 4096 * s.rget Bind.FACTOR_OFFSET b + s.localShard b j * s.factorBytes b +
    (if k < 3 then 4 * k * s.shardRows b ^ 2 else 12 * s.shardRows b ^ 2 + 4 * (k - 3) * s.shardCols b ^ 2)

/-- Q and S_w of a binding (07, R222). -/
def State.slotPositions (s : State) (b : Nat) : Nat :=
  1024 * ceilDiv (s.shardRows b) 32 * ceilDiv (s.shardCols b) 32

def State.slotBytes (s : State) (b : Nat) : Nat :=
  let q := s.slotPositions b
  roundUp (2 * q + ceilDiv q 8 + 4096) 4096

/-- Bytes of a shard's working area. -/
def State.workBytes (s : State) (b : Nat) : Nat := 4096 + 4 * s.slotBytes b

def State.workBase (s : State) (b j : Nat) : Nat :=
  s.rget Ctx.WORK_BASE (s.bindCtx b) + 4096 * s.rget Bind.WORK_OFFSET b + s.localShard b j * s.workBytes b

/-- The header and the first byte of a working slot. -/
def State.headAddr (s : State) (b j k : Nat) : Nat := s.workBase b j + 64 * k
def State.slotAddr (s : State) (b j k : Nat) : Nat := s.workBase b j + 4096 + k * s.slotBytes b

/-! ## Reading and writing a shard's parameters -/

/-- The codes of a shard's parameters from an area of `w` bytes each, row by row at a stride of SHARD_COLS. -/
def State.readParams (s : State) (b j base w : Nat) : List (List Nat) :=
  let x := s.shardBox b j
  (List.range x.rows).map fun r => (List.range x.cols).map fun c => s.peekNat (base + w * (r * s.shardCols b + c)) w

/-- The byte ranges of a shard's parameters. -/
def State.paramRanges (s : State) (b j base w : Nat) : List (Nat × Nat) :=
  let x := s.shardBox b j
  (List.range x.rows).map fun r => (base + w * (r * s.shardCols b), w * x.cols)

/-- Do a shard's parameters carry poison? -/
def State.paramPoison (s : State) (b j base w : Nat) : Bool :=
  (s.paramRanges b j base w).any fun r => s.poisoned r.1 r.2

/-- The writes of a shard's parameters: an address and bytes for each row. -/
def State.paramWrites (s : State) (b base w : Nat) (codes : List (List Nat)) : List (Nat × List Byte) :=
  ((List.range codes.length).zip codes).map fun e =>
    (base + w * (e.1 * s.shardCols b), e.2.flatMap fun v => toBytes w v)

/-- Make writes, with no poison. -/
def State.writeAll (s : State) (ws : List (Nat × List Byte)) : State :=
  ws.foldl (fun s w => if w.2.isEmpty then s else s.store w.1 w.2 false) s

/-- FP32 codes as values, and back. -/
def valsOf (m : List (List Nat)) : List (List Val) := m.map fun row => row.map ofF32
def codesOf (m : List (List Val)) : List (List Nat) := m.map fun row => row.map toF32

/-! ## Working slots (07, R222) -/

/-- A working slot's header. -/
structure SlotHead where
  gen    : Nat
  fmt    : Nat
  scl    : Nat
  dual   : Bool
  valid  : Bool
  tscale : Nat
  step   : Nat
  deriving DecidableEq, Repr

def SlotHead.bytes (h : SlotHead) : List Byte :=
  toBytes 2 h.gen ++ toBytes 1 (h.fmt % 16 + 16 * (h.scl % 4) + 64 * b2n h.dual + 128 * b2n h.valid) ++ [0] ++
  toBytes 4 h.tscale ++ toBytes 8 h.step ++ List.replicate 48 0

def readSlotHead (bs : List Byte) : SlotHead :=
  let f := leField bs 2 1
  ⟨leField bs 0 2, bits f 0 4, bits f 4 2, bit f 6, bit f 7, leField bs 4 4, leField bs 8 8⟩

/-- The descriptor of a copy of a shard at an address: plain, with the pitch of its own squares. The first copy has
its blocks along the shard's columns. -/
def State.copyOperand (s : State) (b j base fmt scl : Nat) (colAxis : Bool) : Operand :=
  let x := s.shardBox b j
  { base := base, fmt := fmt, scl := scl, coded := false, slot := 0, colAxis := colAxis, present := true
    gaugeEn := false, cen := false, gidx := 0, tensor := s.rget Bind.TENSOR b, whole1 := s.rget Bind.DIM1 b
    ext0 := x.rows, ext1 := x.cols, off0 := x.r0, off1 := x.c0, pitch0 := fmtBits fmt * ceilDiv x.cols 32 }

/-- Bytes of a copy: its squares and its block scales. -/
def copyBytes (o : Operand) : Nat := o.squares * o.squareBytes + o.blockCount

/-- The bytes of a copy: squares, then one byte for each block scale. -/
def copyImage (o : Operand) (codes : List (List Nat)) (blocks : List Nat) : List Byte :=
  ((List.range o.squares).flatMap fun j =>
    toBytes o.squareBytes (packNat (fmtBits o.fmt) (squareCodes codes o (j / o.gridCols) (j % o.gridCols)))) ++
  blocks.map fun c => BitVec.ofNat 8 c

/-- The working format of a binding at a rung (07, R244). -/
def State.workForm (s : State) (b rung : Nat) : Nat × Nat :=
  resolveFmt (s.rget Bind.WORK_FMT b) (s.rget Bind.WORK_SCL b) rung

/-- Are two copies written: WORK_DUAL with a block-scaled format? -/
def State.workDual (s : State) (b rung : Nat) : Bool := s.rbit Bind.WORK_DUAL b && decide (2 ≤ (s.workForm b rung).2)

/-- The side that converts a working copy: RND 0 and SAT 1 (07, R244). -/
def State.workProducer (s : State) (b j : Nat) : Producer :=
  { ctx := s.bindCtx b, region := s.shardRegion b j, tile := 32 * s.shardRegion b j, opid := 0, step := 0, rnd := 0
    sat := true, wrap := false, stream := 0, poison := false, unit := 3, unitIx := s.shardRegion b j }

/-- A working slot derived from master values (07, R244): its bytes, and what the gauge observes. -/
structure Derived where
  bytes : List (Nat × List Byte)
  first : Converted
  deriving DecidableEq, Repr

/-- Derive the slot `k` of a shard from its master at a rung, for a generation and a step count. -/
def State.deriveSlot (s : State) (b j k rung gen step : Nat) (m : List (List Val)) : Derived :=
  let (f, c) := s.workForm b rung
  let dual := s.workDual b rung
  let p := s.workProducer b j
  let st := if c = 1 ∨ c = 3 then (ofF32 (s.rget Bind.WORK_TSCALE b)).rat else 1
  let o := s.copyOperand b j (s.slotAddr b j k) f c true
  let k1 := convertWith s p o st (chooseBlocks o st (blockFacts o m)) m
  let o2 := s.copyOperand b j (s.slotAddr b j k + s.slotBytes b / 2) f c false
  let k2 := convertWith s p o2 st (chooseBlocks o2 st (blockFacts o2 m)) m
  let head : SlotHead := ⟨gen, f, c, dual, true, toF32 (Val.ofRat st), step⟩
  { bytes := [(o.base, copyImage o k1.codes k1.blocks)] ++
      (if dual then [(o2.base, copyImage o2 k2.codes k2.blocks)] else []) ++ [(s.headAddr b j k, head.bytes)]
    first := k1 }

/-- Observe a derived copy under WORK_GAUGE, once for each element (07, R244). -/
def State.observeWork (s : State) (b j : Nat) (d : Derived) : State :=
  if s.rbit Bind.WORK_GAUGE_EN b then
    s.observe (s.shardRegion b j) (gaugeIndex s (s.bindCtx b) (s.rget Bind.WORK_GAUGE b)) d.first
  else s

/-! ## Retained generations (07, R240; 08, R259) -/

/-- What the owner retains of a shard. `newest` is the slot of the newest generation. -/
def State.retained (s : State) (b j : Nat) : Retained := lookD (b, j) ⟨[none, none, none, none], [0, 0, 0, 0], [0, 0, 0, 0], 0⟩ s.update.retained

def State.setRetained (s : State) (b j : Nat) (r : Retained) : State :=
  { s with update := { s.update with retained := put (b, j) r s.update.retained } }

/-- The newest generation of a shard. -/
def Retained.newestGen (r : Retained) : Nat := ((r.slots.getD r.newest none).getD 0)

/-- The slot that holds a generation. -/
def Retained.slotOf (r : Retained) (gen : Nat) : Option Nat :=
  (List.range 4).find? fun k => r.slots.getD k none == some gen

/-- The age of a generation behind the newest, modulo 65,536. -/
def genAge (newest gen : Nat) : Nat := (newest + 65536 - gen % 65536) % 65536

/-- The slot of the newest generation made by a step count. -/
def Retained.slotAt (r : Retained) (step : Nat) : Option Nat :=
  let age := fun k => genAge r.newestGen ((r.slots.getD k none).getD 0)
  ((List.range 4).filter fun k => (r.slots.getD k none).isSome && decide (r.steps.getD k 0 ≤ step)).foldl (fun best k =>
    match best with
    | none => some k
    | some q => if age k < age q then some k else some q) none

/-- Does a cast of working content hold its lease on a generation (07, R247)? -/
def State.castPins (s : State) (b j gen : Nat) : Bool :=
  let r := s.retained b j
  s.update.casts.any fun k => !k.read && k.ctx == s.bindCtx b && (bit k.content 1 || bit k.content 2) &&
    (match k.taken with
     | some n => (r.slotAt n).any fun q => r.slots.getD q none == some gen
     | none => false)

/-- Does a lease pin a generation (07, R247; 08, R261)? -/
def State.leased (s : State) (b j gen : Nat) : Bool :=
  (s.collect.leases.any fun l => l.bind == b && l.shard == j && l.gen == gen) || s.castPins b j gen

/-- The slot that takes the next generation: an empty one, else that of the oldest generation that no lease pins
(07, R240); none while every slot but the newest is pinned. -/
def State.nextSlot (s : State) (b j : Nat) : Option Nat :=
  let r := s.retained b j
  let others := (List.range 4).filter fun k => k != r.newest || (r.slots.getD r.newest none).isNone
  match others.find? fun k => (r.slots.getD k none).isNone with
  | some k => some k
  | none =>
    (others.filter fun k => !s.leased b j ((r.slots.getD k none).getD 0)).foldl (fun best k =>
      match best with
      | none => some k
      | some q =>
        if genAge r.newestGen ((r.slots.getD q none).getD 0) < genAge r.newestGen ((r.slots.getD k none).getD 0)
        then some k else some q) none

/-! ## Flags of an attempt (01, R16; 07, R225) -/

/-- ATTEMPT as frames carry it: 32 bits (09, R289). -/
def attempt32 (a : Nat) : Nat := a % 2 ^ 32

/-- Is an attempt of 32 bits the current one or a later one? -/
def notPast (cur a : Nat) : Bool := decide ((a + 2 ^ 32 - attempt32 cur) % 2 ^ 32 < 2 ^ 31)

/-- The flags that owned reductions and lost contributions raised for an attempt of a context. -/
def State.attemptFlags (s : State) (c attempt : Nat) : Bool × Bool :=
  ((s.tsq.flags.filter fun e => e.1 == c && e.2.attempt == attempt32 attempt).foldl
    (fun a e => (a.1 || e.2.nonFinite, a.2 || e.2.poison)) (false, false))

/-- Raise flags for an attempt whose gate is still to come. -/
def State.raiseFlags (s : State) (c attempt : Nat) (nonFinite poison : Bool) : State :=
  if (nonFinite || poison) && notPast (s.rget Ctx.ATTEMPT c) attempt then
    { s with tsq := { s.tsq with flags := s.tsq.flags ++ [(c, ⟨attempt32 attempt, nonFinite, poison⟩)] } }
  else s

end Sys2Proof.Machine
end

