-- ==== Sys2Proof/Machine/Commands.lean ====
section
/-!
DEFINITION. Engine commands: their queues, what an engine instruction checks and takes at issue (12, R375 to R379,
R384; 02, R53), what a command's completion leaves (12, R378; 02, R72; 18), and the checks of 13 that ride along:
the L1 number of a matrix command (R421) and the mirror of a pair-mode command (R425, R426).
-/
namespace Sys2Proof.Machine

/-! ## Engines and queues (12, R379) -/

/-- The engine that runs an operation. -/
def EngOp.engine : EngOp → Engine
  | .mma | .tbuild | .tload => .matrix
  | .vact | .vactb | .vew => .vector
  | .rnormF | .rnormB | .rsmaxF | .rsmaxB | .rmerge | .rstat => .row
  | .cmove => .cluster
  | .tmove => .tier
  | .cgather | .creduce | .cshift | .csend | .crecv => .collective
  | .uapply | .uprefetch | .ucast => .update

/-- Commands accepted from each tile. -/
def Engine.depth : Engine → Nat
  | .matrix | .vector | .cluster | .tier | .update => 16
  | .row => 8
  | .collective => 32

/-- The engine class of trace records (18, R565). -/
def Engine.cls : Engine → Nat
  | .matrix => 0
  | .vector | .row => 1
  | .cluster | .tier => 2
  | .collective => 3
  | .update => 4

/-- Opcodes (12, R384). -/
def EngOp.opcode : EngOp → Nat
  | .mma => 0x30 | .tbuild => 0x31 | .tload => 0x32 | .vact => 0x40 | .vactb => 0x41 | .vew => 0x42
  | .rnormF => 0x48 | .rnormB => 0x49 | .rsmaxF => 0x4A | .rsmaxB => 0x4B | .rmerge => 0x4C | .rstat => 0x4D
  | .cmove => 0x50 | .tmove => 0x51 | .cgather => 0x52 | .creduce => 0x58 | .cshift => 0x59 | .csend => 0x60
  | .crecv => 0x61 | .uapply => 0x68 | .uprefetch => 0x69 | .ucast => 0x6A

/-- Commands of a tile that hold a place in an engine's queue. -/
def State.inQueue (s : State) (tile : BitVec 10) (e : Engine) : Nat :=
  (s.tsq.cmds.filter fun c => c.thread.tile == tile && decide (c.op.engine = e)).length

/-- Has an engine's queue room for the tile? -/
def State.queueRoom (s : State) (tile : BitVec 10) (e : Engine) : Bool := decide (s.inQueue tile e < e.depth)

/-! ## Pair mode (13, R424 to R426) -/

/-- The mirror of a die. -/
def mirrorDie (d : Nat) : Nat := 3 - d

/-- The mirror of a module tile. -/
def mirrorTile (t : Nat) : Nat := mirrorDie (t / 256) * 256 + t % 256

/-- The mirror of a half-A on-chip address; every other address is itself. -/
def mirrorAddr (a : Nat) : Nat :=
  match spaceOf a with
  | .basin t => if t < 512 then basinOf (mirrorTile t) + (a - basinOf t) else a
  | .pool g => if g < 16 then poolOf (mirrorDie (g / 8) * 8 + g % 8) + (a - poolOf g) else a
  | .side c => if c < 128 then sideOf (mirrorDie (c / 64) * 64 + c % 64) + (a - sideOf c) else a
  | _ => a

/-- Does a thread run in half B for an L3 context of a pair-mode partition? -/
def State.isMirror (s : State) (t : ThreadRef) (c : Nat) : Bool :=
  decide (512 ≤ t.tile.toNat) && s.rget Ctx.CHECK c == 3 && s.rbit Part.PAIR (s.partOf c)

/-- A descriptor whose BASE is taken at its mirror. -/
def mirrorDesc (d : Desc) : Desc :=
  BitVec.ofNat 256 (d.toNat - bits d.toNat 0 48 + mirrorAddr (bits d.toNat 0 48))

/-- On chip: where a half-B command may write (13, R426). -/
def onChip (a : Nat) : Bool :=
  match spaceOf a with
  | .basin _ | .pool _ | .side _ => true
  | _ => false

/-! ## Context caches (02, R64) -/

/-- A tile's cache uses an entry: the newest stands last. -/
def State.useCache (s : State) (t c : Nat) : State :=
  let l := (lookD t [] s.tsq.caches).filter fun x => x != c
  { s with tsq := { s.tsq with caches := put t (l ++ [c]) s.tsq.caches } }

/-- An engine of a tile reads the entry of a command's context from the tile's cache. -/
def State.engineUse (s : State) (c : EngCmd) : State :=
  let t := c.thread.tile.toNat
  if bits c.ctx.toNat 0 16 ∈ lookD t [] s.tsq.caches then s.useCache t (bits c.ctx.toNat 0 16) else s

/-! ## Issue (12, R377) -/

/-- The next descriptor register. -/
def after (r : BitVec 4) (n : Nat) : BitVec 4 := r + BitVec.ofNat 4 n

/-- Do the consecutive descriptors up to `n` after a register exist (12, R376)? -/
def follows (r : BitVec 4) (n : Nat) : Bool := decide (r.toNat + n ≤ 15)

/-- The command that an engine instruction makes, with everything it takes at issue. -/
def commandOf (s : State) (t : ThreadRef) (th : Thread) (e : FormE) (op : EngOp) : EngCmd :=
  let c := th.ctxIx
  let m := s.isMirror t c
  let md : Desc → Desc := fun d => if m then mirrorDesc d else d
  { id := s.tsq.nextCmd, op := op, thread := t, ctx := th.ctx, opid := th.opid, step := th.step
    attempt := th.attempt, issued := s.now, rung := (s.rungOf c).rung, check := s.rget Ctx.CHECK c
    wait := if e.we then some (e.wk, (th.reg e.wv).truncate 32) else none
    signal := if e.se then some e.sk else none
    signal2 := if op = .cshift ∧ e.w1.getLsbD 17 = true then some (e.w1.extractLsb' 13 4) else none
    record := if e.sae then some (if m then mirrorAddr (th.reg e.sa).toNat else (th.reg e.sa).toNat) else none
    da := md (th.desc e.da), da1 := md (th.desc (after e.da 1)), db := md (th.desc e.db)
    db1 := md (th.desc (after e.db 1)), dc := md (th.desc e.dc), dc1 := md (th.desc (after e.dc 1))
    dc2 := md (th.desc (after e.dc 2)), dd := md (th.desc e.dd)
    gs := th.reg e.gs, gt := th.reg e.gt, lr := th.reg (e.w1.extractLsb' 0 5), w1 := e.w1, l1 := none, pairNo := none, mirror := m
    started := false }

/-- The index of a command's context. -/
def EngCmd.ctxIx (c : EngCmd) : Nat := bits c.ctx.toNat 0 16

/-- The completion record's address (12, R378; 07, R236): any backed space, no reserved area, aligned to 16. -/
def recordFault (s : State) (c : EngCmd) : Option (InsnFault × Nat × Nat) :=
  match c.record with
  | none => none
  | some a =>
    if !(s.backed a && s.backed (a + 15) && !s.reserved a && !s.reserved (a + 15)) then some (.address, 0x62, a)
    else if a % 16 ≠ 0 then some (.misaligned, 0x1D, a)
    else none

/-- Does a context run in pair mode (13, R424, R425)? -/
def State.paired (s : State) (c : Nat) : Bool := s.rget Ctx.CHECK c == 3 && s.rbit Part.PAIR (s.partOf c)

/-- Put a command into its engine's queue; a matrix command at L1 takes its tile's next number (13, R421), and a
pair-mode command its thread's (13, R427). -/
def State.accept (s : State) (c : EngCmd) : State :=
  let tile := c.thread.tile.toNat
  let numbered := c.check == 1 && decide (c.op = .mma)
  let paired := s.paired c.ctxIx
  let n := lookD tile 0 s.tsq.l1Next
  let k := lookD c.thread 0 s.tsq.pairNext
  let c := if numbered then { c with l1 := some n } else c
  { s with tsq := { s.tsq with
      cmds := s.tsq.cmds ++ [if paired then { c with pairNo := some k } else c]
      l1Next := if numbered then put tile ((n + 1) % 2 ^ 32) s.tsq.l1Next else s.tsq.l1Next
      pairNext := if paired then put c.thread (k + 1) s.tsq.pairNext else s.tsq.pairNext } }

/-- A command leaves its thread: into the queue, or, when the queue is full, the thread is BLOCKED with it
(02, R46, R47; 12, R379). -/
def State.submit (s : State) (t : ThreadRef) (th : Thread) (c : EngCmd) : State :=
  let s := { s with tsq := { s.tsq with nextCmd := s.tsq.nextCmd + 1 } }
  if s.queueRoom t.tile c.op.engine then (s.setThread t (th.advance 16)).accept c
  else
    let s := s.setThread t { th.advance 16 with status := .blocked }
    { s with tsq := { s.tsq with blockedCmd := put t c s.tsq.blockedCmd } }

/-- Why an engine instruction faults: the cause, the record's reason, and the address. -/
abbrev IssueFault := InsnFault × Nat × Nat

/-- An invalid descriptor (12, R383, R414). -/
def badDesc (reason : Nat) : IssueFault := (.descriptor, reason, 0)

/-- Ranges that lie outside the stores of a command's engine: an invalid descriptor. -/
def storesFault (s : State) (c : EngCmd) (allow : Space → Bool) (ranges : List (Nat × Nat)) : Option IssueFault :=
  (placeFault s c.thread.tile.toNat allow ranges).map badDesc

/-- The first condition that fails: an invalid descriptor with its reason. -/
def descFault (checks : List (Bool × Nat)) : Option IssueFault := (firstBad checks).map badDesc

/-- The first of several answers. -/
def firstFault (fs : List (Option IssueFault)) : Option IssueFault := fs.findSome? id

/-- An engine instruction: reserved bits of word 0 and `rsv` of word 1 make it undefined (12, R374, R376); then
the record address and `check`, which answers the fault of its operands. -/
def engine (t : ThreadRef) (e : FormE) (op : EngOp) (rsv : Word) (defined : Bool) (level : Nat)
    (check : State → EngCmd → Option IssueFault) (s : State) : Host.Outcome State Fault Refusal :=
  .next (s.issue t 16 e.pe e.pn e.pi (decide (e.rsv = 0) && decide (e.w1 &&& rsv = 0) && defined) level
    (fun th s =>
      let c := commandOf s t th e op
      match recordFault s c with
      | some (k, reason, a) => s.insnFault t th k reason a
      | none =>
        match check s c with
        | some (k, reason, a) => s.insnFault t th k reason a
        | none => s.submit t th c))

/-- The bits of a word from `lo` up. -/
def bitsFrom (lo : Nat) : Word := BitVec.allOnes 64 <<< lo

/-! ## What a command brings to its outputs -/

/-- The producing side of a command's output, with RND, SAT and WRAP in word 1 [3:0]. -/
def EngCmd.producer (c : EngCmd) (poison : Bool) : Producer :=
  { ctx := c.ctxIx, region := regionOfTile c.thread.tile.toNat, tile := c.thread.tile.toNat, opid := c.opid
    step := c.step.toNat, rnd := bits c.w1.toNat 0 2, sat := c.w1.getLsbD 2, wrap := c.w1.getLsbD 3
    stream := 0, poison := poison, unit := 0, unitIx := c.thread.tile.toNat }

/-- The record of an event that a command met. -/
def EngCmd.note (s : State) (c : EngCmd) (r : ErrRec) : ErrRec :=
  (r.ofCtx s c.ctx.toNat c.opid.toNat c.step.toNat).atTile c.thread.tile.toNat

/-- The records of coded blocks that a unit did not decode (05, R168, R174). -/
def State.blockErrors (s : State) (c : EngCmd) (errs : List BlockError) : State :=
  errs.foldl (fun s e => s.logError (c.note s
    { type := if e = .malformed then 0x0020 else 0x0021, severity := 3, reason := e.reason })) s

/-- An operand read at a command's start: its values, whether it carries poison, and the state after the read. -/
structure InRead where
  vals   : List (List Val)
  codes  : List (List Nat)
  poison : Bool
  state  : State
  deriving DecidableEq, Repr

/-- Read an operand through a coding unit (05, R168, R174; 11, R357). -/
def EngCmd.readOperand (c : EngCmd) (s : State) (unit ix : Nat) (o : Operand) : InRead :=
  let t := readCodes s (s.slotTable unit ix) o
  let vs := valuesOf s o t
  let s' := (readRanges s o).foldl (fun s r => s.touch r.1 r.2) s
  ⟨vs, t.rows, t.poison, s'.blockErrors c t.errors⟩

/-! ## Completion (12, R378; 02, R72) -/

/-- What running a command leaves: its status, the output that NF_OUTPUT names, its reason, what CMD_END counts,
the state with its writes, and whether it ends without a signal. -/
structure Done where
  stat    : OutStat
  nfOut   : Nat
  reason  : Nat
  count   : Nat
  state   : State
  quiet   : Bool
  deriving DecidableEq, Repr

/-- A command with no output. -/
def Done.plain (s : State) (reason : Nat := 0) (count : Nat := 0) : Done := ⟨.clean, 0, reason, count, s, false⟩

/-- The completion record (12, R378). -/
def completionBytes (d : Done) : List Byte :=
  toBytes 8 d.stat.word ++ toBytes 1 d.reason ++ toBytes 1 (d.nfOut % 16) ++ toBytes 6 0

/-- LOC of a trace record (18, R565). -/
def traceLoc (tile cls : Nat) : Nat :=
  tile / 32 % 8 + 8 * (tile / 4 % 8) + 64 * (tile % 4) + 256 * cls

/-- Trace a command's start or end in its die's session. -/
def State.traceCmd (s : State) (c : EngCmd) (kind a b : Nat) : State :=
  let tile := c.thread.tile.toNat
  s.traceEvent (dieOfTile tile) c.op.engine.cls kind (traceLoc tile c.op.engine.cls) (regionOfTile tile)
    c.ctx.toNat c.opid.toNat a b

/-- Signal a counter of a command's thread (02, R72). -/
def State.signalToken (s : State) (t : ThreadRef) (ctx : Half) (k : Option (BitVec 4)) : State :=
  match k with
  | none => s
  | some k =>
    match s.thread? t with
    | some th => if th.ctx = ctx then s.setThread t (th.addToken k 1) else s
    | none => s

/-- A command leaves its queue; a slot whose thread has ended is FREE when its last started command is gone
(02, R48). -/
def State.dropCmd (s : State) (c : EngCmd) : State :=
  let s := { s with tsq := { s.tsq with cmds := s.tsq.cmds.filter fun d => d.id != c.id } }
  match s.thread? c.thread with
  | some th => if th.status = .ended ∧ s.startedCmds c.thread = false then s.freeSlot c.thread else s
  | none => s

/-- A command completes: the record, the trace, the counter, the signal, and its place in the queue. -/
def State.finish (c : EngCmd) (d : Done) : State :=
  let s := d.state
  let tile := c.thread.tile.toNat
  let s := match c.record with
    | some a => if c.mirror && !onChip a then s else s.store a (completionBytes d) false
    | none => s
  let s := (s.traceCmd c 0x02 (d.reason + 256 * (d.stat.word % 16)) d.count).countTile
    TileCnt.CMDS 0x06 tile (some c.ctx) c.opid 1
  let s := if d.quiet then s else s.signalToken c.thread c.ctx c.signal
  s.dropCmd c

/-- The record of a command whose coded input turns out to be invalid as it is read (12, R383, R414; log 29). -/
def inputRec (s : State) (c : EngCmd) (reason : Nat) : ErrRec :=
  c.note s { type := InsnFault.descriptor.type, severity := 3, reason := reason }

/-- A command whose coded input turns out to be invalid: the record, the end of its context with 0x1D, and no effect of the
command, which leaves its queue (12, R414; log 29). -/
def State.inputFault (s : State) (c : EngCmd) (reason : Nat) : State :=
  let s := (s.logError (inputRec s c reason)).dropCmd c
  (s.blameAt c.ctxIx c.opid.toNat c.thread).endContext c.ctxIx 0x1D

/-- The stores of a half-B command that lie off chip are not made (13, R426): device memory and its poison are as
they were before the command. -/
def keepOffChip (before after : State) : State :=
  let off : Nat → Bool := fun a => !onChip a
  { after with
    mem := (after.mem.filter fun c => onChip c.1).foldl (fun m c => Memory.write c.1 c.2 m)
      (before.mem.filter fun c => off c.1)
    poison := (after.poison.filter fun l => onChip (l * 64)).foldl (fun ps l => addLine l ps)
      (before.poison.filter fun l => off (l * 64)) }

end Sys2Proof.Machine
end

