-- ==== Sys2Proof/Machine/Matrix.lean ====
section
/-!
DEFINITION. Matrix and coding commands: MMA (04; 12, R395 to R397), TBUILD and TLOAD (05, R169 to R176; 12, R398,
R399).
-/
namespace Sys2Proof.Machine

/-! ## Word 1 of MMA (12, R395) -/

/-- A bit of word 1. -/
def EngCmd.flag (c : EngCmd) (i : Nat) : Bool := c.w1.getLsbD i

def EngCmd.orientA (c : EngCmd) : Bool := c.flag 4
def EngCmd.orientB (c : EngCmd) : Bool := c.flag 5
def EngCmd.acc (c : EngCmd) : Bool := c.flag 6
def EngCmd.drain (c : EngCmd) : Bool := c.flag 7
def EngCmd.dual (c : EngCmd) : Bool := c.flag 8 && c.flag 7
def EngCmd.conv (c : EngCmd) : Bool := c.flag 9
def EngCmd.cplx (c : EngCmd) : Bool := c.flag 10

/-- Held depth K_h of an operand format (04, R125). -/
def heldDepth (fmt : Nat) : Nat :=
  match fmt with
  | 3 | 4 | 8 => 64
  | 5 | 9 => 128
  | 6 | 10 => 256
  | _ => 32

/-- Slice mode: FP32 and FP64 operands (04, R125, R145). -/
def sliced (fmt : Nat) : Bool := fmt == fmtFP32 || fmt == fmtFP64

/-- Integer operands (04, R133). -/
def integral (fmt : Nat) : Bool := fmt == fmtINT8 || fmt == fmtINT4 || fmt == fmtINT2

/-- Slices of an element (04, Multi-pass products). -/
def sliceCount (fmt : Nat) : Nat := if fmt = fmtFP64 then 7 else 3

/-- Bytes per element of the accumulator area (04, R135). -/
def accBytes (fmt : Nat) : Nat := if sliced fmt then 32 else if integral fmt then 8 else 4

/-! ## Convolution geometry (12, R396) -/

/-- The geometry in g[GS]. -/
structure Geometry where
  hIn : Nat
  wIn : Nat
  kh : Nat
  kw : Nat
  strideY : Nat
  strideX : Nat
  dilY : Nat
  dilX : Nat
  padY : Nat
  padX : Nat
  deriving DecidableEq, Repr

def geometryOf (g : Word) : Geometry :=
  let n := g.toNat
  ⟨bits n 0 16, bits n 16 16, bits n 32 4 + 1, bits n 36 4 + 1, bits n 40 3 + 1, bits n 43 3 + 1, bits n 46 3 + 1,
   bits n 49 3 + 1, bits n 52 4, bits n 56 4⟩

/-- An output extent of a convolution; below 1 where no output position exists. -/
def convExtent (inp pad dil k stride : Nat) : Int :=
  ((inp : Int) + 2 * pad - dil * (k - 1 : Nat) - 1) / (stride : Int) + 1

def Geometry.hOut (g : Geometry) : Int := convExtent g.hIn g.padY g.dilY g.kh g.strideY
def Geometry.wOut (g : Geometry) : Int := convExtent g.wIn g.padX g.dilX g.kw g.strideX

/-- C′ (04, R136). -/
def paddedChannels (cIn kh : Nat) : Nat := roundUp cIn kh

/-! ## The plan of a command -/

/-- The shape of a product: M, K and N. -/
structure Shape where
  m : Nat
  k : Nat
  n : Nat
  deriving DecidableEq, Repr

/-- M, K and N from the extents of A and B (12, R395). -/
def mmaShape (c : EngCmd) (a b : Operand) : Shape :=
  let n := if c.orientB then b.ext0 else b.ext1
  if c.conv then
    let g := geometryOf c.gs
    ⟨g.hOut.toNat * g.wOut.toNat, g.kh * g.kw * paddedChannels a.ext1 (heldDepth a.fmt), n⟩
  else if c.orientA then ⟨a.ext1, a.ext0, n⟩ else ⟨a.ext0, a.ext1, n⟩

/-- The reduction extent of B. -/
def depthB (c : EngCmd) (b : Operand) : Nat := if c.orientB then b.ext1 else b.ext0

/-- The operands: A, B, and with CPLX the imaginary parts. -/
def mmaInputs (c : EngCmd) : List Operand :=
  [resolved c.da c.rung, resolved c.db c.rung] ++
  (if c.cplx then [resolved c.da1 c.rung, resolved c.db1 c.rung] else [])

/-- The outputs that the command writes: d[DC], and d[DC + 1] with CPLX or d[DD] with DUAL; none with DRAIN clear
(12, R397). -/
def mmaOutputs (c : EngCmd) : List Operand :=
  if c.drain then
    [resolved c.dc c.rung] ++
    (if c.cplx then [resolved c.dc1 c.rung] else if c.dual then [resolved c.dd c.rung] else [])
  else []

/-- Planes of accumulators: the imaginary area follows the real one. -/
def EngCmd.planes (c : EngCmd) : Nat := if c.cplx then 2 else 1

/-- The first byte of the accumulator area. -/
def accBase (c : EngCmd) : Nat := basinOf c.thread.tile.toNat + 64 * bits c.w1.toNat 12 15

/-- Bytes of one plane of the accumulator area (12, R396). -/
def planeBytes (fmt m n : Nat) : Nat := ceilDiv m 32 * ceilDiv n 32 * 1024 * accBytes fmt

/-- The data width of a command's array (04; 13, R418). -/
def dataWidth (s : State) (c : EngCmd) : Nat :=
  s.rget Census.W c.thread.tile.toNat - (if c.check = 2 then 4 else 0)

/-- The store that an MMA may name: the issuing tile's basin. -/
def ownBasin (c : EngCmd) : Space → Bool := fun x => x == .basin c.thread.tile.toNat

/-- Is the block axis of both operands the reduction axis (03, R94)? -/
def axisOk (c : EngCmd) (a b : Operand) : Bool :=
  decide (a.scl < 2) || (a.colAxis == (c.orientA && !c.conv) && b.colAxis == !c.orientB)

/-- The geometry rules of CONV (12, R395, R396). -/
def convOk (c : EngCmd) (a : Operand) : Bool :=
  let g := geometryOf c.gs
  !c.conv || (decide (1 ≤ g.hIn ∧ 1 ≤ g.wIn ∧ bits c.gs.toNat 60 4 = 0 ∧ 1 ≤ g.hOut ∧ 1 ≤ g.wOut) &&
    decide (a.ext0 = g.hIn * g.wIn))

/-- The validity of an MMA. DESIGN CHOICE (log 113): d[DD] of a DUAL command is checked under R112 like any output, although the
gauge then ignores its gauge fields (12, R383, R395 to R397; 03, R94, R96; 04, R124, R142, R146, R160 of 05). -/
def mmaCheck (s : State) (c : EngCmd) : Option IssueFault :=
  let ins := mmaInputs c
  let outs := mmaOutputs c
  let a := ins.getD 0 (operandOf 0)
  let b := ins.getD 1 (operandOf 0)
  let sh := mmaShape c a b
  let area := accBase c
  let size := c.planes * planeBytes a.fmt sh.m sh.n
  firstFault [
    descFault [(bits c.w1.toNat 0 2 != 3, 0x1D), (!(c.cplx && (c.flag 8 || c.conv)), 0x1D)],
    (ins.findSome? fun o => operandCheck s c false (ownBasin c) o).map badDesc,
    descFault [
      (ins.all fun o => o.fmt == a.fmt && o.scl == a.scl, 0x1D),
      (!c.cplx || a.fmt == fmtBF16, 0x1D),
      (convOk c a, 0x1D),
      (decide (sh.k = depthB c b), 0x1D),
      (!c.cplx || ((ins.drop 2).zip (ins.take 2)).all fun p => p.1.ext0 == p.2.ext0 && p.1.ext1 == p.2.ext1, 0x1D),
      (axisOk c a b, 0x1D),
      (decide (sh.n ≤ dataWidth s c), 0x1D),
      (!sliced a.fmt || (decide (sh.m ≤ 64) && ins.all fun o => !o.coded), 0x1D),
      (decide (area + size ≤ s.lendBase c.thread.tile.toNat), 0x1D)],
    (outs.findSome? fun o => operandCheck s c true (ownBasin c) o).map badDesc,
    descFault [
      (outs.all fun o => o.ext0 == sh.m && o.ext1 == sh.n, 0x1D),
      (!c.dual || (match outs with
        | [x, y] => x.fmt == y.fmt && x.scl == y.scl && (decide (x.scl < 2) || x.colAxis != y.colAxis)
        | _ => true), 0x1D)]]

/-! ## The streamed and the held operand -/

/-- A as M rows of K elements; outside its stored elements +0. With CONV, the product matrix (04, R136, R137). DEDUCED (log 114):
a position outside the input is a +0 of that matrix, which multiplies its weight as R137 says, so that it gives NaN with an
infinite or NaN weight; R127's exact zero is the fill of both operands past K. -/
def streamed {α : Type} (c : EngCmd) (a : Operand) (zero : α) (x : List (List α)) (m k : Nat) : α :=
  if c.conv then
    let g := geometryOf c.gs
    let cp := paddedChannels a.ext1 (heldDepth a.fmt)
    let w := g.wOut.toNat
    let tap := k / cp
    let ch := k % cp
    let y : Int := (m / w * g.strideY + tap / g.kw * g.dilY : Nat) - (g.padY : Int)
    let z : Int := (m % w * g.strideX + tap % g.kw * g.dilX : Nat) - (g.padX : Int)
    if 0 ≤ y ∧ y < g.hIn ∧ 0 ≤ z ∧ z < g.wIn ∧ ch < a.ext1 then
      (x.getD (y.toNat * g.wIn + z.toNat) []).getD ch zero
    else zero
  else if c.orientA then (x.getD k []).getD m zero
  else (x.getD m []).getD k zero

/-- B as K rows of N elements. -/
def held {α : Type} (c : EngCmd) (zero : α) (x : List (List α)) (k n : Nat) : α :=
  if c.orientB then (x.getD n []).getD k zero else (x.getD k []).getD n zero

/-! ## Floating-point accumulation (04, R126, R131, R132, R150) -/

/-- The exact sum of a held block, its fill adding +0 (04, R127). -/
def blockSum (kh depth b : Nat) (term : Nat → Val) : Val :=
  let ks := (List.range kh).filterMap fun i => if b * kh + i < depth then some (term (b * kh + i)) else none
  ks.foldl (fun s v => s.add v) (if ks.length < kh then .zero false else .zero true)

/-- A value with zero written +0 (03, R103). -/
def plusZero (v : Val) : Val := if v.isZero then .zero false else v

/-- The accumulator after all held blocks: one FP32 rounding for each block and pass (04, R131, R150). -/
def accumulate (kh depth : Nat) (start : Val) (passes : List (Nat → Val)) : Val :=
  plusZero ((List.range (ceilDiv depth kh)).foldl (fun acc b =>
    passes.foldl (fun acc term => rn (acc.add (blockSum kh depth b term))) acc) start)

/-! ## Slice mode (04, R145 to R148) -/

/-- The combiner state of an output element: an integer, its exponent, the sticky and the non-finite bit. -/
structure Combiner where
  int    : Int
  exp    : Int
  sticky : Bool
  nonFinite : Bool
  deriving DecidableEq, Repr

/-- The largest power of two that divides a positive number. -/
def trailingZeros : Nat → Nat → Nat
  | 0, _ => 0
  | k + 1, n => if n % 2 = 0 then trailingZeros k (n / 2) + 1 else 0

/-- An integer with its trailing zeros moved into the exponent; 0 has exponent 0 (log 31). -/
def normalise (i e : Int) : Int × Int :=
  if i = 0 then (0, 0)
  else
    let t := trailingZeros (i.natAbs.log2 + 1) i.natAbs
    (i / (2 ^ t : Nat), e + t)

/-- Add an exact multiple of a power of two to a combiner state: exact while the sum fits, else the most significant
bits with the rest truncated toward zero (04, R147). The integer is two's complement in 160 bits, so 159 bits of
magnitude are kept (log 31). -/
def Combiner.add (st : Combiner) (i e : Int) : Combiner :=
  let lo := Min.min st.exp e
  let v := st.int * (2 ^ (st.exp - lo).toNat : Nat) + i * (2 ^ (e - lo).toNat : Nat)
  let (n, x) := if st.sticky then (v, lo) else normalise v lo
  let len := n.natAbs.log2 + 1
  if n = 0 ∨ len ≤ 159 then { st with int := n, exp := x }
  else
    let cut := len - 159
    let mag : Int := (n.natAbs / 2 ^ cut : Nat)
    { st with int := if n < 0 then -mag else mag, exp := x + cut, sticky := st.sticky || decide (n.natAbs % 2 ^ cut ≠ 0) }

/-- The exact value of a combiner state, a sticky bit standing half a unit below the last kept bit: the unit of the integer,
which keeps its trailing zeros from the moment at which the sticky bit is set. -/
def Combiner.value (st : Combiner) : Val :=
  if st.nonFinite then .nan
  else
    let half : Rat := if st.sticky then (if st.int < 0 then -(1 / 2) else 1 / 2) else 0
    Val.ofRat (((st.int : Rat) + half) * twoPow st.exp)

/-- The 256 bits of a combiner state (04, R135). -/
def Combiner.code (st : Combiner) : Nat :=
  wrapInt 160 st.int + wrapInt 16 st.exp * 2 ^ 160 + b2n st.sticky * 2 ^ 176 + b2n st.nonFinite * 2 ^ 177

def combinerOf (n : Nat) : Combiner := ⟨signed 160 n, signed 16 (bits n 160 16), bit n 176, bit n 177⟩

/-- The shared exponent of a group (04, R145). -/
def groupExp (xs : List Rat) : Int :=
  match xs.filter (· ≠ 0) with
  | [] => 0
  | y :: ys => ys.foldl (fun e x => Max.max e (floorLog2 |x|)) (floorLog2 |y|)

/-- The signed slices of an element under a shared exponent (04, R145). -/
def slicesOf (n : Nat) (e : Int) (x : Rat) : List Int :=
  let q := (|x| * twoPow (8 * (n : Int) - 1 - e)).floor.toNat
  (List.range n).map fun i =>
    let d : Int := (q >>> (8 * (n - 1 - i)) % 256 : Nat)
    if x < 0 then -d else d

/-- The block integer of one held block: kept slice pairs only (04, R146, R147). -/
def sliceBlock (n : Nat) (as bs : List Rat) : Int × Int :=
  let ea := groupExp as
  let eb := groupExp bs
  let sum := (as.zip bs).foldl (fun t p =>
    let sa := slicesOf n ea p.1
    let sb := slicesOf n eb p.2
    (List.range n).foldl (fun t j => (List.range (n - j)).foldl (fun t i =>
      t + sa.getD i 0 * sb.getD j 0 * (2 ^ (8 * (2 * n - 2 - i - j)) : Nat)) t) t) (0 : Int)
  (sum, ea + eb - 14 - 8 * (2 * n - 2 : Nat))

/-- The combiner state after all held blocks. DESIGN CHOICE (log 31): 04, R148 sets the non-finite bit and does not state the
integer, the exponent and the sticky bit beside it; the elements that are not finite add 0 to them. -/
def combine (n depth : Nat) (start : Combiner) (a b : Nat → Val) : Combiner :=
  let ks := List.range depth
  let bad := ks.any fun k => !(a k).isFinite || !(b k).isFinite
  let st := (List.range (ceilDiv depth 32)).foldl (fun st g =>
    let idx := (List.range 32).filterMap fun i => if g * 32 + i < depth then some (g * 32 + i) else none
    let (i, e) := sliceBlock n (idx.map fun k => (a k).rat) (idx.map fun k => (b k).rat)
    st.add i e) start
  { st with nonFinite := start.nonFinite || bad }

/-! ## The accumulator area (04, R135; 12, R396) -/

/-- The offset of element (r, c) within a plane. -/
def accOffset (eb n r c : Nat) : Nat := ((r / 32 * ceilDiv n 32 + c / 32) * 1024 + r % 32 * 32 + c % 32) * eb

/-- An element of the area as a number. -/
def accRead (s : State) (base eb n r c : Nat) : Nat := s.peekNat (base + accOffset eb n r c) eb

/-- Write a plane: positions outside M × N hold 0 (04, R587). -/
def accWrite (s : State) (base eb m n : Nat) (x : List (List Nat)) (poison : Bool) : State :=
  (List.range (ceilDiv m 32)).foldl (fun s i => (List.range (ceilDiv n 32)).foldl (fun s j =>
    s.store (base + (i * ceilDiv n 32 + j) * 1024 * eb)
      ((List.range 1024).flatMap fun e =>
        let r := 32 * i + e / 32
        let c := 32 * j + e % 32
        toBytes eb (if r < m ∧ c < n then (x.getD r []).getD c 0 else 0)) poison) s) s

/-! ## Running a product -/

/-- A matrix from a function of its places. -/
def table2 {α : Type} (m n : Nat) (f : Nat → Nat → α) : List (List α) :=
  (List.range m).map fun r => (List.range n).map fun c => f r c

/-- The product of a command: what each plane of the accumulator area holds afterwards, and its exact values for the
drain. -/
def product (s : State) (c : EngCmd) (sh : Shape) (ops : List Operand) (ins : List InRead) :
    List (List (List Nat) × List (List Val)) :=
  let a := ops.getD 0 (operandOf 0)
  let eb := accBytes a.fmt
  let base := accBase c
  let pb := planeBytes a.fmt sh.m sh.n
  let x := fun i => (ins.getD i ⟨[], [], false, s⟩).vals
  let z := Val.zero false
  if integral a.fmt then
    let w := fmtBits a.fmt
    let xc := fun i => ((ins.getD i ⟨[], [], false, s⟩).codes).map fun row => row.map fun q => signed w q
    let st := (tensorScaleOf s a).mul (tensorScaleOf s (ops.getD 1 (operandOf 0)))
    let acc := table2 sh.m sh.n fun r q =>
      let start : Int := if c.acc then signed 64 (accRead s base eb sh.n r q) else 0
      (List.range sh.k).foldl (fun t k => t + streamed c a 0 (xc 0) r k * held c 0 (xc 1) k q) start
    [(acc.map fun row => row.map fun v => wrapInt 64 v,
      acc.map fun row => row.map fun v => plusZero ((Val.ofRat (signed 64 (wrapInt 64 v) : Int)).mul st))]
  else if sliced a.fmt then
    let st := table2 sh.m sh.n fun r q =>
      let start := if c.acc then combinerOf (accRead s base eb sh.n r q) else ⟨0, 0, false, false⟩
      combine (sliceCount a.fmt) sh.k start (streamed c a z (x 0) r) (fun k => held c z (x 1) k q)
    let round := fun (v : Val) => plusZero (if a.fmt = fmtFP64 then rn64 v else rn v)
    [(st.map fun row => row.map Combiner.code, st.map fun row => row.map fun v => round v.value)]
  else
    (List.range c.planes).map fun p =>
      let vals := table2 sh.m sh.n fun r q =>
        let start := if c.acc then ofF32 (accRead s (base + p * pb) eb sh.n r q) else z
        let are := fun k => streamed c a z (x 0) r k
        let bre := fun k => held c z (x 1) k q
        let aim := fun k => streamed c a z (x 2) r k
        let bim := fun k => held c z (x 3) k q
        let passes : List (Nat → Val) :=
          if !c.cplx then [fun k => (are k).mul (bre k)]
          else if p = 0 then [fun k => (are k).mul (bre k), fun k => (aim k).neg.mul (bim k)]
          else [fun k => (aim k).mul (bre k), fun k => (are k).mul (bim k)]
        accumulate (heldDepth a.fmt) sh.k start passes
      (vals.map fun row => row.map toF32, vals)

/-- The bound T on a command's completed waves (04, R156 to R158, R586; 13, R418). -/
def waveBound (s : State) (c : EngCmd) (sh : Shape) : Nat :=
  let a := resolved c.da c.rung
  let w := s.rget Census.W c.thread.tile.toNat
  let l2 := c.check = 2
  let blocks := ceilDiv sh.k (heldDepth a.fmt)
  let outs := mmaOutputs c
  let band := if !sliced a.fmt && (c.dual || outs.any (fun o => decide (2 ≤ o.scl) && o.colAxis)) then 32 else 0
  let once :=
    if sliced a.fmt then
      let l := ceilDiv (32 * w * 9) 1024
      l + blocks * ((List.range (sliceCount a.fmt)).foldl (fun t j => t + Max.max ((sliceCount a.fmt - j) * sh.m) l) 0) + 34
    else
      let l := ceilDiv (heldDepth a.fmt * w * fmtBits a.fmt) 1024
      (if c.cplx then l + blocks * 2 * Max.max (2 * sh.m) l
       else l + blocks * Max.max (if l2 then sh.m + 1 else sh.m) l) + 34
  let twice := (outs.take c.planes).any fun o => runsTwice s c.ctxIx o
  if twice then 2 * (once + band) else once + band

/-- Completed and stall waves of a command, and the stall waves that an expander caused where an operand is coded (05, R182):
timing, so free values within the bounds of 04, R129 and R156 (log 7). -/
def State.countWaves (s : State) (c : EngCmd) (sh : Shape) : Nat × State :=
  let tile := c.thread.tile.toNat
  let (v, s) := s.draw
  let (u, s) := s.draw
  let waves := v.toNat % (waveBound s c sh + 1)
  let stalls := u.toNat % 2 ^ 32 + (if sh.m = 1 then ceilDiv sh.k (heldDepth (resolved c.da c.rung).fmt) else 0)
  let s := (s.countTile TileCnt.WAVES 0x01 tile (some c.ctx) c.opid waves).countTile
    TileCnt.STALL_WAVES 0x02 tile (some c.ctx) c.opid stalls
  if (mmaInputs c).any fun o => o.coded then
    let (x, s) := s.draw
    (waves, s.countTile TileCnt.XPD_STALL 0x03 tile (some c.ctx) c.opid (x.toNat % (stalls + 1)))
  else (waves, s)

/-- Convert and write the outputs of a product: with DUAL, both copies from one choice of per-tensor scale and with the random
bytes of the elements' one architectural index, that of d[DC], observed once (04, R142; 03, R101, R113). -/
def drainOutputs (c : EngCmd) (poison : Bool) (outs : List Operand) (planes : List (List (List Val))) (s : State) :
    OutStat × Nat × State :=
  let p := c.producer poison
  let v0 := planes.getD 0 []
  match outs with
  | [] => (.clean, 0, s)
  | [o] =>
    let (st, s) := writeTensor s p o v0
    (st, 0, s)
  | o :: q :: _ =>
    if c.dual then
      let k := convertTensor s p o v0
      let k2 := convertWith s p { q with tensor := o.tensor, whole1 := o.whole1, off0 := o.off0, off1 := o.off1 } k.scale
        (chooseBlocks q k.scale (blockFacts q v0)) v0
      let s := (writeConverted s p o k).observeOut p o k
      ((k.stat poison).merge (k2.stat poison), 0, writeConverted s p q k2)
    else
      let (st, s) := writeTensor s p o v0
      let (st2, s) := writeTensor s p q (planes.getD 1 [])
      (st.merge st2, if st.nonFinite then 0 else if st2.nonFinite then 1 else 0, s)

/-- Read every operand in turn. -/
def readAll (c : EngCmd) (unit ix : Nat) (ops : List Operand) (s : State) : List InRead × State :=
  ops.foldl (fun acc o => let r := c.readOperand acc.2 unit ix o; (acc.1 ++ [r], r.state)) ([], s)

/-! ## Checks on the products (13, R417 to R420) -/

/-- The modulus of the checksum arithmetic. -/
def checkPrime : Nat := 2 ^ 61 - 1

/-- The weight of logical data column j in checksum column q (13, R418). -/
def checkWeight (q j : Nat) : Nat := (j + 1) ^ q % checkPrime

/-- Syndrome q of a streamed row whose block sums are wrong by `errors` (13, R418): by linearity, what checksum column q
is wrong by, less the weighted errors of the data columns. -/
def syndrome (width : Nat) (errors : List (Nat × Int)) (q : Nat) : Nat :=
  let share := fun (e : Nat × Int) =>
    if e.1 < width then -(checkWeight q e.1 * e.2) else if e.1 = width + q then e.2 else 0
  ((errors.map share).sum % checkPrime).toNat

/-- The data column that a pattern of syndromes names (13, R419). -/
def errorColumn (width s0 s1 s2 s3 : Nat) : Option Nat :=
  let same := fun (a b : Nat) => a % checkPrime == b % checkPrime
  if same (s1 * s1) (s0 * s2) && same (s2 * s2) (s1 * s3) && !same s0 0 then
    (List.range width).find? fun j => same ((j + 1) * s0) s1
  else none

/-- A mismatch: of a residue or of a checksum, the logical column where one is named, and the first syndrome. -/
structure Mismatch where
  sums     : Bool
  column   : Option Nat
  syndrome : Nat
  deriving DecidableEq, Repr

/-- The mismatch that a command meets: the residues of every command are compared, checksums at L2 alone (13, R416), a
slice-mode command takes no checksum row (R418), and a column beyond the array's width is none. -/
def mismatchOf (s : State) (c : EngCmd) (found : ProductCheck) : Option Mismatch :=
  match found with
  | .agree => none
  | .residue j => if j < s.rget Census.W c.thread.tile.toNat then some ⟨true, some j, 0⟩ else none
  | .checksum errors row =>
    let σ := syndrome (dataWidth s c) errors
    if decide (c.check = 2) && (row && !sliced (resolved c.da c.rung).fmt || [0, 1, 2, 3].any fun q => σ q != 0) then
      some ⟨false, errorColumn (dataWidth s c) (σ 0) (σ 1) (σ 2) (σ 3), σ 0⟩
    else none

/-- The physical column of a logical one (04, R151). -/
def State.physicalColumn (s : State) (t l : Nat) : Nat :=
  ((List.range 64).filter fun p => !bit (s.rget Census.BYPASS t) p).getD l 0xFF

/-- RESIDUE_MISMATCH or CHECKSUM_MISMATCH: contained where the output is poisoned (13, R585). -/
def productRec (s : State) (c : EngCmd) (m : Mismatch) : ErrRec :=
  let poisoned := s.rbit Part.POISON_ON_DETECT (s.partOf c.ctxIx)
  c.note s
    { type := if m.sums then 0x00A0 else 0x00A1, severity := if poisoned then 3 else 2, reason := if m.sums then 0x37 else 0x38
      column := (m.column.map (s.physicalColumn c.thread.tile.toNat)).getD 0xFF, detail := m.syndrome }

/-- What a mismatch leaves beside the output: its record, and for a checksum a strike of the column or the tile; a free
value is drawn for the sums in doubt. -/
def State.noteMismatch (s : State) (c : EngCmd) (m : Mismatch) : State :=
  let t := c.thread.tile.toNat
  let s := (s.draw.2).detect (s.partOf c.ctxIx) (productRec s c m)
  if m.sums then s
  else match m.column with
    | some j => s.strikeColumn t (s.physicalColumn t j)
    | none => s.strikeTile t

/-- The value of an accumulator's code, as the drain takes it. -/
def accValue (fmt : Nat) (scale : Val) (code : Nat) : Val :=
  if integral fmt then plusZero ((Val.ofRat (signed 64 code : Int)).mul scale)
  else if sliced fmt then
    let v := (combinerOf code).value
    plusZero (if fmt = fmtFP64 then rn64 v else rn v)
  else ofF32 code

/-- Is an output column, that is a logical column of the array, in doubt after a mismatch? -/
def doubted (named : Option Nat) (q : Nat) : Bool :=
  match named with
  | none => true
  | some j => q == j

/-- The sums that a mismatch leaves in doubt are free values (log 111). -/
def disturbPlanes (seed : Nat) (fmt : Nat) (scale : Val) (hit : Nat → Bool) (planes : List (List (List Nat) × List (List Val))) :
    List (List (List Nat) × List (List Val)) :=
  ((List.range planes.length).zip planes).map fun e =>
    let code := fun r q => (Config.disturbed seed e.1 r q).toNat % 2 ^ (if sliced fmt then 178 else 8 * accBytes fmt)
    let rows := fun {α : Type} (m : List (List α)) (f : Nat → Nat → α) =>
      ((List.range m.length).zip m).map fun x =>
        ((List.range x.2.length).zip x.2).map fun y => if hit y.1 then f x.1 y.1 else y.2
    (rows e.2.1 code, rows e.2.2 fun r q => accValue fmt scale (code r q))

/-- Run an MMA. -/
def runMma (c : EngCmd) (found : ProductCheck) (s : State) : Done :=
  let ops := mmaInputs c
  let outs := mmaOutputs c
  let a := ops.getD 0 (operandOf 0)
  let sh := mmaShape c a (ops.getD 1 (operandOf 0))
  let pb := planeBytes a.fmt sh.m sh.n
  let s0 := s
  let miss := mismatchOf s c found
  let (ins, s) := readAll c 0 c.thread.tile.toNat ops s
  let poison := (ins.any InRead.poison) || (c.acc && s0.poisoned (accBase c) (c.planes * pb)) ||
    (miss.isSome && s.rbit Part.POISON_ON_DETECT (s.partOf c.ctxIx))
  let planes := product s0 c sh ops ins
  let (planes, s) := match miss with
    | none => (planes, s)
    | some m =>
      let scale := (tensorScaleOf s0 a).mul (tensorScaleOf s0 (ops.getD 1 (operandOf 0)))
      (disturbPlanes s.freeCount a.fmt scale (doubted m.column) planes, s.noteMismatch c m)
  let s := ((List.range c.planes).zip planes).foldl (fun s e =>
    accWrite s (accBase c + e.1 * pb) (accBytes a.fmt) sh.m sh.n e.2.1 poison) s
  let (st, nf, s) := drainOutputs c poison outs (planes.map Prod.snd) s
  let (waves, s) := s.countWaves c sh
  ⟨st, nf, 0, waves, s, false⟩

/-- Reserved bits of MMA's word 1. -/
def mmaReserved : Word := BitVec.twoPow 64 11 ||| bitsFrom 27

def execMma (t : ThreadRef) (e : FormE) (s : State) : Host.Outcome State Fault Refusal :=
  engine t e .mma mmaReserved
    (!e.w1.getLsbD 10 || (follows e.da 1 && follows e.db 1 && follows e.dc 1)) 0 mmaCheck s

/-! ## TBUILD (12, R398) -/

/-- An address of the matrix or vector engine: its tile's basin or its region's pool, no reserved area. -/
def tileStores (c : EngCmd) : Space → Bool := fun x =>
  x == .basin c.thread.tile.toNat || x == .pool (regionOfTile c.thread.tile.toNat)

/-- A range that an engine names by an address: open to it and aligned. -/
def rangeFault (s : State) (allow : Space → Bool) (a n al : Nat) : Option IssueFault :=
  if !(s.rangeBacked a n && rangesIn s allow [(a, n)]) then some (.address, 0x62, a)
  else if a % al ≠ 0 then some (.misaligned, 0x1D, a)
  else none

/-- The two address operands of a command; a half-B command takes their mirrors (13, R425). -/
def EngCmd.addrS (c : EngCmd) : Nat := if c.mirror then mirrorAddr c.gs.toNat else c.gs.toNat
def EngCmd.addrT (c : EngCmd) : Nat := if c.mirror then mirrorAddr c.gt.toNat else c.gt.toNat

/-- Bytes of a census area and of a table image. -/
def censusBytes : Nat := 1088
def imageBytes : Nat := 152

def tbuildCheck (s : State) (c : EngCmd) : Option IssueFault :=
  firstFault [
    rangeFault s (tileStores c) c.addrS censusBytes 64,
    rangeFault s (tileStores c) c.addrT imageBytes 8,
    descFault [((codedFmt? (bits c.w1.toNat 0 4)).isSome, 0x1D)]]

/-- Run a TBUILD: the image, or reason 0xA6 when no valid symbol was counted (05, R170, R172). -/
def runTbuild (c : EngCmd) (s : State) : Done :=
  let fmt := bits c.w1.toNat 0 4
  let counts := (List.range 272).map fun i => s.peekNat (c.addrS + 4 * i) 4
  let dirty := s.poisoned c.addrS censusBytes
  let s := s.touch c.addrS censusBytes
  if (validSymbols fmt).all fun i => counts.getD i 0 == 0 then Done.plain s 0xA6
  else
    let t : Table := { fmt := fmt, gen := bits c.w1.toNat 4 4, lengths := buildLengths fmt counts }
    Done.plain (s.store c.addrT (tableImage t) dirty)

def execTbuild (t : ThreadRef) (e : FormE) (s : State) : Host.Outcome State Fault Refusal :=
  engine t e .tbuild (bitsFrom 8) true 0 tbuildCheck s

end Sys2Proof.Machine
end

