-- ==== Sys2Proof/Machine/Movers.lean ====
section
/-!
DEFINITION. Cluster mover and tier mover commands: CMOVE (04, R144; 12, R403) and TMOVE (11, R366 to R370; 12, R404),
with the coding that a tier mover does on the way (05, R159 to R168, R185).
-/
namespace Sys2Proof.Machine

/-! ## Copies that keep each line's poison (13, R430) -/

/-- The pieces of `[a, a + n)` that lie in one 64-byte line each: offset and length. -/
def linePieces (a n : Nat) : List (Nat × Nat) :=
  (List.range (ceilDiv (a % 64 + n) 64)).map fun i =>
    let lo := 64 * i - a % 64
    (lo, min n (64 * (i + 1) - a % 64) - lo)

/-- Write bytes line by line, each with its own mark. -/
def State.storeMarked (s : State) (a : Nat) (bs : List Byte) (dirty : Nat → Nat → Bool) : State :=
  (linePieces a bs.length).foldl (fun s p => s.store (a + p.1) (slice bs p.1 p.2) (dirty p.1 p.2)) s

/-- Copy `n` bytes that stood at `src` in `old`; the lines written carry the poison of what they come from. -/
def State.copyRange (s old : State) (src dst n : Nat) : State :=
  (s.touch src n).storeMarked dst (old.peek src n) fun off len => old.poisoned (src + off) len

/-- Do two lists of ranges meet? -/
def rangesMeet (xs ys : List (Nat × Nat)) : Bool :=
  xs.any fun x => ys.any fun y => decide (x.1 < y.1 + y.2 ∧ y.1 < x.1 + x.2)

/-! ## Whole tensors -/

/-- Where the scale area of a plain or a written coded tensor of `n` element bytes begins. -/
def Operand.scaleAt (o : Operand) (n : Nat) : Nat :=
  roundUp (if o.coded then o.base + n else o.base + 128 * o.pitch0 * o.gridRows) 64

/-- The ranges of a verbatim copy: source, destination and length (12, R403). DEDUCED (log 115): squares are copied bit for
bit (04, R144), the positions outside the extents as the source holds them. -/
def copyPlan (s : State) (a c : Operand) : List (Nat × Nat × Nat) :=
  (if a.coded then [(a.base, c.base, 8 * dirEntry s a a.squares)]
   else (List.range a.gridRows).map fun i => (a.square i 0, c.square i 0, a.squareBytes * a.gridCols)) ++
  (if a.scaleBytes = 0 then []
   else [(scaleBase s a, c.scaleAt (8 * dirEntry s a a.squares), a.scaleBytes)])

/-- The check of a mover's operand; a mover copies every format that an operand or an output may have. -/
def moverFault (s : State) (c : EngCmd) (out : Bool) (allow : Space → Bool) (o : Operand) : Option IssueFault :=
  (operandCheck s c (out || !fmtOperand o.fmt) allow o).map badDesc

/-- Two descriptors that agree in FMT, SCL and extents. -/
def sameTensor (a c : Operand) : Bool := a.fmt == c.fmt && a.scl == c.scl && a.ext0 == c.ext0 && a.ext1 == c.ext1

/-- What a copy of bytes reports: POISON when its output carries poison (03, R107). -/
def movedStat (poison : Bool) : OutStat := { OutStat.clean with poison := poison }

/-- A tensor has been copied to a descriptor: its elements are observed there and reported (03, R107, R113). -/
def copyDone (s : State) (c : EngCmd) (slots : Nat → Option Table) (d : Operand) (poison : Bool) : OutStat × State :=
  let k := copiedTensor s slots d
  (k.stat poison, s.observeOut (c.producer poison) d k)

/-! ## CMOVE (12, R403) -/

/-- The stores of a cluster mover (04, R144). -/
def clusterStores (c : EngCmd) : Space → Bool := fun x =>
  match x with
  | .basin t => t / 4 == clusterOfTile c.thread.tile.toNat
  | .pool g => g == regionOfTile c.thread.tile.toNat
  | .side k => k == clusterOfTile c.thread.tile.toNat
  | _ => false

/-- The stores of the tensor form: side memory takes part only in the byte form. -/
def clusterTensorStores (c : EngCmd) : Space → Bool := fun x =>
  match x with
  | .side _ => false
  | x => clusterStores c x

def cmoveCheck (s : State) (c : EngCmd) : Option IssueFault :=
  let a := resolved c.da c.rung
  let d := resolved c.dc c.rung
  if c.flag 0 then
    let n := c.gt.toNat
    firstFault [
      descFault [
        (n % 64 == 0 && a.base % 64 == 0 && d.base % 64 == 0, 0x1D),
        (s.rangeBacked a.base n && s.rangeBacked d.base n, 0x62)],
      if n = 0 then none else storesFault s c (clusterStores c) [(a.base, n), (d.base, n)]]
  else firstFault [
    moverFault s c false (clusterTensorStores c) a,
    moverFault s c true (clusterTensorStores c) d,
    descFault [(sameTensor a d && a.coded == d.coded, 0x1D)]]

def runCmove (c : EngCmd) (s : State) : Done :=
  let a := resolved c.da c.rung
  let d := resolved c.dc c.rung
  let plan := if c.flag 0 then (if c.gt.toNat = 0 then [] else [(a.base, d.base, c.gt.toNat)]) else copyPlan s a d
  let poison := plan.any fun p => s.poisoned p.1 p.2.2
  let n := plan.foldl (fun n p => n + p.2.2) 0
  let t := plan.foldl (fun t p => t.copyRange s p.1 p.2.1 p.2.2) s
  let (st, t) := if c.flag 0 then (movedStat poison, t) else copyDone t c (s.slotTable 0 c.thread.tile.toNat) d poison
  ⟨st, 0, 0, n, t, false⟩

def execCmove (t : ThreadRef) (e : FormE) (s : State) : Host.Outcome State Fault Refusal :=
  engine t e .cmove (bitsFrom 1) true 0 cmoveCheck s

/-! ## TMOVE (11, R366 to R370; 12, R404) -/

/-- The stores of a die's tier mover (11, R366). -/
def tierStores (c : EngCmd) : Space → Bool := fun x =>
  match x with
  | .basin t => t / 256 == dieOfTile c.thread.tile.toNat
  | .pool g => g / 8 == dieOfTile c.thread.tile.toNat
  | .hbm | .lpddr | .host => true
  | .side _ | .hole => false

def EngCmd.cvt (c : EngCmd) : Nat := bits c.w1.toNat 0 2
def EngCmd.destSlot (c : EngCmd) : Nat := bits c.w1.toNat 2 3
def EngCmd.prio (c : EngCmd) : Bool := c.flag 5

/-- Do the layouts fit the conversion (11, R367)? -/
def cvtLayouts (cvt : Nat) (a d : Operand) : Bool :=
  match cvt with
  | 0 => a.coded == d.coded
  | 1 => a.coded && !d.coded
  | 2 => !a.coded && d.coded
  | _ => a.coded && d.coded

def tmoveCheck (s : State) (c : EngCmd) : Option IssueFault :=
  let a := resolved c.da c.rung
  let d := resolved c.dc c.rung
  firstFault [
    moverFault s c false (tierStores c) a,
    moverFault s c true (tierStores c) d,
    descFault [(sameTensor a d && cvtLayouts c.cvt a d, 0x1D)]]

/-- A square on its way through a coder: its 1,024 codes, and for each of its four blocks whether its source carried
poison. -/
structure MovedSquare where
  codes : List Nat
  dirty : List Bool
  deriving DecidableEq, Repr

/-- Read the squares of a tensor through a unit's slots, with the blocks that were not decoded. -/
def readSquares (s : State) (slots : Nat → Option Table) (o : Operand) : List MovedSquare × List BlockError :=
  let b := fmtBits o.fmt
  if o.coded then
    let sq := (List.range o.squares).map fun j => squareBlocks s slots 4 (o.base + 8 * dirEntry s o j)
    (sq.map fun q =>
      ⟨q.flatMap (blockElements o.fmt), q.map fun x =>
        x.2.2 || s.poisoned x.1 (8 + 8 * (readHead (s.peek x.1 8)).words) ||
          (match x.2.1 with
           | .ok _ => false
           | .error _ => true)⟩,
     sq.flatMap fun q => q.filterMap fun x =>
      match x.2.1 with
      | .ok _ => none
      | .error e => some e)
  else
    ((List.range o.squares).map fun j =>
      let a := o.square (j / o.gridCols) (j % o.gridCols)
      ⟨unpackNat b 1024 (s.peekNat a o.squareBytes), (List.range 4).map fun q => s.poisoned (a + 32 * b * q) (32 * b)⟩, [])

/-- Squares whose positions outside the tensor's extents hold the zero code, as every writer of a square leaves them
(04, R587). -/
def clipSquares (o : Operand) (sq : List MovedSquare) : List MovedSquare :=
  ((List.range sq.length).zip sq).map fun x =>
    let inside := fun (e : Nat) => 32 * (x.1 / o.gridCols) + e / 32 < o.ext0 ∧ 32 * (x.1 % o.gridCols) + e % 32 < o.ext1
    let codes := ((List.range x.2.codes.length).zip x.2.codes).map fun e => if inside e.1 then e.2 else 0
    { x.2 with codes := codes }

/-- Write squares in the plain layout; a line carries the poison of the blocks it holds. -/
def storeSquares (s : State) (o : Operand) (sq : List MovedSquare) : State :=
  let b := fmtBits o.fmt
  ((List.range o.squares).zip sq).foldl (fun s e =>
    s.storeMarked (o.square (e.1 / o.gridCols) (e.1 % o.gridCols)) (toBytes o.squareBytes (packNat b e.2.codes))
      fun off len => (List.range 4).any fun q =>
        e.2.dirty.getD q false && decide (off < 32 * b * (q + 1) ∧ 32 * b * q < off + len)) s

/-- The blocks of squares under a slot's table, each with its mark, in order. -/
def codedBlocks (slot : Nat) (table : Option Table) (fmt : Nat) (sq : List MovedSquare) : List (List (List Byte × Bool)) :=
  sq.map fun q => (List.range 4).map fun k =>
    let p := q.dirty.getD k false
    (encodeBlock slot table fmt p ((q.codes.drop (256 * k)).take 256), p)

/-- The offsets of blocks, from `off` on: offset, length and mark. -/
def blockSpans : Nat → List (List Byte × Bool) → List (Nat × Nat × Bool)
  | _, [] => []
  | off, b :: bs => (off, b.1.length, b.2) :: blockSpans (off + b.1.length) bs

/-- Write squares in the coded layout with a slot of a unit (11, R367). Answers the bytes written. -/
def storeCodedSquares (s : State) (o : Operand) (slot : Nat) (table : Option Table) (sq : List MovedSquare) : Nat × State :=
  let blocks := codedBlocks slot table o.fmt sq
  let sizes := blocks.map fun q => q.foldl (fun n b => n + b.1.length) 0
  let offs := sizes.foldl (fun (acc : List Nat × Nat) n => (acc.1 ++ [acc.2], acc.2 + n)) ([], o.dirBytes)
  let dir := padMul 8 ((offs.1 ++ [offs.2]).flatMap fun x => toBytes 4 (x / 8))
  let spans := blockSpans o.dirBytes blocks.flatten
  (offs.2, s.storeMarked o.base (dir ++ (blocks.flatten.flatMap Prod.fst)) fun off len =>
    spans.any fun b => b.2.2 && decide (off < b.1 + b.2.1 ∧ b.1 < off + len))

/-- Count the bytes that a tier mover wrote (18, R558, R560). -/
def State.countTmove (s : State) (c : EngCmd) (n : Nat) : State :=
  let die := dieOfTile c.thread.tile.toNat
  (s.rwrap DieCnt.TMOVE_BYTES die n).countEvent 0x0B (256 * die) 256 (some c.ctx) c.opid n

/-- A refused move (11, R366, R370, R371). -/
def refuseTmove (s : State) (c : EngCmd) (reason : Nat) : Done :=
  .plain (s.rinc TmvStatus.REFUSED (dieOfTile c.thread.tile.toNat)) reason

/-- Does a tensor touch host memory? -/
def touchesHost (rs : List (Nat × Nat)) : Bool := rs.any fun r => spaceOf r.1 == .host

/-- Run a TMOVE that is not refused. -/
def moveTensor (c : EngCmd) (a d : Operand) (s : State) : Done :=
  let die := dieOfTile c.thread.tile.toNat
  let poison := (readRanges s a).any fun r => s.poisoned r.1 r.2
  if c.cvt = 0 then
    let plan := copyPlan s a d
    let n := plan.foldl (fun n p => n + p.2.2) 0
    let t := (plan.foldl (fun t p => t.copyRange s p.1 p.2.1 p.2.2) s).countTmove c n
    let (st, t) := copyDone t c (s.slotTable 1 die) d poison
    ⟨st, 0, 0, n, t, false⟩
  else
    let (sq, errs) := readSquares s (s.slotTable 1 die) a
    let sq := clipSquares d sq
    let poison := poison || !errs.isEmpty || sq.any fun q => q.dirty.any id
    let t := ((readRanges s a).foldl (fun t r => t.touch r.1 r.2) s).blockErrors c errs
    let (n, t) := if d.coded then storeCodedSquares t d c.destSlot (s.slotTable 1 die c.destSlot) sq
      else (d.squares * d.squareBytes, storeSquares t d sq)
    let t := if a.scaleBytes = 0 then t
      else t.storeMarked (d.scaleAt n) (s.peek (scaleBase s a) a.scaleBytes) fun off len =>
        s.poisoned (scaleBase s a + off) len
    let (st, t) := copyDone (t.countTmove c (n + a.scaleBytes)) c (s.slotTable 1 die) d poison
    ⟨st, 0, 0, n + a.scaleBytes, t, false⟩

/-- Demand chunks of 4 KiB that a die's tier mover moved since its last hint chunk, up to the fifteen that let a hint chunk go
(11, R368). -/
def State.demandMoved (s : State) (die bytes : Nat) : State :=
  { s with update := { s.update with
    chunks := put die (min 15 (lookD die 0 s.update.chunks + ceilDiv bytes 4096)) s.update.chunks } }

def runTmove (c : EngCmd) (s : State) : Done :=
  let a := resolved c.da c.rung
  let d := resolved c.dc c.rung
  if rangesMeet (readRanges s a) (writeRanges d) then refuseTmove s c 0x61
  else if touchesHost (readRanges s a ++ writeRanges d) && !s.hostUp then refuseTmove s c 0x63
  else
    let done := moveTensor c a d s
    if c.prio then done else { done with state := done.state.demandMoved (dieOfTile c.thread.tile.toNat) done.count }

def execTmove (t : ThreadRef) (e : FormE) (s : State) : Host.Outcome State Fault Refusal :=
  engine t e .tmove (bitsFrom 6) true 0 tmoveCheck s

end Sys2Proof.Machine
end

