-- ==== Sys2Proof/Machine/Landing.lean ====
section
/-!
DEFINITION. Channels as the collective engine sees them (08, R254 to R258), and the landing of a shard at its logical
place in a tensor (12, R405, R406; 13, R430).
-/
namespace Sys2Proof.Machine

/-! ## Channels -/

/-- The members of a channel, copied when it was enabled (08, R255). -/
def State.members (s : State) (ch : Nat) : List Nat := lookD ch [] s.fabric.members

/-- The member that owns a shard (08, R257). -/
def State.ownerOf (s : State) (ch j : Nat) : Option Nat :=
  let spm := s.rget Chan.SPM ch
  if spm = 0 ∨ s.shardTotal (s.rget Chan.BINDING ch) ≤ j ∨ (s.members ch).length ≤ j / spm then none else some (j / spm)

/-- The handle of a channel's context. -/
def State.chanCtx (s : State) (ch : Nat) : Nat := s.handle .context (s.rget Chan.CONTEXT ch)

/-- The context to which the counts of a channel's reductions belong: that of its binding (08, R281). -/
def State.redCtx (s : State) (ch : Nat) : Nat := s.bindCtx (s.rget Chan.BINDING ch)

/-- MEMBER_MISMATCH (08, R258), with the OPID and the step that the request carries (01, R13). -/
def mismatchRec (s : State) (f : Frame) : ErrRec :=
  { type := 0x0050, severity := 3, reason := 0x2A, context := s.chanCtx f.channel, die := 4, unit := f.src
    opid := f.opid, step := f.step, address := f.shard }

/-- Does a frame's member index name its sender (08, R258)? -/
def State.knownSender (s : State) (f : Frame) : Bool := (s.members f.channel)[f.member]? == some f.src

/-- Take a request in; a sender that does not match its index is recorded and its request discarded. -/
def State.takeRequest (s : State) (op : Nat) (f : Frame) (k : State → State) : State :=
  match s.takeFrame op f with
  | none => s
  | some s => if s.knownSender f then k s else s.logError (mismatchRec s f)

/-- The channel that a command names: 0x10 for a handle that is not current, 0x24 for a channel that is not ON
(02, R69; 12, R408). -/
def State.cmdChannel (s : State) (c : EngCmd) : Except Nat Nat :=
  match s.resolve .channel (bits c.gs.toNat 0 32) with
  | none => .error 0x10
  | some ch => if s.isOn .channel ch then .ok ch else .error 0x24

/-- A started command that completes at once. -/
def State.endEarly (s : State) (c : EngCmd) (reason : Nat) : State :=
  { s with tsq := { s.tsq with early := put c.id reason s.tsq.early } }

/-- A command is refused the channel that it names; 0x24 is the channel's last fabric code too (09, R305, R309). -/
def State.endRefused (s : State) (c : EngCmd) (reason : Nat) : State :=
  match s.resolve .channel (bits c.gs.toNat 0 32) with
  | some ch => (if reason = 0x24 then s.rput Chan.LAST_ERROR ch 0x24 else s).endEarly c reason
  | none => s.endEarly c reason

/-- A frame on a channel from this module. -/
def chanFrame (s : State) (c : EngCmd) (ch op dest : Nat) : Frame :=
  { blankFrame with
    op := op, dest := dest, channel := ch, member := s.rget Chan.SELF ch, step := c.step.toNat
    attempt := attempt32 c.attempt.toNat, opid := c.opid.toNat }

/-- The stores of a collective slice (02, Memory ordering). -/
def collectStores : Space → Bool := fun x =>
  match x with
  | .basin _ | .pool _ | .hbm | .lpddr => true
  | .side _ | .host | .hole => false

/-- A shard's box relative to a descriptor's tensor. -/
def relBox (o : Operand) (x : Box) : Box := { x with r0 := x.r0 - o.off0, c0 := x.c0 - o.off1 }

/-- Does a shard lie wholly within a descriptor (12, R405)? -/
def boxInside (o : Operand) (x : Box) : Bool :=
  x.rows == 0 || x.cols == 0 ||
    decide (o.off0 ≤ x.r0 ∧ x.r0 + x.rows ≤ o.off0 + o.ext0 ∧ o.off1 ≤ x.c0 ∧ x.c0 + x.cols ≤ o.off1 + o.ext1)

/-- Is (r, c) in a box? -/
def Box.has (x : Box) (r c : Nat) : Bool := decide (x.r0 ≤ r ∧ r < x.r0 + x.rows ∧ x.c0 ≤ c ∧ c < x.c0 + x.cols)

/-- First shard and count of a command. -/
def EngCmd.firstShard (c : EngCmd) : Nat := bits c.gt.toNat 0 32
def EngCmd.shardCount (c : EngCmd) : Nat := bits c.gt.toNat 32 32
def EngCmd.shards (c : EngCmd) : List Nat := (List.range c.shardCount).map fun i => c.firstShard + i

/-! ## A shard on its way -/

/-- A shard's elements: its place relative to the destination, its codes and poison by rows, and its scales, each with the
poison of the flits that brought it (09, R287). The block of an element of the shard is that of the operand `form`. -/
structure Arriving where
  box       : Box
  form      : Operand
  codes     : List (List Nat)
  dirty     : List (List Bool)
  tscale    : Nat
  tscaleBad : Bool
  blocks    : List Nat
  blockBad  : List Bool
  poison    : Bool
  deriving DecidableEq, Repr

def Arriving.code (a : Arriving) (r c : Nat) : Nat := (a.codes.getD (r - a.box.r0) []).getD (c - a.box.c0) 0
def Arriving.bad (a : Arriving) (r c : Nat) : Bool := (a.dirty.getD (r - a.box.r0) []).getD (c - a.box.c0) false

/-- The elements of a square that have a bit in its line `ln`. -/
def lineElems (b ln : Nat) : List Nat :=
  (List.range (((512 * (ln + 1) - 1) / b) + 1 - 512 * ln / b)).map fun i => 512 * ln / b + i

/-- Put a shard's elements into one square of a plain tensor: positions of other shards keep what they hold, and
positions outside the tensor take the zero code (04, R587). A line that holds other shards too keeps a poison that
was there (11, R357). -/
def landSquare (s : State) (o : Operand) (a : Arriving) (i j : Nat) : State :=
  let b := fmtBits o.fmt
  let base := o.square i j
  let old := unpackNat b 1024 (s.peekNat base o.squareBytes)
  let row := fun e => 32 * i + e / 32
  let col := fun e => 32 * j + e % 32
  let mine := fun e => a.box.has (row e) (col e)
  let other := fun e => !mine e && decide (row e < o.ext0 ∧ col e < o.ext1)
  let new := toBytes o.squareBytes (packNat b ((List.range 1024).map fun e =>
    if mine e then a.code (row e) (col e) else if other e then old.getD e 0 else 0))
  (List.range (2 * b)).foldl (fun s ln =>
    let es := (lineElems b ln).filter fun e => decide (e < 1024)
    s.store (base + 64 * ln) (slice new (64 * ln) 64)
      ((es.any fun e => mine e && a.bad (row e) (col e)) || (es.any other && s.poisoned (base + 64 * ln) 64))) s

/-- The scale bytes of a shard: for each block of the destination that the shard touches, the scale of the shard's
own block there, with its poison. -/
def landScales (o : Operand) (a : Arriving) : Map Nat (Nat × Bool) :=
  if o.scl < 2 then []
  else (List.range a.box.rows).foldl (fun m r => (List.range a.box.cols).foldl (fun m c =>
    let k := a.form.blockOf r c
    put (o.blockOf (a.box.r0 + r) (a.box.c0 + c)) (a.blocks.getD k 0, a.blockBad.getD k false) m) m) []

/-- Land a shard in a plain tensor, its scales with it. -/
def landPlain (s : State) (o : Operand) (a : Arriving) : State :=
  if a.box.rows = 0 ∨ a.box.cols = 0 then s
  else
    let s := (List.range (ceilDiv (a.box.r0 + a.box.rows) 32 - a.box.r0 / 32)).foldl (fun s i =>
      (List.range (ceilDiv (a.box.c0 + a.box.cols) 32 - a.box.c0 / 32)).foldl (fun s j =>
        landSquare s o a (a.box.r0 / 32 + i) (a.box.c0 / 32 + j)) s) s
    let base := o.scaleAt 0
    let s := if o.tscaleBytes = 0 then s else s.storeNat base 8 a.tscale a.tscaleBad
    (landScales o a).foldl (fun s e => s.storeNat (base + o.tscaleBytes + e.1) 1 e.2.1 e.2.2) s

/-- The elements of a shard that has landed, as R107 and R113 of 03 take them: by their codes and scales (log 83). -/
def Arriving.elements (a : Arriving) (o : Operand) : Converted :=
  let st := if o.tscaleBytes = 0 then .fin 1 else ofF32 a.tscale
  ⟨1, [], (List.range a.box.rows).map fun r => (List.range a.box.cols).map fun c =>
    let code := a.code (a.box.r0 + r) (a.box.c0 + c)
    copiedElem o (a.box.r0 + r) (a.box.c0 + c) code
      (elementValue o.fmt o.scl st (if o.scl < 2 then 0 else a.blocks.getD (a.form.blockOf r c) 0) code)⟩

end Sys2Proof.Machine
end

