-- ==== Sys2Proof/Machine/Gathers.lean ====
section
/-!
DEFINITION. Gathers: CGATHER at its requester, the owner that serves it, leases and their release (08, R259 to R263,
R276; 12, R405, R406).
-/
namespace Sys2Proof.Machine

/-! ## Word 1 of CGATHER (12, R405) -/

def EngCmd.gatherGen (c : EngCmd) : Nat := bits c.w1.toNat 0 16
def EngCmd.explicit (c : EngCmd) : Bool := c.flag 16
def EngCmd.maxStale (c : EngCmd) : Nat := bits c.w1.toNat 17 8
def EngCmd.lease (c : EngCmd) : Bool := c.flag 25
def EngCmd.copy (c : EngCmd) : Nat := bits c.w1.toNat 26 2

/-- The binding of the channel that a handle names, whatever its state. -/
def State.gsBinding (s : State) (c : EngCmd) : Option Nat :=
  (s.resolve .channel (bits c.gs.toNat 0 32)).map fun ch => s.rget Chan.BINDING ch

/-- The boxes of a command's shards under its channel's binding. -/
def State.cmdBoxes (s : State) (c : EngCmd) : List Box :=
  match s.gsBinding c with
  | some b => c.shards.map fun j => s.shardBox b j
  | none => []

def statusArea (c : EngCmd) : Nat := (operandOf c.dd).base

def cgatherCheck (s : State) (c : EngCmd) : Option IssueFault :=
  let dests := [resolved c.dc c.rung] ++ if c.copy = 3 then [resolved c.dc1 c.rung] else []
  firstFault [
    descFault [(decide (1 ≤ c.shardCount ∧ c.shardCount ≤ 4096) && c.copy != 0, 0x1D)],
    dests.findSome? fun o => (operandCheck s c true collectStores o).map badDesc,
    descFault [(s.rangeBacked (statusArea c) (4 * c.shardCount), 0x62)],
    storesFault s c collectStores [(statusArea c, 4 * c.shardCount)],
    descFault [(dests.all fun o => (s.cmdBoxes c).all fun x => boxInside o x, 0x1D)]]

def execCgather (t : ThreadRef) (e : FormE) (s : State) : Host.Outcome State Fault Refusal :=
  engine t e .cgather (bitsFrom 28) (bits e.w1.toNat 26 2 != 3 || follows e.dc 1) 0 cgatherCheck s

/-! ## The requester -/

/-- The body of GATHER_REQ (log 30). -/
def gatherBody (c : EngCmd) : List Byte :=
  toBytes 1 (b2n c.explicit) ++ toBytes 1 c.maxStale ++ toBytes 1 (b2n c.lease) ++ toBytes 1 c.copy ++
  toBytes 4 c.id ++ toBytes 4 c.ctx.toNat ++ [0, 0, 0, 0]

/-- The status entry of a shard (12, R405). -/
def statusWord (gen stale code : Nat) : Nat := gen % 2 ^ 16 + min stale 255 * 2 ^ 16 + code % 2 ^ 8 * 2 ^ 24

/-- Answer one shard of a gather. -/
def State.answerShard (s : State) (c : EngCmd) (j word : Nat) : State :=
  match look c.id s.collect.gathers with
  | none => s
  | some g =>
    let s := s.storeNat (statusArea c + 4 * (j - c.firstShard)) 4 word false
    { s with collect := { s.collect with gathers := put c.id { g with status := put j word g.status } s.collect.gathers } }

/-- Does this module hold a lease that an explicit gather of a shard would share (08, R261)? -/
def State.sharesLease (s : State) (c : EngCmd) (ch j : Nat) : Bool :=
  c.explicit && s.collect.held.any fun h => h.chan == ch && h.shard == j && h.gen == c.gatherGen && h.ctx == c.ctxIx

/-- The leases that the unanswered shards of a gather may still take. DESIGN CHOICE (log 38): a shard of a NEWEST gather counts
as one, because the generation that it returns is not known before. -/
def State.leasesDue (s : State) (c : EngCmd) (ch : Nat) (answered : Nat → Bool) : Nat :=
  if c.lease then (c.shards.filter fun j => !answered j && !s.sharesLease c ch j).length else 0

/-- The leases that the gathers on their way may still take. -/
def State.leasesPending (s : State) : Nat :=
  (s.collect.gathers.map fun e => match s.tsq.cmds.find? fun c => c.id == e.1 with
    | some c => s.leasesDue c e.2.chan fun j => (look j e.2.status).isSome
    | none => 0).sum

/-- Leases in a module's list (08, R261). -/
def leaseList : Nat := 262144

/-- Start a gather: its requests go out in ascending shard order. A gather whose leases would overflow the list, those of
the gathers on their way counted, is refused (08, R261). -/
def startGather (c : EngCmd) (s : State) : State :=
  match s.cmdChannel c with
  | .error r => s.endRefused c r
  | .ok ch =>
    if leaseList < s.collect.held.length + s.leasesPending + s.leasesDue c ch fun _ => false then s.endEarly c 0x2E
    else
      let g : Gather :=
        { chan := ch, first := c.firstShard, count := c.shardCount, issued := c.issued, status := [], parts := []
          dir := [], fill := (resolved c.dc c.rung).dirBytes, fill1 := (resolved c.dc1 c.rung).dirBytes, scales := []
          tscales := [], poison := false, lowest := none }
      let s := { s with collect := { s.collect with gathers := put c.id g s.collect.gathers } }
      c.shards.foldl (fun s j =>
        match s.ownerOf ch j with
        | none => s.answerShard c j (statusWord 0 0 0x2C)
        | some k => s.sendFrame { chanFrame s c ch opGatherReq ((s.members ch).getD k 0) with
            shard := j, gen := c.gatherGen, body := gatherBody c }) s

/-! ## The owner (08, R259 to R261) -/

/-- Take a gather request in. -/
def execGatherReq (f : Frame) (s : State) : Host.Outcome State Fault Refusal :=
  .next (s.takeRequest opGatherReq f fun s =>
    let r : GatherReq :=
      { src := f.src, chan := f.channel, member := f.member, shard := f.shard, explicit := leField f.body 0 1 == 1
        gen := f.gen, maxStale := leField f.body 1 1, lease := leField f.body 2 1 == 1, copy := leField f.body 3 1
        step := f.step, attempt := f.attempt, opid := f.opid, tag := leField f.body 4 4, ctx := leField f.body 8 4 }
    { s with collect := { s.collect with requests := s.collect.requests ++ [r] } })

/-- Bytes of an answer's body before the slot header, and before its copies (log 30). -/
def answerHead : Nat := 16
def answerCopies : Nat := 80

/-- The front of an answer's body: the request's tag, LEASE, COPY and the requesting context (log 30). -/
def answerTag (r : GatherReq) : List Byte :=
  toBytes 4 r.tag ++ toBytes 1 (b2n r.lease) ++ toBytes 1 r.copy ++ [0, 0] ++ toBytes 4 r.ctx ++ [0, 0, 0, 0]

/-- The answer to a request: its front, then the slot header and the copies (log 30). -/
def answerFrame (s : State) (r : GatherReq) : Frame :=
  { blankFrame with
    op := opGatherData, dest := r.src, channel := r.chan, member := s.rget Chan.SELF r.chan, shard := r.shard
    step := r.step, attempt := r.attempt, opid := r.opid, body := answerTag r }

/-- Bytes of a copy as the fabric carries them: as stored, or with its squares coded (05, R185; 09, R305). -/
def State.copyPayload (s : State) (b j ch : Nat) (o : Operand) : List (List Byte × Bool) :=
  let sq := (List.range o.squares).map fun q => o.base + q * o.squareBytes
  let scales := (List.range o.blockCount).map fun i =>
    (s.peek (o.base + o.squares * o.squareBytes + i) 1, s.poisoned (o.base + o.squares * o.squareBytes + i) 1)
  if s.rbit Chan.CODE_EN ch && (codedFmt? o.fmt).isSome then
    let die := s.shardRegion b j / 8
    let slot := s.rget Chan.CODE_SLOT ch
    (codedBlocks slot (s.slotTable 2 die slot) o.fmt (readSquares s (fun _ => none) o).1).flatten ++ scales
  else (sq.flatMap fun a => (List.range (2 * fmtBits o.fmt)).map fun ln =>
    (s.peek (a + 64 * ln) 64, s.poisoned (a + 64 * ln) 64)) ++ scales

/-- The working copies that a request asks for. -/
def State.askedCopies (s : State) (b j k : Nat) (h : SlotHead) (copy : Nat) : List Operand :=
  (if bit copy 0 then [s.copyOperand b j (s.slotAddr b j k) h.fmt h.scl true] else []) ++
  (if bit copy 1 then [s.copyOperand b j (s.slotAddr b j k + s.slotBytes b / 2) h.fmt h.scl false] else [])

/-- A lease is taken, once for each module, context, shard and generation (08, R261). -/
def State.takeLease (s : State) (r : GatherReq) (b gen : Nat) : State :=
  if s.collect.leases.any fun l => l.module_ == r.src && l.ctx == r.ctx && l.bind == b && l.shard == r.shard && l.gen == gen
  then s
  else { s with collect := { s.collect with leases := s.collect.leases ++ [Lease.mk r.src r.chan r.ctx b r.shard gen s.now] } }

/-- The POISON bits of a frame whose body starts with `head` clean bytes and goes on with marked pieces. -/
def pieceMarks (head : Nat) (ps : List (List Byte × Bool)) : List Bool :=
  let spans := ps.foldl (fun (acc : List (Nat × Nat) × Nat) p =>
    (if p.2 then acc.1 ++ [(acc.2, p.1.length)] else acc.1, acc.2 + p.1.length)) ([], head)
  flitPoison spans.2 fun off n => spans.1.any fun q => decide (off < q.1 + q.2 ∧ q.1 < off + n)

/-- Send the working copies of slot `k`. -/
def State.sendCopies (s : State) (r : GatherReq) (b k : Nat) (h : SlotHead) : State :=
  let ops := s.askedCopies b r.shard k h r.copy
  let ps := ops.flatMap fun o => s.copyPayload b r.shard r.chan o
  let head := s.headAddr b r.shard k
  let t := ops.foldl (fun t o => t.touch o.base (copyBytes o)) (s.touch head 64)
  let t := if r.lease then t.takeLease r b h.gen else t
  t.sendFrame { answerFrame s r with
    gen := h.gen, coded := s.rbit Chan.CODE_EN r.chan && (codedFmt? h.fmt).isSome
    body := answerTag r ++ s.peek head 64 ++ ps.flatMap Prod.fst
    poison := pieceMarks answerHead ((s.peek head 64, s.poisoned head 64) :: ps) }

/-- Does a NEWEST request wait for a fresh enough generation, and not for its place behind another (08, R259, R260)? -/
def State.gatherWaits (s : State) (r : GatherReq) : Bool :=
  let b := s.rget Chan.BINDING r.chan
  let kept := s.retained b r.shard
  let h := readSlotHead (s.peek (s.headAddr b r.shard kept.newest) 64)
  s.isOn .binding b && s.ownsShard b r.shard && !r.explicit && h.valid && h.gen == kept.newestGen &&
    decide (r.maxStale < 255) && decide (h.step + r.maxStale < r.step)

/-- The owner answers a waiting request, or goes on waiting for a fresh enough generation (08, R260). -/
def State.serveGather (s : State) (r : GatherReq) : State :=
  let done := { s with collect := { s.collect with requests := s.collect.requests.erase r } }
  let b := s.rget Chan.BINDING r.chan
  let refuse := fun code => done.sendFrame { answerFrame s r with status := code }
  if !(s.isOn .binding b && s.ownsShard b r.shard) then refuse 0x2C
  else
    let kept := s.retained b r.shard
    let gen := if r.explicit then r.gen else kept.newestGen
    match (if r.explicit then kept.slotOf gen else some kept.newest) with
    | none => refuse 0x2B
    | some k =>
      let h := readSlotHead (s.peek (s.headAddr b r.shard k) 64)
      if !(h.valid && h.gen == gen) then refuse 0x2B
      else if s.gatherWaits r then s
      else if bit r.copy 1 && !h.dual then refuse 0x2C
      else done.sendCopies r b k h

/-- GATHER_SERVE: the first request of a member for a shard on a channel that waits for no generation; a channel that is not
ON sends no new frame (09, R310). -/
def execGatherServe (chan member shard : Nat) (s : State) : Host.Outcome State Fault Refusal :=
  .next (match s.collect.requests.find? fun r =>
      r.chan == chan && r.member == member && r.shard == shard && !s.gatherWaits r with
    | none => s
    | some r => if s.isOn .channel chan then s.serveGather r else s)

/-! ## The answer arrives (12, R405, R406) -/

/-- `n` blocks from the front of a body, each with its place. -/
def takeBlocks : Nat → Nat → List Byte → List (Nat × List Byte)
  | 0, _, _ => []
  | n + 1, off, bs =>
    let len := 8 + 8 * (readHead (bs.take 8)).words
    (off, bs.take len) :: takeBlocks n (off + len) (bs.drop len)

/-- A copy read from a frame's body: its codes, each element's poison, its block scales, its squares as they came when
they are coded, the blocks that were not decoded, and where the next copy starts. -/
structure BodyCopy where
  codes  : List (List Nat)
  dirty  : List (List Bool)
  scales : List Nat
  scaleBad : List Bool
  raw    : List (List (List Byte × Bool))
  errs   : List BlockError
  stop   : Nat
  poison : Bool
  deriving DecidableEq, Repr

/-- Read the copy that starts at byte `off` of a body, through a unit's slots. -/
def readBodyCopy (f : Frame) (slots : Nat → Option Table) (o : Operand) (off : Nat) : BodyCopy :=
  let b := fmtBits o.fmt
  let place := fun r c => (r / 32 * o.gridCols + c / 32, r % 32 * 32 + c % 32)
  let blocks := if f.coded then takeBlocks (4 * o.squares) off (f.body.drop off) else []
  let dec := blocks.map fun x => (x.1, decodeBlock slots x.2, (readHead x.2).poison)
  let marks := (blocks.zip dec).map fun e =>
    e.2.2.2 || bodyPoison f e.1.1 e.1.2.length || (match e.2.2.1 with
      | .ok _ => false
      | .error _ => true)
  let elems := if f.coded then pieces 1024 (dec.flatMap (blockElements o.fmt))
    else (List.range o.squares).map fun j =>
      unpackNat b 1024 (fromBytes (slice f.body (off + j * o.squareBytes) o.squareBytes))
  let stop := if f.coded then blocks.foldl (fun n x => n + x.2.length) off else off + o.squares * o.squareBytes
  let dirtyAt := fun r c =>
    let (j, e) := place r c
    if f.coded then marks.getD (4 * j + e / 256) false
    else bodyPoison f (off + j * o.squareBytes + e * b / 8) ((e * b % 8 + b + 7) / 8)
  let scales := (List.range o.blockCount).map fun i => leField f.body (stop + i) 1
  let table := fun {α : Type} (g : Nat → Nat → α) => (List.range o.ext0).map fun r => (List.range o.ext1).map fun c => g r c
  let dirty := table dirtyAt
  { codes := table fun r c => (elems.getD (place r c).1 []).getD (place r c).2 0
    dirty := dirty, scales := scales
    scaleBad := (List.range o.blockCount).map fun i => bodyPoison f (stop + i) 1
    raw := pieces 4 ((blocks.zip marks).map fun e => (e.1.2, e.2))
    errs := dec.filterMap fun x => match x.2.1 with
      | .ok _ => none
      | .error e => some e
    stop := stop + o.blockCount
    poison := dirty.any (fun row => row.any id) || bodyPoison f stop o.blockCount }

/-- Append one whole coded square to a coded destination. -/
def appendSquare (s : State) (o : Operand) (w q : Nat) (g : Gather) (blocks : List (List Byte × Bool)) : State × Gather :=
  let fill := if w = 0 then g.fill else g.fill1
  let bs := blocks.flatMap Prod.fst
  let spans := blockSpans 0 blocks
  let s := s.storeMarked (o.base + fill) bs fun off len =>
    spans.any fun b => b.2.2 && decide (off < b.1 + b.2.1 ∧ b.1 < off + len)
  (s, { g with
    dir := put (w, q) fill g.dir
    fill := if w = 0 then fill + bs.length else g.fill
    fill1 := if w = 0 then g.fill1 else fill + bs.length
    parts := del (w, q) g.parts })

/-- Do a shard's squares coincide with squares of the destination? -/
def squaresFit (o : Operand) (x : Box) : Bool :=
  decide (x.r0 % 32 = 0 ∧ x.c0 % 32 = 0) &&
  (x.rows % 32 == 0 || x.r0 + x.rows == o.ext0) && (x.cols % 32 == 0 || x.c0 + x.cols == o.ext1)

/-- Put a shard's elements into the squares of a coded destination; a square that is whole is coded with the slot that
the descriptor names and appended. -/
def landParts (s : State) (o : Operand) (die w : Nat) (a : Arriving) (g : Gather) : State × Gather :=
  (List.range o.squares).foldl (fun (sg : State × Gather) q =>
    let row := fun e => 32 * (q / o.gridCols) + e / 32
    let col := fun e => 32 * (q % o.gridCols) + e % 32
    let es := List.range 1024
    if es.any fun e => a.box.has (row e) (col e) then
      let old := lookD (w, q) (List.replicate 1024 none) sg.2.parts
      let new : List Landed := es.map fun e =>
        if a.box.has (row e) (col e) then some (a.code (row e) (col e), a.bad (row e) (col e))
        else if row e < o.ext0 ∧ col e < o.ext1 then old.getD e none
        else some (0, false)
      if new.all Option.isSome then
        let sq : MovedSquare :=
          ⟨new.map fun x => (x.getD (0, false)).1,
           (List.range 4).map fun k => ((new.drop (256 * k)).take 256).any fun x => (x.getD (0, false)).2⟩
        let bl := (codedBlocks o.slot (sg.1.slotTable 2 die o.slot) o.fmt [sq]).getD 0 []
        appendSquare sg.1 o w q sg.2 bl
      else (sg.1, { sg.2 with parts := put (w, q) new sg.2.parts })
    else sg) (s, g)

/-- Land one copy in a destination. -/
def landCopy (s : State) (o : Operand) (die w : Nat) (a : Arriving) (raw : List (List (List Byte × Bool))) (g : Gather) :
    State × Gather :=
  let g := { g with poison := g.poison || a.poison }
  if !o.coded then (landPlain s o a, g)
  else
    let g := { g with
      scales := (landScales o a).foldl (fun m e => put (w, e.1) e.2 m) g.scales
      tscales := put w (a.tscale, a.tscaleBad) g.tscales }
    if !raw.isEmpty && squaresFit o a.box then
      ((List.range raw.length).zip raw).foldl (fun (sg : State × Gather) e =>
        appendSquare sg.1 o w ((a.box.r0 / 32 + e.1 / a.form.gridCols) * o.gridCols + a.box.c0 / 32 + e.1 % a.form.gridCols)
          sg.2 e.2) (s, g)
    else landParts s o die w a g

/-- Land the copies of an answer: the first asked copy in d[DC], the second copy of COPY 3 in d[DC + 1]. The copy keeps
the format of its slot (log 38), and d[DC] observes its elements once, as of the two copies of R113 of 03. -/
def landCopies (s : State) (c : EngCmd) (f : Frame) (b : Nat) (h : SlotHead) (g : Gather) : State × Gather × Nat :=
  let die := dieOfTile c.thread.tile.toNat
  let axes := (if bit c.copy 0 then [true] else []) ++ (if bit c.copy 1 then [false] else [])
  let go := ((List.range axes.length).zip axes).foldl (fun (acc : State × Gather × Nat) e =>
    let form := acc.1.copyOperand b f.shard 0 h.fmt h.scl e.2
    let bc := readBodyCopy f (acc.1.slotTable 2 die) form acc.2.2
    let dst := { resolved (if e.1 = 0 then c.dc else c.dc1) c.rung with fmt := h.fmt, scl := h.scl }
    let a : Arriving :=
      { box := relBox dst (acc.1.shardBox b f.shard), form := form, codes := bc.codes, dirty := bc.dirty
        tscale := h.tscale, tscaleBad := bodyPoison f (answerHead + 4) 4, blocks := bc.scales, blockBad := bc.scaleBad
        poison := bc.poison }
    let s := if dst.coded && !bc.raw.isEmpty && squaresFit dst a.box then acc.1 else acc.1.blockErrors c bc.errs
    let r := landCopy s dst die e.1 a bc.raw acc.2.1
    let k := a.elements dst
    let st := k.stat false
    if e.1 = 0 then
      (r.1.observeOut (c.producer bc.poison) dst k, { r.2 with
        lowest := if st.nonFinite then lower r.2.lowest st.first else r.2.lowest }, bc.stop)
    else (r.1, r.2, bc.stop)) (s, g, answerCopies)
  (go.1, go.2.1, go.2.2 - answerCopies)

/-- Counts of a context's open attempt (08, R281), by their place after ATTEMPT. -/
def State.bump (s : State) (c i n : Nat) : State :=
  let old := lookD c (List.replicate 10 0) s.collect.counts
  { s with collect := { s.collect with counts := put c (old.set i (old.getD i 0 + n)) s.collect.counts } }

def cntGathers : Nat := 0
def cntStale : Nat := 1
def cntMaxStale : Nat := 2
def cntReductions : Nat := 3
def cntQuorum : Nat := 4
def cntCarried : Nat := 5
def cntDropped : Nat := 6
def cntDuplicates : Nat := 7
def cntLost : Nat := 8
def cntExpired : Nat := 9

/-- Raise the largest staleness seen. -/
def State.bumpStale (s : State) (c n : Nat) : State :=
  let old := lookD c (List.replicate 10 0) s.collect.counts
  { s with collect := { s.collect with
      counts := put c (old.set cntMaxStale (Max.max (old.getD cntMaxStale 0) (min n 255))) s.collect.counts } }

/-- A lease that this module now holds; gathers of several attempts that share it hold it to the latest one's gate. -/
def State.holdLease (s : State) (h : HeldLease) : State :=
  match s.collect.held.find? fun x =>
      x.chan == h.chan && x.owner == h.owner && x.shard == h.shard && x.gen == h.gen && x.ctx == h.ctx with
  | none => { s with collect := { s.collect with held := s.collect.held ++ [h] } }
  | some x => { s with collect := { s.collect with held := s.collect.held.map fun y =>
      if y = x then { y with attempt := Max.max y.attempt h.attempt } else y } }

/-- An answer without a refusal: its data lands, and the gather is counted, traced and its lease held. -/
def State.landAnswer (s : State) (c : EngCmd) (g : Gather) (f : Frame) : State :=
  let b := s.rget Chan.BINDING g.chan
  let h := readSlotHead (slice f.body answerHead 64)
  let stale := c.step.toNat - h.step
  let ctx := c.ctxIx
  let (s, g, n) := landCopies s c f b h g
  let s := { s with collect := { s.collect with gathers := put c.id g s.collect.gathers } }
  let s := (s.bump ctx cntGathers 1).bumpStale ctx stale
  let s := if 0 < stale then s.bump ctx cntStale 1 else s
  let s := if leField f.body 4 1 = 1 then
      s.holdLease ⟨g.chan, f.src, f.shard, f.gen, ctx, c.attempt.toNat⟩ else s
  let die := dieOfTile c.thread.tile.toNat
  let s := s.countEvent 0x09 (256 * die) 256 (some c.ctx) c.opid n
  (s.traceCmd c 0x04 (f.gen % 2 ^ 16 + min stale 255 * 2 ^ 16) f.shard).answerShard c f.shard
    (statusWord f.gen stale 0)

/-- The gather that expects an answer: its command is there, and the shard has no answer yet. -/
def State.expecting (s : State) (f : Frame) : Option (EngCmd × Gather) :=
  match s.tsq.cmds.find? fun c => c.id == leField f.body 0 4 with
  | none => none
  | some c =>
    match look c.id s.collect.gathers with
    | none => none
    | some g =>
      if g.chan = f.channel ∧ (look f.shard g.status).isNone = true ∧ f.shard ∈ c.shards then some (c, g) else none

/-- The body of LEASE_RELEASE: a shard, a generation and the context's handle for each lease (log 30). -/
def leaseEntry (shard gen ctx : Nat) : List Byte := toBytes 4 shard ++ toBytes 2 gen ++ [0, 0] ++ toBytes 4 ctx

/-- The frame that releases leases at an owner. -/
def releaseFrame (s : State) (owner chan : Nat) (body : List Byte) : Frame :=
  { blankFrame with op := opLeaseRelease, dest := owner, channel := chan, member := s.rget Chan.SELF chan, body := body }

/-- The lease of an answer that comes too late to land: held to the gate of its attempt, or released at once when that gate is
over, the context is not ON or the list is full (08, R261, R262). -/
def State.lateLease (s : State) (f : Frame) : State :=
  let h := leField f.body 8 4
  let c := bits h 0 16
  if f.status ≠ 0 ∨ leField f.body 4 1 ≠ 1 then s
  else if s.collect.held.length < leaseList ∧ s.resolve .context h = some c ∧ s.isOn .context c = true ∧ attempt32 (s.rget Ctx.ATTEMPT c) = f.attempt then
    s.holdLease ⟨f.channel, f.src, f.shard, f.gen, c, s.rget Ctx.ATTEMPT c⟩
  else s.sendFrame (releaseFrame s f.src f.channel (leaseEntry f.shard f.gen h))

/-- GATHER_DATA: the data of an answer that no waiting gather expects is dropped. -/
def execGatherData (f : Frame) (s : State) : Host.Outcome State Fault Refusal :=
  .next (s.takeRequest opGatherData f fun s =>
    match s.expecting f with
    | none => s.lateLease f
    | some (c, g) =>
      if f.status ≠ 0 then s.answerShard c f.shard (statusWord 0 0 f.status)
      else s.landAnswer c g f)

/-- GATHER_TIMEOUT: no answer within ABANDON (08, R276). -/
def execGatherTimeout (id shard : Nat) (s : State) : Host.Outcome State Fault Refusal :=
  .next (match s.tsq.cmds.find? fun c => c.id == id, look id s.collect.gathers with
    | some c, some g =>
      if shard ∈ c.shards ∧ look shard g.status = none ∧
          g.issued + 1000000 * s.rget Chan.ABANDON g.chan ≤ s.now then
        s.answerShard c shard (statusWord 0 0 0x2C)
      else s
    | _, _ => s)

/-! ## Completion -/

/-- Has every shard an answer? -/
def gatherReady (s : State) (c : EngCmd) : Bool :=
  match look c.id s.collect.gathers with
  | some g => decide (g.status.length = g.count)
  | none => false

/-- Write the directory of a coded destination, and its scale area after the last square (12, R382, R406). The entry of
a square that never came is a free value (log 39). -/
def finishCoded (s : State) (o : Operand) (w : Nat) (g : Gather) : State :=
  let fill := if w = 0 then g.fill else g.fill1
  let (es, s) := (List.range o.squares).foldl (fun (acc : List Nat × State) q =>
    match look (w, q) g.dir with
    | some off => (acc.1 ++ [off / 8], acc.2)
    | none => let (v, s) := acc.2.draw; (acc.1 ++ [v.toNat % 2 ^ 32], s)) ([], s)
  let s := s.store o.base (padMul 8 ((es ++ [fill / 8]).flatMap fun x => toBytes 4 x)) g.poison
  let base := o.scaleAt fill
  let s := match look w g.tscales with
    | some t => if o.tscaleBytes = 0 then s else s.storeNat base 8 t.1 t.2
    | none => s
  (g.scales.filter fun e => e.1.1 == w).foldl (fun s e => s.storeNat (base + o.tscaleBytes + e.1.2) 1 e.2.1 e.2.2) s

/-- A gather ends: coded destinations receive their directory and scales, and the reason is the first code met in shard order. -/
def runGather (c : EngCmd) (s : State) : Done :=
  match look c.id s.collect.gathers with
  | none => .plain s
  | some g =>
    let outs := [resolved c.dc c.rung] ++ if c.copy = 3 then [resolved c.dc1 c.rung] else []
    let s := ((List.range outs.length).zip outs).foldl (fun s e =>
      if e.2.coded && !g.dir.isEmpty then finishCoded s e.2 e.1 g else s) s
    let s := { s with collect := { s.collect with gathers := del c.id s.collect.gathers } }
    let reason := (c.shards.findSome? fun j =>
      let code := lookD j 0 g.status / 2 ^ 24
      if code = 0 then none else some code).getD 0
    ⟨{ movedStat g.poison with nonFinite := g.lowest.isSome, first := g.lowest }, 0, reason, 0, s, false⟩

/-! ## Leases (08, R262, R263) -/

/-- The body of LEASE_RELEASE for held leases. -/
def leaseBody (s : State) (hs : List HeldLease) : List Byte :=
  hs.flatMap fun h => leaseEntry h.shard h.gen (s.handle .context h.ctx)

/-- Release held leases: one frame for each owner and channel. -/
def State.releaseLeases (s : State) (which : HeldLease → Bool) : State :=
  let out := s.collect.held.filter which
  let s := { s with collect := { s.collect with held := s.collect.held.filter fun h => !which h } }
  let keys := out.foldl (fun (ks : List (Nat × Nat)) h => if (h.owner, h.chan) ∈ ks then ks else ks ++ [(h.owner, h.chan)]) []
  keys.foldl (fun s k =>
    s.sendFrame (releaseFrame s k.1 k.2 (leaseBody s (out.filter fun h => (h.owner, h.chan) == k)))) s

/-- LEASE_RELEASE: the leases named are dropped; one that was dropped before is ignored. -/
def execLeaseRelease (f : Frame) (s : State) : Host.Outcome State Fault Refusal :=
  .next (s.takeRequest opLeaseRelease f fun s =>
    let es := (pieces 12 f.body).map fun e => (leField e 0 4, leField e 4 2, leField e 8 4)
    { s with collect := { s.collect with leases := s.collect.leases.filter fun l =>
        !(l.module_ == f.src && l.chan == f.channel && decide ((l.shard, l.gen, l.ctx) ∈ es)) } })

/-- LEASE_EXPIRED (08, R263), naming the requesting context. -/
def expiredRec (l : Lease) : ErrRec :=
  { type := 0x0052, severity := 0, reason := 0x2F, context := l.ctx, die := 4, unit := l.module_, address := l.shard }

/-- LEASE_TIMEOUT: an owner drops a lease that it has held for LEASE_TIMEOUT seconds. -/
def execLeaseTimeout (chan member shard gen : Nat) (s : State) : Host.Outcome State Fault Refusal :=
  .next (match s.collect.leases.find? fun l =>
      l.chan == chan && (s.members chan)[member]? == some l.module_ && l.shard == shard && l.gen == gen with
    | none => s
    | some l =>
      if l.since + 1000000000 * s.rget Chan.LEASE_TIMEOUT chan ≤ s.now then
        (({ s with collect := { s.collect with leases := s.collect.leases.erase l } } : State).logError
          (expiredRec l)).bump (s.bindCtx l.bind) cntExpired 1
      else s)

end Sys2Proof.Machine
end

