-- ==== Sys2Proof/Machine/Reduce.lean ====
section
/-!
DEFINITION. Exact reductions: CREDUCE at the contributing module, the long accumulators of the owner, quorum, late and
carried contributions, the contributor log, and the way of a result to the sump or to the owner's own command (08,
R264 to R276; 07, R225, R226; 12, R407).
-/
namespace Sys2Proof.Machine

/-! ## Word 1 of CREDUCE (12, R407) -/

def EngCmd.redOp (c : EngCmd) : Nat := bits c.w1.toNat 4 2
def EngCmd.toSump (c : EngCmd) : Bool := c.flag 6

def redSum : Nat := 0
def redMean : Nat := 1
def redMax : Nat := 2
def redMin : Nat := 3

/-- LATENESS codes. -/
def lateWait : Nat := 0
def lateCarry : Nat := 1
def lateDrop : Nat := 2

/-- The formats of a contribution (08, R264). -/
def contribFmt (fmt scl : Nat) : Bool :=
  decide (fmt ∈ [fmtFP32, fmtBF16, fmtFP16, fmtE4M3, fmtE5M2, fmtINT32] ∧ scl ≤ 1)

/-- The shards of a command whose results it takes into d[DC]: its module's own ones with TO_SUMP clear. -/
def State.ownShards (s : State) (c : EngCmd) : List Nat :=
  match s.cmdChannel c with
  | .error _ => []
  | .ok ch => if c.toSump then [] else c.shards.filter fun j => s.ownerOf ch j == some (s.rget Chan.SELF ch)

def creduceCheck (s : State) (c : EngCmd) : Option IssueFault :=
  let a := resolved c.da c.rung
  let d := resolved c.dc c.rung
  let own := s.ownShards c
  let boxes := match s.gsBinding c with
    | some b => own.map fun j => s.shardBox b j
    | none => []
  firstFault [
    descFault [(bits c.w1.toNat 0 2 != 3, 0x1D)],
    moverFault s c false collectStores a,
    descFault [(contribFmt a.fmt a.scl, 0x1D), ((s.cmdBoxes c).all fun x => boxInside a x, 0x1D)],
    if own.isEmpty then none else (operandCheck s c true collectStores d).map badDesc,
    descFault [(boxes.all fun x => boxInside d x, 0x1D)]]

def execCreduce (t : ThreadRef) (e : FormE) (s : State) : Host.Outcome State Fault Refusal :=
  engine t e .creduce (bitsFrom 7) true 0 creduceCheck s

/-! ## Segments (08, Exact reductions) -/

/-- Elements of a segment. -/
def segmentSize : Nat := 4096

def segmentCount (n : Nat) : Nat := max 1 (ceilDiv n segmentSize)

/-- Elements of segment `k` of a shard of `n` elements. -/
def segmentLen (n k : Nat) : Nat := min segmentSize (n - segmentSize * k)

/-- Elements of a shard. -/
def State.shardElems (s : State) (b j : Nat) : Nat := (s.shardBox b j).rows * (s.shardBox b j).cols

/-! ## The contributing module -/

/-- The poison of each element of a tensor that is read: that of its line or of its block. -/
def elemPoison (s : State) (slots : Nat → Option Table) (o : Operand) (r c : Nat) : Bool :=
  let e := r % 32 * 32 + c % 32
  if o.coded then blockPoison s slots o (r / 32 * o.gridCols + c / 32) (e / 256)
  else
    let b := fmtBits o.fmt
    s.poisoned (o.square (r / 32) (c / 32) + e * b / 8) ((e * b % 8 + b + 7) / 8)

/-- Bytes of a contribution's body before its elements (log 30). -/
def contribHead : Nat := 32

/-- The front of a CONTRIBUTION's body: operation and destination, format, scale mode, per-tensor scale, command, and for
coded blocks the place of the shard in its tensor and the columns of the grid of squares (log 30). -/
def contribFront (c : EngCmd) (o : Operand) (x : Box) (tscale : Nat) : List Byte :=
  toBytes 1 (c.redOp + 4 * b2n c.toSump) ++ toBytes 1 o.fmt ++ toBytes 1 o.scl ++ [0] ++ toBytes 4 tscale ++
  toBytes 4 c.id ++ toBytes 4 x.r0 ++ toBytes 4 x.c0 ++ toBytes 4 o.gridCols ++ List.replicate 8 0

/-- The poison of body bytes from the poison of elements of `b` bits. -/
def contribDirty (b : Nat) (dirty : List Bool) (off n : Nat) : Bool :=
  let lo := (off - contribHead) * 8 / b
  let hi := ((off + n - contribHead) * 8 + b - 1) / b
  decide (contribHead < off + n) && ((dirty.drop lo).take (hi - lo)).any id

/-- The places, in the tensor of a descriptor, of the elements of segment `k` of a shard. -/
def segmentPlaces (x : Box) (k : Nat) : List (Nat × Nat) :=
  (List.range (segmentLen (x.rows * x.cols) k)).map fun i =>
    let e := segmentSize * k + i
    (x.r0 + e / x.cols, x.c0 + e % x.cols)

/-- The block of a coded tensor that holds an element, four to a square, and the blocks of several elements in order. -/
def blockNo (gridCols : Nat) (e : Nat × Nat) : Nat := 4 * (e.1 / 32 * gridCols + e.2 / 32) + e.1 % 32 / 8
def blockNos (gridCols : Nat) (es : List (Nat × Nat)) : List Nat := (es.map (blockNo gridCols)).eraseDups

/-- A block of a coded tensor as it stands, with the poison of its lines. -/
def rawBlock (s : State) (o : Operand) (n : Nat) : List Byte × Bool :=
  let r := (blockSpansAt s 4 (o.base + 8 * dirEntry s o (n / 4))).getD (n % 4) (0, 0)
  (s.peek r.1 r.2, s.poisoned r.1 r.2)

/-- Send the segments of one shard: the elements of a plain tensor, or, verbatim, the blocks of a coded one that hold them
(05, R186). -/
def State.sendContrib (s : State) (c : EngCmd) (ch j dest : Nat) (o : Operand) (bad : Bool) (tscale : Nat) : State :=
  let x := relBox o (s.shardBox (s.rget Chan.BINDING ch) j)
  let b := fmtBits o.fmt
  (List.range (segmentCount (x.rows * x.cols))).foldl (fun t k =>
    let es := segmentPlaces x k
    let front := contribFront c o x tscale
    let f : Frame := { chanFrame s c ch opContribution dest with shard := j, segment := k, coded := o.coded }
    let f : Frame :=
      if o.coded then
        let ps := (blockNos o.gridCols es).map fun n => ((rawBlock s o n).1, bad || (rawBlock s o n).2)
        { f with body := front ++ ps.flatMap Prod.fst, poison := pieceMarks contribHead ps }
      else
        let codes := es.map fun e => (plainRow s o e.1).getD e.2 0
        let body := front ++ toBytes (ceilDiv (codes.length * b) 8) (packNat b codes)
        { f with
          body := body
          poison := flitPoison body.length (contribDirty b (es.map fun e => bad || elemPoison s (fun _ => none) o e.1 e.2)) }
    t.sendFrame f none (some (c.id, j))) s

/-- Start a reduction command: its contributions go out in ascending shard and segment order. -/
def startReduce (c : EngCmd) (s : State) : State :=
  match s.cmdChannel c with
  | .error r => s.endRefused c r
  | .ok ch =>
    let die := dieOfTile c.thread.tile.toNat
    let o := resolved c.da c.rung
    let scaleBad := o.tscaleBytes != 0 && s.poisoned (scaleBase s o) 8
    let tscale := if o.tscaleBytes = 0 then 0x3F800000 else s.peekNat (scaleBase s o) 4
    let b := s.rget Chan.BINDING ch
    let owned := c.shards.filter fun j => (s.ownerOf ch j).isSome
    let entry : Contrib :=
      { chan := ch, ctx := c.ctxIx, opid := c.opid.toNat, step := c.step.toNat, attempt := attempt32 c.attempt.toNat
        issued := c.issued
        left := owned.map fun j => (j, segmentCount (s.shardElems b j))
        codes := (c.shards.filter fun j => (s.ownerOf ch j).isNone).map fun j => (j, 0x2C)
        own := s.ownShards c }
    let elems := owned.foldl (fun n j => n + s.shardElems b j) 0
    let s := (readRanges s o).foldl (fun s r => s.touch r.1 r.2) s
    let s := { s with collect := { s.collect with contribs := put c.id entry s.collect.contribs } }
    let s := s.countEvent 0x0A (256 * die) 256 (some c.ctx) c.opid elems
    owned.foldl (fun s j =>
      s.sendContrib c ch j ((s.members ch).getD ((s.ownerOf ch j).getD 0) 0) o scaleBad tscale) s

/-- A segment of a contribution has been accepted, with a code where its owner refused it. -/
def State.acceptContrib (s : State) (id shard code : Nat) : State :=
  match look id s.collect.contribs with
  | none => s
  | some e =>
    let n := lookD shard 0 e.left
    if n = 0 then s
    else
      let codes := if code ≠ 0 ∧ look shard e.codes = none then put shard code e.codes else e.codes
      { s with collect := { s.collect with
          contribs := put id { e with left := put shard (n - 1) e.left, codes := codes } s.collect.contribs } }

/-- CONTRIB_UNACCEPTED (08, R276), with the OPID and step of the command (01, R13). -/
def unacceptedRec (s : State) (e : Contrib) (owner shard : Nat) : ErrRec :=
  { type := 0x0053, severity := 3, reason := 0x2D, context := s.handle .context e.ctx, die := 4, unit := owner
    opid := e.opid, step := e.step, address := shard }

/-- CONTRIB_UNACCEPTED: no acceptance within ABANDON. -/
def execContribUnaccepted (id shard : Nat) (s : State) : Host.Outcome State Fault Refusal :=
  .next (match look id s.collect.contribs with
    | none => s
    | some e =>
      if 0 < lookD shard 0 e.left ∧ e.issued + 1000000 * s.rget Chan.ABANDON e.chan ≤ s.now then
        let owner := (s.members e.chan).getD ((s.ownerOf e.chan shard).getD 0) 0
        let s := { s with collect := { s.collect with
          contribs := put id { e with left := put shard 0 e.left, codes := put shard 0x2D e.codes } s.collect.contribs } }
        (s.raiseFlags e.ctx e.attempt true false).logError (unacceptedRec s e owner shard)
      else s)

/-- Has every contribution of a command been accepted and every own result closed or lost (12, R407)? -/
def reduceReady (s : State) (c : EngCmd) : Bool :=
  match look c.id s.collect.contribs with
  | none => false
  | some e => (e.left.all fun p => p.2 == 0) && e.own.all fun j =>
      s.collect.results.any fun r => r.chan == e.chan && r.shard == j && r.step == c.step.toNat && r.attempt == e.attempt &&
        !r.toSump

/-! ## Long accumulators (08, R265, R266) -/

/-- The modulus of the residue of a long accumulator (13, R417). -/
def accPrime : Nat := 2 ^ 31 - 1

/-- The residue of a number that is a multiple of 2^-149: of the integer that a long accumulator holds for it. -/
def accResidue (q : Rat) : Nat := ((q * 2 ^ 149).num % (accPrime : Int)).toNat

def Acc.empty : Acc := ⟨0, 0, none, false, false, false, false⟩

/-- The extreme of two values; +0 counts as greater than -0. -/
def extreme (up : Bool) (a v : Val) : Val :=
  let above := fun (x y : Val) => x.lt y || (x.isZero && y.isZero && x.isNeg && !y.isNeg)
  if (if up then above a v else above v a) then v else a

/-- Add one contribution of an element: a NaN and the infinities set the sideband, whatever the operation (08, R265). -/
def Acc.add (a : Acc) (op : Nat) (v : Val) (poison : Bool) : Acc :=
  let a := { a with poison := a.poison || poison }
  match v with
  | .nan => { a with nan := true }
  | .inf neg => if neg then { a with ninf := true } else { a with pinf := true }
  | v =>
    if op = redMax ∨ op = redMin then
      { a with ext := some (match a.ext with
          | none => v
          | some x => extreme (op == redMax) x v) }
    else { a with sum := a.sum + v.rat, residue := (a.residue + accResidue v.rat) % accPrime }

/-- Does the residue of an accumulator differ from its sum? -/
def Acc.torn (a : Acc) : Bool := a.residue != accResidue a.sum

/-- The exact result of an element after `n` contributions. -/
def Acc.result (a : Acc) (op n : Nat) : Val :=
  if a.nan || (a.pinf && a.ninf) then .nan
  else if a.pinf then .inf false
  else if a.ninf then .inf true
  else if op = redMax ∨ op = redMin then plusZero (a.ext.getD (.zero false))
  else if op = redMean then Val.ofRat (a.sum / n)
  else Val.ofRat a.sum

/-- Lines of 64 elements of one die's accumulator memory: 16 MiB at 2,560 bytes a line (08, R267). -/
def accLines : Nat := 6553

def segmentLines (len : Nat) : Nat := ceilDiv len 64

/-- The die whose slice holds a binding's shard. -/
def State.shardDie (s : State) (b j : Nat) : Nat := s.shardRegion b j / 8

/-- Lines that a segment holds: none once it has closed. -/
def Segment.lines (g : Segment) : Nat := if g.closed.isSome then 0 else segmentLines g.accs.length

/-- Lines in use on a die: those of the segments that have not closed. -/
def State.linesUsed (s : State) (die : Nat) : Nat :=
  (s.collect.reds.filter fun r => s.shardDie r.bind r.shard == die).foldl (fun n r =>
    r.segs.foldl (fun n g => n + g.lines) n) 0

/-! ## Judging an arrival (08, R268, R270, R272) -/

/-- What an owner does with a contribution. -/
inductive Verdict where
  | ignore
  | duplicate
  | late
  /-- It opens a reduction. -/
  | opens
  /-- It is added; `fresh` says that its segment has no lines yet. -/
  | adds (fresh : Bool)
  deriving DecidableEq, Repr

/-- Does a reduction belong to a frame's shard, step and attempt? -/
def Reduction.isFor (r : Reduction) (f : Frame) : Bool :=
  r.chan == f.channel && r.shard == f.shard && r.step == f.step && r.attempt == f.attempt

def Reduction.segment? (r : Reduction) (k : Nat) : Option Segment := r.segs.find? fun g => g.index == k

/-- Members whose contribution to a segment has arrived. -/
def Reduction.arrived (r : Reduction) (k : Nat) : List Nat := ((r.segment? k).map Segment.fresh).getD []

/-- Is an attempt older than the owner's current one for a step: that of the binding's context at its present step; for a
step that has passed, the latest attempt that opened a reduction? -/
def State.staleAttempt (s : State) (f : Frame) : Bool :=
  let c := s.redCtx f.channel
  let now := s.rget Ctx.STEP c
  if f.step = now then !notPast (s.rget Ctx.ATTEMPT c) f.attempt
  else if f.step < now then
    ((s.collect.reds.filter fun r => r.chan == f.channel && r.shard == f.shard && r.step == f.step).map Reduction.attempt ++
     (s.collect.closed.filter fun r => r.chan == f.channel && r.shard == f.shard && r.step == f.step).map ClosedRed.attempt).any
      fun a => !notPast a f.attempt
  else false

def State.judge (s : State) (f : Frame) : Verdict :=
  let b := s.rget Chan.BINDING f.channel
  let open_ := s.collect.reds.find? fun r => r.isFor f
  let older := s.collect.reds.any fun r => r.chan == f.channel && r.shard == f.shard && decide (f.step < r.step)
  if segmentCount (s.shardElems b f.shard) ≤ f.segment then .ignore
  else if s.staleAttempt f || older then .duplicate
  else match open_ with
    | some r =>
      if decide (f.member ∈ r.arrived f.segment ∨ (f.member, f.segment) ∈ r.late) then .duplicate
      else if (match r.record with
          | some m => !decide (f.member ∈ m)
          | none => false) then .late
      else if f.segment ≠ 0 ∧ ¬ f.member ∈ r.arrived 0 then .ignore
      else .adds (r.segment? f.segment).isNone
    | none =>
      match s.collect.closed.find? fun d =>
          d.chan == f.channel && d.shard == f.shard && d.step == f.step && d.attempt == f.attempt with
      | some d => if f.member ∈ d.members ∨ (f.member, f.segment) ∈ d.late then .duplicate else .late
      | none => if f.segment = 0 then .opens else .ignore

/-- Does an arrival need lines? -/
def Verdict.needsLines : Verdict → Bool
  | .opens | .adds true => true
  | .adds false | .ignore | .duplicate | .late => false

/-! ## The elements of a contribution -/

/-- A coded block of a contribution as the owner's collective coder takes it: its elements, whether it carries poison, and why
it was not decoded (05, R168, R174, R186). -/
def State.contribBlock (s : State) (f : Frame) (die : Nat) (x : Nat × List Byte) : List Nat × Bool × Option BlockError :=
  let d := decodeBlock (s.slotTable 2 die) x.2
  let err := match d with
    | .ok _ => none
    | .error e => some e
  (blockElements (leField f.body 1 1) (x.1, d, false), (readHead x.2).poison || bodyPoison f x.1 x.2.length || err.isSome, err)

/-- The shard's box in the contributor's tensor. -/
def State.contribBox (s : State) (f : Frame) : Box :=
  { s.shardBox (s.rget Chan.BINDING f.channel) f.shard with r0 := leField f.body 12 4, c0 := leField f.body 16 4 }

/-- The coded blocks of a contribution by their numbers; none of a plain one. -/
def State.contribBlocks (s : State) (f : Frame) : List (Nat × List Nat × Bool × Option BlockError) :=
  if f.coded then
    let nos := blockNos (leField f.body 20 4) (segmentPlaces (s.contribBox f) f.segment)
    let die := s.shardDie (s.rget Chan.BINDING f.channel) f.shard
    nos.zip ((takeBlocks nos.length contribHead (f.body.drop contribHead)).map fun x => s.contribBlock f die x)
  else []

/-- The codes of a contribution's elements with their poison. -/
def State.contribCodes (s : State) (f : Frame) : List (Nat × Bool) :=
  let b := fmtBits (leField f.body 1 1)
  let n := segmentLen (s.shardElems (s.rget Chan.BINDING f.channel) f.shard) f.segment
  if f.coded then
    let bs := s.contribBlocks f
    (segmentPlaces (s.contribBox f) f.segment).map fun e =>
      let d := lookD (blockNo (leField f.body 20 4) e) ([], false, none) bs
      (d.1.getD (e.1 % 8 * 32 + e.2 % 32) 0, d.2.1)
  else
    ((List.range n).zip (unpackNat b n (fromBytes (f.body.drop contribHead)))).map fun e =>
      (e.2, bodyPoison f (contribHead + e.1 * b / 8) ((e.1 * b % 8 + b + 7) / 8))

/-- The elements of a contribution with their poison, converted to FP32; INT32 elements are integers (08, R264). -/
def State.contribElems (s : State) (f : Frame) : List (Val × Bool) :=
  let fmt := leField f.body 1 1
  let st := if leField f.body 2 1 = 1 then ofF32 (leField f.body 4 4) else .fin 1
  (s.contribCodes f).map fun e =>
    (if fmt = fmtINT32 then codeValue fmt e.1 else rn (st.mul (codeValue fmt e.1)), e.2)

/-- The record of a block that a die's collective coder did not decode (05, R168, R174). -/
def coderRec (s : State) (f : Frame) (die : Nat) (e : BlockError) : ErrRec :=
  (({ type := if e = .malformed then 0x0020 else 0x0021, severity := 3, reason := e.reason, address := f.shard } : ErrRec).ofCtx
    s (s.chanCtx f.channel) f.opid f.step).atDie die

/-- The records of a contribution's blocks that were not decoded. -/
def State.contribErrors (s : State) (f : Frame) : State :=
  let die := s.shardDie (s.rget Chan.BINDING f.channel) f.shard
  ((s.contribBlocks f).filterMap fun x => x.2.2.2).foldl (fun s e => s.logError (coderRec s f die e)) s

/-! ## Carried contributions (08, R270, R271, R273) -/

/-- Bytes of a carry slot, and the first byte of one. -/
def State.carryBytes (s : State) (b : Nat) : Nat := 4096 * ceilDiv (64 + 4 * s.places b) 4096

def State.carryAddr (s : State) (ch k : Nat) : Nat :=
  s.rget Chan.CARRY_BASE ch + k * s.carryBytes (s.rget Chan.BINDING ch)

/-- The elements of a carried contribution. -/
def State.readCarry (s : State) (y : Carry) : List (Val × Bool) :=
  let a := s.carryAddr y.chan y.slot + 64
  (List.range (s.shardElems (s.rget Chan.BINDING y.chan) y.shard)).map fun i =>
    (ofF32 (s.peekNat (a + 4 * i) 4), s.poisoned (a + 4 * i) 4)

/-- Discard carried contributions; `counted` says that they count as dropped. -/
def State.dropCarries (s : State) (which : Carry → Bool) (counted : Bool) : State :=
  let out := s.collect.carries.filter which
  let s := { s with collect := { s.collect with carries := s.collect.carries.filter fun y => !which y } }
  if counted then out.foldl (fun s y => s.bump (s.redCtx y.chan) cntDropped 1) s else s

/-- Write a segment into a carry slot, with the header of the slot (08, R273). -/
def State.storeCarry (s : State) (y : Carry) (f : Frame) : State :=
  let a := s.carryAddr y.chan y.slot
  let es := s.contribElems f
  let head := toBytes 4 y.shard ++ [0, 0, 0, 0] ++ toBytes 8 y.step ++
    toBytes 48 (y.segs.foldl (fun n k => n + 2 ^ k) 0)
  (s.store a head false).storeMarked (a + 64 + 4 * segmentSize * f.segment) (es.flatMap fun e => toBytes 4 (toF32 e.1))
    fun off n => ((es.drop (off / 4)).take (ceilDiv (off + n) 4 - off / 4)).any Prod.snd

/-- The first carry slot of a channel that is free. -/
def State.freeCarry (s : State) (ch : Nat) : Option Nat :=
  (List.range (s.rget Chan.CARRY_SLOTS ch)).find? fun k => !s.collect.carries.any fun y => y.chan == ch && y.slot == k

/-- A late contribution's member and segment are remembered, so that a second one is a duplicate (08, R272). -/
def State.noteLate (s : State) (f : Frame) : State :=
  { s with collect := { s.collect with
      reds := s.collect.reds.map fun r => if r.isFor f then { r with late := r.late ++ [(f.member, f.segment)] } else r
      closed := s.collect.closed.map fun d =>
        if d.chan = f.channel ∧ d.shard = f.shard ∧ d.step = f.step ∧ d.attempt = f.attempt then
          { d with late := d.late ++ [(f.member, f.segment)] } else d } }

/-- A late contribution: discarded under DROP; kept in a free carry slot under CARRY while a later step can still take it
(08, R270, R271). -/
def State.lateContrib (s : State) (f : Frame) : State :=
  let ch := f.channel
  let ctx := s.redCtx ch
  let s := s.noteLate f
  if s.rget Chan.LATENESS ch ≠ lateCarry then (if f.segment = 0 then s.bump ctx cntDropped 1 else s)
  else
    let same := fun (y : Carry) => y.chan == ch && y.shard == f.shard && y.member == f.member
    let tagged := fun (y : Carry) => y.step == f.step && y.attempt == f.attempt
    match s.collect.carries.find? fun y => same y && tagged y with
    | some y =>
      let y' := { y with segs := if f.segment ∈ y.segs then y.segs else y.segs ++ [f.segment] }
      ({ s with collect := { s.collect with
          carries := s.collect.carries.map fun z => if z = y then y' else z } } : State).storeCarry y' f
    | none =>
      if f.segment ≠ 0 then s
      else
        match s.freeCarry ch with
        | none => s.bump ctx cntDropped 1
        | some k =>
          if f.step + 1 < s.rget Ctx.STEP ctx then s.bump ctx cntDropped 1
          else
            let y : Carry := ⟨ch, k, f.shard, f.step, f.attempt, f.member, [0], none⟩
            ((s.bump ctx cntCarried 1).storeCarry y f |> fun s =>
              { s with collect := { s.collect with carries := s.collect.carries ++ [y] } })

/-! ## Closing (08, R268, R269, R274) -/

/-- The same channel, shard, step and attempt. -/
def Reduction.same (x r : Reduction) : Bool :=
  x.chan == r.chan && x.shard == r.shard && x.step == r.step && x.attempt == r.attempt

/-- Replace a reduction. -/
def State.setRed (s : State) (r r' : Reduction) : State :=
  { s with collect := { s.collect with reds := s.collect.reds.map fun x => if x.same r then r' else x } }

/-- The contributor record: bit 0 of a member's pair fresh, bit 1 carried. -/
def recordBits (fresh carried : List Nat) : Nat :=
  fresh.foldl (fun n k => n ||| 2 ^ (2 * k)) (carried.foldl (fun n k => n ||| 2 ^ (2 * k + 1)) 0)

/-- The members in a reduction's record, or, before it is fixed, those that have arrived. -/
def Reduction.freshOf (r : Reduction) : List Nat := r.record.getD (r.arrived 0)

/-- Write the contributor log's entry of a closed or lost reduction. -/
def State.logReduction (s : State) (r : Reduction) (outcome : Nat) : State :=
  let base := s.rget Chan.LOG_BASE r.chan
  if base = 0 then s
  else
    let n := s.rget Chan.MEMBERS r.chan
    let size := 64 + 64 * ceilDiv n 256
    let head := s.rget Chan.LOG_HEAD r.chan
    let entry := toBytes 4 (s.handle .channel r.chan) ++ toBytes 4 r.shard ++ toBytes 8 r.step ++ toBytes 8 r.attempt ++
      toBytes 8 r.t0 ++ toBytes 8 s.now ++ toBytes 2 r.freshOf.length ++ toBytes 2 r.carried.length ++
      toBytes 1 outcome ++ toBytes 1 r.op ++ toBytes 2 n ++ List.replicate 16 0 ++
      toBytes (size - 64) (recordBits r.freshOf r.carried)
    (s.store (base + size * (head % max 1 (s.rget Chan.LOG_ENTRIES r.chan))) entry false).rwrap Chan.LOG_HEAD r.chan

/-- What every end of a reduction does: the log entry, the trace record, and the memory by which later arrivals are
judged. -/
def State.endReduction (s : State) (r : Reduction) (outcome : Nat) : State :=
  let s := s.logReduction r outcome
  let die := s.shardDie r.bind r.shard
  let region := s.shardRegion r.bind r.shard
  let s := s.traceEvent die 3 0x05 (region % 8 + 256 * 3) region (s.chanCtx r.chan) r.opid
    (outcome + r.freshOf.length % 2 ^ 16 * 256) r.shard
  { s with collect := { s.collect with
      reds := s.collect.reds.filter fun x => !x.same r
      closed := s.collect.closed ++ [ClosedRed.mk r.chan r.shard r.step r.attempt r.freshOf r.late] } }

/-- The accumulators of a segment as it closes: the carried contributions that the reduction includes are added. -/
def State.closingAccs (s : State) (r : Reduction) (g : Segment) : List Acc :=
  let carries := s.collect.carries.filter fun y =>
    y.chan == r.chan && y.shard == r.shard && y.included == some r.attempt && decide (y.member ∈ r.carried) &&
      y.step + 1 == r.step
  carries.foldl (fun accs y => (accs.zip ((s.readCarry y).drop (segmentSize * g.index))).map fun e =>
    e.1.add r.op e.2.1 e.2.2) g.accs

/-- RESIDUE_MISMATCH of a die's collective slice: contained where the result is poisoned (13, R417, R585). -/
def sliceResidueRec (s : State) (r : Reduction) (poisoned : Bool) : ErrRec :=
  (({ type := 0x00A0, severity := if poisoned then 3 else 2, reason := 0x37, address := r.shard } : ErrRec).ofCtx s
    (s.chanCtx r.chan) r.opid r.step).atDie (s.shardDie r.bind r.shard)

/-- Close a segment: its accumulators are compared with their residues, a torn one's result takes poison where the
partition asks for it (13, R417, R420), and the flags go to the gate (07, R225). -/
def State.closeSegment (s : State) (r : Reduction) (g : Segment) : Reduction × State :=
  let accs := s.closingAccs r g
  let ctx := s.bindCtx r.bind
  let mark := s.rbit Part.POISON_ON_DETECT (s.partOf ctx)
  let vs := accs.map fun a => (a.result r.op (r.freshOf.length + r.carried.length), a.poison || (mark && a.torn))
  let r' := { r with segs := r.segs.map fun x => if x.index = g.index then { x with closed := some vs } else x }
  let s := s.setRed r r'
  let s := if accs.any Acc.torn then s.detect (s.partOf ctx) (sliceResidueRec s r mark) else s
  (r', s.raiseFlags ctx r.attempt (vs.any fun v => !v.1.isFinite) (vs.any Prod.snd))

/-- Is a segment closed? -/
def Reduction.segClosed (r : Reduction) (k : Nat) : Bool := ((r.segment? k).map fun g => g.closed.isSome).getD false

/-- The results of a reduction whose segments are all closed. -/
def Reduction.values (r : Reduction) : List (Val × Bool) :=
  (List.range r.segs.length).flatMap fun k => ((r.segment? k).bind Segment.closed).getD []

/-- Close a reduction: its result, its counts and its log entry. -/
def State.closeReduction (s : State) (r : Reduction) : State :=
  let ctx := s.bindCtx r.bind
  let atQuorum := decide (r.freshOf.length < (s.members r.chan).length)
  let s := { s with collect := { s.collect with
    results := s.collect.results ++ [RedResult.mk r.chan r.bind r.shard r.step r.attempt r.toSump r.opid r.values false] } }
  let s := s.bump ctx cntReductions 1
  let s := if atQuorum then s.bump ctx cntQuorum 1 else s
  s.endReduction r (b2n atQuorum)

/-- May segment 0 close: all members fresh, or, after the deadline under CARRY or DROP, at least QUORUM? -/
def State.segmentZeroCloses (s : State) (r : Reduction) : Bool :=
  let n := (r.arrived 0).length
  decide ((s.members r.chan).length ≤ n) ||
    (s.rget Chan.LATENESS r.chan != lateWait && decide (r.t0 + 1000 * s.rget Chan.DEADLINE r.chan ≤ s.now) &&
     decide (s.rget Chan.QUORUM r.chan ≤ n))

/-- Fix the contributor record as segment 0 closes: the carried contributions of the step before that are whole are
included, the others discarded. -/
def State.fixRecord (s : State) (r : Reduction) : Reduction × State :=
  let due := fun (y : Carry) => y.chan == r.chan && y.shard == r.shard && y.step + 1 == r.step
  let whole := fun (y : Carry) => decide (y.segs.length = segmentCount (s.shardElems r.bind r.shard))
  let s := s.dropCarries (fun y => due y && !whole y) true
  let r' := { r with record := some (r.arrived 0), carried := (s.collect.carries.filter due).map Carry.member }
  (r', ({ s with collect := { s.collect with
    carries := s.collect.carries.map fun y => if due y then { y with included := some r.attempt } else y } } : State).setRed r r')

/-- Close segment `k` of a reduction whose record is fixed, if every member in the record has arrived. -/
def State.tryClose (s : State) (r : Reduction) (record : List Nat) (k : Nat) : Reduction × State :=
  match r.segment? k with
  | some g => if g.closed.isNone && record.all (fun x => decide (x ∈ g.fresh)) then s.closeSegment r g else (r, s)
  | none => (r, s)

/-- Close what can close of a reduction. -/
def State.progress (s : State) (r : Reduction) : State :=
  let (r, s) := if r.record.isNone && s.segmentZeroCloses r then s.fixRecord r else (r, s)
  match r.record with
  | none => s
  | some m =>
    let n := segmentCount (s.shardElems r.bind r.shard)
    let (r, s) := (List.range n).foldl (fun e k => e.2.tryClose e.1 m k) (r, s)
    if (List.range n).all r.segClosed then s.closeReduction r else s

/-! ## Adding -/

/-- Add a contribution to a segment that has lines, or that takes them now. -/
def State.addSegment (s : State) (r : Reduction) (f : Frame) : State :=
  let es := s.contribElems f
  let old := (r.segment? f.segment).getD ⟨f.segment, es.map fun _ => Acc.empty, [], none⟩
  let g : Segment := { old with
    accs := (old.accs.zip es).map fun e => e.1.add r.op e.2.1 e.2.2, fresh := old.fresh ++ [f.member] }
  let r' := { r with segs := r.segs.filter (fun x => x.index != f.segment) ++ [g] }
  ((s.setRed r r').rwrap DieCnt.COL_ELEMENTS (s.shardDie r.bind r.shard) es.length).progress r'

/-- Open a reduction with its first contribution to segment 0. -/
def State.openReduction (s : State) (f : Frame) : State :=
  let k := leField f.body 0 1
  let r : Reduction :=
    { chan := f.channel, bind := s.rget Chan.BINDING f.channel, shard := f.shard, step := f.step, attempt := f.attempt
      op := k % 4, toSump := bit k 2, opid := f.opid, t0 := s.now, record := none, carried := [], segs := []
      late := [] }
  ({ s with collect := { s.collect with reds := s.collect.reds ++ [r] } } : State).addSegment r f

/-- Take a contribution in. -/
def State.addContrib (s : State) (f : Frame) : State :=
  match s.judge f with
  | .ignore => s
  | .duplicate => s.bump (s.redCtx f.channel) cntDuplicates 1
  | .late => (s.contribErrors f).lateContrib f
  | .opens => (s.contribErrors f).openReduction f
  | .adds _ =>
    match s.collect.reds.find? fun r => r.isFor f with
    | some r => (s.contribErrors f).addSegment r f
    | none => s

/-- The owner's acceptance of a contribution goes back to its sender (08, R275; 09, R294). -/
def State.grantContrib (s : State) (f : Frame) (code : Nat) : State :=
  if f.src = s.moduleId then s.acceptContrib (leField f.body 8 4) f.shard code else s.grantFrame f code

/-- Is a frame's segment 0 still waiting for lines? -/
def waitsBehind (w : List (Nat × Nat × Frame)) (f : Frame) : Bool :=
  f.segment != 0 && w.any fun e => e.2.2.src == f.src && e.2.2.channel == f.channel && e.2.2.shard == f.shard &&
    e.2.2.step == f.step && e.2.2.attempt == f.attempt && e.2.2.segment == 0

/-- Can a contribution be taken in with the lines that are free? -/
def State.hasLines (s : State) (f : Frame) : Bool :=
  let b := s.rget Chan.BINDING f.channel
  !(s.judge f).needsLines ||
    decide (s.linesUsed (s.shardDie b f.shard) + segmentLines (segmentLen (s.shardElems b f.shard) f.segment) ≤ accLines)

/-- Does this module own a shard of a channel's binding, with the binding ON (08, R257)? -/
def State.servesShard (s : State) (f : Frame) : Bool :=
  s.isOn .binding (s.rget Chan.BINDING f.channel) && s.ownsShard (s.rget Chan.BINDING f.channel) f.shard

/-- A contribution that waited is taken in: its time is counted, and it is granted back. -/
def State.takeWaiting (s : State) (e : Nat × Nat × Frame) : State :=
  let s := { s with collect := { s.collect with waitLine := s.collect.waitLine.erase e } }
  let s := s.rwrap DieCnt.COL_LINE_WAIT_NS e.1 (s.now - e.2.1)
  if s.servesShard e.2.2 then (s.grantContrib e.2.2 0).addContrib e.2.2 else s.grantContrib e.2.2 0x2C

/-- Contributions that wait go on, in order, once their segments have lines: none that has them is held back (08, R267). -/
def State.takeLined (s : State) : State :=
  s.collect.waitLine.foldl (fun s e =>
    let ahead := s.collect.waitLine.takeWhile fun x => x != e
    if (s.judge e.2.2).needsLines || waitsBehind ahead e.2.2 then s else s.takeWaiting e) s

/-- CONTRIBUTION: refused, taken in, or left waiting for lines without its grant (08, R267). -/
def execContribution (f : Frame) (s : State) : Host.Outcome State Fault Refusal :=
  .next (match s.popFrame opContribution f with
    | none => s
    | some s =>
      if !s.knownSender f then (s.grantFrame f).logError (mismatchRec s f)
      else if !s.servesShard f then s.grantContrib f 0x2C
      else if waitsBehind s.collect.waitLine f || !s.hasLines f then
        { s with collect := { s.collect with
            waitLine := s.collect.waitLine ++ [(s.shardDie (s.rget Chan.BINDING f.channel) f.shard, s.now, f)] } }
      else ((s.grantContrib f 0).addContrib f).takeLined)

/-- The first contribution that waits on a die and can be taken in now. -/
def State.nextWaiting (s : State) (die : Nat) : List (Nat × Nat × Frame) → List (Nat × Nat × Frame) → Option (Nat × Nat × Frame)
  | _, [] => none
  | before, e :: es =>
    if e.1 = die ∧ waitsBehind before e.2.2 = false ∧ (s.hasLines e.2.2 = true ∨ s.servesShard e.2.2 = false) then some e
    else State.nextWaiting s die (before ++ [e]) es

/-- CONTRIBUTION_LINE_GRANT: a waiting contribution receives lines, is granted back and added. -/
def execContributionLineGrant (die : Nat) (s : State) : Host.Outcome State Fault Refusal :=
  .next (match s.nextWaiting die [] s.collect.waitLine with
    | none => s
    | some e => (s.takeWaiting e).takeLined)

/-- REDUCTION_DEADLINE: the open reductions of a shard whose deadline has passed close where QUORUM is reached. -/
def execReductionDeadline (chan shard : Nat) (s : State) : Host.Outcome State Fault Refusal :=
  .next ((s.collect.reds.filter fun r => r.chan == chan && r.shard == shard).foldl (fun s r => s.progress r) s)

/-- QUORUM_LOST (08, R269). -/
def quorumLostRec (s : State) (r : Reduction) : ErrRec :=
  { type := 0x0051, severity := 3, reason := 0x2D, context := s.chanCtx r.chan, die := 4, opid := r.opid, step := r.step
    address := r.shard }

/-- A reduction is lost: no result, a record, a set non-finite flag, and its lines and carries freed. -/
def State.loseReduction (s : State) (r : Reduction) : State :=
  let ctx := s.bindCtx r.bind
  let s := (s.logError (quorumLostRec s r)).bump ctx cntLost 1
  let s := s.endReduction r 2
  let s := s.dropCarries (fun y => y.chan == r.chan && y.shard == r.shard && y.step + 1 == r.step &&
    decide (y.member ∈ r.carried)) true
  let s := if r.toSump then s else { s with collect := { s.collect with
    results := s.collect.results ++ [RedResult.mk r.chan r.bind r.shard r.step r.attempt false r.opid [] true] } }
  s.raiseFlags ctx r.attempt true false

/-- REDUCTION_ABANDON: reductions of a shard that have been open for ABANDON are lost. -/
def execReductionAbandon (chan shard : Nat) (s : State) : Host.Outcome State Fault Refusal :=
  .next ((s.collect.reds.filter fun r => r.chan == chan && r.shard == shard &&
    decide (r.t0 + 1000000 * s.rget Chan.ABANDON chan ≤ s.now)).foldl (fun s r => s.loseReduction r) s)

/-! ## Results -/

/-- Bytes of a region's sump (07, R226). -/
def sumpBytes : Nat := 0x200000

/-- Sump bytes in use: each gradient takes 4 bytes for each place of its shard. -/
def State.sumpUsed (s : State) (region : Nat) : Nat :=
  (s.update.sump.filter fun g => s.shardRegion g.bind g.shard == region).foldl (fun n g => n + 4 * s.places g.bind) 0

/-- The results that a command takes. -/
def State.ownResults (s : State) (c : EngCmd) (e : Contrib) : List RedResult :=
  e.own.filterMap fun j => s.collect.results.find? fun r =>
    r.chan == e.chan && r.shard == j && r.step == c.step.toNat && r.attempt == e.attempt && !r.toSump

/-- The value that a result gives an element of the destination. -/
def resultAt (rs : List (Box × RedResult)) (r c : Nat) : Option (Val × Bool) :=
  match rs.find? fun e => e.1.has r c with
  | some e => some (e.2.values.getD ((r - e.1.r0) * e.1.cols + (c - e.1.c0)) (.zero false, false))
  | none => none

/-- Keep of a converted destination the elements that results cover. -/
def Converted.only (k : Converted) (cover : Nat → Nat → Bool) : Converted :=
  { k with elems := ((List.range k.elems.length).zip k.elems).map fun e =>
      ((List.range e.2.length).zip e.2).filterMap fun x => if cover e.1 x.1 then some x.2 else none }

/-- Write the results of a plain destination, each at its shard's place. -/
def placeResults (s : State) (o : Operand) (k : Converted) (rs : List (Box × RedResult)) : State :=
  rs.foldl (fun s e =>
    let rows := List.range e.1.rows
    let cols := List.range e.1.cols
    let cell := fun r c => resultAt rs (e.1.r0 + r) (e.1.c0 + c)
    let a : Arriving :=
      { box := e.1, form := { o with scl := 0 }, blocks := [], blockBad := [], tscale := toF32 (Val.ofRat k.scale)
        tscaleBad := e.2.values.any Prod.snd
        codes := rows.map fun r => cols.map fun c => (at2 k.elems (e.1.r0 + r) (e.1.c0 + c)).code
        dirty := rows.map fun r => cols.map fun c => ((cell r c).map Prod.snd).getD false
        poison := e.2.values.any Prod.snd }
    let s := landPlain s { o with scl := if o.scl = 3 then 1 else if o.scl = 2 then 0 else o.scl } a
    if o.scl < 2 then s
    else
      let blocks := rows.foldl (fun m r => cols.foldl (fun m c =>
        let b := o.blockOf (e.1.r0 + r) (e.1.c0 + c)
        put b (k.blocks.getD b 0) m) m) ([] : Map Nat Nat)
      blocks.foldl (fun s b => s.storeNat (o.scaleAt 0 + o.tscaleBytes + b.1) 1 b.2 a.poison) s) s
where
  /-- An element of a converted matrix. -/
  at2 (m : List (List Elem)) (r c : Nat) : Elem := (m.getD r []).getD c ⟨0, false, false, false, false, false, 0, 0⟩

/-- Write the results of a coded destination: elements that no result covers are free values (log 40). With CODE_EN the
channel's slot codes them (05, R185; 09, R305). -/
def placeCoded (s : State) (p : Producer) (o : Operand) (ch : Nat) (k : Converted) (rs : List (Box × RedResult)) : State :=
  let slot := if s.rbit Chan.CODE_EN ch then s.rget Chan.CODE_SLOT ch else o.slot
  let (codes, s) := ((List.range k.elems.length).zip k.elems).foldl (fun (acc : List (List Nat) × State) e =>
    let (row, s) := ((List.range e.2.length).zip e.2).foldl (fun (a : List Nat × State) x =>
      if (resultAt rs e.1 x.1).isSome then (a.1 ++ [x.2.code], a.2)
      else let (v, s) := a.2.draw; (a.1 ++ [v.toNat % 2 ^ fmtBits o.fmt], s)) ([], acc.2)
    (acc.1 ++ [row], s)) ([], s)
  storeTensor s p { o with slot := slot } codes (scaleArea o k.scale k.blocks)

/-- Write a reduction command's own results into d[DC]. -/
def writeResults (c : EngCmd) (ch : Nat) (results : List RedResult) (s : State) : OutStat × State :=
  let o := resolved c.dc c.rung
  let rs := results.map fun r => (relBox o (s.shardBox r.bind r.shard), r)
  let poison := results.any fun r => r.values.any Prod.snd
  let die := dieOfTile c.thread.tile.toNat
  let p := { c.producer poison with stream := 3, unit := 2, unitIx := die }
  let m := (List.range o.ext0).map fun i => (List.range o.ext1).map fun j =>
    ((resultAt rs i j).map Prod.fst).getD (.zero false)
  let k := convertTensor s p o m
  let k' := k.only fun i j => (resultAt rs i j).isSome
  let s := if o.coded then placeCoded s p o ch k rs else placeResults s o k rs
  (k'.stat poison, s.observeOut p o k')

def runReduce (c : EngCmd) (s : State) : Done :=
  match look c.id s.collect.contribs with
  | none => .plain s
  | some e =>
    let rs := s.ownResults c e
    let s := { s with collect := { s.collect with
      contribs := del c.id s.collect.contribs, results := s.collect.results.filter fun r => decide (r ∉ rs) } }
    let live := rs.filter fun r => !r.lost
    let (st, s) := if live.isEmpty then (OutStat.clean, s) else writeResults c e.chan live s
    let reason := ((c.shards.findSome? fun j => look j e.codes) <|> (if rs.any RedResult.lost then some 0x2D else none)).getD 0
    ⟨st, 0, reason, 0, s, false⟩

end Sys2Proof.Machine
end

