-- ==== Sys2Proof/Machine/Transfers.lean ====
section
/-!
DEFINITION. Transfers between members: CSHIFT around the channel, CSEND and CRECV (08, R277 to R279; 09, R294, R314;
12, R408).
-/
namespace Sys2Proof.Machine

/-- Word 1 [12:0]: the distance of CSHIFT, the member of CSEND and CRECV. -/
def EngCmd.member (c : EngCmd) : Nat := bits c.w1.toNat 0 13

/-- Members of the channel that a command names, when it is ON. -/
def State.liveMembers (s : State) (c : EngCmd) : Option Nat :=
  match s.cmdChannel c with
  | .ok ch => some (s.members ch).length
  | .error _ => none

/-- A check on the number of members, made only on a channel that is ON. -/
def memberCheck (s : State) (c : EngCmd) (ok : Nat → Bool) : Option IssueFault :=
  match s.liveMembers c with
  | some n => descFault [(ok n, 0x1D)]
  | none => none

def cshiftCheck (s : State) (c : EngCmd) : Option IssueFault :=
  firstFault [
    moverFault s c false collectStores (resolved c.da c.rung),
    moverFault s c true collectStores (resolved c.dc c.rung),
    memberCheck s c fun n => decide (1 ≤ c.member ∧ c.member + 1 ≤ n)]

def csendCheck (s : State) (c : EngCmd) : Option IssueFault :=
  firstFault [
    moverFault s c false collectStores (resolved c.da c.rung),
    memberCheck s c fun n => decide (c.member < n)]

def crecvCheck (s : State) (c : EngCmd) : Option IssueFault :=
  firstFault [
    moverFault s c true collectStores (resolved c.dc c.rung),
    memberCheck s c fun n => decide (c.member < n)]

def execCshift (t : ThreadRef) (e : FormE) (s : State) : Host.Outcome State Fault Refusal :=
  engine t e .cshift (bitsFrom 18) true 0 cshiftCheck s

def execCsend (t : ThreadRef) (e : FormE) (s : State) : Host.Outcome State Fault Refusal :=
  engine t e .csend (bitsFrom 13) true 0 csendCheck s

def execCrecv (t : ThreadRef) (e : FormE) (s : State) : Host.Outcome State Fault Refusal :=
  engine t e .crecv (bitsFrom 13) true 0 crecvCheck s

/-- Are two transfers of one sender and one receiver on one channel (08, R279): the same operation, channel and member
or distance? -/
def EngCmd.matched (c d : EngCmd) : Bool :=
  decide (d.op = c.op) && bits d.gs.toNat 0 32 == bits c.gs.toNat 0 32 && d.member == c.member && !d.mirror

/-- Transfers of one sender and one receiver on one channel match in the order of issue (08, R279): one starts after those
issued before it, whatever their threads. Every other command may start. -/
def State.transferTurn (s : State) (c : EngCmd) : Bool :=
  if (decide (c.op = .cshift) || decide (c.op = .csend) || decide (c.op = .crecv)) && !c.mirror then
    match s.tsq.cmds.find? fun d => c.matched d && !d.started with
    | some d => d.id == c.id
    | none => true
  else true

/-! ## The sender -/

/-- Bytes of a transfer's body before its buffer (log 30). -/
def transferHead : Nat := 32

/-- Bytes of a tensor's elements as a transfer carries them: its squares, or its directory and blocks. -/
def transferBytes (s : State) (o : Operand) : Nat :=
  if o.coded then 8 * dirEntry s o o.squares else o.squares * o.squareBytes

/-- The body of a transfer: the shape of its buffer, its element bytes, its scale area (log 30). -/
def transferShape (s : State) (o : Operand) : List Byte :=
  toBytes 4 (b2n o.coded) ++ toBytes 4 o.gridRows ++ toBytes 4 o.gridCols ++ toBytes 4 o.squareBytes ++
  toBytes 4 o.scaleBytes ++ toBytes 8 (transferBytes s o) ++ [0, 0, 0, 0]

/-- Send a tensor verbatim to a member, the poison of its lines with it (13, R430). -/
def State.sendTensor (s : State) (c : EngCmd) (ch op member : Nat) : State :=
  let o := resolved c.da c.rung
  let ps := (readRanges s o).flatMap fun r =>
    (linePieces r.1 r.2).map fun p => (s.peek (r.1 + p.1) p.2, s.poisoned (r.1 + p.1) p.2)
  let body := transferShape s o ++ ps.flatMap Prod.fst
  let s' := (readRanges s o).foldl (fun t r => t.touch r.1 r.2) s
  (s'.addSending (some c.id)).sendFrame { chanFrame s c ch op ((s.members ch).getD member 0) with
    coded := o.coded, body := body, poison := pieceMarks transferHead ps } (some c.id)

def State.addLanding (s : State) (l : Landing) : State :=
  { s with collect := { s.collect with landings := s.collect.landings ++ [l] } }

/-- Start a CSHIFT: its buffer leaves for member (SELF + δ), and its destination waits for member (SELF - δ). -/
def startCshift (c : EngCmd) (s : State) : State :=
  match s.cmdChannel c with
  | .error r => s.endRefused c r
  | .ok ch =>
    let n := (s.members ch).length
    let self := s.rget Chan.SELF ch
    let s := s.addLanding ⟨c.id, ch, (self + n - c.member) % n, true⟩
    let s := match c.signal2 with
      | some k => { s with collect := { s.collect with reuse := put c.id (c.thread, c.ctx, k) s.collect.reuse } }
      | none => s
    s.sendTensor c ch opShift ((self + c.member) % n)

/-- Start a CSEND. -/
def startCsend (c : EngCmd) (s : State) : State :=
  match s.cmdChannel c with
  | .error r => s.endRefused c r
  | .ok ch => s.sendTensor c ch opSend c.member

/-- Start a CRECV. -/
def startCrecv (c : EngCmd) (s : State) : State :=
  match s.cmdChannel c with
  | .error r => s.endRefused c r
  | .ok ch => s.addLanding ⟨c.id, ch, c.member, false⟩

/-! ## The receiver -/

/-- Has a buffer that arrived the size and layout of a destination? -/
def transferFits (f : Frame) (o : Operand) : Bool :=
  leField f.body 0 4 == b2n o.coded && leField f.body 4 4 == o.gridRows && leField f.body 8 4 == o.gridCols &&
  leField f.body 12 4 == o.squareBytes && leField f.body 16 4 == o.scaleBytes

/-- Does a buffer that arrived fit the destination of the command that waits for it? -/
def State.fits (s : State) (cmd : Nat) (f : Frame) : Bool :=
  match s.tsq.cmds.find? fun c => c.id == cmd with
  | some c => transferFits f (resolved c.dc c.rung)
  | none => false

/-- Write a buffer that arrived. A buffer of another size or layout than the destination is left unwritten. -/
def landTransfer (s : State) (o : Operand) (f : Frame) : State :=
  if transferFits f o then
    let n := leField f.body 20 8
    let part := fun (s : State) (a off len : Nat) =>
      s.storeMarked a (slice f.body off len) fun lo k => bodyPoison f (off + lo) k
    let s := if o.coded then part s o.base transferHead n
      else (List.range o.gridRows).foldl (fun s i =>
        part s (o.square i 0) (transferHead + i * (o.squareBytes * o.gridCols)) (o.squareBytes * o.gridCols)) s
    if o.scaleBytes = 0 then s else part s (o.scaleAt n) (transferHead + n) o.scaleBytes
  else s

/-- Take a transfer in: the oldest command that waits for one of its kind from its member receives it. They wait in the
order of issue (R279). While none waits, the frame stays and its window is not granted back (08, R279; 09, R294). -/
def State.takeTransfer (s : State) (op : Nat) (shift : Bool) (f : Frame) : State :=
  match s.collect.landings.find? fun l => l.chan == f.channel && l.member == f.member && l.shift == shift with
  | none => if s.knownSender f then s else s.takeRequest op f fun s => s
  | some l =>
    s.takeRequest op f fun s =>
      let s := { s with collect := { s.collect with
        landings := s.collect.landings.erase l
        landed := put l.cmd (bodyPoison f 0 f.body.length, s.fits l.cmd f) s.collect.landed } }
      match s.tsq.cmds.find? fun c => c.id == l.cmd with
      | none => s
      | some c => landTransfer s (resolved c.dc c.rung) f

/-- SHIFT. -/
def execShift (f : Frame) (s : State) : Host.Outcome State Fault Refusal := .next (s.takeTransfer opShift true f)

/-- SEND. -/
def execSend (f : Frame) (s : State) : Host.Outcome State Fault Refusal := .next (s.takeTransfer opSend false f)

/-! ## Completion -/

/-- CSHIFT and CRECV complete when the destination has landed; CSEND when its source may be reused (12, R408). -/
def transferReady (s : State) (c : EngCmd) : Bool :=
  if c.op = .csend then decide (look c.id s.collect.sending = some 0) else (look c.id s.collect.landed).isSome

/-- The destination's elements are observed and reported as they stand there, with the collective coder's slots (03, R107,
R113; log 83). -/
def runTransfer (c : EngCmd) (s : State) : Done :=
  let (poison, written) := lookD c.id (false, false) s.collect.landed
  let t : State := { s with collect := { s.collect with
      landed := del c.id s.collect.landed
      sending := if c.op = .csend then del c.id s.collect.sending else s.collect.sending } }
  let (st, t) := if written then
      copyDone t c (s.slotTable 2 (dieOfTile c.thread.tile.toNat)) (resolved c.dc c.rung) poison
    else (movedStat poison, t)
  ⟨st, 0, 0, 0, t, false⟩

end Sys2Proof.Machine
end

