-- ==== Sys2Proof/Machine/Containment.lean ====
section
/-!
DEFINITION. Containment: aborting commands, discarding the updates of a rule binding (07, R243), partition resets and
region resets (13, R435 to R437), held bypasses (04, R153) and the retirement of a die (01, R43).
-/
namespace Sys2Proof.Machine

/-! ## Aborting commands (13, R435 order 2) -/

/-- Commands leave their queues without completing, with everything that units hold for them. -/
def State.abortCmds (s : State) (which : EngCmd → Bool) : State :=
  let ids := (s.tsq.cmds.filter which).map EngCmd.id
  let gone : Nat → Bool := fun i => decide (i ∈ ids)
  { s with
    tsq := { s.tsq with
      cmds := s.tsq.cmds.filter fun c => !which c
      early := s.tsq.early.filter fun e => !gone e.1 }
    collect := { s.collect with
      gathers := s.collect.gathers.filter fun e => !gone e.1
      contribs := s.collect.contribs.filter fun e => !gone e.1
      sending := s.collect.sending.filter fun e => !gone e.1
      reuse := s.collect.reuse.filter fun e => !gone e.1
      landings := s.collect.landings.filter fun l => !gone l.cmd
      landed := s.collect.landed.filter fun e => !gone e.1 }
    update := { s.update with
      applies := s.update.applies.filter fun a => !gone a.cmd
      casts := s.update.casts.filter fun k => !(match k.cmd with
        | some i => gone i
        | none => false) } }

/-! ## A rule binding that leaves ON (07, R243) -/

/-- Discard the gradients, the staged state, the updates and the root jobs of a rule binding. What a UAPPLY still asked
of its shards changes nothing, as at a failed gate. -/
def State.dropUpdates (s : State) (b : Nat) : State :=
  { s with
    update := { s.update with
      applies := s.update.applies.map fun a =>
        if a.bind = b then { a with shards := a.shards.map fun u => { u with done := some (u.done.getD 0x48) } } else a
      sump := s.update.sump.filter fun g => g.bind != b
      staged := s.update.staged.filter fun e => e.1 != b
      wanted := s.update.wanted.filter fun e => e.1 != b
      ready := s.update.ready.filter fun r => r.bind != b
      roots := s.update.roots.filter fun e => e.1.1 != b
      installed := s.update.installed.filter fun e => e.1.1 != b
      corrections := s.update.corrections.filter fun e => e.bind != b }
    collect := { s.collect with results := s.collect.results.filter fun r => !(r.bind == b && r.toSump) } }

/-! ## Partitions and their regions -/

/-- The mirror of a region (13, R424). -/
def mirrorRegion (g : Nat) : Nat := mirrorDie (g / 8) * 8 + g % 8

/-- The regions that a partition holds, its mirrors among them. -/
def State.partRegions (s : State) (p : Nat) : List Nat :=
  (List.range 32).filter fun g => bit (s.rget Part.REGIONS p) g || (s.rbit Part.PAIR p && bit (s.rget Part.REGIONS p) (mirrorRegion g))

/-- Contexts of a partition that are not OFF. -/
def State.partContexts (s : State) (p : Nat) : List Nat :=
  ((s.hub.allocated.filter fun e => decide (e.1 = .context)).map Prod.snd).filter fun c =>
    s.partOf c == p && s.fstate .context c != 0

/-- Is a partition's reset in progress? -/
def State.resetting (s : State) (p : Nat) : Bool := (look p s.ras.resets).isSome

/-- PARTITION_RESET (13, R435, R437). -/
def resetRec (p : Nat) : ErrRec := { type := 0x00A6, severity := 4, reason := 0x3C, partition := p }

/-- Orders 1 to 4 of a partition reset: the stamp and the record; threads, queued and started commands end; updates,
audits and root jobs that have not begun to commit are discarded; channels, round engine bindings and rule bindings of
the contexts stop. A trigger during a reset is recorded and counted. -/
def State.resetPartition (s : State) (p : Nat) : State :=
  let s := (s.logError (resetRec p)).rinc Part.RESETS p
  if s.resetting p then s
  else
    let s := (s.rput Part.LAST_RESET p s.now).rput Part.STATE p 3
    let s := s.rput Part.END_REASON p 0x1C
    let s := { s with
      ras := { s.ras with resets := put p false s.ras.resets }
      hub := { s.hub with ending := s.hub.ending ++ [Ending.mk .partition p] }
      tsq := { s.tsq with gates := del p s.tsq.gates } }
    let cs := s.partContexts p
    let s := cs.foldl (fun s c => s.endContext c 0x1C) s
    let mine : Nat → Bool := fun c => decide (c ∈ cs)
    let s := s.abortCmds fun c => mine c.ctxIx
    let s := { s with
      tsq := { s.tsq with threads := s.tsq.threads.filter fun e => !mine (bits e.2.ctx.toNat 0 16) }
      ras := { s.ras with audits := s.ras.audits.filter fun a => !mine (bits a.ctx 0 16) } }
    cs.foldl (fun s c => (s.boundTo .binding c).foldl (fun s b => s.dropUpdates b) s) s

/-! ## Live tiles and their roles (06, R211, R212) -/

/-- A die that has not been retired. -/
def State.dieUp (s : State) (d : Nat) : Bool := !bit (s.rget HubD2d.DIE_RETIRED) d

/-- A live tile: neither retired nor fused off, and with its supply (06, R212; 17, R542). -/
def State.tileLive (s : State) (t : Nat) : Bool :=
  !s.rbit Census.RETIRED t && !s.rbit Census.FUSED_OFF t && s.clusterUp (t / 4) && s.dieUp (t / 256)

/-- Live tiles of a region. -/
def State.liveTiles (s : State) (g : Nat) : List Nat := ((List.range 32).map fun i => 32 * g + i).filter fun t => s.tileLive t

/-- The role of a tile (06, R211): 0 none, 1 forward, 2 backward, 3 audit. -/
def State.role (s : State) (t : Nat) : Nat := bits (s.rget TsqSplit.ROLE (t / 32)) (2 * (t % 32)) 2

/-! ## Region reset (13, R436) -/

/-- The stores of one region read as zero with poison clear. -/
def State.wipeRegion (s : State) (g : Nat) : State :=
  let s := (List.range 32).foldl (fun s t => s.wipe (basinOf (32 * g + t)) (basinOf (32 * g + t) + basinBytes)) s
  let s := s.wipe (poolOf g) (poolOf g + poolBytes)
  s.wipe (sideOf (8 * g)) (sideOf (8 * g) + 8 * 0x80000)

/-- Coding slots that lie in a region: those of its tiles and of its update unit. -/
def SlotKey.inRegion (k : SlotKey) (g : Nat) : Bool := (k.unit == 0 && k.i / 32 == g) || (k.unit == 3 && k.i == g)

/-- What the units of a region hold is emptied: sump, state SRAM, accumulator lines, coding slots and thread slots; the
counters of L1 commands start again. -/
def State.clearUnits (s : State) (g : Nat) : State :=
  let here : Nat → Nat → Bool := fun b j => s.shardRegion b j == g
  let tileHere : Nat → Bool := fun t => t / 32 == g
  { s with
    slots := s.slots.filter fun e => !e.1.inRegion g
    tsq := { s.tsq with
      threads := s.tsq.threads.filter fun e => !tileHere e.1.tile.toNat
      arrivals := s.tsq.arrivals.filter fun a => !tileHere a.tile
      fetching := s.tsq.fetching.filter fun a => !tileHere a.tile
      l1Next := s.tsq.l1Next.filter fun e => !tileHere e.1
      pairNext := s.tsq.pairNext.filter fun e => !tileHere e.1.tile.toNat }
    update := { s.update with
      sump := s.update.sump.filter fun x => !here x.bind x.shard
      staged := s.update.staged.filter fun x => !here x.1 x.2.1
      auditDue := s.update.auditDue.filter fun h => h != g }
    collect := { s.collect with
      reds := s.collect.reds.filter fun r => !here r.bind r.shard
      results := s.collect.results.filter fun r => !here r.bind r.shard
      waitLine := s.collect.waitLine.filter fun e => !here (s.rget Chan.BINDING e.2.2.channel) e.2.2.shard } }

/-- A region stops, gated or quiesced (17, R540, R551). -/
def State.stopRegion (s : State) (g : Nat) : State :=
  if s.rbit PwrRegion.STOPPED g then s
  else ((s.rput PwrRegion.STOPPED g 1).rput PwrRegion.STOP_TIME g s.now).stopSamples (32 * g) 32

/-- A region resumes, and owes its next trace record a gap marker (17, R551). -/
def State.resumeRegion (s : State) (g : Nat) : State :=
  if s.rbit PwrRegion.STOPPED g then
    let s := (s.rput PwrRegion.STOPPED g 0).rput PwrRegion.RESUME_TIME g s.now
    let b := s.traceBuf (g / 8)
    s.setTraceBuf (g / 8) { b with gapStops := b.gapStops ++ [g] }
  else s

/-- Reset one region, with its count of audit mismatches (07, R245); one that was quiesced resumes. -/
def State.resetRegion (s : State) (g : Nat) : State :=
  let s := ((s.wipeRegion g).clearUnits g).rput UpuAudit.MISMATCHES g 0
  if s.rbit PwrRegion.STOP g then s else s.resumeRegion g

/-! ## Bypasses and retirements (04, R151 to R153; 13, R441, R443) -/

/-- COLUMN_BYPASSED and TILE_RETIRED (13, R441). -/
def columnRec (t p : Nat) : ErrRec := ({ type := 0x00A7, severity := 0, reason := 0x3D, column := p } : ErrRec).atTile t
def tileRetiredRec (t : Nat) : ErrRec := ({ type := 0x00A8, severity := 0, reason := 0x3E } : ErrRec).atTile t

/-- Set columns in a number's bits. -/
def popcount (w n : Nat) : Nat := ((List.range w).filter fun i => bit n i).length

/-- The column record takes a tile's bypass mask, retirement and grown columns (13, R443). -/
def State.recordColumns (s : State) (t mask : Nat) (retired : Bool) (grown : Nat) : State :=
  s.writeItem (.column (put t (mask, retired, grown) s.cistern.columns))

/-- A bypass takes effect: the column record first, then the mask, the presented width, GROWN, and the retirement of a tile that presents fewer than
56 columns. -/
def State.applyBypass (s : State) (t mask : Nat) : State :=
  let old := s.rget Census.BYPASS t
  let fresh := (List.range 64).filter fun p => bit mask p && !bit old p
  let new := old ||| mask
  let w := 64 - popcount 64 new
  let s := s.recordColumns t new (decide (w < 56) || s.rbit Census.RETIRED t) (min 255 (s.rget Census.GROWN t + fresh.length))
  let s := ((s.rput Census.BYPASS t new).rinc Census.GROWN t fresh.length).rput Census.PENDING t 0
  let s := fresh.foldl (fun s p => s.logError (columnRec t p)) s
  (if w < 56 then ((s.rput Census.W t 0).rput Census.RETIRED t 1).logError (tileRetiredRec t)
   else s.rput Census.W t w).censusMoved

/-- The bypasses that waited for a partition's regions take effect (04, R153). -/
def State.applyHeld (s : State) (gs : List Nat) : State :=
  let due := s.ras.bypasses.filter fun e => decide (e.1 / 32 ∈ gs)
  let s := { s with ras := { s.ras with bypasses := s.ras.bypasses.filter fun e => !decide (e.1 / 32 ∈ gs) } }
  due.foldl (fun s e => s.applyBypass e.1 e.2) s

/-! ## The retirement of a die (01, R43) -/

/-- A field of HUB_D2D_STATUS has changed (01, R44). -/
def State.d2dChanged (s : State) : State :=
  if s.rbit HubD2d.CHANGED then s else (s.rput HubD2d.CHANGED 0 1).setEvt Evt.D2D

/-- DIE_RETIRED. -/
def dieRetiredRec (d : Nat) : ErrRec := ({ type := 0x0072, severity := 5, reason := 0x1F } : ErrRec).atDie d

/-- Retire a die: its regions are out of use, and every context whose partition has a region on it ends; a partition
that is being reset then ends with 0x1F. -/
def State.retireDie (s : State) (d : Nat) : State :=
  let s := ((s.rput HubD2d.DIE_RETIRED 0 (s.rget HubD2d.DIE_RETIRED ||| 2 ^ d)).d2dChanged).logError (dieRetiredRec d)
  let touches : Nat → Bool := fun p => (s.partRegions p).any fun g => g / 8 == d
  let s : State := { s with ras := { s.ras with resets := s.ras.resets.map fun e => if touches e.1 then (e.1, true) else e } }
  ((s.hub.allocated.filter fun e => decide (e.1 = .context)).map Prod.snd).foldl (fun s c =>
    if touches (s.partOf c) then s.endContext c 0x1F else s) s

end Sys2Proof.Machine
end

