-- ==== Sys2Proof/Machine/Pairs.lean ====
section
/-!
DEFINITION. The digests of pair mode: how half A meets the digest that half B sends it, of a command or of an update commit
(13, R427).
-/
namespace Sys2Proof.Machine

/-- By what a digest is named: a half-A tile, or after the 1,024 tiles the update unit of a half-A region (log 30). -/
def unitName (g : Nat) : Nat := 1024 + g

/-- The location fields of what a digest is named by. -/
def ErrRec.atPair (r : ErrRec) (tile : Nat) : ErrRec := if tile < 1024 then r.atTile tile else r.atRegion (tile - 1024)

/-- PAIR_MISMATCH and PAIR_TIMEOUT; the second tile is the mirror, and `detail` the two CRC-64 values folded (R438). -/
def pairRec (s : State) (type reason detail : Nat) (p : PairDigest) : ErrRec :=
  (({ type := type, severity := 2, reason := reason, address := if p.tile < 1024 then mirrorTile p.tile else 0, detail := detail
      : ErrRec }).ofCtx s p.ctx p.opid p.step).atPair p.tile

/-- The body of DIGEST: the digest, half A's tile or unit, and the number (log 30). -/
def digestBody (digest tile number : Nat) : List Byte := toBytes 8 digest ++ toBytes 2 tile ++ [0, 0] ++ toBytes 8 number

/-- Both tiles of a pair receive a strike; an update unit has none. -/
def State.strikePair (s : State) (t : Nat) : State :=
  if t < 1024 then (s.strikeTile t).strikeTile (mirrorTile t) else s

/-- Half B's digest meets half A's. -/
def State.comparePair (s : State) (p : PairDigest) (digest : Nat) : State :=
  if p.digest = digest then s
  else (s.detect (s.partOf (bits p.ctx 0 16)) (pairRec s 0x00A3 0x3A (p.digest ^^^ digest) p)).strikePair p.tile

/-- Half A forms its digest; half B's may have come already. -/
def State.pairFormed (s : State) (p : PairDigest) : State :=
  match s.ras.early.find? fun e => e.1 == p.tile && e.2.1 == p.number with
  | some e => ({ s with ras := { s.ras with early := s.ras.early.erase e } } : State).comparePair p e.2.2
  | none => { s with ras := { s.ras with digests := s.ras.digests ++ [p] } }

/-- Half B sends a digest to half A as a DIGEST frame through its own policer. -/
def State.sendDigest (s : State) (src : Nat) (p : PairDigest) (ctx : Option Half) : State :=
  s.policeFrame src { blankFrame with
    op := opDigest, dest := s.moduleId, opid := p.opid, step := p.step, body := digestBody p.digest p.tile p.number } ctx
    (BitVec.ofNat 32 p.opid)

/-- The number of a commit: its binding, shard and generation (log 30). -/
def commitNumber (b j gen : Nat) : Nat := (b * 2 ^ 32 + j) * 2 ^ 16 + gen

/-- An update commit of a pair-mode context: the update units of both halves form the CRC-64 of the committed state, and
half B's sends its own to half A's. -/
def State.pairCommit (s : State) (b j gen opid step : Nat) (state : List Byte) : State :=
  let c := s.bindCtx b
  if s.paired c then
    let g := s.shardRegion b j
    let h := s.handle .context c
    let p : PairDigest := ⟨unitName g, commitNumber b j gen, crc64 state, s.now, h, opid, step⟩
    (s.pairFormed p).sendDigest (1027 + mirrorRegion g) p (some (BitVec.ofNat 32 h))
  else s

/-- DIGEST: half A receives a digest and compares it. -/
def execDigest (f : Frame) (s : State) : Host.Outcome State Fault Refusal :=
  .next (match s.takeFrame opDigest f with
    | none => s
    | some s =>
      let tile := leField f.body 8 2
      let n := leField f.body 12 8
      let v := leField f.body 0 8
      match s.ras.digests.find? fun p => p.tile == tile && p.number == n with
      | some p => ({ s with ras := { s.ras with digests := s.ras.digests.erase p } } : State).comparePair p v
      | none => { s with ras := { s.ras with early := s.ras.early ++ [(tile, n, v)] } })

/-- PAIR_TIMEOUT: half B's digest has not arrived 100 us after half A's own. -/
def execPairTimeout (tile number : Nat) (s : State) : Host.Outcome State Fault Refusal :=
  .next (match s.ras.digests.find? fun p => p.tile == tile && p.number == number with
    | none => s
    | some p =>
      if p.at_ + 100000 ≤ s.now then
        let s : State := { s with ras := { s.ras with digests := s.ras.digests.erase p } }
        (s.detect (s.partOf (bits p.ctx 0 16)) (pairRec s 0x00A4 0x3B 0 p)).strikePair p.tile
      else s)

end Sys2Proof.Machine
end

