-- ==== Sys2Proof/Machine/Update.lean ====
section
/-!
DEFINITION. The update units: UAPPLY and UPREFETCH, staging, the rules ELEM, ORTHO and KRON, root jobs, commit, held and
poisoned shards, and the drift audit (07, R223 to R245; 12, R409).
-/
namespace Sys2Proof.Machine

/-! ## UAPPLY and UPREFETCH (12, R409; 07, R223, R224, R228) -/

/-- The binding that a command names. -/
def State.cmdBinding (s : State) (c : EngCmd) : Option Nat := s.resolve .binding (bits c.gs.toNat 0 32)

/-- Does this module own every shard that a command names? -/
def State.ownsAll (s : State) (b : Nat) (c : EngCmd) : Bool :=
  c.shardCount == 0 ||
    decide (s.rget Bind.SHARD_FIRST b ≤ c.firstShard ∧
      c.firstShard + c.shardCount ≤ s.rget Bind.SHARD_FIRST b + s.rget Bind.SHARD_COUNT b)

def uapplyCheck (s : State) (c : EngCmd) : Option IssueFault :=
  match s.cmdBinding c with
  | none => none
  | some b => descFault [(s.isOn .binding b && s.ownsAll b c, 0x47)]

def execUapply (t : ThreadRef) (e : FormE) (s : State) : Host.Outcome State Fault Refusal :=
  engine t e .uapply (bitsFrom 5) true 0 uapplyCheck s

def execUprefetch (t : ThreadRef) (e : FormE) (s : State) : Host.Outcome State Fault Refusal :=
  engine t e .uprefetch (bitsFrom 0) true 0 (fun _ _ => none) s

/-- A UAPPLY reaches the update units: it waits for its gate, or completes at once when that has been decided. -/
def startUapply (c : EngCmd) (s : State) : State :=
  match s.cmdBinding c with
  | none => s.endEarly c 0x10
  | some b =>
    if !s.isOn .binding b then s.endEarly c 0x47
    else if c.attempt.toNat < s.rget Ctx.ATTEMPT c.ctxIx then s.endEarly c 0x48
    else
      let a : UApply :=
        { cmd := c.id, bind := b, ctx := c.ctxIx, attempt := c.attempt.toNat, step := c.step.toNat
          lr := bits c.lr.toNat 0 32, opid := c.opid.toNat, shards := c.shards.map fun j => ⟨j, none⟩, passed := false, failed := false
          binds := [], rung := 0 }
      { s with update := { s.update with applies := s.update.applies ++ [a] } }

/-- A UPREFETCH leaves its shards with the units, which stage them as room frees, and completes. -/
def startUprefetch (c : EngCmd) (s : State) : State :=
  match s.cmdBinding c with
  | none => s.endEarly c 0x10
  | some b =>
    if !s.isOn .binding b then s.endEarly c 0x47
    else
      let new := (c.shards.filter fun j => s.ownsShard b j && !s.update.staged.any fun e => e.1 == b && e.2.1 == j).map
        fun j => (b, j)
      ({ s with update := { s.update with wanted := s.update.wanted ++ new } } : State).endEarly c 0

/-- A UAPPLY completes when its gate has been decided and every shard has an outcome. -/
def applyReady (s : State) (c : EngCmd) : Bool :=
  match s.update.applies.find? fun a => a.cmd == c.id with
  | none => false
  | some a => (a.passed || !a.shards.isEmpty) && a.shards.all fun u => u.done.isSome

/-- Its status is the first code met other than 0; a failed gate gives 0x48 to a UAPPLY of no shard too. -/
def runApply (c : EngCmd) (s : State) : Done :=
  match s.update.applies.find? fun a => a.cmd == c.id with
  | none => .plain s
  | some a =>
    let reason := (a.shards.findSome? fun u => match u.done with
      | some 0 => none
      | x => x).getD (if a.failed then 0x48 else 0)
    .plain { s with update := { s.update with applies := s.update.applies.filter fun x => x.cmd != c.id } } reason

/-! ## The gate (07, R217, R223, R224) -/

/-- Give the shards of the UAPPLYs of an attempt their outcome at a failed gate. -/
def UApply.fail (a : UApply) : UApply :=
  { a with passed := true, failed := true, shards := a.shards.map fun u => { u with done := some (u.done.getD 0x48) } }

/-- The UAPPLYs of a passing gate: the fields that the gate began with, the rung, and a shard named before is a
duplicate. -/
def passApplies (binds : Regs) (rung : Nat) (mine : UApply → Bool) : List (Nat × Nat) → List UApply → List UApply
  | _, [] => []
  | seen, a :: as =>
    if mine a then
      { a with
        passed := true, binds := binds, rung := rung
        shards := a.shards.map fun u =>
          if u.done = none ∧ (a.bind, u.shard) ∈ seen then { u with done := some 0x4E } else u } ::
        passApplies binds rung mine (seen ++ a.shards.map fun u => (a.bind, u.shard)) as
    else a :: passApplies binds rung mine seen as

/-- Is a gradient or a result for an update that is to come: one of a passed gate, or of a gate not decided? -/
def State.gradWanted (s : State) (b j step attempt : Nat) : Bool :=
  s.isOn .binding b &&
    (notPast (s.rget Ctx.ATTEMPT (s.bindCtx b)) attempt ||
     s.update.applies.any fun a => a.bind == b && a.passed && a.step == step && attempt32 a.attempt == attempt &&
       a.shards.any fun u => u.shard == j && u.done.isNone)

/-- The update phase of a decided gate for one context, whose counters have moved: UAPPLYs of the attempt are passed on
or failed, and gradients that no update wants any more are discarded. -/
def State.updateGate (s : State) (c attempt : Nat) (passed : Bool) (binds : Regs) : State :=
  let mine : UApply → Bool := fun a => a.ctx == c && a.attempt == attempt
  let applies := if passed then passApplies binds (s.rungOf c).rung mine [] s.update.applies
    else s.update.applies.map fun a => if mine a then a.fail else a
  let s : State := { s with update := { s.update with applies := applies } }
  { s with
    update := { s.update with
      sump := s.update.sump.filter fun g => s.gradWanted g.bind g.shard g.step g.attempt }
    collect := { s.collect with
      results := s.collect.results.filter fun r => !r.toSump || s.gradWanted r.bind r.shard r.step r.attempt } }

/-- A passing gate makes an audit due in each region of its partition, after those of the phases before (07, R245). -/
def State.dueAudits (s : State) (p : Nat) : State :=
  { s with update := { s.update with auditDue := s.update.auditDue ++ s.partRegions p } }

/-! ## The sump (07, R226; 05, R185) -/

/-- A result's codes and poison as they arrive in the sump. Where its channel codes reduced results, they come as the blocks
of the shard's squares, coded with the channel's slot of the die's collective coder, and the region's update unit reader
decodes them with its own (log 117). -/
def State.sumpCodes (s : State) (r : RedResult) : List (Nat × Bool) × List BlockError :=
  let vs := r.values.map fun v => (toF32 v.1, v.2)
  if !s.rbit Chan.CODE_EN r.chan then (vs, [])
  else
    let x := s.shardBox r.bind r.shard
    let o := s.copyOperand r.bind r.shard 0 fmtFP32 0 true
    let slot := s.rget Chan.CODE_SLOT r.chan
    let grid := fun {α : Type} (d : α) (f : Nat × Bool → α) =>
      (List.range x.rows).map fun i => (List.range x.cols).map fun k => ((vs[i * x.cols + k]?).map f).getD d
    let codes := grid 0 Prod.fst
    let dirty := grid false Prod.snd
    let blocks := (List.range (4 * o.squares)).map fun n =>
      let q := n / 4
      let p := (List.range 8).any fun i => (List.range 32).any fun k =>
        (((dirty.getD (q / o.gridCols * 32 + n % 4 * 8 + i) []).getD (q % o.gridCols * 32 + k)) false)
      let bs := encodeBlock slot (s.slotTable 2 (s.shardDie r.bind r.shard) slot) fmtFP32 p
        (((squareCodes codes o (q / o.gridCols) (q % o.gridCols)).drop (256 * (n % 4))).take 256)
      let d := decodeBlock (s.slotTable 3 (s.shardRegion r.bind r.shard)) bs
      (blockElements fmtFP32 (n, d, p), p, match d with
        | .ok _ => none
        | .error e => some e)
    let at_ := fun (i k : Nat) =>
      let b := blocks.getD (4 * (i / 32 * o.gridCols + k / 32) + i % 32 / 8) ([], false, none)
      (b.1.getD (i % 8 * 32 + k % 32) 0, b.2.1 || b.2.2.isSome)
    ((List.range x.rows).flatMap fun i => (List.range x.cols).map (at_ i), blocks.filterMap fun b => b.2.2)

/-- The record of a block that a region's update unit reader did not decode (05, R168, R174). -/
def readerRec (s : State) (r : RedResult) (e : BlockError) : ErrRec :=
  (({ type := if e = .malformed then 0x0020 else 0x0021, severity := 3, reason := e.reason, address := r.shard } : ErrRec).ofCtx
    s (s.handle .context (s.bindCtx r.bind)) r.opid r.step).atRegion (s.shardRegion r.bind r.shard)

/-- SUMP_WRITE: the oldest result for a region's sump enters it where it has room, rounded to FP32 (07, R226). -/
def execSumpWrite (region : Nat) (s : State) : Host.Outcome State Fault Refusal :=
  .next (match s.collect.results.find? fun r => r.toSump && s.shardRegion r.bind r.shard == region with
    | none => s
    | some r =>
      let out : State := { s with collect := { s.collect with results := s.collect.results.erase r } }
      if !s.gradWanted r.bind r.shard r.step r.attempt then out
      else if s.sumpUsed region + 4 * s.places r.bind ≤ sumpBytes then
        let (cs, errs) := s.sumpCodes r
        let out : State := { out with update := { s.update with sump := s.update.sump ++
            [Grad.mk r.bind r.shard r.step r.attempt r.opid (cs.map Prod.fst) (cs.any Prod.snd)] } }
        errs.foldl (fun t e => t.logError (readerRec s r e)) out
      else s)

/-! ## Which update is next (07, R229) -/

/-- The UAPPLY of a passed gate that a shard's next update belongs to: that of the earliest step. -/
def State.dueApply (s : State) (b j : Nat) : Option UApply :=
  (s.update.applies.filter fun a => a.bind == b && a.passed && a.shards.any fun u => u.shard == j && u.done.isNone).foldl
    (fun best a => match best with
      | none => some a
      | some x => if a.step < x.step then some a else some x) none

/-- The gradient of a shard for a UAPPLY. -/
def State.gradFor (s : State) (a : UApply) (j : Nat) : Option Grad :=
  s.update.sump.find? fun g => g.bind == a.bind && g.shard == j && g.step == a.step && g.attempt == attempt32 a.attempt

/-- A shard's outcome for a UAPPLY. -/
def State.shardDone (s : State) (cmd j code : Nat) : State :=
  { s with update := { s.update with applies := s.update.applies.map fun a =>
      if a.cmd = cmd then
        { a with shards := a.shards.map fun u => if u.shard = j ∧ u.done = none then { u with done := some code } else u }
      else a } }

/-- A gradient leaves the sump. -/
def State.dropGrad (s : State) (b j step attempt : Nat) : State :=
  { s with update := { s.update with sump := s.update.sump.filter fun g =>
      !(g.bind == b && g.shard == j && g.step == step && g.attempt == attempt32 attempt) } }

/-! ## Staging (07, R227, R228) -/

/-- Bytes of a unit's state SRAM. -/
def stateSram : Nat := 0x400000

/-- Bytes that a shard takes in state SRAM: the master, and but for KRON the moments. -/
def State.stageBytes (s : State) (b : Nat) : Nat := (4 + s.momentBytes b) * s.places b

/-- Bytes staged in a region. -/
def stagedBytes (s : State) (g : Nat) (l : List (Nat × Nat × Nat)) : Nat :=
  (l.filter fun e => s.shardRegion e.1 e.2.1 == g).foldl (fun n e => n + e.2.2) 0

def State.isStaged (s : State) (b j : Nat) : Bool := s.update.staged.any fun e => e.1 == b && e.2.1 == j

/-- Evict a region's staged entries, oldest first, until `n` more bytes fit. -/
def evict (s : State) (g n : Nat) : Nat → List (Nat × Nat × Nat) → List (Nat × Nat × Nat)
  | 0, l => l
  | k + 1, l =>
    if stagedBytes s g l + n ≤ stateSram then l
    else match l.find? fun e => s.shardRegion e.1 e.2.1 == g with
      | none => l
      | some e => evict s g n k (l.erase e)

/-- Is a gradient of the shard parked in its sump? -/
def State.parked (s : State) (b j : Nat) : Bool := s.update.sump.any fun g => g.bind == b && g.shard == j

/-- The byte ranges that staging a shard reads. -/
def State.stageRanges (s : State) (b j : Nat) : List (Nat × Nat) :=
  s.paramRanges b j (s.masterBase b j) 4 ++
  (List.range (if s.momentBytes b = 0 then 0 else if s.rget Bind.RULE b = ruleElem then 2 else 1)).flatMap fun k =>
    s.paramRanges b j (s.momentBase b j k) (s.momentWidth b)

/-- The master and moments of a shard are brought into state SRAM. -/
def State.stage (s : State) (b j : Nat) (l : List (Nat × Nat × Nat)) : State :=
  let t := (s.stageRanges b j).foldl (fun t r => t.touch r.1 r.2) s
  { t with update := { t.update with
      staged := l ++ [(b, j, s.stageBytes b)]
      wanted := t.update.wanted.filter fun e => e != (b, j) } }

/-- Is a command's token wait met (02, R71)? -/
def State.waitMet (s : State) (c : EngCmd) : Bool :=
  match c.wait with
  | none => true
  | some (k, v) => match s.thread? c.thread with
    | some th => reached (th.token k) v
    | none => false

/-- Are two commands of one thread ordered: to one engine, and in one of the tier mover's two queues (02, R71; 11, R368)? -/
def EngCmd.ordered (c d : EngCmd) : Bool :=
  d.thread == c.thread && decide (d.op.engine = c.op.engine) && (decide (c.op ≠ .tmove) || d.prio == c.prio)

/-- Has every earlier command of the same thread to the same engine started? -/
def State.firstUnstarted (s : State) (c : EngCmd) : Bool :=
  match s.tsq.cmds.find? fun d => c.ordered d && !d.started with
  | some d => d.id == c.id
  | none => false

/-! ## The queues of a die's tier mover (11, R368, R371; log 124) -/

/-- Its TMOVEs of one priority. -/
def State.tierMoves (s : State) (d : Nat) (hint : Bool) : List EngCmd :=
  s.tsq.cmds.filter fun c => decide (c.op = .tmove) && dieOfTile c.thread.tile.toNat == d && c.prio == hint

/-- The fetches of its update units: the shards whose gradient is parked and whose state is not staged. -/
def State.demandFetches (s : State) (d : Nat) : List (Nat × Nat) :=
  ((s.update.sump.map fun g => (g.bind, g.shard)).filter fun e => s.isOn .binding e.1 && s.ownsShard e.1 e.2 &&
    !s.isStaged e.1 e.2 && s.shardRegion e.1 e.2 / 8 == d).eraseDups

/-- The stages that UPREFETCH asked for. -/
def State.hintStages (s : State) (d : Nat) : List (Nat × Nat) := s.update.wanted.filter fun e => s.shardRegion e.1 e.2 / 8 == d

/-- Does a demand chunk wait? -/
def State.demandWaits (s : State) (d : Nat) : Bool :=
  !(s.demandFetches d).isEmpty || (s.tierMoves d false).any fun c => c.started || (s.firstUnstarted c && s.waitMet c)

/-- May a hint command go: no demand chunk waits, or fifteen went before, of which a demand move under way may have moved any
number? -/
def State.hintTurn (s : State) (d : Nat) : Bool :=
  !s.demandWaits d || decide (15 ≤ lookD d 0 s.update.chunks) || (s.tierMoves d false).any EngCmd.started

/-- A hint chunk goes. -/
def State.hintMoved (s : State) (d : Nat) : State :=
  { s with update := { s.update with chunks := put d 0 s.update.chunks } }

/-- STATE_FETCH: a shard with a parked gradient is staged, older entries giving way; a prefetched shard is staged when
it is the first of its region that still waits, room is free and the tier mover turns to its hints. -/
def execStateFetch (b j : Nat) (s : State) : Host.Outcome State Fault Refusal :=
  .next (
    let g := s.shardRegion b j
    let n := s.stageBytes b
    if !s.isOn .binding b || !s.ownsShard b j || s.isStaged b j then s
    else if s.parked b j then
      (s.stage b j (evict s g n s.update.staged.length s.update.staged)).demandMoved (g / 8) n
    else if (s.update.wanted.find? fun e => s.shardRegion e.1 e.2 == g) = some (b, j) ∧
        stagedBytes s g s.update.staged + n ≤ stateSram ∧ s.hintTurn (g / 8) = true then
      (s.stage b j s.update.staged).hintMoved (g / 8)
    else s)

/-! ## Matrix products on lent arrays (07, R231, R232, R234, R238) -/

abbrev Mat := List (List Val)

/-- A matrix transposed. -/
def Mat.t (m : Mat) : Mat := transpose ((m.getD 0 []).length) m

/-- Rows and columns. -/
def Mat.rows (m : Mat) : Nat := m.length
def Mat.cols (m : Mat) : Nat := (m.getD 0 []).length

def Mat.map2 (f : Val → Val → Val) (a b : Mat) : Mat := (a.zip b).map fun r => (r.1.zip r.2).map fun x => f x.1 x.2
def Mat.each (f : Val → Val) (a : Mat) : Mat := a.map fun r => r.map f

/-- mm: BF16 operands, FP32 accumulation and output. -/
def mm (x y : Mat) : Mat :=
  table2 x.rows y.cols fun r c => rn (accumulate 32 x.cols (.zero false) [fun k => (at2 x r k).mul (at2 y k c)])

/-- mm32: the six-pass FP32 product. -/
def mm32 (x y : Mat) : Mat :=
  table2 x.rows y.cols fun r c => rn (combine 3 x.cols ⟨0, 0, false, false⟩ (fun k => at2 x r k) fun k => at2 y k c).value

/-- mm64: the 28-pass FP64 product. -/
def mm64 (x y : Mat) : Mat :=
  table2 x.rows y.cols fun r c => rn64 (combine 7 x.cols ⟨0, 0, false, false⟩ (fun k => at2 x r k) fun k => at2 y k c).value

/-- bf: BF16 to nearest, saturating. -/
def bf (v : Val) : Val := codeValue fmtBF16 (convertTo fmtBF16 0 true false 0 v).code

/-! ## What a rule reads -/

/-- The hyperparameters of a binding as FP32 values, and the learning rate. -/
structure Hyper where
  beta1 : Val
  beta2 : Val
  eps   : Val
  wd    : Val
  ca    : Val
  cb    : Val
  cc    : Val
  shape : Val
  lr    : Val
  deriving DecidableEq, Repr

def State.hyper (s : State) (b lr : Nat) : Hyper :=
  let f := fun (x : Fld) => ofF32 (s.rget x b)
  ⟨f Bind.BETA1, f Bind.BETA2, f Bind.EPS, f Bind.WD, f Bind.CA, f Bind.CB, f Bind.CC, f Bind.SHAPE_SCALE, ofF32 lr⟩

/-- All values of a matrix finite. -/
def Mat.finite (m : Mat) : Bool := m.all fun r => r.all Val.isFinite

/-- A shard's matrix, its places outside the tensor +0. -/
def fullMat (rows cols : Nat) (m : Mat) : Mat := table2 rows cols fun r c => at2 m r c

/-- The matrix stored in a part of a factor block. -/
def State.factor (s : State) (b j k : Nat) : Mat :=
  let n := if k < 3 then s.shardRows b else s.shardCols b
  let base := s.factorBase b j k
  table2 n n fun r c => ofF32 (s.peekNat (base + 4 * (r * n + c)) 4)

/-- The bytes of a factor part. -/
def matBytes (m : Mat) : List Byte := m.flatMap fun r => r.flatMap fun v => toBytes 4 (toF32 v)

/-- The ranges of the factor parts that a KRON update reads. -/
def State.factorRanges (s : State) (b j : Nat) : List (Nat × Nat) := [(s.factorBase b j 0, s.factorBytes b)]

/-- The last line of every rule: master - lr (u + wd master), each operation rounded. -/
def masterStep (h : Hyper) (w u : Val) : Val :=
  rn (w.sub (rn (h.lr.mul (rn (u.add (rn (h.wd.mul w)))))))

/-! ## The rules (07, R230 to R232) -/

/-- What a rule makes of a shard: the new master, the bytes of its other state, and whether every new value is finite. -/
structure RuleOut where
  master : Mat
  writes : List (Nat × List Byte)
  finite : Bool
  deriving DecidableEq, Repr

/-- The stored code of a moment: FP32, or BF16 by stochastic rounding in stream 1 or 2. -/
def State.momentCode (s : State) (b step k r c : Nat) (v : Val) : Nat :=
  if s.rbit Bind.MOM_FMT b then
    (convertTo fmtBF16 1 Config.momentSat false
      (randomByte (s.rget Ctx.SEED (s.bindCtx b)) step (k + 1) (s.rget Bind.TENSOR b) (r * s.rget Bind.DIM1 b + c)) v).code
  else toF32 v

/-- ELEM. -/
def State.elemRule (s : State) (b j step : Nat) (h : Hyper) (w m v g : Mat) : RuleOut :=
  let t := step + 1
  let one := Val.fin 1
  let bc1 := rn (rn64 (one.sub (powCr h.beta1 t)))
  let bc2 := rn (rn64 (one.sub (powCr h.beta2 t)))
  let c1 := rn (one.sub h.beta1)
  let c2 := rn (one.sub h.beta2)
  let m' := Mat.map2 (fun q z => rn ((rn (h.beta1.mul q)).add (rn (c1.mul z)))) m g
  let v' := Mat.map2 (fun q z => rn ((rn (h.beta2.mul q)).add (rn ((rn (c2.mul z)).mul z)))) v g
  let u := Mat.map2 (fun p q => rn ((rn (p.div bc1)).div (rn ((sqrtRn (rn (q.div bc2))).add h.eps)))) m' v'
  let w' := Mat.map2 (masterStep h) w u
  let x := s.shardBox b j
  let code := fun k (p : Mat) => table2 x.rows x.cols fun r c => s.momentCode b step k (x.r0 + r) (x.c0 + c) (at2 p r c)
  let width := s.momentWidth b
  let fmt := if s.rbit Bind.MOM_FMT b then fmtBF16 else fmtFP32
  let cm := code 0 m'
  let cv := code 1 v'
  { master := w'
    writes := s.paramWrites b (s.momentBase b j 0) width cm ++ s.paramWrites b (s.momentBase b j 1) width cv
    finite := w'.finite && (cm ++ cv).all fun row => row.all fun q => (codeValue fmt q).isFinite }

/-- The Newton-Schulz iteration of ORTHO. -/
def orthoLoop (h : Hyper) : Nat → Mat → Mat
  | 0, x => x
  | n + 1, x =>
    let a := mm x (Mat.t x)
    let b := Mat.each (fun q => rn (h.cb.mul q)) a
    let b := if h.cc.isZero then b
      else Mat.map2 (fun q z => rn (q.add (rn (h.cc.mul z)))) b (mm (Mat.each bf a) (Mat.each bf a))
    let y := mm (Mat.each bf b) x
    orthoLoop h n (Mat.each bf (Mat.map2 (fun q z => rn ((rn (h.ca.mul q)).add z)) x y))

/-- ORTHO. The shard is taken whole, and transposed when it has more rows than columns. -/
def State.orthoRule (s : State) (b j : Nat) (h : Hyper) (w q g : Mat) : RuleOut :=
  let rows := s.shardRows b
  let cols := s.shardCols b
  let mom := Mat.map2 (fun o z => rn ((rn (h.beta1.mul o)).add z)) q g
  let x := if s.rbit Bind.NESTEROV b then Mat.map2 (fun z o => rn (z.add (rn (h.beta1.mul o)))) g mom else mom
  let x := fullMat rows cols x
  let x := if cols < rows then Mat.t x else x
  let norm := rn (sqrtRn (exactSum (x.flatten.map fun z => z.mul z)))
  let x := Mat.each (fun z => bf (rn (z.div (rn (norm.add h.eps))))) x
  let x := orthoLoop h (s.rget Bind.ITERS b) x
  let u := Mat.each (fun z => rn (z.mul h.shape)) x
  let u := if cols < rows then Mat.t u else u
  let w' := Mat.map2 (masterStep h) w u
  { master := w', writes := s.paramWrites b (s.momentBase b j 0) 4 (codesOf mom), finite := w'.finite && Mat.finite mom }

/-- The new factors of KRON from a gradient: left and right. -/
def State.newFactors (s : State) (b j : Nat) (h : Hyper) (g : Mat) : Mat × Mat :=
  let c2 := rn ((Val.fin 1).sub h.beta2)
  let mix := Mat.map2 fun q z => rn ((rn (h.beta2.mul q)).add (rn (c2.mul z)))
  (mix (s.factor b j 0) (mm32 g (Mat.t g)), mix (s.factor b j 3) (mm32 (Mat.t g) g))

/-- The number of the root job that is installed in the update of step count `t` (07, R233). -/
def rootDue (every t : Nat) : Option Nat :=
  if t = 1 then some 0 else if (t - 1) % every = 0 ∧ 2 ≤ (t - 1) / every then some ((t - 1) / every - 1) else none

/-- KRON, with the roots to install, if any. A step that starts a root job writes the snapshots too. -/
def State.kronRule (s : State) (b j step : Nat) (h : Hyper) (w g : Mat) (install : Option (Mat × Mat)) : RuleOut :=
  let t := step + 1
  let gf := fullMat (s.shardRows b) (s.shardCols b) g
  let (lf, rf) := s.newFactors b j h gf
  let (lr, rr) := install.getD (s.factor b j 1, s.factor b j 4)
  let p := mm32 (mm32 lr gf) rr
  let w' := Mat.map2 (masterStep h) w p
  let put := fun k (m : Mat) => (s.factorBase b j k, matBytes m)
  { master := w'
    writes := [put 0 lf, put 3 rf] ++ (if install.isSome then [put 1 lr, put 4 rr] else []) ++
      (if (t - 1) % s.rget Bind.ROOT_EVERY b = 0 then [put 2 lf, put 5 rf] else [])
    finite := w'.finite && Mat.finite lf && Mat.finite rf }

/-! ## Root jobs (07, R233, R234) -/

/-- inv_root4 of one factor. -/
def rootLoop : Nat → Mat → Mat → Mat
  | 0, x, _ => x
  | n + 1, x, m =>
    let tt := table2 m.rows m.cols fun r c =>
      let e := if r = c then Val.fin 1 else .zero false
      rn64 ((rn64 (((Val.fin 5).mul e).sub (at2 m r c))).div (.fin 4))
    let t2 := mm64 tt tt
    rootLoop n (mm64 x tt) (mm64 (mm64 t2 t2) m)

def invRoot4 (a : Mat) (iters : Nat) (eps : Val) : Mat :=
  let n := a.rows
  let a := table2 n n fun r c => rn64 ((at2 a r c).add (if r = c then eps else .zero false))
  let z := rn64 ((Val.fin 5).div (rn64 ((Val.fin 2).mul (sqrtCr (exactSum (a.flatten.map fun x => x.mul x))))))
  let d := rootCr4 z
  let x := table2 n n fun r c => if r = c then d else .zero false
  Mat.each rn (rootLoop iters x (Mat.each (fun y => rn64 (z.mul y)) a))

/-- The factors that a shard's next root job reads, with its number: at the first step those of the update that waits;
after a restore, and at each later start, the snapshots (07, R233, R252). -/
def State.rootInput (s : State) (b j : Nat) : Option (Nat × Mat × Mat × Nat) :=
  let every := s.rget Bind.ROOT_EVERY b
  let due := s.dueApply b j
  let step := match due with
    | some a => a.step
    | none => s.rget Ctx.STEP (s.bindCtx b)
  let opid := (due.map UApply.opid).getD 0
  match look (b, j) s.update.roots with
  | none =>
    if step = 0 then
      match due with
      | none => none
      | some a =>
        match s.gradFor a j with
        | none => none
        | some g =>
          let x := s.shardBox b j
          let t := s.withBinds a.binds
          let m := fullMat (s.shardRows b) (s.shardCols b) (table2 x.rows x.cols fun r c => ofF32 (g.data.getD (r * x.cols + c) 0))
          let (l, r) := t.newFactors b j (t.hyper b a.lr) m
          if g.poison || s.poisoned (s.factorBase b j 0) (s.factorBytes b) then none else some (0, l, r, opid)
    else some ((step - 1) / every, s.factor b j 2, s.factor b j 5, opid)
  | some k =>
    if k.done ∧ 1 + (k.job + 1) * every ≤ s.rget Ctx.STEP (s.bindCtx b) ∧
        (match due with
         | some a => decide (1 + (k.job + 1) * every < a.step + 1)
         | none => true) = true then
      some (k.job + 1, s.factor b j 2, s.factor b j 5, opid)
    else none

/-- ROOT_JOB_START: the job's input is taken; its roots are those of 07, R234, with the binding's fields as the gate of the
update that waits began with them, where one waits (07, R217). -/
def execRootJobStart (b j : Nat) (s : State) : Host.Outcome State Fault Refusal :=
  .next (
    if !(s.isOn .binding b && s.rget Bind.RULE b == ruleKron && s.ownsShard b j) then s
    else
      let u := match s.dueApply b j with
        | some a => s.withBinds a.binds
        | none => s
      match u.rootInput b j with
      | none => s
      | some (k, l, r, opid) =>
        let iters := u.rget Bind.ITERS b
        let eps := ofF32 (u.rget Bind.ROOT_EPS b)
        let rl := invRoot4 l iters eps
        let rr := invRoot4 r iters eps
        let bad := Mat.finite l && Mat.finite r && eps.isFinite && !(Mat.finite rl && Mat.finite rr)
        { s with update := { s.update with
            roots := put (b, j) ⟨k, false, bad, codesOf rl, codesOf rr, opid, k * u.rget Bind.ROOT_EVERY b⟩ s.update.roots } })

/-- SHARD_HELD (07, R241). -/
def heldRec (s : State) (b j opid step : Nat) : ErrRec :=
  (({ type := 0x0040, severity := 3, reason := 0x49, address := s.rget Bind.TENSOR b * 2 ^ 32 + j } : ErrRec).ofCtx s
    (s.handle .context (s.bindCtx b)) opid step).atRegion (s.shardRegion b j)

/-- A shard is held: the counters and the record. -/
def State.holdShard (s : State) (b j opid step : Nat) : State :=
  ((((s.rinc Bind.HELD_COUNT b).rput Bind.LAST_HELD_STEP b step).rput Bind.LAST_HELD_SHARD b j).logError
    (heldRec s b j opid step))

/-- ROOT_JOB_DONE: the roots lie in the root pool; a job that met a NaN or an infinity is held. -/
def execRootJobDone (b j : Nat) (s : State) : Host.Outcome State Fault Refusal :=
  .next (match look (b, j) s.update.roots with
    | none => s
    | some k =>
      if k.done then s
      else
        let t : State := { s with update := { s.update with roots := put (b, j) { k with done := true } s.update.roots } }
        if k.held then t.holdShard b j k.opid k.step else t)

/-! ## Running a rule (07, R230 to R233, R241, R242) -/

/-- May a KRON shard's update run: the job that it installs, and after an enable the first job, has finished? -/
def State.rootsReady (s : State) (b j t : Nat) : Bool :=
  s.rget Bind.RULE b != ruleKron ||
  match look (b, j) s.update.roots with
  | none => false
  | some k =>
    match rootDue (s.rget Bind.ROOT_EVERY b) t with
    | some n => k.done && k.job == n
    | none => k.done || (look (b, j) s.update.installed).isSome

/-- The job that the update of step count `t` installs: the one due, or after a restore job 0 where its roots are still
current (07, R233, R252; log 116). -/
def State.jobFor (s : State) (b j t : Nat) : Option Nat :=
  match rootDue (s.rget Bind.ROOT_EVERY b) t, look (b, j) s.update.roots, look (b, j) s.update.installed with
  | some n, _, _ => some n
  | none, some k, none => if k.job = 0 then some 0 else none
  | none, _, _ => none

/-- The roots that an update installs: those of a finished job that was not held. -/
def State.rootsFor (s : State) (b j t : Nat) : Option (Mat × Mat) :=
  match look (b, j) s.update.roots, s.jobFor b j t with
  | some k, some n => if k.job = n ∧ k.held = false then some (valsOf k.left, valsOf k.right) else none
  | _, _ => none

/-- COMMIT_POISONED (07, R242). -/
def commitPoisonRec (s : State) (b j opid step : Nat) : ErrRec :=
  (({ type := 0x0042, severity := 4, reason := 0x4A, address := s.rget Bind.TENSOR b * 2 ^ 32 + j } : ErrRec).ofCtx s
    (s.handle .context (s.bindCtx b)) opid step).atRegion (s.shardRegion b j)

/-- Does poison reach the commit of a shard: from its gradient, its staged state or its factors? -/
def State.commitPoison (s : State) (b j : Nat) (g : Grad) : Bool :=
  g.poison || (s.stageRanges b j).any (fun r => s.poisoned r.1 r.2) ||
    (s.rget Bind.RULE b == ruleKron && s.poisoned (s.factorBase b j 0) (s.factorBytes b))

/-- The outcome of a rule on a shard, with the binding's fields as its gate began with them: the new state, and whether
all that it read was finite: the hyperparameters that its rule uses, the roots that it uses, and the rest of its inputs. -/
def State.ruleOut (s : State) (a : UApply) (j : Nat) (g : Grad) : RuleOut × Bool :=
  let b := a.bind
  let x := s.shardBox b j
  let h := s.hyper b a.lr
  let gm : Mat := table2 x.rows x.cols fun r c => ofF32 (g.data.getD (r * x.cols + c) 0)
  let w := valsOf (s.readParams b j (s.masterBase b j) 4)
  let fmt := if s.rbit Bind.MOM_FMT b then fmtBF16 else fmtFP32
  let mom := fun k => (s.readParams b j (s.momentBase b j k) (s.momentWidth b)).map fun row => row.map (codeValue fmt)
  let base := fun (hs : List Val) => ([h.wd, h.lr] ++ hs).all Val.isFinite && Mat.finite w && Mat.finite gm
  if s.rget Bind.RULE b = ruleElem then
    (s.elemRule b j a.step h w (mom 0) (mom 1) gm, base [h.beta1, h.beta2, h.eps] && Mat.finite (mom 0) && Mat.finite (mom 1))
  else if s.rget Bind.RULE b = ruleOrtho then
    (s.orthoRule b j h w (mom 0) gm, base [h.beta1, h.eps, h.ca, h.cb, h.cc, h.shape] && Mat.finite (mom 0))
  else
    let install := s.rootsFor b j (a.step + 1)
    let roots := install.getD (s.factor b j 1, s.factor b j 4)
    (s.kronRule b j a.step h w gm install,
      base [h.beta2] && ([roots.1, roots.2, s.factor b j 0, s.factor b j 3].all Mat.finite))

/-- Does an outer correction of an earlier gate still have to be committed on a shard (10, R331)? -/
def State.correctionFirst (s : State) (b j step : Nat) : Bool :=
  s.update.corrections.any fun e => e.bind == b && e.shard == j && decide (e.step ≤ step)

/-- The update that can run on a shard, with its gradient: its gate has passed, its gradient is parked, its state is staged
and it has not run yet (07, R226, R227). -/
def State.staging (s : State) (b j : Nat) : Option (UApply × Grad) :=
  match s.dueApply b j with
  | none => none
  | some a => match s.gradFor a j with
    | none => none
    | some g =>
      if s.isStaged b j && !(s.update.ready.any fun r => r.bind == b && r.shard == j) && !s.correctionFirst b j a.step then
        some (a, g)
      else none

/-- Has a shard's update a product to run on lent arrays (07, R231, R232, R237)? -/
def State.productPending (s : State) (b j : Nat) : Bool :=
  match s.staging b j with
  | none => false
  | some (a, g) => s.rget Bind.RULE b != ruleElem && !s.commitPoison b j g && (s.withBinds a.binds).rootsReady b j (a.step + 1)

/-- Does a region's update unit borrow its arrays (07, R237)? The borrowing ends when no product is pending. -/
def State.lending (s : State) (g : Nat) : Bool :=
  s.update.applies.any fun a => a.passed && a.shards.any fun u =>
    u.done.isNone && s.shardRegion a.bind u.shard == g && s.productPending a.bind u.shard

/-- May a tile's array be borrowed: that of a live tile that is no audit tile in split mode (07, R237)? -/
def State.lendable (s : State) (t : Nat) : Bool := s.tileLive t && !(s.rbit TsqSplit.MODE (t / 32) && s.role t == 3)

/-- Is a tile's array borrowed? -/
def State.lent (s : State) (t : Nat) : Bool := s.lendable t && s.lending (t / 32)

/-- The completed and stall waves of an update's products on the arrays lent to it, with the OPID of its UAPPLY (01, R32; 02,
R56): timing, so free values (log 7). -/
def State.lentWaves (s : State) (b j opid : Nat) : State :=
  let ctx : Half := BitVec.ofNat 32 (s.handle .context (s.bindCtx b))
  ((List.range 32).filter fun i => s.lendable (32 * s.shardRegion b j + i)).foldl (fun s i =>
    let t := 32 * s.shardRegion b j + i
    let (v, s) := s.draw
    let (u, s) := s.draw
    (s.countTile TileCnt.WAVES 0x01 t (some ctx) (BitVec.ofNat 32 opid) (v.toNat % 2 ^ 32)).countTile TileCnt.STALL_WAVES 0x02 t
      (some ctx) (BitVec.ofNat 32 opid) (u.toNat % 2 ^ 32)) s

/-- A command that waits behind a unit's products: the periods are timing, a free value (07, R237; log 7). -/
def State.lendWait (s : State) (c : EngCmd) : State :=
  let (v, s) := s.draw
  s.countTile TileCnt.LEND_WAIT 0x04 c.thread.tile.toNat (some c.ctx) c.opid (v.toNat % 2 ^ 32)

/-- UPDATE_RULE_RUN: after a passing gate the rule runs on a shard whose gradient is parked and whose state is staged, after
the outer corrections of the gates before (10, R331). Poison resets the partition; a NaN or an infinity from finite inputs
holds the shard. -/
def State.runRule (s : State) (b j : Nat) : State :=
  match s.staging b j with
  | none => s
  | some (a, g) =>
    let u := s.withBinds a.binds
    if s.commitPoison b j g then
      (s.logError (commitPoisonRec s b j a.opid a.step)).resetPartition (s.partOf (s.bindCtx b))
    else if !u.rootsReady b j (a.step + 1) then s
    else
      let (o, clean) := u.ruleOut a j g
      let s := if s.rget Bind.RULE b = ruleElem then s else s.lentWaves b j a.opid
      if clean && !o.finite then
        let s := (s.holdShard b j a.opid a.step).shardDone a.cmd j 0x49
        ({ s with update := { s.update with held := put (b, j) (a.step + 1) s.update.held } } : State).dropGrad b j a.step
          a.attempt
      else
        let n : NewState :=
          { apply := a.cmd, bind := b, shard := j
            writes := s.paramWrites b (s.masterBase b j) 4 (codesOf o.master) ++ o.writes, master := codesOf o.master
            installed := u.jobFor b j (a.step + 1), step := a.step, attempt := a.attempt
            opid := a.opid, rung := a.rung }
        { s with update := { s.update with ready := s.update.ready ++ [n] } }

/-! ## Commit (07, R239, R240, R244, R247; 01, R19) -/

/-- Publish a generation in a slot. -/
def State.publish (s : State) (b j k gen step rung : Nat) : State :=
  let r := s.retained b j
  s.setRetained b j
    { slots := r.slots.set k (some gen), steps := r.steps.set k step, rungs := r.rungs.set k rung, newest := k }

/-- The generation after the newest one. -/
def State.nextGen (s : State) (b j : Nat) : Nat := ((s.retained b j).newestGen + 1) % 65536

/-- Does a cast that has been taken still have to read a shard's state at an earlier step count (07, R247)? -/
def State.castHolds (s : State) (b step : Nat) : Bool :=
  s.update.casts.any fun k => !k.read && k.ctx == s.bindCtx b && k.content &&& 0x39 != 0 &&
    (match k.taken with
     | some n => decide (n ≤ step)
     | none => false)

/-- A commit is counted at its region, for the context of its rule binding (18, R558, R559). -/
def State.countCommit (s : State) (b j opid : Nat) : State :=
  let g := s.shardRegion b j
  (s.rwrap RegionCnt.SHARDS_COMMITTED g).countEvent 0x0C (32 * g) 32
    (some (BitVec.ofNat 32 (s.handle .context (s.bindCtx b)))) (BitVec.ofNat 32 opid) 1

/-- Write a shard's new state and its new working slot, publish the generation, and count the commit. -/
def State.commitShard (s : State) (b j k rung step opid : Nat) (writes : List (Nat × List Byte)) (master : List (List Nat)) :
    State :=
  let gen := s.nextGen b j
  let d := s.deriveSlot b j k rung gen step (valsOf master)
  ((((s.writeAll writes).writeAll d.bytes).observeWork b j d).publish b j k gen step rung).countCommit b j opid

/-- The commit of a shard whose new state has been computed and checked; it waits while every slot other than the newest
is pinned, while a cast has still to read the state, and for the correction of an earlier gate. In pair mode both halves
digest the state and the slot that are committed (13, R427). -/
def State.commitDue (s : State) (b j : Nat) : State :=
  match s.update.ready.find? fun r => r.bind == b && r.shard == j, s.nextSlot b j with
  | some n, some k =>
    let gen := s.nextGen b j
    let slot := (s.deriveSlot b j k n.rung gen (n.step + 1) (valsOf n.master)).bytes
    if s.castHolds b n.step || s.correctionFirst b j n.step then s
    else
      let s := s.commitShard b j k n.rung (n.step + 1) n.opid n.writes n.master
      let s : State := { s with update := { s.update with
        ready := s.update.ready.filter fun r => !(r.bind == b && r.shard == j)
        installed := if s.rget Bind.RULE b = ruleKron then
            put (b, j) (n.installed.getD (lookD (b, j) 0 s.update.installed)) s.update.installed
          else s.update.installed } }
      ((s.shardDone n.apply j 0).dropGrad b j n.step n.attempt).pairCommit b j gen n.opid n.step
        ((n.writes ++ slot).flatMap Prod.snd)
  | _, _ => s

/-! ## The drift audit (07, R245) -/

/-- Does an owned shard come before another: by its shard index, then by its binding? -/
def auditBefore (x y : Nat × Nat) : Bool := decide (x.2 < y.2 ∨ (x.2 = y.2 ∧ x.1 < y.1))

/-- Put an owned shard in its place among sorted ones. -/
def auditInsert (x : Nat × Nat) : List (Nat × Nat) → List (Nat × Nat)
  | [] => [x]
  | y :: ys => if auditBefore x y then x :: y :: ys else y :: auditInsert x ys

/-- The shards that a region's unit owns, over every binding that is ON, in ascending order of shard index. -/
def State.auditList (s : State) (g : Nat) : List (Nat × Nat) :=
  (((List.range 8192).filter fun b => decide ((Kind.binding, b) ∈ s.hub.allocated) && s.isOn .binding b).flatMap fun b =>
    ((List.range (s.rget Bind.SHARD_COUNT b)).map fun i => s.rget Bind.SHARD_FIRST b + i).filterMap fun j =>
      if s.shardRegion b j = g then some (b, j) else none).foldl (fun l x => auditInsert x l) []

/-- `n` entries of a cycle after the last one taken. -/
def cycleFrom (l : List (Nat × Nat)) (last : Option (Nat × Nat)) (n : Nat) : List (Nat × Nat) :=
  let after := fun (x : Nat × Nat) => match last with
    | none => true
    | some y => auditBefore y x
  let ring := l.filter after ++ l.filter fun x => !after x
  ring.take (min n l.length)

/-- DRIFT_MISMATCH. -/
def driftRec (s : State) (b j : Nat) : ErrRec :=
  (({ type := 0x0041, severity := 2, reason := 0x4B, address := s.rget Bind.TENSOR b * 2 ^ 32 + j } : ErrRec).ofCtx s
    (s.handle .context (s.bindCtx b)) 0 0).atRegion (s.shardRegion b j)

/-- Audit one shard: re-derive its newest generation and repair a slot that differs. -/
def State.auditShard (s : State) (g b j : Nat) : State :=
  let r := s.retained b j
  let k := r.newest
  match r.slots.getD k none with
  | none => s
  | some gen =>
    let d := s.deriveSlot b j k (r.rungs.getD k 0) gen (r.steps.getD k 0) (valsOf (s.readParams b j (s.masterBase b j) 4))
    if d.bytes.all fun w => s.peek w.1 w.2.length == w.2 then s
    else
      let p := s.paramPoison b j (s.masterBase b j) 4
      ((d.bytes.foldl (fun s w => s.store w.1 w.2 p) s).logError (driftRec s b j)).rinc UpuAudit.MISMATCHES g

/-- DRIFT_AUDIT: after the commits of a passing phase a unit audits its next shards. -/
def execDriftAudit (g : Nat) (s : State) : Host.Outcome State Fault Refusal :=
  .next (
    let busy := s.update.applies.any fun a => a.passed && a.shards.any fun u => u.done.isNone && s.shardRegion a.bind u.shard == g
    if !decide (g ∈ s.update.auditDue) || busy then s
    else
      let todo := cycleFrom (s.auditList g) (look g s.update.audit) (min 16 (s.rget UpuAudit.SHARDS_PER_STEP g))
      let s := todo.foldl (fun s x => s.auditShard g x.1 x.2) s
      { s with update := { s.update with
          auditDue := s.update.auditDue.erase g
          audit := match todo.getLast? with
            | some x => put g x s.update.audit
            | none => s.update.audit } })

end Sys2Proof.Machine
end

