-- ==== Sys2Proof/Machine/Records.lean ====
section
/-!
DEFINITION. Shard records, as casts and seeds carry them: which content a context holds, each record's header, data and
digest (07, R247 to R249), and where the wellhead's outer planes lie (10, R321).
-/
namespace Sys2Proof.Machine

/-! ## The round engine binding of a context -/

/-- The round engine binding that a context's outer state belongs to: the ON one, else the first that names it. -/
def State.outerOf (s : State) (c : Nat) : Option Nat :=
  let mine := (List.range 64).filter fun i => s.isAllocated .round i && s.rget Round.CONTEXT i == c
  match mine.find? fun i => s.isOn .round i with
  | some i => some i
  | none => mine.head?

/-- The last applied round of a context; all ones when there is none. -/
def State.lastRound (s : State) (c : Nat) : Nat :=
  match s.outerOf c with
  | some i => s.rget Round.APPLIED i
  | none => 0xFFFFFFFF

/-- Plane `k` of a shard (10, R321): 0 base, 1 outer momentum, 2 well, 3 cut, 4 average. -/
def State.planeBase (s : State) (i b j k : Nat) : Nat :=
  s.rget Round.OUTER_BASE i + 4 * (k * s.rget Round.OUTER_PARAMS i + s.rget Bind.P0 b + s.localShard b j * s.places b)

/-! ## Content (07, R247, R248) -/

def contentMaster : Nat := 0
def contentWork : Nat := 1
def contentWork2 : Nat := 2
def contentMoment : Nat := 3
def contentMoment2 : Nat := 4
def contentFactors : Nat := 5
def contentBase : Nat := 6
def contentOuter : Nat := 7
def contentWell : Nat := 8
def contentContext : Nat := 9

/-- The header of a shard's newest working slot at a step count, when it has one. -/
def State.newestHead (s : State) (b j step : Nat) : Option (Nat × SlotHead) :=
  ((s.retained b j).slotAt step).map fun k => (k, readSlotHead (s.peek (s.headAddr b j k) 64))

/-- Does a binding hold a content code of a shard at a step count? -/
def State.holds (s : State) (b j k step : Nat) : Bool :=
  let rule := s.rget Bind.RULE b
  if k = contentMaster then true
  else if k = contentWork then (s.newestHead b j step).isSome
  else if k = contentWork2 then
    (match s.newestHead b j step with
     | some h => h.2.dual
     | none => false)
  else if k = contentMoment then rule != ruleKron
  else if k = contentMoment2 then rule == ruleElem
  else if k = contentFactors then rule == ruleKron
  else if k = contentBase ∨ k = contentOuter ∨ k = contentWell then (s.outerOf (s.bindCtx b)).any fun i => s.isOn .round i
  else false

/-- The ON rule bindings of a context, in ascending order. -/
def State.onBindings (s : State) (c : Nat) : List Nat :=
  (List.range 8192).filter fun b => decide ((Kind.binding, b) ∈ s.hub.allocated) && s.isOn .binding b && s.bindCtx b == c

/-- The shards that this module owns under a binding. -/
def State.bindShards (s : State) (b : Nat) : List Nat :=
  (List.range (s.rget Bind.SHARD_COUNT b)).map fun i => s.rget Bind.SHARD_FIRST b + i

/-- The records that a cast with a content mask reads from the bindings at a step count, in their order. -/
def State.castPlan (s : State) (c mask step : Nat) : List (Nat × Nat × Nat) :=
  (s.onBindings c).flatMap fun b => (s.bindShards b).flatMap fun j =>
    ((List.range 9).filter fun k => bit mask k && s.holds b j k step).map fun k => (b, j, k)

/-! ## Records (07, R248, R249) -/

/-- A record. -/
structure Record where
  content : Nat
  tensor  : Nat
  shard   : Nat
  bytes   : List Byte
  digest  : List Byte
  poison  : Bool
  deriving DecidableEq, Repr

/-- What a record's header says beside what its shard gives. -/
structure RecordHead where
  content : Nat
  form    : Nat
  rank    : Nat
  poison  : Bool
  held    : Bool
  tensor  : Nat
  step    : Nat
  round   : Nat
  gen     : Nat
  shard   : Nat
  /-- SHAPE, OFFSET and EXTENT: 96 bytes. -/
  shape   : List Byte
  tscale  : Nat
  deriving DecidableEq, Repr

/-- A record of data. -/
def RecordHead.record (h : RecordHead) (data : List Byte) : Record :=
  let head := ascii "SVSR" ++ toBytes 2 1 ++ toBytes 2 256 ++ toBytes 1 h.content ++ toBytes 1 h.form ++ toBytes 1 h.rank ++
    toBytes 1 (b2n h.poison + 2 * b2n h.held) ++ toBytes 4 (h.tensor % 2 ^ 24) ++ toBytes 8 h.step ++ toBytes 4 h.round ++
    toBytes 2 h.gen ++ [0, 0] ++ toBytes 4 h.shard ++ [0, 0, 0, 0] ++ toBytes 8 data.length ++ padTo 96 h.shape ++
    toBytes 4 h.tscale ++ List.replicate 44 0
  let digest := sha512 (head ++ data)
  ⟨h.content, h.tensor, h.shard, padMul 8 (head ++ digest ++ data), digest, h.poison⟩

/-- SHAPE, OFFSET and EXTENT of a shard. -/
def State.shardShape (s : State) (b j : Nat) : List Byte :=
  let x := s.shardBox b j
  let dims := fun p q => toBytes 4 p ++ toBytes 4 q ++ List.replicate 24 0
  dims (s.rget Bind.DIM0 b) (s.rget Bind.DIM1 b) ++ dims x.r0 x.c0 ++ dims x.rows x.cols

/-- Elements of a record: codes of `w` bits, row by row. -/
def packCodes (w : Nat) (m : List (List Nat)) : List Byte := toBytes (ceilDiv (w * m.flatten.length) 8) (packNat w m.flatten)

/-- FP32 as a record's format. -/
def oneF32 : Nat := 0x3F800000

/-- What a record of parameters of `w` bytes carries. -/
def State.paramData (s : State) (b j base w : Nat) : List Byte × Bool :=
  (packCodes (8 * w) (s.readParams b j base w), s.paramPoison b j base w)

/-- A record of a working copy. -/
def State.workData (s : State) (b j k : Nat) (h : SlotHead) (second : Bool) : List Byte × Bool :=
  let a := s.slotAddr b j k + if second then s.slotBytes b / 2 else 0
  let o := s.copyOperand b j a h.fmt h.scl (!second)
  let codes := (readCodes s (fun _ => none) o).rows
  (packCodes (fmtBits h.fmt) codes ++ s.peek (a + o.squares * o.squareBytes) o.blockCount, s.poisoned a (copyBytes o))

/-- A shard's record of a content code, at a step count. -/
def State.shardRecord (s : State) (b j k step : Nat) : Record :=
  let c := s.bindCtx b
  let head : RecordHead :=
    { content := k, form := 0, rank := 2, poison := false, held := look (b, j) s.update.held == some step
      tensor := s.rget Bind.TENSOR b, step := step, round := s.lastRound c, gen := 0, shard := j, shape := s.shardShape b j
      tscale := oneF32 }
  let plain := fun (d : List Byte × Bool) => ({ head with poison := d.2 }).record d.1
  let plane := fun n => plain (s.paramData b j (s.planeBase ((s.outerOf c).getD 0) b j n) 4)
  if k = contentWork ∨ k = contentWork2 then
    match s.newestHead b j step with
    | none => plain ([], false)
    | some (n, h) =>
      let d := s.workData b j n h (k == contentWork2)
      ({ head with
          form := h.fmt + 16 * h.scl, gen := h.gen, tscale := if h.scl = 1 ∨ h.scl = 3 then h.tscale else oneF32
          poison := d.2 || s.poisoned (s.headAddr b j n) 64 }).record d.1
  else if k = contentMoment ∨ k = contentMoment2 then
    let d := s.paramData b j (s.momentBase b j (k - contentMoment)) (s.momentWidth b)
    ({ head with form := if s.momentWidth b = 2 then fmtBF16 else fmtFP32, poison := d.2 }).record d.1
  else if k = contentFactors then
    let a := s.factorBase b j 0
    plain (s.peek a (s.factorBytes b), s.poisoned a (s.factorBytes b))
  else if k = contentBase then plane 0
  else if k = contentOuter then plane 1
  else if k = contentWell then plane 2
  else plain (s.paramData b j (s.masterBase b j) 4)

/-- The byte ranges that reading a record touches. -/
def State.recordRanges (s : State) (b j k step : Nat) : List (Nat × Nat) :=
  let outer := (s.outerOf (s.bindCtx b)).getD 0
  if k = contentWork ∨ k = contentWork2 then
    match s.newestHead b j step with
    | none => []
    | some (n, h) =>
      let a := s.slotAddr b j n + if k = contentWork2 then s.slotBytes b / 2 else 0
      [(a, copyBytes (s.copyOperand b j a h.fmt h.scl (k == contentWork)))]
  else if k = contentMoment ∨ k = contentMoment2 then
    s.paramRanges b j (s.momentBase b j (k - contentMoment)) (s.momentWidth b)
  else if k = contentFactors then s.factorRanges b j
  else if contentBase ≤ k then s.paramRanges b j (s.planeBase outer b j (k - contentBase)) 4
  else s.paramRanges b j (s.masterBase b j) 4

/-- A context's entry with LIVE_THREADS, as its window shows it. -/
def State.ctxEntry (s : State) (c : Nat) : Nat := s.entry .ctx c + s.liveThreads c * 2 ^ Ctx.LIVE_THREADS.lo

/-- A context record (07, R249). -/
def State.contextRecord (s : State) (c step : Nat) : Record :=
  let gauges := (List.range (s.rget Ctx.GAUGE_COUNT c)).map fun i => s.rget Ctx.GAUGE_BASE c + i
  let bindings := (List.range 8192).filter fun b => decide ((Kind.binding, b) ∈ s.hub.allocated) && s.bindCtx b == c
  let data := toBytes 128 (s.ctxEntry c) ++ toBytes 8 ((s.rungOf c).rung) ++
    (gauges.flatMap fun e => toBytes 128 (s.entry .gauge e)) ++ (bindings.flatMap fun b => toBytes 128 (s.entry .bind b))
  let head : RecordHead :=
    { content := contentContext, form := Config.contextForm, rank := Config.contextRank, poison := false, held := false
      tensor := 0, step := step, round := s.lastRound c, gen := 0, shard := 0
      shape := toBytes 96 (Config.contextShape data.length), tscale := oneF32 }
  head.record data

end Sys2Proof.Machine
end

