-- ==== Sys2Proof/Machine/FragmentCode.lean ====
section
/-!
DEFINITION. Fragments and ledgers as bytes: selection, quantisation and coding of a shard's cut (10, R323, R324, R335,
R336; 05, R187), their decoding, and the ledger body (10, R337).
-/
namespace Sys2Proof.Machine

/-! ## Selection (10, R323, R325) -/

/-- A position of a shard and the FP32 pattern it holds there. -/
abbrev Place := Nat × Nat

/-- Is the magnitude of `x` above that of `y`? A NaN and an infinity rank alike, above every finite value (log 45). -/
def outranks (x y : Place) : Bool :=
  let a := ofF32 x.2
  let b := ofF32 y.2
  if !a.isFinite then b.isFinite else b.isFinite && decide (b.mag < a.mag)

/-- Insert a position into a list ranked by magnitude, after those of equal rank. -/
def insertRank (x : Place) : List Place → List Place
  | [] => [x]
  | y :: ys => if outranks x y then x :: y :: ys else y :: insertRank x ys

/-- Insert a position into a list in ascending order. -/
def insertPlace (x : Place) : List Place → List Place
  | [] => [x]
  | y :: ys => if x.1 < y.1 then x :: y :: ys else y :: insertPlace x ys

/-- The kept positions of a block of ascending positions, ascending, the values that are not finite left out. -/
def keepLargest (k : Nat) (xs : List Place) : List Place :=
  (((xs.foldl (fun l x => insertRank x l) []).take k).filter fun x => (ofF32 x.2).isFinite).foldl
    (fun l x => insertPlace x l) []

/-- The kept positions of a shard of `p` positions. -/
def selectPlaces (p shift : Nat) (xs : List Place) : List Place :=
  (List.range (ceilDiv p 4096)).flatMap fun q =>
    let len := min 4096 (p - 4096 * q)
    keepLargest (ceilDiv len (2 ^ shift)) (xs.filter fun x => x.1 / 4096 == q)

/-! ## Quantisation (10, R324) -/

/-- A quantised selection: the per-tensor scale, the block scales of 16 kept values each, and the kept codes. -/
structure Quantised where
  scale  : Rat
  blocks : List Nat
  codes  : List (Nat × Nat)
  deriving DecidableEq, Repr

/-- Quantise kept values in a format. `random` gives the random byte of a position. -/
def quantise (fmt rnd : Nat) (random : Nat → Nat) (kept : List Place) : Quantised :=
  let vals := kept.map fun x => ofF32 x.2
  let st := tensorScale fmt 3 (amaxOf [vals])
  let blocks := (pieces 16 vals).map fun vs => qsChoose fmt false st (amaxOf [vs])
  let codes := ((List.range kept.length).zip kept).map fun e =>
    let v := ofF32 e.2.2
    let x := match qsValue (blocks.getD (e.1 / 16) 0) with
      | none => Val.zero false
      | some q => if q = 0 then Val.zero v.isNeg else v.div (.fin (st * q))
    (e.2.1, (convertTo fmt rnd true false (random e.2.1) x).code)
  ⟨st, blocks, codes⟩

/-! ## The stream (05, R165, R187; 10, R336) -/

/-- Run symbols of an even gap; runs of 2^16 repeat. -/
def gapSymbols (n : Nat) : List Nat := List.replicate (n / 65536) 271 ++ runSymbols (n % 65536)

/-- The stream of codes other than +0 from a position on, up to `last`: each element with the run symbols that precede it.
Every +0 lies in a maximal run, a kept one too; an odd gap leaves one element, and the run before the end has none
after it. -/
def streamFrom (last : Nat) : Nat → List (Nat × Nat) → List (List Nat × Option Nat)
  | pos, [] =>
    let gap := last - pos
    if gap = 0 then [] else [(gapSymbols (gap - gap % 2), if gap % 2 = 1 then some 0 else none)]
  | pos, (p, code) :: xs =>
    let gap := p - pos
    let runs := gapSymbols (gap - gap % 2)
    (if gap % 2 = 1 then [(runs, some 0), ([], some code)] else [(runs, some code)]) ++ streamFrom last (p + 1) xs

/-- The stream of kept codes over positions 0 to the last kept one. -/
def streamItems (xs : List (Nat × Nat)) : List (List Nat × Option Nat) :=
  streamFrom ((xs.getLast?.map fun x => x.1 + 1).getD 0) 0 (xs.filter fun x => x.2 != 0)

/-- The symbols of stream items and the raw parts of their elements. -/
def itemSymbols (fmt : Nat) (xs : List (List Nat × Option Nat)) : List Nat × List Nat :=
  (xs.flatMap fun x => x.1 ++ (x.2.map (exponentField fmt)).toList, xs.filterMap fun x => x.2.map (rawPart fmt))

/-- Elements of items that are not in runs. -/
def itemCount (xs : List (List Nat × Option Nat)) : Nat := (xs.filter fun x => x.2.isSome).length

/-- Would a block of items fit: at most 256 elements, 4,095 code bits and 255 payload words? -/
def blockFits (t : Table) (xs : List (List Nat × Option Nat)) : Bool :=
  let cb := ((itemSymbols t.fmt xs).1.foldl (fun n s => n + t.lengths.getD s 0) 0)
  decide (itemCount xs ≤ 256 ∧ cb ≤ 4095 ∧ ceilDiv (64 * ceilDiv cb 64 + rawBits t.fmt * itemCount xs) 64 ≤ 255)

/-- Cut the items into blocks: each as long as it fits. -/
def cutBlocks (t : Table) :
    List (List Nat × Option Nat) → List (List Nat × Option Nat) → List (List (List Nat × Option Nat))
  | cur, [] => if cur.isEmpty then [] else [cur]
  | cur, x :: xs =>
    if cur.isEmpty || blockFits t (cur ++ [x]) then cutBlocks t (cur ++ [x]) xs else cur :: cutBlocks t [x] xs

/-- One wellhead block: always coded, COUNT its elements that are not in runs. -/
def wellheadBlock (slot : Nat) (t : Table) (xs : List (List Nat × Option Nat)) : List Byte :=
  let (syms, raws) := itemSymbols t.fmt xs
  let (cb, words, pay) := codedPayload t syms raws
  blockHeader true false slot t.gen t.fmt (itemCount xs) cb words (crc16 pay) ++ pay

/-- The table of a tensor's fragments in a round, from the census of the round's own selection (05, R170, R187). -/
def fragmentTable (fmt gen : Nat) (streams : List (List (List Nat × Option Nat))) : Table :=
  let syms := streams.flatMap fun xs => (itemSymbols fmt xs).1
  let counts := syms.foldl (fun (cs : List Nat) x => cs.set x (cs.getD x 0 + 1)) (List.replicate 272 0)
  ⟨gen, fmt, buildLengths fmt counts⟩

/-! ## The fragment body (10, R335) -/

/-- What a fragment's head says beside its kept values. -/
structure FragHead where
  fmt    : Nat
  origin : Nat
  shift  : Nat
  round  : Nat
  tensor : Nat
  shard  : Nat
  places : Nat
  deriving DecidableEq, Repr

/-- A fragment body. -/
def fragmentBody (h : FragHead) (slot : Nat) (t : Table) (q : Quantised) : List Byte :=
  ascii "SVFR" ++ [1] ++ toBytes 1 h.fmt ++ toBytes 1 h.origin ++ toBytes 1 h.shift ++ toBytes 4 h.round ++
  toBytes 4 (h.tensor % 2 ^ 24) ++ toBytes 4 h.shard ++ toBytes 4 h.places ++ toBytes 4 q.codes.length ++
  toBytes 4 (toF32 (Val.ofRat q.scale)) ++ tableImage t ++ padMul 8 (q.blocks.map fun b => BitVec.ofNat 8 b) ++
  (cutBlocks t [] (streamItems q.codes)).flatMap (wellheadBlock slot t)

/-! ## Decoding (10, R329, R336) -/

/-- The table of a fragment's image, or none where 05, R173 refuses it. -/
def fragmentImage (bs : List Byte) : Option Table :=
  let t : Table := ⟨leField bs 5 1, leField bs 4 1, unpackNat 4 272 (leField bs 8 136)⟩
  let valid := validSymbols t.fmt
  if slice bs 0 4 = ascii "SVXT" ∧ slice bs 144 8 = (sha512 (slice bs 0 144)).take 8 ∧ t.gen < 16 ∧ leField bs 6 2 = 0 ∧
      (t.fmt = fmtE4M3 ∨ t.fmt = fmtE2M1 ∨ t.fmt = fmtT3) ∧
      (valid.all fun s => decide (1 ≤ t.lengths.getD s 0) && decide (t.lengths.getD s 0 ≤ 12)) = true ∧
      ((List.range 272).all fun s => decide (s ∈ valid) || t.lengths.getD s 0 == 0) = true ∧ kraftSum t.lengths valid ≤ 4096
  then some t else none

/-- The elements of symbols: each with its position. -/
def placeSymbols (fmt : Nat) : Nat → List Nat → List Nat → List (Nat × Nat)
  | _, [], _ => []
  | pos, s :: ss, raws =>
    if s ≥ 256 then placeSymbols fmt (pos + 2 ^ (s - 255)) ss raws
    else (pos, joinElement fmt s (raws.headD 0)) :: placeSymbols fmt (pos + 1) ss raws.tail

/-- Positions that symbols span. -/
def symbolSpan (ss : List Nat) : Nat := symbolCount ss

/-- A wellhead block read: its elements by position, where the next block starts in the stream and in the bytes. -/
structure WellBlock where
  elems : List (Nat × Nat)
  next  : Nat
  used  : Nat
  deriving DecidableEq, Repr

/-- The elements of a wellhead block from a position on, or why it is not decoded: 05, R168 with its raw-size check apart,
and R174, where the fragment's table is that of `slot`. -/
def readWellheadBlock (t : Table) (slot pos : Nat) (bs : List Byte) : Except BlockError WellBlock :=
  let h := readHead bs
  let pay := slice bs 8 (8 * h.words)
  if h.reserved ≠ 0 ∨ h.check ≠ crc16 pay ∨ 64 * h.words < h.codeBits ∨ 256 < h.count ∨ h.coded = false then .error .malformed
  else if h.slot ≠ slot then .error .generation
  else if h.fmt ≠ t.fmt then .error .format
  else if h.gen ≠ t.gen then .error .generation
  else
    match readSymbols (canonicalCodes t.lengths) h.codeBits ((bytesToBits pay).take h.codeBits) with
    | none => .error .malformed
    | some ss =>
      let n := (ss.filter fun s => decide (s < 256)).length
      if n ≠ h.count then .error .malformed
      else
        let raws := unpackNat (rawBits t.fmt) n (fromBytes pay / 2 ^ (64 * ceilDiv h.codeBits 64))
        .ok ⟨placeSymbols t.fmt pos ss raws, pos + symbolSpan ss, 8 + 8 * h.words⟩

/-- The elements of every block. The first argument bounds their number. -/
def readWellheadBlocks (t : Table) (slot : Nat) : Nat → Nat → List Byte → Except BlockError (List (Nat × Nat))
  | 0, _, bs => if bs.isEmpty then .ok [] else .error .malformed
  | k + 1, pos, bs =>
    if bs.isEmpty then .ok []
    else
      match readWellheadBlock t slot pos bs with
      | .error e => .error e
      | .ok b => match readWellheadBlocks t slot k b.next (bs.drop b.used) with
        | .error e => .error e
        | .ok ys => .ok (b.elems ++ ys)

/-- A fragment's values by position, +0 ones apart, or why it is not decoded. The fragment's image is the table of the slot
that its first block names (log 118). A value is its code at its scales (03, R92). -/
def fragmentValues (digest : Nat) (body : List Byte) : Except BlockError (List (Nat × Val)) :=
  let kept := leField body 24 4
  let scaleLen := roundUp (ceilDiv kept 16) 8
  let blocks := body.drop (184 + scaleLen)
  match fragmentImage (slice body 32 152) with
  | none => .error .malformed
  | some t =>
    match readWellheadBlocks t (readHead blocks).slot body.length 0 blocks with
    | .error e => .error e
    | .ok xs =>
      let st := ofF32 (leField body 28 4)
      let live := xs.filter fun x => x.2 != 0
      let place := fun (i : Nat) => if live.length = kept then i else Config.keptPlace digest i % max kept 1
      .ok (((List.range live.length).zip live).map fun e =>
        (e.2.1, elementValue t.fmt 3 st (leField body (184 + place e.1 / 16) 1) e.2.2))

/-! ## The ledger body (10, R337) -/

/-- An entry of a ledger. -/
structure LedgerEntry where
  origin : Nat
  tensor : Nat
  shard  : Nat
  bytes  : Nat
  digest : Nat
  deriving DecidableEq, Repr

/-- Is an entry to stand before another: by tensor, then shard, then origin? -/
def LedgerEntry.before (a b : LedgerEntry) : Bool :=
  decide (a.tensor < b.tensor ∨ (a.tensor = b.tensor ∧ (a.shard < b.shard ∨ (a.shard = b.shard ∧ a.origin < b.origin))))

/-- Insert an entry in order. -/
def insertEntry (x : LedgerEntry) : List LedgerEntry → List LedgerEntry
  | [] => [x]
  | y :: ys => if x.before y then x :: y :: ys else y :: insertEntry x ys

def LedgerEntry.encode (e : LedgerEntry) : List Byte :=
  toBytes 1 e.origin ++ [0, 0, 0] ++ toBytes 4 e.tensor ++ toBytes 4 e.shard ++ toBytes 4 e.bytes ++ toBytes 8 e.digest

/-- A ledger body. -/
def ledgerBody (anchor attempt round job : Nat) (entries : List LedgerEntry) : List Byte :=
  let es := entries.foldl (fun l e => insertEntry e l) []
  ascii "SVLG" ++ [1] ++ toBytes 1 anchor ++ toBytes 1 attempt ++ [0] ++ toBytes 4 round ++ toBytes 4 es.length ++
  toBytes 8 job ++ toBytes 8 ((List.range 64).foldl (fun n x => if es.any fun e => e.origin == x then n + 2 ^ x else n) 0) ++
  List.replicate 32 0 ++ es.flatMap LedgerEntry.encode

/-- The entries of a ledger body. -/
def ledgerEntries (body : List Byte) : List LedgerEntry :=
  (List.range (leField body 12 4)).map fun i =>
    let a := 64 + 24 * i
    ⟨leField body a 1, leField body (a + 4) 4, leField body (a + 8) 4, leField body (a + 12) 4, leField body (a + 16) 8⟩

end Sys2Proof.Machine
end

