-- ==== Sys2Proof/Machine/Wellhead.lean ====
section
/-!
DEFINITION. The wellhead's rounds: the start of a round engine binding, the cut, the fragment store, the ledger and its
anchor, the apply and the master correction (10, R320 to R337, R344 to R348; 01, R20 to R22), and the objects and packets
that wait for their partners (10, R338 to R343).
-/
namespace Sys2Proof.Machine

/-! ## What the wellhead holds -/

def State.onWell (s : State) (f : Wellhead → Wellhead) : State := { s with wellhead := f s.wellhead }

/-- A run with nothing in it. -/
def blankRun : Run :=
  { covers := [], steps := 0, cutStep := none, late := false, cutting := none, ready := none, asked := false
    fetch := none, applied := [], seeds := [], joinAt := 0, seeding := [], nonFinite := 0, discarded := 0 }

def State.run (s : State) (i : Nat) : Run := lookD i blankRun s.wellhead.runs

def State.setRun (s : State) (i : Nat) (r : Run) : State := s.onWell fun w => { w with runs := put i r w.runs }

/-- Bytes that a partner's pace bucket holds, in units of 1/8,000 byte (10, R343). -/
def paceBucket : Nat := 65536 * 8000

def blankPeer (now : Nat) : Peer :=
  { rtt := none, echo := none, heard := now, beat := now, seq := 0, tokens := paceBucket, at_ := now }

def State.peer (s : State) (site : Nat) : Peer := lookD site (blankPeer s.now) s.wellhead.peers

def State.setPeer (s : State) (site : Nat) (p : Peer) : State := s.onWell fun w => { w with peers := put site p w.peers }

/-- PSTATE codes (10, R319). -/
def peerUnknown : Nat := 0
def peerUp : Nat := 1
def peerSilent : Nat := 2
def peerRefused : Nat := 3

/-- The sites of a round engine binding, ascending, and its partners. -/
def State.sites (s : State) (i : Nat) : List Nat := (List.range 64).filter fun x => bit (s.rget Round.SITES i) x
def State.partners (s : State) (i : Nat) : List Nat := (s.sites i).filter fun x => x != s.rget Round.SELF_SITE i

def State.partnerUp (s : State) (x : Nat) : Bool := s.rget Partner.PSTATE x == peerUp
def State.refused (s : State) (x : Nat) : Bool := s.rget Partner.PSTATE x == peerRefused

/-- The shards that a binding covers. -/
def State.covered (s : State) (i : Nat) : List (Nat × Nat) :=
  (s.run i).covers.flatMap fun b => (s.bindShards b).map fun j => (b, j)

/-- The rule binding of a covered shard by its tensor. -/
def State.coveredShard (s : State) (i tensor shard : Nat) : Option (Nat × Nat) :=
  (s.covered i).find? fun e => s.rget Bind.TENSOR e.1 == tensor && e.2 == shard

/-- The round after another, modulo 2^32; after "none" it is round 0. -/
def nextRound (r : Nat) : Nat := (r + 1) % 2 ^ 32

/-- Is round `r` at or before round `q`, where all ones stands before every round? -/
def roundUpTo (r q : Nat) : Bool := decide (q ≠ 0xFFFFFFFF ∧ r ≤ q)

/-- The WHD_EVENT record (13, R439, R585). -/
def whdRec (reason : Nat) (ctx unit addr : Nat) : ErrRec :=
  { type := 0x0090, severity := if reason = 0x5B then 4 else if reason = 0x5D then 0 else 3, reason := reason
    context := ctx, die := 4, unit := unit, address := addr }

/-- The record of an event of a binding. -/
def State.whdEvent (s : State) (i reason : Nat) (unit : Nat := 0xFFFF) (addr : Nat := 0) : State :=
  let c := s.rget Round.CONTEXT i
  s.logError { whdRec reason (s.handle .context c) unit addr with partition := s.rget Ctx.PARTITION c }

/-- A binding enters FAULT on the wellhead's own account. -/
def State.faultRound (s : State) (i reason : Nat) (unit : Nat := 0xFFFF) : State :=
  (s.whdEvent i reason unit).stopForFault .round i reason

/-- Trace a phase of a round (18, R565): A is the order of the phase in the phases table. -/
def State.tracePhase (s : State) (i phase round : Nat) : State :=
  s.traceEvent 0 7 0x07 0xFFFF 32 (s.handle .context (s.rget Round.CONTEXT i)) 0 phase round

/-! ## Packets and objects on their way (10, R338 to R341) -/

def typeHello : Nat := 1
def typePiece : Nat := 2
def typePieceAck : Nat := 3
def typeLedgerReq : Nat := 4
def typeFetch : Nat := 5
def typeApplied : Nat := 6
def typeJoin : Nat := 7
def typeHeartbeat : Nat := 8
def typeStatus : Nat := 9

def kindFragment : Nat := 0
def kindLedger : Nat := 1
def kindSeed : Nat := 2
def kindCast : Nat := 3
def kindManifest : Nat := 4

/-- The 802.1Q tag of frames that leave a far port (10, R317). -/
def State.vlanTag (s : State) (port : Nat) : Option Nat :=
  let v := s.rget WhdPort.VLAN port
  if bit v 15 then some (v % 2 ^ 15) else none

/-- A packet waits for its partner's pace. -/
def State.queueWxp (s : State) (i site type round : Nat) (payload : List Byte) (reason : Nat := 0) : State :=
  s.onWell fun w => { w with queue := w.queue ++ [WxpOut.mk i site type round reason false payload none] }

/-- Bytes of the IP and UDP headers towards a partner: IPv4 for a mapped address, else IPv6 (10, R319, R340). -/
def State.ipHead (s : State) (site : Nat) : Nat :=
  if s.rget Partner.ADDRESS site / 2 ^ 32 = 0xFFFF then 28 else 48

/-- The MTU of the port towards a partner. -/
def State.mtuTo (s : State) (site : Nat) : Nat := s.rget WhdPort.MTU (s.rget Partner.FAR_PORT site)

/-- Piece bytes of a binding. -/
def State.pieceBytes (s : State) (i : Nat) : Nat := 1024 * 2 ^ s.rget Round.PIECE i

/-- Does the PIECE_ACK of an object fit the port towards a site (10, R340)? -/
def State.ackFits (s : State) (i len x : Nat) : Bool :=
  decide (64 + 16 + ceilDiv (ceilDiv len (s.pieceBytes i)) 8 + s.ipHead x ≤ s.mtuTo x)

/-- May an object be sent: at most 65,535 pieces, and an acknowledgement that fits every partner's port (10, R339,
R340)? -/
def State.objectFits (s : State) (i len : Nat) : Bool :=
  decide (ceilDiv len (s.pieceBytes i) ≤ 65535) && (s.partners i).all fun x => s.ackFits i len x

/-- A piece header (10, R339), in network byte order. -/
def pieceHead (o : Outgoing) (n pieces : Nat) : List Byte :=
  toBytesBE 1 o.key.kind ++ toBytesBE 1 o.key.origin ++ toBytesBE 2 n ++ toBytesBE 2 pieces ++ [0, 0] ++
  toBytesBE 4 (o.key.tensor % 2 ^ 24) ++ toBytesBE 4 o.key.shard ++ toBytesBE 4 o.body.length ++ [0, 0, 0, 0] ++
  toBytes 8 o.digest

/-- Pieces of an object. -/
def Outgoing.pieces (o : Outgoing) : Nat := ceilDiv o.body.length o.size

/-- The packet of one piece. -/
def Outgoing.packet (o : Outgoing) (n : Nat) (resent : Bool) : WxpOut :=
  ⟨o.bind, o.site, typePiece, o.key.round, 0, resent, pieceHead o n o.pieces ++ slice o.body (n * o.size) o.size,
   some (o.key, o.digest, n)⟩

/-- Two objects that acknowledgements cannot tell apart. -/
def Outgoing.sameKey (o p : Outgoing) : Bool := o.bind == p.bind && o.site == p.site && o.key == p.key

/-- Queue the pieces of objects whose turn has come: objects of one key towards one site go one after another, since
PIECE_ACK does not tell them apart (log 46). -/
def queueObjects : List Outgoing → List Outgoing → List Outgoing × List WxpOut
  | _, [] => ([], [])
  | seen, o :: os =>
    let (rest, ps) := queueObjects (seen ++ [o]) os
    if o.queued || seen.any (o.sameKey ·) then (o :: rest, ps)
    else ({ o with queued := true } :: rest, ((List.range o.pieces).map fun n => o.packet n false) ++ ps)

def State.pumpObjects (s : State) : State :=
  s.onWell fun w =>
    let r := queueObjects [] w.outgoing
    { w with outgoing := r.1, queue := w.queue ++ r.2 }

/-- Send an object to a site. -/
def State.sendObject (s : State) (i site : Nat) (key : ObjectKey) (digest : Nat) (body : List Byte) (asked : Bool) : State :=
  (s.onWell fun w => { w with outgoing := w.outgoing ++
    [Outgoing.mk i site key digest body (s.pieceBytes i) [] [] none asked false] }).pumpObjects

/-- Objects are no longer sent. -/
def State.dropObjects (s : State) (which : Outgoing → Bool) : State :=
  (s.onWell fun w =>
    let gone := w.outgoing.filter which
    { w with
      outgoing := w.outgoing.filter fun o => !which o
      queue := w.queue.filter fun q => match q.piece with
        | none => true
        | some (k, d, _) => !gone.any fun o => o.bind == q.bind && o.site == q.site && o.key == k && o.digest == d }).pumpObjects

/-! ## The fragment store (10, R344, R345) -/

/-- Bytes of the store that a binding uses. -/
def State.storeUsed (s : State) (i : Nat) : Nat :=
  ((s.wellhead.frags.filter fun f => f.bind == i).foldl (fun n f => n + f.body.length) 0) +
  ((s.wellhead.ledgers.filter fun l => l.bind == i).foldl (fun n l => n + l.body.length) 0)

/-- A fragment in the store. -/
def State.fragment? (s : State) (i round origin tensor shard : Nat) : Option Fragment :=
  s.wellhead.frags.find? fun f =>
    f.bind == i && f.round == round && f.origin == origin && f.tensor == tensor && f.shard == shard

/-- Put a fragment into the store, or discard and count it, with a record, when it does not fit. -/
def State.storeFragment (s : State) (f : Fragment) : State :=
  if s.rget Round.STORE_MIB f.bind * 2 ^ 20 < s.storeUsed f.bind + f.body.length then
    (s.setRun f.bind { s.run f.bind with discarded := (s.run f.bind).discarded + 1 }).whdEvent f.bind 0x57 f.origin
      (f.tensor * 2 ^ 32 + f.shard)
  else s.onWell fun w => { w with frags := w.frags ++ [f] }

/-- The ledgers of a round that a site holds, and the one of the lowest attempt (10, R334). -/
def State.roundLedgers (s : State) (i round : Nat) : List Ledger :=
  s.wellhead.ledgers.filter fun l => l.bind == i && l.round == round

def lowestAttempt : List Ledger → Option Ledger
  | [] => none
  | l :: ls =>
    match lowestAttempt ls with
    | none => some l
    | some m => if m.attempt < l.attempt then some m else some l

def State.ledgerOf (s : State) (i round : Nat) : Option Ledger := lowestAttempt (s.roundLedgers i round)

/-- Does a ledger name a fragment? -/
def Ledger.names (l : Ledger) (f : Fragment) : Bool :=
  (ledgerEntries l.body).any fun e =>
    e.origin == f.origin && e.tensor == f.tensor && e.shard == f.shard && e.digest == f.digest

/-- The entries of a ledger that concern covered shards and whose fragments are missing. -/
def State.missing (s : State) (l : Ledger) : List LedgerEntry :=
  (ledgerEntries l.body).filter fun e => (s.coveredShard l.bind e.tensor e.shard).isSome &&
    !s.wellhead.frags.any fun f => f.bind == l.bind && f.round == l.round && f.origin == e.origin && f.tensor == e.tensor &&
      f.shard == e.shard && f.digest == e.digest

/-! ## Planes (10, R321) -/

/-- Write a plane of a shard, with its poison. -/
def State.writePlane (s : State) (i b j k : Nat) (codes : List (List Nat)) (mark : Bool) : State :=
  (s.paramWrites b (s.planeBase i b j k) 4 codes).foldl (fun s w => if w.2.isEmpty then s else s.store w.1 w.2 mark) s

def State.readPlane (s : State) (i b j k : Nat) : List (List Nat) := s.readParams b j (s.planeBase i b j k) 4
def State.planePoison (s : State) (i b j k : Nat) : Bool := s.paramPoison b j (s.planeBase i b j k) 4

/-- The state after planes of a shard have been read. -/
def State.touchPlanes (s : State) (i b j : Nat) (ks : List Nat) : State :=
  ks.foldl (fun s k => (s.paramRanges b j (s.planeBase i b j k) 4).foldl (fun s r => s.touch r.1 r.2) s) s

/-- The zero pattern at every parameter of a shard. -/
def State.zeroPlane (s : State) (b j : Nat) : List (List Nat) :=
  let x := s.shardBox b j
  List.replicate x.rows (List.replicate x.cols 0)

/-! ## Ledgers: FETCH and plane 4 (10, R329, R345) -/

/-- The body of FETCH. -/
def fetchEntry (e : LedgerEntry) : List Byte :=
  toBytesBE 1 e.origin ++ [0, 0, 0] ++ toBytesBE 4 e.tensor ++ toBytesBE 4 e.shard

/-- FETCH goes to every partner that is UP, in packets of as many entries as fit, up to 256 (10, R340; log 47). -/
def State.sendFetch (s : State) (l : Ledger) : State :=
  let es := s.missing l
  ((s.partners l.bind).filter fun x => s.partnerUp x).foldl (fun s x =>
    let fit := min 256 ((s.mtuTo x - 64 - s.ipHead x) / 12)
    (pieces fit es).foldl (fun s p => s.queueWxp l.bind x typeFetch l.round (p.flatMap fetchEntry)) s) s

/-- The values of a shard's fragments that a ledger names: for each its origin, its values and why it was not decoded. -/
def State.ledgerValues (s : State) (l : Ledger) (b j : Nat) : List (Nat × List (Nat × Val) × Option BlockError) :=
  let t := s.rget Bind.TENSOR b
  ((ledgerEntries l.body).filter fun e => e.tensor == t && e.shard == j).filterMap fun e =>
    (s.wellhead.frags.find? fun f => f.bind == l.bind && f.round == l.round && f.origin == e.origin && f.tensor == t &&
      f.shard == j && f.digest == e.digest).map fun f =>
        match fragmentValues f.digest f.body with
        | .ok xs => (e.origin, xs, none)
        | .error err => (e.origin, [], some err)

/-- The average of fragments at a position: the exact sum, one quotient, one rounding. -/
def averageAt (frags : List (Nat × List (Nat × Val) × Option BlockError)) (p : Nat) : Val :=
  let sum := frags.foldl (fun a f => (f.2.1.filter fun x => x.1 == p).foldl (fun a x => a.add x.2) a) (Val.zero false)
  rn (sum.div (.fin frags.length))

/-- Plane 4 of a shard. -/
def State.average (s : State) (b j : Nat) (frags : List (Nat × List (Nat × Val) × Option BlockError)) : Mat :=
  let x := s.shardBox b j
  table2 x.rows x.cols fun r c => averageAt frags (r * s.shardCols b + c)

def fragsFinite (frags : List (Nat × List (Nat × Val) × Option BlockError)) : Bool := frags.all fun f => f.2.1.all fun x => x.2.isFinite

/-- The record of a fragment that cannot be decoded (05, R168, R174). -/
def State.badFragment (s : State) (i : Nat) (e : BlockError) : State :=
  let c := s.rget Round.CONTEXT i
  s.logError { type := if e = .malformed then 0x0020 else 0x0021, severity := 3, reason := e.reason
               context := s.handle .context c, die := 4, partition := s.rget Ctx.PARTITION c }

/-- Compute plane 4 of a shard from a ledger. An average that is not finite from finite values is not written. -/
def State.averageShard (s : State) (l : Ledger) (b j : Nat) : State :=
  let fs := s.ledgerValues l b j
  let s := (fs.filterMap fun f => f.2.2).foldl (fun s e => s.badFragment l.bind e) s
  if fs.isEmpty then s
  else
    let m := s.average b j fs
    if fragsFinite fs && !Mat.finite m then s
    else s.writePlane l.bind b j 4 (codesOf m) (fs.any fun f => f.2.2.isSome)

/-- A ledger of the next round to apply: its missing fragments are fetched, and plane 4 is computed when all are here. -/
def State.checkReady (s : State) (i : Nat) : State :=
  match s.ledgerOf i (nextRound (s.rget Round.APPLIED i)) with
  | none => s
  | some l =>
    let run := s.run i
    if run.ready = some l.digest then s
    else if (s.missing l).isEmpty then
      let s := (s.covered i).foldl (fun s e => s.averageShard l e.1 e.2) s
      ((s.setRun i { s.run i with ready := some l.digest, fetch := none }).tracePhase i 5 l.round)
    else
      let s := s.setRun i { run with ready := none }
      if run.fetch.isSome then s
      else ((s.setRun i { s.run i with fetch := some (s.now, 0) }).sendFetch l).tracePhase i 4 l.round

/-- A verified ledger is held: own fragments of its round are sent no more, and a ledger of an applied round that differs
is a conflict (10, R334, R341). -/
def State.acceptLedger (s : State) (l : Ledger) : State :=
  match look l.round (s.run l.bind).applied with
  | some d => if d = l.digest then s else s.faultRound l.bind 0x56
  | none =>
    if roundUpTo l.round (s.rget Round.APPLIED l.bind) || (s.roundLedgers l.bind l.round).any fun m => m.digest == l.digest
    then s
    else
      let s := s.onWell fun w => { w with ledgers := w.ledgers ++ [l] }
      let s := s.dropObjects fun o => o.bind == l.bind && o.key.kind == kindFragment && o.key.round == l.round && !o.asked
      s.checkReady l.bind

/-! ## The anchor (10, R328, R333) -/

/-- A site's place in the list of sites. -/
def State.siteIndex (s : State) (i site : Nat) : Nat := (s.sites i).findIdx fun x => x == site

/-- The lowest attempt at which this site is the anchor of a round. -/
def State.ownAttempt (s : State) (i round : Nat) : Nat :=
  let n := (s.sites i).length
  (s.siteIndex i (s.rget Round.SELF_SITE i) + n - round % n) % n

/-- This site closes a round as its anchor: the ledger names every fragment of the round that it holds. -/
def State.closeRound (s : State) (i round attempt : Nat) : State :=
  let es := (s.wellhead.frags.filter fun f => f.bind == i && f.round == round).map fun f =>
    LedgerEntry.mk f.origin f.tensor f.shard f.body.length f.digest
  let self := s.rget Round.SELF_SITE i
  let body := ledgerBody self attempt round (s.rget Round.JOB i) es
  let l : Ledger := ⟨i, round, attempt, digest64 body, body⟩
  let s := if attempt = 0 then s else s.rwrap Round.TAKEOVERS i
  let s := if s.objectFits i body.length then
      ((s.partners i).filter fun x => !s.refused x).foldl (fun s x =>
        s.sendObject i x ⟨kindLedger, self, round, 0, 0⟩ l.digest body false) s
    else s.whdEvent i 0x51
  (s.acceptLedger l).tracePhase i 3 round

/-- The round whose cut this site has taken and not applied. -/
def State.inFlight (s : State) (i : Nat) : Option Nat :=
  let r := nextRound (s.rget Round.APPLIED i)
  if (s.run i).cutting.isNone ∧ s.rget Round.ROUND i = nextRound r ∧ (s.run i).cutStep.isSome = true then some r else none

/-- Does a site hold a fragment of a round for every covered shard from an origin? -/
def State.holdsAll (s : State) (i round origin : Nat) : Bool :=
  (s.covered i).all fun e => (s.fragment? i round origin (s.rget Bind.TENSOR e.1) e.2).isSome

/-- The anchor at attempt 0 closes a round as soon as it is complete. -/
def State.anchorCheck (s : State) (i : Nat) : State :=
  match s.inFlight i with
  | none => s
  | some r =>
    let self := s.rget Round.SELF_SITE i
    if s.isOn .round i && s.ownAttempt i r == 0 && (s.ledgerOf i r).isNone &&
        (s.sites i).all (fun x => (x != self && !s.partnerUp x) || s.holdsAll i r x) then s.closeRound i r 0 else s

/-- LEDGER_REQ at a passing gate of step count `step`, and the anchor's close point. A joiner that has taken no cut yet asks at
every gate until it holds the ledger (log 48). -/
def State.anchorGate (s : State) (i step : Nat) : State :=
  let r := nextRound (s.rget Round.APPLIED i)
  let ask := fun (s : State) => ((s.partners i).filter fun x => s.partnerUp x).foldl (fun s x =>
    s.queueWxp i x typeLedgerReq r []) (s.setRun i { s.run i with asked := true })
  if (s.ledgerOf i r).isSome then s
  else
    match s.inFlight i, (s.run i).cutStep with
    | some _, some c =>
      let a := s.ownAttempt i r
      let late := decide (c + s.rget Round.DEADLINE_STEPS i + s.rget Round.TAKEOVER_STEPS i ≤ step)
      let s := if late && !(s.run i).asked then ask s else s
      if c + s.rget Round.DEADLINE_STEPS i + a * s.rget Round.TAKEOVER_STEPS i ≤ step then s.closeRound i r a else s
    | _, none => if s.rbit Round.JOINER i then ask s else s
    | none, _ => s

/-! ## A fragment arrives (10, R328, R344) -/

/-- A complete and verified fragment: kept until round r + 2 is applied; after the close only what a ledger names. -/
def State.acceptFragment (s : State) (f : Fragment) : State :=
  let ls := s.roundLedgers f.bind f.round
  if (s.fragment? f.bind f.round f.origin f.tensor f.shard).isSome || roundUpTo (f.round + 2) (s.rget Round.APPLIED f.bind) ||
      (!ls.isEmpty && !ls.any fun l => l.names f) then s
  else ((s.storeFragment f).anchorCheck f.bind).checkReady f.bind

/-! ## The cut (10, R323 to R327) -/

/-- May a shard be read for a cut of step count `step`: every commit of the gates up to it is made? -/
def State.settled (s : State) (b j step : Nat) : Bool :=
  !(s.update.applies.any fun a => a.bind == b && a.passed && decide (a.step < step) &&
      a.shards.any fun u => u.shard == j && u.done.isNone) && !s.correctionFirst b j step

/-- The architectural index of a position of a shard (03, R101). -/
def State.placeIndex (s : State) (b j p : Nat) : Nat :=
  let x := s.shardBox b j
  (x.r0 + p / s.shardCols b) * s.rget Bind.DIM1 b + x.c0 + p % s.shardCols b

/-- The positions of a shard's parameters with their patterns, ascending. -/
def State.placesOf (s : State) (b : Nat) (codes : List (List Nat)) : List Place :=
  ((List.range codes.length).zip codes).flatMap fun row =>
    ((List.range row.2.length).zip row.2).map fun e => (row.1 * s.shardCols b + e.1, e.2)

/-- Cut one shard: well, cut plane and selection, and the count of what is not finite (R325). Poison resets the
partition. -/
def State.cutShard (s : State) (i : Nat) (k : Cut) (b j : Nat) : State :=
  let s := (s.paramRanges b j (s.masterBase b j) 4).foldl (fun s r => s.touch r.1 r.2) (s.touchPlanes i b j [0, 2])
  let left := k.left.filter fun e => e != (b, j)
  if s.planePoison i b j 0 || s.planePoison i b j 2 || s.paramPoison b j (s.masterBase b j) 4 then
    ((s.setRun i { s.run i with cutting := some { k with left := left } }).whdEvent i 0x5B 0xFFFF
      (s.rget Bind.TENSOR b * 2 ^ 32 + j)).resetPartition (s.partOf (s.rget Round.CONTEXT i))
  else
    let master := s.readParams b j (s.masterBase b j) 4
    let d := Mat.map2 (fun x y => rn (x.sub y)) (valsOf (s.readPlane i b j 0)) (valsOf master)
    let e := codesOf (Mat.map2 (fun x y => rn (x.add y)) d (valsOf (s.readPlane i b j 2)))
    let kept := selectPlaces (s.places b) (s.rget Round.TOPK_SHIFT i) (s.placesOf b e)
    let s := (s.writePlane i b j 2 e false).writePlane i b j 3 master false
    let wild := (e.flatten.filter fun v => !(ofF32 v).isFinite).length
    s.setRun i { s.run i with
      cutting := some { k with left := left, kept := k.kept ++ [(b, j, kept)] }, nonFinite := (s.run i).nonFinite + wild }

/-- The fragments of one tensor of a cut. -/
def State.formFragments (s : State) (i : Nat) (k : Cut) (b : Nat) : List Fragment :=
  let fmt := s.rget Round.QFMT i
  let t := s.rget Bind.TENSOR b
  let self := s.rget Round.SELF_SITE i
  let seed := s.rget Ctx.SEED (s.rget Round.CONTEXT i)
  let qs := (k.kept.filter fun e => e.1 == b).map fun e =>
    (e.2.1, quantise fmt (s.rget Round.RND i) (fun p => randomByte seed k.round 4 t (s.placeIndex b e.2.1 p)) e.2.2)
  let table := fragmentTable fmt (Config.fragmentGen t k.round % 16) (qs.map fun q => streamItems q.2.codes)
  qs.map fun q =>
    let body := fragmentBody ⟨fmt, self, s.rget Round.TOPK_SHIFT i, k.round, t, q.1, s.places b⟩
      (Config.fragmentSlot t k.round % 8) table q.2
    ⟨i, k.round, self, t, q.1, digest64 body, body⟩

/-- Send an own fragment to every partner that is not REFUSED. -/
def State.sendFragment (s : State) (f : Fragment) : State :=
  if s.objectFits f.bind f.body.length then
    ((s.partners f.bind).filter fun x => !s.refused x).foldl (fun s x =>
      s.sendObject f.bind x ⟨kindFragment, f.origin, f.round, f.tensor, f.shard⟩ f.digest f.body false)
      (s.rinc Round.FRAGS_SENT f.bind)
  else s.whdEvent f.bind 0x51

/-- A cut whose shards have all been read: its fragments are formed, kept and sent, unless the round's ledger is already
held (10, R327). -/
def State.finishCut (s : State) (i : Nat) (k : Cut) : State :=
  let fs := (s.run i).covers.flatMap fun b => s.formFragments i k b
  let s := (s.setRun i { s.run i with cutting := none }).rput Round.ROUND i (nextRound k.round)
  let s := if (s.ledgerOf i k.round).isSome then s
    else fs.foldl (fun s f => (s.storeFragment f).sendFragment f) s
  (((s.tracePhase i 2 k.round).anchorCheck i).checkReady i)

/-- Read the settled shards of a cut that has begun, and finish it with the last one. -/
def State.cutOn (s : State) (i : Nat) : State :=
  match (s.run i).cutting with
  | none => s
  | some k =>
    let s := k.left.foldl (fun s e =>
      match (s.run i).cutting with
      | some k => if s.isOn .round i && s.settled e.1 e.2 k.step then s.cutShard i k e.1 e.2 else s
      | none => s) s
    match (s.run i).cutting with
    | some k => if k.left.isEmpty && s.isOn .round i then s.finishCut i k else s
    | none => s

/-- Every cut that has begun goes on. -/
def State.cutsOn (s : State) : State := s.wellhead.runs.foldl (fun s e => s.cutOn e.1) s

/-- A cut begins at a passing gate. -/
def State.beginCut (s : State) (i step : Nat) : State :=
  let r := s.rget Round.ROUND i
  ((s.setRun i { s.run i with
    steps := 0, cutStep := some step, late := false, asked := false
    cutting := some ⟨r, step, s.covered i, []⟩ }).tracePhase i 1 r).cutOn i

/-! ## The apply (10, R330 to R334) -/

/-- A shard's outer update at its apply gate, and the correction of its master. -/
def State.applyShard (s : State) (i : Nat) (l : Ledger) (step b j : Nat) : State :=
  let c := s.rget Round.CONTEXT i
  let s := s.touchPlanes i b j [0, 1, 2, 3, 4]
  let fs := s.ledgerValues l b j
  let base := valsOf (s.readPlane i b j 0)
  let cut := valsOf (s.readPlane i b j 3)
  let rung := (s.rungOf c).rung
  let correct := fun (s : State) (base : Mat) (poison : Bool) =>
    let e : Correction :=
      { bind := b, shard := j, step := step, rung := rung, delta := codesOf (Mat.map2 (fun x y => rn (x.sub y)) base cut)
        clean := Mat.finite base && Mat.finite cut, poison := poison || s.planePoison i b j 3 }
    { s with update := { s.update with corrections := s.update.corrections ++ [e] } }
  if fs.isEmpty then correct s base (s.planePoison i b j 0)
  else
    let mu := ofF32 (s.rget Round.OUTER_MU i)
    let lr := ofF32 (s.rget Round.OUTER_LR i)
    let avg := s.average b j fs
    let mom := valsOf (s.readPlane i b j 1)
    let well := valsOf (s.readPlane i b j 2)
    let mom' := Mat.map2 (fun q a => rn ((rn (mu.mul q)).add a)) mom avg
    let step' := if s.rbit Round.NESTEROV i then Mat.map2 (fun a q => rn (a.add (rn (mu.mul q)))) avg mom' else mom'
    let base' := Mat.map2 (fun x q => rn (x.sub (rn (lr.mul q)))) base step'
    let own := (fs.filter fun f => f.1 == s.rget Round.SELF_SITE i).flatMap fun f => f.2.1
    let x := s.shardBox b j
    let well' := table2 x.rows x.cols fun r q =>
      (own.filter fun v => v.1 == r * s.shardCols b + q).foldl (fun w v => rn (w.sub v.2)) (at2 well r q)
    let clean := fragsFinite fs && mu.isFinite && lr.isFinite && Mat.finite mom && Mat.finite base
    let whole := Mat.finite avg && Mat.finite mom' && Mat.finite base' && (!Mat.finite well || Mat.finite well')
    let poison := fs.any (fun f => f.2.2.isSome) || s.planePoison i b j 0 || s.planePoison i b j 1 || s.planePoison i b j 4
    if clean && !whole then
      correct ((s.rinc Round.HELD i).whdEvent i 0x5C 0xFFFF (s.rget Bind.TENSOR b * 2 ^ 32 + j)) base (s.planePoison i b j 0)
    else
      let s := (s.writePlane i b j 1 (codesOf mom') poison).writePlane i b j 0 (codesOf base') poison
      let s := if own.isEmpty then s else s.writePlane i b j 2 (codesOf well') (s.planePoison i b j 2)
      correct s base' poison

/-- An object is sent to a site, or recorded where its pieces or its acknowledgement are too many (10, R339, R340). -/
def State.sendFitting (s : State) (i site : Nat) (key : ObjectKey) (digest : Nat) (body : List Byte) : State :=
  if s.objectFits i body.length && s.ackFits i body.length site then s.sendObject i site key digest body false
  else s.whdEvent i 0x51

/-- Seed records are sent as objects of kind 2 (10, R346). -/
def State.sendSeeds (s : State) (i site : Nat) : State :=
  let r := s.rget Round.APPLIED i
  let step := s.rget Ctx.STEP (s.rget Round.CONTEXT i)
  (s.covered i).foldl (fun s e => [contentBase, contentOuter].foldl (fun s k =>
    let x := s.shardRecord e.1 e.2 k step
    s.sendFitting i site ⟨kindSeed, s.rget Round.SELF_SITE i, r, x.tensor, e.2⟩ (fromBytes (x.digest.take 8)) x.bytes) s) s

/-- The outer update of a round at a passing gate: every covered shard, APPLIED to every partner, what rounds r - 2 and
before left in the store, and the seeds of joiners anew at the new round. -/
def State.applyRound (s : State) (i step : Nat) (l : Ledger) : State :=
  let s := (s.covered i).foldl (fun s e => s.applyShard i l step e.1 e.2) s
  let self := s.rget Round.SELF_SITE i
  let out := (s.wellhead.frags.filter fun f => f.bind == i && f.round == l.round && f.origin == self && !l.names f).length
  let s := ((s.rput Round.APPLIED i l.round).rput Round.LEDGER_DIGEST i l.digest).rinc Round.FRAGS_LEFT_OUT i out
  let s := s.setRun i { s.run i with
    ready := none, fetch := none, asked := false, applied := put l.round l.digest (s.run i).applied }
  let s := (s.partners i).foldl (fun s x =>
    s.queueWxp i x typeApplied l.round (toBytes 8 l.digest ++ toBytesBE 1 l.attempt ++ List.replicate 7 0)) s
  let s := s.onWell fun w => { w with
    frags := w.frags.filter fun f => !(f.bind == i && decide (f.round + 2 ≤ l.round))
    ledgers := w.ledgers.filter fun m => !(m.bind == i && decide (m.round + 2 ≤ l.round))
    assemblies := w.assemblies.filter fun a => !(a.bind == i && decide (a.key.round + 2 ≤ l.round)) }
  let s := s.dropObjects fun o => o.bind == i && o.key.kind == kindSeed
  let s := (s.run i).seeding.foldl (fun s x => s.sendSeeds i x) s
  (s.tracePhase i 6 l.round).checkReady i

/-- The ledger that may be applied now: plane 4 is computed and the own cut of the round is taken. -/
def State.applicable (s : State) (i : Nat) : Option Ledger :=
  let r := nextRound (s.rget Round.APPLIED i)
  match s.ledgerOf i r with
  | some l => if (s.run i).ready = some l.digest ∧ (s.run i).cutting.isNone ∧ s.rget Round.ROUND i ≠ r then some l else none
  | none => none

/-- The round engine at a passing gate that produced a step count: the apply, the cut or its deferral, and the close
points of the anchor (10, R322 to R334; 01, R20, R22). -/
def State.roundGate (s : State) (i step : Nat) : State :=
  let now := s.applicable i
  let s := match now with
    | some l => s.applyRound i step l
    | none => s
  let run := s.run i
  let s := s.setRun i { run with steps := run.steps + 1 }
  let due := decide (s.rget Round.H i ≤ run.steps + 1)
  let free := run.cutting.isNone && s.rget Round.ROUND i == nextRound (s.rget Round.APPLIED i) && !(run.late && now.isSome)
  let s := if !due then s
    else if free then s.beginCut i step
    else if run.late then s
    else (s.setRun i { s.run i with late := true }).rinc Round.CUTS_DEFERRED i
  s.anchorGate i step

/-- The wellhead at a passing gate of a context. -/
def State.roundsGate (s : State) (c step : Nat) : State :=
  match s.roundOf c with
  | none => s
  | some i => s.roundGate i step

/-! ## The master correction (10, R331) and the commits that cuts wait for -/

/-- MASTER_CORRECTION_COMMIT: the oldest correction of a shard, after the inner commit of its gate. -/
def State.correctMaster (s : State) (b j : Nat) : State :=
  match s.update.corrections.find? fun e => e.bind == b && e.shard == j with
  | none => s
  | some e =>
    let inner := s.update.applies.any fun a => a.bind == b && a.passed && decide (a.step < e.step) &&
      a.shards.any fun u => u.shard == j && u.done.isNone
    if inner || s.castHolds b (e.step - 1) then s
    else
      let gone : State := { s with update := { s.update with corrections := s.update.corrections.erase e } }
      if e.poison || s.paramPoison b j (s.masterBase b j) 4 then
        (gone.logError (commitPoisonRec s b j 0 e.step)).resetPartition (s.partOf (s.bindCtx b))
      else
        let master := valsOf (s.readParams b j (s.masterBase b j) 4)
        let new := Mat.map2 (fun x y => rn (x.add y)) master (valsOf e.delta)
        if e.clean && Mat.finite master && !Mat.finite new then
          let t := gone.holdShard b j 0 e.step
          { t with update := { t.update with held := put (b, j) e.step t.update.held } }
        else
          match s.nextSlot b j with
          | none => s
          | some k =>
            gone.commitShard b j k e.rung e.step 0 (s.paramWrites b (s.masterBase b j) 4 (codesOf new)) (codesOf new)

def execMasterCorrectionCommit (b j : Nat) (s : State) : Host.Outcome State Fault Refusal :=
  .next (if s.isOn .binding b then (s.correctMaster b j).cutsOn else s)

/-- SHARD_COMMIT. A binding that has left ON begins no commit (07, R243). -/
def execShardCommit (b j : Nat) (s : State) : Host.Outcome State Fault Refusal :=
  .next (if s.isOn .binding b then (s.commitDue b j).cutsOn else s)

/-- UPDATE_RULE_RUN. -/
def execUpdateRuleRun (b j : Nat) (s : State) : Host.Outcome State Fault Refusal :=
  .next (if s.isOn .binding b && s.ownsShard b j then (s.runRule b j).cutsOn else s)

/-! ## Start and end of a binding (10, R322, R346 to R348) -/

/-- Everything that the wellhead holds for a binding is discarded. -/
def State.dropRound (s : State) (i : Nat) : State :=
  s.onWell fun w =>
    { w with
      runs := del i w.runs
      frags := w.frags.filter fun f => f.bind != i
      ledgers := w.ledgers.filter fun l => l.bind != i
      assemblies := w.assemblies.filter fun a => a.bind != i
      outgoing := w.outgoing.filter fun o => o.bind != i
      queue := w.queue.filter fun q => q.bind != i }

/-- The field bytes of CONFIG_DIGEST, each at its width rounded up to bytes (10, R339). -/
def State.fieldBytes (s : State) (f : Fld) (i : Nat) : List Byte := toBytes (ceilDiv f.len 8) (s.rget f i)

/-- Insert a binding by its tensor. -/
def insertTensor (s : State) (b : Nat) : List Nat → List Nat
  | [] => [b]
  | c :: cs => if s.rget Bind.TENSOR b < s.rget Bind.TENSOR c then b :: c :: cs else c :: insertTensor s b cs

/-- CONFIG_DIGEST. -/
def State.configDigest (s : State) (i : Nat) : Nat :=
  let bs := (s.onBindings (s.rget Round.CONTEXT i)).foldl (fun l b => insertTensor s b l) []
  digest64 (([Round.H, Round.TOPK_SHIFT, Round.QFMT, Round.RND, Round.NESTEROV, Round.OUTER_LR, Round.OUTER_MU,
      Round.DEADLINE_STEPS, Round.TAKEOVER_STEPS, Round.SITES].flatMap fun f => s.fieldBytes f i) ++
    bs.flatMap fun b => [Bind.TENSOR, Bind.DIM0, Bind.DIM1, Bind.SHARD_ROWS, Bind.SHARD_COLS, Bind.SHARD_FIRST,
      Bind.SHARD_COUNT].flatMap fun f => s.fieldBytes f b)

/-- The retransmit timeout of a partner in us (10, R342): 1 s before the first sample. -/
def State.rtoOf (s : State) (site : Nat) : Rat :=
  match (s.peer site).rtt with
  | none => 1000000
  | some (srtt, var) =>
    let r := srtt + 4 * var
    if r < 1000 then 1000 else if 60000000 < r then 60000000 else r

/-- Microseconds as nanoseconds, rounded up to the time base. -/
def usToNs (q : Rat) : Nat := (q * 1000).ceil.toNat

/-- Send JOIN to SEED_SITE, to be sent again after RTO. -/
def State.sendJoin (s : State) (i : Nat) : State :=
  let x := s.rget Round.SEED_SITE i
  (s.setRun i { s.run i with joinAt := s.now + usToNs (s.rtoOf x) }).queueWxp i x typeJoin (s.rget Round.ROUND i)
    (toBytes 8 (s.configDigest i))

/-- A round engine binding enters STARTING: it covers the rule bindings that are ON, and a joiner sends JOIN. -/
def State.beginRound (s : State) (i : Nat) : State :=
  let s := (s.dropRound i).setRun i { blankRun with covers := s.onBindings (s.rget Round.CONTEXT i) }
  let s := (s.partners i).foldl (fun s x => s.setPeer x { s.peer x with heard := s.now, beat := s.now }) s
  if s.rbit Round.JOINER i then s.sendJoin i else s

/-- The data of a seed as rows of FP32 patterns. -/
def State.seedRows (s : State) (b j : Nat) (data : List Byte) : List (List Nat) :=
  let x := s.shardBox b j
  (List.range x.rows).map fun r => (List.range x.cols).map fun c => leField data (4 * (r * x.cols + c)) 4

/-- Has a joiner every seed record? -/
def State.seeded (s : State) (i : Nat) : Bool :=
  (s.covered i).all fun e => [contentBase, contentOuter].all fun k =>
    (s.run i).seeds.any fun d => d.tensor == s.rget Bind.TENSOR e.1 && d.shard == e.2 && d.content == k

/-- The seed of a shard. -/
def State.seedOf (s : State) (i b j k : Nat) : List (List Nat) :=
  match (s.run i).seeds.find? fun d => d.tensor == s.rget Bind.TENSOR b && d.shard == j && d.content == k with
  | some d => s.seedRows b j d.data
  | none => s.zeroPlane b j

/-- The planes of a joiner, its master, APPLIED and ROUND. -/
def State.plantSeeds (s : State) (i : Nat) : State :=
  let a := ((s.run i).seeds.head?.map Seed.round).getD 0
  let s := (s.covered i).foldl (fun s e =>
    let base := s.seedOf i e.1 e.2 contentBase
    let s := (s.writePlane i e.1 e.2 0 base false).writePlane i e.1 e.2 1 (s.seedOf i e.1 e.2 contentOuter) false
    let s := (s.writePlane i e.1 e.2 3 base false).writePlane i e.1 e.2 2 (s.zeroPlane e.1 e.2) false
    s.writeAll (s.paramWrites e.1 (s.masterBase e.1 e.2) 4 base)) s
  ((s.rput Round.APPLIED i a).rput Round.ROUND i (nextRound (nextRound a)))

/-- The planes of a binding that starts from its local master; a restore keeps planes 0 to 2. -/
def State.plantMaster (s : State) (i : Nat) (keep : Bool) : State :=
  (s.covered i).foldl (fun s e =>
    let m := s.readParams e.1 e.2 (s.masterBase e.1 e.2) 4
    let p := s.paramPoison e.1 e.2 (s.masterBase e.1 e.2) 4
    let s := s.writePlane i e.1 e.2 3 m p
    if keep then s
    else
      let z := s.zeroPlane e.1 e.2
      ((s.writePlane i e.1 e.2 0 m p).writePlane i e.1 e.2 1 z false).writePlane i e.1 e.2 2 z false) s

/-- May a binding's start end? -/
def State.roundStartReady (s : State) (i : Nat) : Bool := !s.rbit Round.JOINER i || s.seeded i

/-- The end of a start: the planes, then HELLO to every other site, or a joiner's LEDGER_REQ. -/
def State.endRoundStart (s : State) (i : Nat) (keep : Bool) : State :=
  if s.rbit Round.JOINER i then
    let s := s.plantSeeds i
    let s := s.setRun i { s.run i with seeds := [] }
    ((s.partners i).filter fun x => s.partnerUp x).foldl (fun s x =>
      s.queueWxp i x typeLedgerReq (nextRound (s.rget Round.APPLIED i)) []) s
  else
    let s := s.plantMaster i keep
    (s.partners i).foldl (fun s x => s.queueWxp i x typeHello (s.rget Round.ROUND i)
      (toBytes 8 (s.configDigest i) ++ toBytesBE 8 (s.rget Round.SITES i))) s

end Sys2Proof.Machine
end

