-- ==== Sys2Proof/Machine/Wxp.lean ====
section
/-!
DEFINITION. WXP packets at the far ports: what every packet does at its arrival, each packet type, the timers, the paced
sending, and the other frames of a far port (10, R316, R338 to R346).
-/
namespace Sys2Proof.Machine

/-! ## The header on the wire (10, R338) -/

/-- A header of 64 bytes in network byte order, its checksum over header and payload. -/
def wxpBytes (type : Nat) (resent : Bool) (job src dst module_ round seq tx echo hold reason : Nat) (payload : List Byte) :
    List Byte :=
  let head := ascii "SVWX" ++ [1] ++ toBytesBE 1 type ++ toBytesBE 2 (b2n resent) ++ toBytesBE 8 job ++ toBytesBE 1 src ++
    toBytesBE 1 dst ++ toBytesBE 2 module_ ++ toBytesBE 4 round ++ toBytesBE 4 seq ++ toBytesBE 4 payload.length ++
    toBytesBE 8 tx ++ toBytesBE 8 echo ++ toBytesBE 4 hold ++ toBytesBE 1 reason ++ List.replicate 7 0
  head ++ toBytesBE 4 (crc32c (head ++ [0, 0, 0, 0] ++ payload)) ++ payload

/-- The header of a packet that has arrived, as STATUS carries it back. -/
def arrivedHeader (p : WxpHeader) (type : Nat) (payload : List Byte) : List Byte :=
  (wxpBytes type p.resent p.job.toNat p.srcSite p.dstSite p.srcModule p.round p.seq p.txTime p.echoTime p.echoHold p.reason
    payload).take 64

/-! ## Arrival (10, R338, R342, R343) -/

/-- The partner entry of a source address. -/
def State.partnerBy (s : State) (addr : Nat) : Option Nat :=
  (List.range 64).find? fun x => s.rbit Partner.VALID x && s.rget Partner.ADDRESS x == addr

/-- The binding of a packet's job that exchanges with a site: a round engine binding that names it, or one with an object
on its way to it. -/
def State.jobBinding (s : State) (job site : Nat) : Option Nat :=
  (List.range 64).find? fun i => s.isAllocated .round i && (s.fstate .round i == 1 || s.fstate .round i == 2) &&
    s.rget Round.JOB i == job &&
    (decide (site ∈ s.partners i) || s.wellhead.outgoing.any fun o => o.bind == i && o.site == site)

/-- A round-trip sample in us. -/
def Peer.sample (p : Peer) (r : Rat) : Peer :=
  match p.rtt with
  | none => { p with rtt := some (r, r / 2) }
  | some (srtt, var) =>
    let var := 3 / 4 * var + 1 / 4 * |srtt - r|
    { p with rtt := some (7 / 8 * srtt + 1 / 8 * r, var) }

/-- The round-trip registers of a partner, in whole us. -/
def State.showRtt (s : State) (x : Nat) : State :=
  match (s.peer x).rtt with
  | none => s
  | some (srtt, var) =>
    ((s.rput Partner.SRTT x srtt.floor.toNat).rput Partner.RTTVAR x var.floor.toNat).rput Partner.RTO x (s.rtoOf x).floor.toNat

/-- A valid packet: when it came, its round-trip sample, and a partner that was UNKNOWN or SILENT is UP. -/
def State.hear (s : State) (p : WxpHeader) (x : Nat) : State :=
  let e : Peer := { s.peer x with heard := s.now, echo := some (p.txTime, s.now) }
  let e := if p.echoTime = 0 then e else e.sample (((s.now - p.echoTime - p.echoHold : Nat) : Rat) / 1000)
  let s := (s.setPeer x e).showRtt x
  if s.refused x then s else s.rput Partner.PSTATE x peerUp

/-- Every arriving packet: counted, checked, and passed on with its binding and site. -/
def State.receive (s : State) (p : WxpHeader) (k : Nat → Nat → State → State) : State :=
  if !(decide (p.port < 2) && s.isOn .farPort p.port && s.rbit WhdPort.LINK_UP p.port) then s
  else
    let s := s.rwrap ModuleCnt.WXP_RX_BYTES 0 p.bytes
    match s.partnerBy p.addr.toNat with
    | none => s.rinc WhdPort.RX_DROPPED p.port
    | some x =>
      match if p.sound = true ∧ p.reserved = false ∧ p.srcSite = x then s.jobBinding p.job.toNat x else none with
      | none => s.rinc Partner.BAD_PACKETS x
      | some i => k i x (s.hear p x)

/-- Packets of the round exchange, from a partner that is not REFUSED and to a binding that is ON. -/
def State.exchange (s : State) (p : WxpHeader) (k : Nat → Nat → State → State) : State :=
  s.receive p fun i x s => if s.refused x || !s.isOn .round i then s else k i x s

/-! ## HELLO, HEARTBEAT, STATUS and APPLIED (10, R334, R343, R344) -/

/-- Every anchor looks again whether its round is complete (R328). -/
def State.anchorChecks (s : State) : State := s.wellhead.runs.foldl (fun s e => s.anchorCheck e.1) s

/-- A partner becomes REFUSED: fragments, ledgers and seeds on their way to it are sent no more, and a round that waited for
it may be complete (R328, R344). -/
def State.refusePartner (s : State) (x : Nat) : State :=
  let s := (s.rput Partner.PSTATE x peerRefused).dropObjects fun o => o.site == x && decide (o.key.kind ≤ kindSeed)
  let s := s.onWell fun w => { w with runs := w.runs.map fun e => (e.1, { e.2 with seeding := e.2.seeding.filter fun y => y != x }) }
  s.anchorChecks

def execWxpHello (p : WxpHeader) (digest sites : Word) (s : State) : Host.Outcome State Fault Refusal :=
  .next (s.receive p fun i x s =>
    if digest.toNat = s.configDigest i then s.rput Partner.PSTATE x peerUp
    else (s.refusePartner x).queueWxp i x typeStatus p.round
      (arrivedHeader p typeHello (toBytes 8 digest.toNat ++ toBytesBE 8 sites.toNat)) 0x55)

def execHeartbeat (p : WxpHeader) (s : State) : Host.Outcome State Fault Refusal := .next (s.receive p fun _ _ s => s)

/-- STATUS: a joiner that cannot be seeded now repeats its JOIN after 1 s. -/
def execStatus (p : WxpHeader) (s : State) : Host.Outcome State Fault Refusal :=
  .next (s.receive p fun i x s =>
    if p.reason = 0x59 ∧ s.fstate .round i = 1 ∧ s.rbit Round.JOINER i = true ∧ x = s.rget Round.SEED_SITE i then
      s.setRun i { s.run i with joinAt := s.now + 1000000000 }
    else s)

def execApplied (p : WxpHeader) (digest : Word) (_attempt : Nat) (s : State) : Host.Outcome State Fault Refusal :=
  .next (s.exchange p fun i _ s =>
    match look p.round (s.run i).applied with
    | some d => if d = digest.toNat then s else s.faultRound i 0x56
    | none => s)

/-! ## PIECE and PIECE_ACK (10, R341) -/

/-- A bitmap as bytes, bit n of byte n / 8 for piece n. -/
def bitmapBytes (n : Nat) (has : Nat → Bool) : List Byte :=
  (List.range (ceilDiv n 8)).map fun q =>
    BitVec.ofNat 8 ((List.range 8).foldl (fun v i => if has (8 * q + i) then v + 2 ^ i else v) 0)

/-- PIECE_ACK of an object: its whole bitmap, or NAK with an empty one. -/
def State.ackObject (s : State) (a : Assembly) (nak : Bool) : State :=
  s.queueWxp a.bind a.site typePieceAck a.key.round
    (toBytesBE 1 a.key.kind ++ toBytesBE 1 a.key.origin ++ toBytesBE 1 (b2n nak) ++ [0] ++ toBytesBE 4 a.key.tensor ++
      toBytesBE 4 a.key.shard ++ [0, 0, 0, 0] ++ bitmapBytes a.pieces fun n => !nak && (look n a.got).isSome)

/-- The digest that an object's pieces name: of the whole body, or for records their own DIGEST when it is right. -/
def objectDigest (kind : Nat) (body : List Byte) : Nat :=
  if kind = kindSeed ∨ kind = kindCast then
    fromBytes ((sha512 (slice body 0 192 ++ slice body 256 (leField body 40 8))).take 8)
  else digest64 body

def Assembly.matching (a : Assembly) (i x : Nat) (k : ObjectKey) (digest : Nat) : Bool :=
  a.bind == i && a.site == x && a.key == k && a.digest == digest

/-- Put an assembly in the place of the one that it continues. -/
def State.setAssembly (s : State) (a : Assembly) : State :=
  s.onWell fun w => { w with
    assemblies := (w.assemblies.filter fun b => !b.matching a.bind a.site a.key a.digest) ++ [a] }

/-- A seed record: seeds of an earlier stream give way to those of a new round. -/
def State.acceptSeed (s : State) (i : Nat) (body : List Byte) : State :=
  let d : Seed := ⟨leField body 12 4, leField body 32 4, leField body 8 1, leField body 24 4, slice body 256 (leField body 40 8)⟩
  let run := s.run i
  let old := run.seeds.filter fun e => e.round == d.round && !(e.tensor == d.tensor && e.shard == d.shard && e.content == d.content)
  s.setRun i { run with seeds := old ++ [d] }

/-- A complete and verified object. -/
def State.acceptObject (s : State) (a : Assembly) (body : List Byte) : State :=
  if a.key.kind = kindFragment then
    s.acceptFragment ⟨a.bind, a.key.round, a.key.origin, a.key.tensor, a.key.shard, a.digest, body⟩
  else if a.key.kind = kindLedger then s.acceptLedger ⟨a.bind, a.key.round, leField body 6 1, a.digest, body⟩
  else if a.key.kind = kindSeed then s.acceptSeed a.bind body
  else s

/-- The last piece is here: the object is verified and acknowledged, and again 2 ms after this change, or refused. -/
def State.completeObject (s : State) (a : Assembly) : State :=
  let body := (List.range a.pieces).flatMap fun n => lookD n [] a.got
  if body.length = a.bytes ∧ objectDigest a.key.kind body = a.digest then
    let a : Assembly := { a with got := a.got.map (fun e => (e.1, [])), fresh := 0, due := some s.now, done := true }
    ((s.setAssembly a).ackObject a false).acceptObject a body
  else
    ((s.onWell fun w => { w with
      assemblies := w.assemblies.filter fun b => !b.matching a.bind a.site a.key a.digest }).rinc Partner.BAD_PACKETS
        a.site).ackObject a true

/-- A piece of an object. -/
def State.takePiece (s : State) (i x round : Nat) (h : PieceHeader) (data : List Byte) : State :=
  let key : ObjectKey := ⟨h.kind, h.origin, round, h.tensor, h.shard⟩
  let a : Assembly := (s.wellhead.assemblies.find? fun a => a.matching i x key h.digest.toNat).getD
    { bind := i, site := x, key := key, digest := h.digest.toNat, pieces := h.pieces, bytes := h.bytes, got := []
      fresh := 0, due := none, done := false }
  if a.pieces ≤ h.piece then s
  else if a.done || (look h.piece a.got).isSome then s.rinc Partner.DUPLICATES x
  else
    let a : Assembly := { a with got := put h.piece data a.got, fresh := a.fresh + 1, due := some s.now }
    let s := s.setRun i { s.run i with fetch := (s.run i).fetch.map fun f => if h.kind = kindFragment then (s.now, 0) else f }
    if a.got.length = a.pieces then s.completeObject a
    else if 16 ≤ a.fresh then (s.setAssembly { a with fresh := 0 }).ackObject a false
    else s.setAssembly a

/-- PIECE: fragments and ledgers for a binding that is ON, seed records for a joiner from its seeder. -/
def execPiece (p : WxpHeader) (h : PieceHeader) (data : List Byte) (s : State) : Host.Outcome State Fault Refusal :=
  .next (s.receive p fun i x s =>
    let ok := if h.kind = kindSeed then
        s.fstate .round i == 1 && s.rbit Round.JOINER i && x == s.rget Round.SEED_SITE i
      else decide (h.kind ≤ kindLedger) && s.isOn .round i
    if s.refused x || !ok then s else s.takePiece i x p.round h data)

/-- PIECE_ACK_TIMER: 2 ms after an object's last change. -/
def execPieceAckTimer (site : Nat) (o : ObjectKey) (s : State) : Host.Outcome State Fault Refusal :=
  .next (match s.wellhead.assemblies.find? fun a => a.site == site && a.key == o && a.due.isSome with
    | none => s
    | some a =>
      if a.due.getD 0 + 2000000 ≤ s.now then (s.setAssembly { a with due := none, fresh := 0 }).ackObject a false else s)

/-- A site has every seed record that was on its way to it. -/
def State.seedsSent (s : State) (i x : Nat) : State :=
  if s.wellhead.outgoing.any fun o => o.bind == i && o.site == x && o.key.kind == kindSeed then s
  else s.setRun i { s.run i with seeding := (s.run i).seeding.filter fun y => y != x }

/-- PIECE_ACK: the pieces acknowledged; with the whole bitmap the object is done, with NAK it starts again. -/
def execPieceAck (p : WxpHeader) (o : ObjectKey) (nak : Bool) (bitmap : List Bool) (s : State) :
    Host.Outcome State Fault Refusal :=
  .next (s.receive p fun i x s =>
    match s.wellhead.outgoing.find? fun q => q.bind == i && q.site == x && q.key == o && q.queued with
    | none => s
    | some q =>
      let acked := if nak then [] else (List.range q.pieces).filter fun n => bitmap.getD n false || decide (n ∈ q.acked)
      if acked.length = q.pieces then (s.dropObjects fun r => r == q).seedsSent i x
      else s.onWell fun w => { w with outgoing := w.outgoing.map fun r => if r = q then { r with acked := acked } else r })

/-! ## LEDGER_REQ, FETCH and JOIN (10, R333, R344, R346) -/

/-- Send an object unless it is already on its way; one that cannot be sent is recorded. -/
def State.answerObject (s : State) (i x : Nat) (key : ObjectKey) (digest : Nat) (body : List Byte) : State :=
  if s.wellhead.outgoing.any fun o => o.bind == i && o.site == x && o.key == key && o.digest == digest then s
  else if s.objectFits i body.length then s.sendObject i x key digest body true
  else s.whdEvent i 0x51

def execLedgerReq (p : WxpHeader) (s : State) : Host.Outcome State Fault Refusal :=
  .next (s.exchange p fun i x s =>
    match s.ledgerOf i p.round with
    | none => s
    | some l => s.answerObject i x ⟨kindLedger, s.rget Round.SELF_SITE i, p.round, 0, 0⟩ l.digest l.body)

def execFetch (p : WxpHeader) (entries : List FragKey) (s : State) : Host.Outcome State Fault Refusal :=
  .next (s.exchange p fun i x s => entries.foldl (fun s e =>
    match s.fragment? i p.round e.origin e.tensor e.shard with
    | none => s
    | some f => s.answerObject i x ⟨kindFragment, e.origin, p.round, e.tensor, e.shard⟩ f.digest f.body) s)

/-- JOIN: seed records for every owned shard, or STATUS. -/
def execJoin (p : WxpHeader) (digest : Word) (s : State) : Host.Outcome State Fault Refusal :=
  .next (s.receive p fun i x s =>
    let answer := fun (s : State) (reason : Nat) =>
      s.queueWxp i x typeStatus p.round (arrivedHeader p typeJoin (toBytes 8 digest.toNat)) reason
    if digest.toNat ≠ s.configDigest i then answer (s.refusePartner x) 0x55
    else if s.refused x ∨ s.isOn .round i = false then answer s 0x59
    else if s.wellhead.outgoing.any fun o => o.bind == i && o.site == x && o.key.kind == kindSeed then s
    else
      let run := s.run i
      (s.setRun i { run with seeding := (run.seeding.filter fun y => y != x) ++ [x] }).sendSeeds i x)

/-! ## Paced sending (10, R340, R343) -/

/-- The bucket of a partner now. -/
def State.paceTokens (s : State) (x : Nat) : Nat :=
  min paceBucket ((s.peer x).tokens + s.rget Partner.PACE x * (s.now - (s.peer x).at_))

/-- Is a queued piece still to be sent? -/
def State.pieceLive (s : State) (q : WxpOut) : Bool :=
  match q.piece with
  | none => true
  | some (k, d, n) => s.wellhead.outgoing.any fun o =>
      o.bind == q.bind && o.site == q.site && o.key == k && o.digest == d && !decide (n ∈ o.acked)

/-- A piece has been sent: when, and how often. -/
def State.markSent (s : State) (q : WxpOut) : State :=
  match q.piece with
  | none => s
  | some (k, d, n) =>
    let s := if q.resent then s.rinc Partner.RESENT q.site else s
    s.onWell fun w => { w with outgoing := w.outgoing.map fun o =>
      if o.bind = q.bind ∧ o.site = q.site ∧ o.key = k ∧ o.digest = d then
        { o with sent := put n (s.now, (lookD n (0, 0) o.sent).2 + 1) o.sent }
      else o }

/-- The bytes of a packet as it leaves. -/
def State.packetBytes (s : State) (q : WxpOut) : List Byte :=
  let e := s.peer q.site
  let (echo, hold) := match e.echo with
    | none => (0, 0)
    | some (t, at_) => (t, min (s.now - at_) (2 ^ 32 - 1))
  wxpBytes q.type q.resent (s.rget Round.JOB q.bind) (s.rget Round.SELF_SITE q.bind) q.site s.moduleId q.round e.seq s.now
    echo hold q.reason q.payload

/-- Send one packet, its IP bytes taken from the bucket. -/
def State.sendPacket (s : State) (q : WxpOut) (n : Nat) : State :=
  let x := q.site
  let bytes := s.packetBytes q
  let port := s.rget Partner.FAR_PORT x
  let e := s.peer x
  let s := (s.setPeer x { e with tokens := s.paceTokens x - 8000 * n, at_ := s.now, seq := (e.seq + 1) % 2 ^ 32 }).markSent q
  let s := (s.rwrap ModuleCnt.WXP_TX_BYTES 0 n).countEvent 0x26 0 1024 none 0 n
  s.onWell fun w => { w with farOut := w.farOut ++ [.wxp port (s.vlanTag port) (s.rget Partner.ADDRESS x) (s.rget Partner.UDP_PORT x) bytes], lastSite := x }

/-- Could the oldest packet of a partner leave now? -/
def State.sendReady (s : State) (x : Nat) : Bool :=
  match s.wellhead.queue.find? fun q => q.site == x with
  | none => false
  | some q =>
    let n := 64 + q.payload.length + s.ipHead x
    let port := s.rget Partner.FAR_PORT x
    (s.fstate .round q.bind == 1 || s.fstate .round q.bind == 2) && s.pieceLive q && s.rbit Partner.VALID x &&
      s.isOn .farPort port && s.rbit WhdPort.LINK_UP port && decide (n ≤ s.mtuTo x ∧ 8000 * n ≤ s.paceTokens x)

/-- Is it a partner's turn: the first after the one that sent last whose packet could leave (R343)? -/
def State.siteTurn (s : State) (x : Nat) : Bool :=
  ((List.range 64).map fun k => (s.wellhead.lastSite + 1 + k) % 64).find? s.sendReady == some x

/-- PACED_SEND: the oldest packet of a partner leaves at its turn, as soon as its bucket holds its IP bytes. One that its
port's MTU no longer takes is not sent, and its binding faults. -/
def State.pacedSend (s : State) (x : Nat) : State :=
  match s.wellhead.queue.find? fun q => q.site == x with
  | none => s
  | some q =>
    let out := s.onWell fun w => { w with queue := w.queue.erase q }
    let n := 64 + q.payload.length + s.ipHead x
    let active := s.fstate .round q.bind == 1 || s.fstate .round q.bind == 2
    let port := s.rget Partner.FAR_PORT x
    if !active || !s.pieceLive q then out
    else if !(s.rbit Partner.VALID x && s.isOn .farPort port && s.rbit WhdPort.LINK_UP port) then s
    else if s.mtuTo x < n then out.faultRound q.bind 0x54 x
    else if !s.siteTurn x then s
    else out.sendPacket q n

def execPacedSend (site : Nat) (s : State) : Host.Outcome State Fault Refusal := .next (s.pacedSend site)

/-! ## Timers (10, R341, R343, R345, R346, R350) -/

/-- The timeout of an object. -/
def State.objectRto (s : State) (o : Outgoing) : Rat := o.rto.getD (s.rtoOf o.site)

/-- The pieces of an object whose timeout has passed, those that wait to be sent apart. -/
def State.duePieces (s : State) (o : Outgoing) : List Nat :=
  (List.range o.pieces).filter fun n =>
    !decide (n ∈ o.acked) && !(s.wellhead.queue.any fun q => q.bind == o.bind && q.site == o.site && q.piece == some (o.key, o.digest, n)) &&
    (match look n o.sent with
     | none => false
     | some (t, _) => decide (t + usToNs (s.objectRto o) ≤ s.now))

/-- The casts that stream to a site fail (10, R350). -/
def State.failStreams (s : State) (x : Nat) : State :=
  let s : State := { s with update := { s.update with casts := s.update.casts.map fun k =>
    if k.dest = 2 ∧ k.addr % 64 = x ∧ k.taken.isSome = true then { k with reason := some 0x5D } else k } }
  s.dropObjects fun o => o.site == x && (o.key.kind == kindCast || o.key.kind == kindManifest)

/-- PIECE_RESEND_TIMEOUT: every unacknowledged piece whose time has passed is sent again, and the object's timeout
doubles; a cast stream fails after 16 resends of one piece. -/
def execPieceResendTimeout (site : Nat) (k : ObjectKey) (s : State) : Host.Outcome State Fault Refusal :=
  .next (match s.wellhead.outgoing.find? fun o => o.site == site && o.key == k && o.queued && !(s.duePieces o).isEmpty with
    | none => s
    | some o =>
      let due := s.duePieces o
      if (k.kind = kindCast ∨ k.kind = kindManifest) ∧ (due.any fun n => decide (17 ≤ (lookD n (0, 0) o.sent).2)) = true then
        (s.whdEvent o.bind 0x5D site).failStreams site
      else
        let r := 2 * s.objectRto o
        s.onWell fun w => { w with
          outgoing := w.outgoing.map fun q => if q = o then { q with rto := some (if 60000000 < r then 60000000 else r) } else q
          queue := w.queue ++ due.map fun n => o.packet n true })

/-- A binding that is ON and exchanges with a site. -/
def State.bindingTo (s : State) (x : Nat) : Option Nat :=
  (List.range 64).find? fun i => s.isAllocated .round i && s.isOn .round i && decide (x ∈ s.partners i)

/-- HEARTBEAT_TIMER: a partner that has sent nothing for 100 ms is sent a HEARTBEAT. -/
def execHeartbeatTimer (site : Nat) (s : State) : Host.Outcome State Fault Refusal :=
  .next (match s.bindingTo site with
    | none => s
    | some i =>
      let e := s.peer site
      if max e.heard e.beat + 100000000 ≤ s.now then
        (s.setPeer site { e with beat := s.now }).queueWxp i site typeHeartbeat (s.rget Round.ROUND i) []
      else s)

/-- PARTNER_SILENT: nothing has arrived for 30 s. Objects towards the site are sent no more. -/
def execPartnerSilent (site : Nat) (s : State) : Host.Outcome State Fault Refusal :=
  .next (match s.bindingTo site with
    | none => s
    | some i =>
      let st := s.rget Partner.PSTATE site
      if (st = peerUnknown ∨ st = peerUp) ∧ (s.peer site).heard + 30000000000 ≤ s.now then
        let s := ((s.rput Partner.PSTATE site peerSilent).whdEvent i 0x5D site).failStreams site
        let s := s.dropObjects fun o => o.site == site
        s.anchorChecks
      else s)

/-- FETCH_TIMEOUT: no answer within 8 RTO of every partner; after 16 repeats the round is lost. -/
def execFetchTimeout (bind : Nat) (s : State) : Host.Outcome State Fault Refusal :=
  .next (match (s.run bind).fetch, s.ledgerOf bind (nextRound (s.rget Round.APPLIED bind)) with
    | some (since, repeats), some l =>
      let wait := (s.partners bind).foldl (fun w x => max w (8 * usToNs (s.rtoOf x))) 0
      if !s.isOn .round bind || decide (s.now < since + wait) then s
      else if 16 ≤ repeats then s.faultRound bind 0x5E
      else (s.setRun bind { s.run bind with fetch := some (s.now, repeats + 1) }).sendFetch l
    | _, _ => s)

/-- JOIN_RESEND: a joiner that has no answer yet repeats its JOIN. -/
def execJoinResend (bind : Nat) (s : State) : Host.Outcome State Fault Refusal :=
  .next (
    let answered := !(s.run bind).seeds.isEmpty || s.wellhead.assemblies.any fun a => a.bind == bind && a.key.kind == kindSeed
    if s.isAllocated .round bind && s.fstate .round bind == 1 && s.rbit Round.JOINER bind && !answered &&
      decide ((s.run bind).joinAt ≤ s.now) then s.sendJoin bind else s)

/-! ## Other frames of a far port (10, R316, R317) -/

/-- FAR_PORT_CONTROL_FRAME: neighbour resolution and echo are answered; fragments, bad checksums and unknown ports are
counted, and so is a WXP packet of a reserved TYPE (R338); other traffic the port does not support and drops. -/
def execFarPortControlFrame (port : Nat) (k : FarFrame) (s : State) : Host.Outcome State Fault Refusal :=
  .next (
    if !(decide (port < 2) && s.isOn .farPort port && s.rbit WhdPort.LINK_UP port) then s
    else match k with
      | .neighbourRequest => s.onWell fun w => { w with farOut := w.farOut ++ [.neighbourReply port (s.vlanTag port)] }
      | .echoRequest => s.onWell fun w => { w with farOut := w.farOut ++ [.echoReply port (s.vlanTag port)] }
      | .fragment | .badChecksum | .unknownPort => s.rinc WhdPort.RX_DROPPED port
      | .reservedType addr bytes =>
        let s := s.rwrap ModuleCnt.WXP_RX_BYTES 0 bytes
        (match s.partnerBy addr.toNat with
         | none => s.rinc WhdPort.RX_DROPPED port
         | some x => s.rinc Partner.BAD_PACKETS x)
      | .other => s)

/-- FAR_PORT_LINK_CHANGE: LINK_UP follows the Ethernet link. -/
def execFarPortLinkChange (port : Nat) (up : Bool) (s : State) : Host.Outcome State Fault Refusal :=
  .next (if port < 2 then s.rput WhdPort.LINK_UP port (b2n up) else s)

end Sys2Proof.Machine
end

