-- ==== Sys2Proof/Machine/Gate.lean ====
section
/-!
DEFINITION. Step gates: when a partition's gate is decided, the flags it combines, joined gates, and what follows a
decision (01, R16 to R18; 02, R54, R61; 03, R114, R118; 07, R223; 08, R262, R271, R275, R281; 12, R390; 13, R432).
-/
namespace Sys2Proof.Machine

/-! ## The gauge at a gate (03, R114, R116, R118) -/

/-- The gauge entries of a context's range. -/
def State.gaugeRange (s : State) (c : Nat) : List Nat :=
  (List.range (s.rget Ctx.GAUGE_COUNT c)).map fun i => s.rget Ctx.GAUGE_BASE c + i

/-- Empty a gauge history. -/
def State.clearHistory (s : State) (e : Nat) : State :=
  ((s.rput Gau.HIST_COUNT e 0).rput Gau.HIST_NEXT e 0).rput Gau.HISTORY e 0

/-- Write an amax into the next place of a history. -/
def State.pushHistory (s : State) (e amax : Nat) : State :=
  let next := s.rget Gau.HIST_NEXT e
  let h := s.rget Gau.HISTORY e
  let s := s.rput Gau.HISTORY e (h - bits h (32 * next) 32 * 2 ^ (32 * next) + amax * 2 ^ (32 * next))
  (s.rput Gau.HIST_NEXT e ((next + 1) % 16)).rput Gau.HIST_COUNT e (min 16 (s.rget Gau.HIST_COUNT e + 1))

/-- The LAST fields of an entry take the attempt's totals. -/
def State.stampGauge (s : State) (e attempt : Nat) (t : GaugeTotals) : State :=
  let s := ((s.rput Gau.LAST_OBSERVED e t.observed).rput Gau.LAST_ZEROS e t.zeros).rput Gau.LAST_UNDER e t.under
  let s := ((s.rput Gau.LAST_SATS e t.sats).rput Gau.LAST_NONFINITE e t.nonFinite).rput Gau.LAST_AMAX e t.amax
  s.rput Gau.LAST_ATTEMPT e attempt

/-- Close an attempt for one entry. -/
def State.closeGauge (s : State) (attempt : Nat) (passed : Bool) (e : Nat) : State :=
  let s := if e ∈ s.tsq.clearing then
      { s.clearHistory e with tsq := { s.tsq with clearing := s.tsq.clearing.filter fun x => x != e } }
    else s
  let t := s.gaugeTotals e
  let s := s.stampGauge e attempt t
  let s := if passed && decide (t.nonFinite < t.observed) then s.pushHistory e t.amax else s
  { s with tsq := { s.tsq with gauges := del e s.tsq.gauges } }

/-- Did an entry trip in the attempt that it closed last? -/
def State.tripped (s : State) (e : Nat) : Bool :=
  let n := s.rget Gau.LAST_OBSERVED e
  let beyond := fun (limit count : Nat) => limit != 0 && decide (limit * n < count * 65536)
  beyond (s.rget Gau.SAT_LIMIT e) (s.rget Gau.LAST_SATS e) || beyond (s.rget Gau.UNDER_LIMIT e) (s.rget Gau.LAST_UNDER e)

/-- A context's rung moves; a change sets every TRIP_RUN of its entries to 0. -/
def State.setRung (s : State) (c : Nat) (r : RungState) : State :=
  let changed := r.rung != (s.rungOf c).rung
  let s : State := { s with tsq := { s.tsq with rungs := put c r s.tsq.rungs } }
  if changed then (s.gaugeRange c).foldl (fun s e => s.rput Gau.TRIP_RUN e 0) s else s

/-- The automatic promotion by one, within LADDER_HI. -/
def State.promote (s : State) (c : Nat) : State :=
  let r := s.rungOf c
  if r.rung < 3 ∧ r.rung < s.rget Ctx.LADDER_HI c then
    s.setRung c { r with rung := r.rung + 1, promotions := satAdd 16 r.promotions 1 }
  else s

/-- The rung at a gate: a pending set, else the trips of a passing gate or the non-finite counts of a failed one (03, R118).
DESIGN CHOICE (log 83): PERSIST 0 keeps an entry from promoting by its trips (R116), not by NF_PROMOTE at a failed gate,
which R118 ties to that bit alone. -/
def State.gateRung (s : State) (c : Nat) (passed : Bool) : State :=
  let r := s.rungOf c
  match r.pending with
  | some v => s.setRung c { r with rung := v, pending := none }
  | none =>
    if passed then
      let s := (s.gaugeRange c).foldl (fun s e =>
        s.rput Gau.TRIP_RUN e (if s.tripped e then min 15 (s.rget Gau.TRIP_RUN e + 1) else 0)) s
      if (s.gaugeRange c).any fun e =>
          s.rget Gau.PERSIST e != 0 && decide (s.rget Gau.PERSIST e ≤ s.rget Gau.TRIP_RUN e) then s.promote c else s
    else if (s.gaugeRange c).any fun e => s.rbit Gau.NF_PROMOTE e && s.rget Gau.LAST_NONFINITE e != 0 then s.promote c
    else s

/-- The gauge of a context at its gate. -/
def State.gaugeGate (s : State) (c attempt : Nat) (passed : Bool) : State :=
  ((s.gaugeRange c).foldl (fun s e => s.closeGauge attempt passed e) s).gateRung c passed

/-! ## Readiness (01, R17; 08, R275) -/

/-- Threads of a context that are neither FREE nor ENDED. -/
def State.alive (s : State) (c : Nat) : List (ThreadRef × Thread) :=
  s.tsq.threads.filter fun e => e.2.ctxIx == c && decide (e.2.status ≠ .ended)

/-- Does a thread wait at its step gate? -/
def Thread.atGate (th : Thread) : Bool :=
  match th.status with
  | .waitGate _ _ _ => true
  | _ => false

/-- The contexts that still take part in a gate. -/
def State.gateParts (s : State) (g : Gate) : List Nat :=
  (g.contexts.map Prod.fst).filter fun c => s.isOn .context c && !(s.alive c).isEmpty

/-- Has every reduction that this module owns for a binding of a partition's contexts been closed or lost, and every
contribution of the partition's threads been accepted (08, R275)? All of the partition's contexts count, those that take no
part in the gate among them. DEDUCED (log 83): "the attempt" is for each context its own present attempt. -/
def State.exchanged (s : State) (p : Nat) : Bool :=
  let open_ : Nat → Nat → Bool := fun c a => s.partOf c == p && a == attempt32 (s.rget Ctx.ATTEMPT c)
  !(s.collect.reds.any fun r => open_ (s.rget Bind.CONTEXT r.bind) r.attempt) &&
  !(s.collect.contribs.any fun e => open_ e.2.ctx (attempt32 e.2.attempt) && e.2.left.any fun l => l.2 != 0) &&
  !(s.tsq.cmds.any fun k => decide (k.op = .creduce) && open_ k.ctxIx (attempt32 k.attempt.toNat) && !k.started && !k.mirror)

/-- Every thread of a context waits in SGATE (12, R390). -/
def State.atGate (s : State) (c : Nat) : Bool := (s.alive c).all fun e => e.2.atGate

/-- A context's own flags: those of its waiting threads and of its attempt's reductions (12, R390; 07, R225). -/
def State.ownFlags (s : State) (c : Nat) : Bool × Bool :=
  (s.alive c).foldl (fun a e => match e.2.status with
    | .waitGate _ n p => (a.1 || n, a.2 || p)
    | _ => a) (s.attemptFlags c (s.rget Ctx.ATTEMPT c))

/-! ## Joined gates (08, R275) -/

/-- The joined channels of a context with other members: each with those members' ids and indices. -/
def State.joined (s : State) (c : Nat) : List (Nat × List (Nat × Nat)) :=
  ((s.boundTo .channel c).filter fun ch => s.isOn .channel ch && s.rbit Chan.GATE_JOIN ch).map fun ch =>
    (ch, (((List.range (s.members ch).length).zip (s.members ch))).filter fun m => m.1 != s.rget Chan.SELF ch)

/-- The flags byte of GATE_FLAGS. -/
def flagByte (f : Bool × Bool) : Nat := b2n f.1 + 2 * b2n f.2

/-- This module's flags go to the other members of a joined channel. -/
def State.sendFlags (s : State) (c ch : Nat) (ms : List (Nat × Nat)) (flags : Bool × Bool) : State :=
  ms.foldl (fun s m => s.sendFrame { blankFrame with
    op := opGateFlags, dest := m.2, channel := ch, member := s.rget Chan.SELF ch, step := s.rget Ctx.STEP c
    attempt := attempt32 (s.rget Ctx.ATTEMPT c), body := toBytes 1 (flagByte flags) }) s

/-- The flags of a member for a context's present gate. -/
def State.memberFlags (s : State) (c ch member : Nat) : Option GateFlag :=
  s.collect.flags.find? fun f => f.chan == ch && f.member == member && f.step == s.rget Ctx.STEP c &&
    f.attempt == attempt32 (s.rget Ctx.ATTEMPT c)

/-- GATE_FLAGS: an earlier step or attempt is discarded; the rest waits for its gate. -/
def execGateFlags (f : Frame) (s : State) : Host.Outcome State Fault Refusal :=
  .next (s.takeRequest opGateFlags f fun s =>
    let c := s.rget Chan.CONTEXT f.channel
    if f.step < s.rget Ctx.STEP c ∨ notPast (s.rget Ctx.ATTEMPT c) f.attempt = false then s
    else
      let v := leField f.body 0 1
      let g : GateFlag := ⟨f.channel, f.member, f.step, f.attempt, bit v 0, bit v 1⟩
      { s with collect := { s.collect with flags := (s.collect.flags.filter fun x =>
          !(x.chan == g.chan && x.member == g.member && x.step == g.step && x.attempt == g.attempt)) ++ [g] } })

/-! ## The decision -/

/-- A context's counters move (01, R17, R18): the attempt at every gate, the step at a passing one (log 50). -/
def State.moveCounters (s : State) (c : Nat) (passed : Bool) : State :=
  (if passed then s.rwrap Ctx.STEP c else s).rwrap Ctx.ATTEMPT c

/-- Carried contributions at a gate (08, R271). -/
def State.gateCarries (s : State) (c step attempt : Nat) (passed : Bool) : State :=
  let mine : Carry → Bool := fun y => s.redCtx y.chan == c
  if passed then
    (s.dropCarries (fun y => mine y && y.included == some (attempt32 attempt)) false).dropCarries
      (fun y => mine y && decide (y.step < step)) true
  else s.dropCarries (fun y => mine y && y.step == step && y.attempt == attempt32 attempt) true

/-- The step record of a context (08, R281). -/
def State.stampCounts (s : State) (c attempt : Nat) : State :=
  let n := lookD c (List.replicate 10 0) s.collect.counts
  let fs := [ColStep.GATHERS, ColStep.STALE, ColStep.MAX_STALENESS, ColStep.REDUCTIONS, ColStep.AT_QUORUM, ColStep.CARRIED,
    ColStep.DROPPED, ColStep.DUPLICATES, ColStep.QUORUM_LOST, ColStep.LEASES_EXPIRED]
  let s := (fs.zip n).foldl (fun s e => s.rput e.1 c (min e.2 (2 ^ e.1.len - 1))) (s.rput ColStep.ATTEMPT c attempt)
  { s with collect := { s.collect with counts := del c s.collect.counts } }

/-- Casts of a context that wait for a passing gate are taken at its step count (07, R246). -/
def State.takeCasts (s : State) (c : Nat) : State :=
  { s with update := { s.update with casts := s.update.casts.map fun k =>
    if k.ctx = c ∧ k.taken = none then { k with taken := some (s.rget Ctx.STEP c) } else k } }

/-- What a decided gate does to one context beside its gauge and counters, given the counters it had. -/
def State.gateContext (s : State) (g : Gate) (passed : Bool) (c step attempt : Nat) : State :=
  let s := s.updateGate c attempt passed g.binds
  let s := if passed then (s.takeCasts c).roundsGate c (s.rget Ctx.STEP c) else s
  let s := s.releaseLeases fun h => h.ctx == c && decide (h.attempt ≤ attempt)
  let s := (s.gateCarries c step attempt passed).stampCounts c attempt
  let s : State := { s with
    tsq := { s.tsq with flags := s.tsq.flags.filter fun e => !(e.1 == c && e.2.attempt == attempt32 attempt) }
    collect := { s.collect with flags := s.collect.flags.filter fun f =>
      !(s.rget Chan.CONTEXT f.chan == c && decide (f.step ≤ step) && f.attempt == attempt32 attempt) } }
  let s := s.traceEvent 0 5 0x03 0xFFFF 32 (s.handle .context c) 0 (b2n passed) attempt
  if passed then s else s.traceTrigger 0 2 0

/-- The waiting threads of a context leave the gate (02, R54; 12, R390). -/
def State.releaseGate (s : State) (c : Nat) (passed : Bool) : State :=
  { s with tsq := { s.tsq with threads := s.tsq.threads.map fun e =>
    match e.2.status with
    | .waitGate dst _ _ =>
      if e.2.ctxIx = c then
        (e.1, { e.2.setReg dst (BitVec.ofNat 64 (b2n passed)) with
          status := .ready, step := BitVec.ofNat 64 (s.rget Ctx.STEP c), attempt := BitVec.ofNat 64 (s.rget Ctx.ATTEMPT c) })
      else e
    | _ => e } }

/-- A context whose own threads or reductions raised the poison flag has consumed poison (13, R431, R432). -/
def State.gatePoison (s : State) (c step : Nat) : State :=
  match (s.alive c).find? fun e => match e.2.status with
      | .waitGate _ _ p => p
      | _ => false with
  | some (t, th) => s.consumePoison t th 0
  | none =>
    (s.logError (({ type := 0x00A5, severity := 3, reason := 0x1B } : ErrRec).ofCtx s (s.handle .context c) 0 step)).endContext
      c 0x1B

/-- What becomes of a context's threads: poison consumers and HALT end in FAULT, the others go on. -/
def State.leaveGate (s : State) (g : Gate) (passed poisoned : Bool) (c step : Nat) (own : Bool × Bool) : State :=
  if !passed && poisoned && own.2 then s.gatePoison c step
  else if !passed && lookD c false g.contexts then s.endContext c 0x1E
  else s.releaseGate c passed

/-- A partition's gate is no longer open; threads that wait already begin the next one (01, R17). -/
def State.nextGate (s : State) (p : Nat) : State :=
  let s : State := { s with tsq := { s.tsq with gates := del p s.tsq.gates } }
  if s.busyContexts.any fun c => s.isOn .context c && s.partOf c == p && (s.alive c).any (fun e => e.2.atGate) then s.beginGate p
  else s

/-- Decide a partition's gate with its combined flags. -/
def State.decideGate (s : State) (p : Nat) (g : Gate) (parts : List Nat) (flags : Bool × Bool) : State :=
  let passed := !flags.1 && !flags.2
  let was := parts.map fun c => (c, s.rget Ctx.STEP c, s.rget Ctx.ATTEMPT c, s.ownFlags c)
  let s := was.foldl (fun s x => s.gaugeGate x.1 x.2.2.1 passed) s
  let s := was.foldl (fun s x => s.moveCounters x.1 passed) s
  let s := was.foldl (fun s x => s.gateContext g passed x.1 x.2.1 x.2.2.1) s
  let s := if passed then s.dueAudits p else s
  let s := was.foldl (fun s x => s.leaveGate g passed flags.2 x.1 x.2.1 x.2.2.2) s
  s.nextGate p

/-- The joined channels of a gate whose flags this module has still to send. -/
def State.unsent (s : State) (g : Gate) (parts : List Nat) : List (Nat × Nat × List (Nat × Nat)) :=
  (parts.flatMap fun c => (s.joined c).map fun e => (c, e)).filter fun x => !decide (x.2.1 ∈ g.sent) && !x.2.2.isEmpty

/-- Two flags combined. -/
def orFlags (a b : Bool × Bool) : Bool × Bool := (a.1 || b.1, a.2 || b.2)

/-- STEP_GATE_DECIDE: the gate of a partition when every context that takes part has reached it; with joined channels
first this module's flags go out, then the other members' flags decide with them. -/
def execStepGateDecide (p : Nat) (s : State) : Host.Outcome State Fault Refusal :=
  .next (match look p s.tsq.gates with
    | none => s
    | some g =>
      let parts := s.gateParts g
      if parts.isEmpty then s.nextGate p
      else if !(parts.all (fun c => s.atGate c) && s.exchanged p) then s
      else
        let local_ := parts.foldl (fun a c => orFlags a (s.ownFlags c)) (false, false)
        let out := s.unsent g parts
        let s := out.foldl (fun s x => s.sendFlags x.1 x.2.1 x.2.2 local_) s
        let g := { g with sent := g.sent ++ out.map fun x => x.2.1 }
        let s : State := { s with tsq := { s.tsq with gates := put p g s.tsq.gates } }
        let others := parts.flatMap fun c => (s.joined c).flatMap fun e => e.2.map fun m => s.memberFlags c e.1 m.1
        if others.any Option.isNone then s
        else s.decideGate p g parts (others.foldl (fun a o => match o with
          | some f => orFlags a (f.nonFinite, f.poison)
          | none => a) local_))

end Sys2Proof.Machine
end

