-- ==== Sys2Proof/Machine/Cistern.lean ====
section
/-!
DEFINITION. The cistern: superblocks and their wear (16, R510 to R518), moulds (16, R519 to R524), its states (16, R523)
and its operations (16, R529).
-/
namespace Sys2Proof.Machine

/-! ## Superblocks (16, R510, R513 to R516) -/

/-- Superblocks, those of the system area (1 GiB in SLC mode), and those that moulds may use (12,287 GiB) (log 53). -/
def sbCount : Nat := 32768
def sbSystem : Nat := 7
def sbMoulds : Nat := 26212

/-- Data bytes of a superblock and of one stripe of pages. -/
def sbBytes : Nat := 480 * 2 ^ 20
def stripeBytes : Nat := 15 * 16384

/-- The reserve at shipping (16, R510, R527). -/
def sbReserve : Nat := sbCount - sbSystem - sbMoulds

/-- Update the cistern. -/
def State.onCistern (s : State) (f : Cistern → Cistern) : State := { s with cistern := f s.cistern }

/-- Update what the cistern holds while it runs. -/
def State.onCis (s : State) (f : CisRun → CisRun) : State := { s with cis := f s.cis }

/-- A superblock. -/
def State.sb (s : State) (k : Nat) : Superblock :=
  lookD k { use := if k < sbSystem then .system else .free, erases := 0, age := 0, reads := 0, due := false } s.cistern.sbs

def State.setSb (s : State) (k : Nat) (b : Superblock) : State := s.onCistern fun c => { c with sbs := put k b c.sbs }

/-- Is a superblock free to be allocated? -/
def State.sbFree (s : State) (k : Nat) : Bool := decide ((s.sb k).use = .free) && !decide (k ∈ s.cistern.broken)

/-- Free superblocks, the reserve included. -/
def State.freeSbs (s : State) : List Nat := (List.range sbCount).filter fun k => s.sbFree k

/-- FREE_SB. -/
def State.freeSb (s : State) : Nat := s.freeSbs.length

/-- The free reserve (log 53). -/
def State.freeReserve (s : State) : Nat := min s.freeSb sbReserve

/-- Of two superblocks the one with fewer erases, the first on a tie. -/
def State.lessWorn (s : State) (best : Option Nat) (k : Nat) : Option Nat :=
  match best with
  | none => some k
  | some q => if (s.sb k).erases < (s.sb q).erases then some k else some q

/-- Of two superblocks the one with more erases, the first on a tie. -/
def State.moreWorn (s : State) (best : Option Nat) (k : Nat) : Option Nat :=
  match best with
  | none => some k
  | some q => if (s.sb q).erases < (s.sb k).erases then some k else some q

/-- The free superblock with the lowest average erase count (16, R515). -/
def State.nextSb (s : State) : Option Nat := s.freeSbs.foldl (fun b k => s.lessWorn b k) none

/-- A superblock takes data: its use, and its place in the order of programming. -/
def State.program (s : State) (k : Nat) (u : SbUse) : State :=
  let s := s.setSb k { s.sb k with use := u, age := s.cistern.nextAge, reads := 0, due := false }
  s.onCistern fun c => { c with nextAge := c.nextAge + 1 }

/-- Superblocks for a mould, in the order of their positions. -/
def State.allocate (s : State) (index n pos : Nat) : State :=
  (List.range n).foldl (fun s p => match s.nextSb with
    | none => s
    | some k => s.program k (.mould index (pos + p))) s

/-- Bytes programmed into NAND for data bytes: whole stripes with their parity (16, R518, R527). -/
def programmed (n : Nat) : Nat := ceilDiv n stripeBytes * 16 * 16384

def State.countNand (s : State) (n : Nat) : State := s.onCistern fun c => { c with nand := c.nand + programmed n }

/-- Superblocks of a mould. -/
def sbsFor (n : Nat) : Nat := max 1 (ceilDiv n sbBytes)

/-- The superblocks that hold a mould. -/
def State.sbsOf (s : State) (index : Nat) : List Nat :=
  (s.cistern.sbs.filter fun e => match e.2.use with
    | .mould i _ => i == index
    | _ => false).map Prod.fst

/-! ## States (16, R523) -/

/-- STATE of CIS_STATUS. -/
def State.cisState (s : State) : Nat := if s.cistern.failed then 2 else if s.cistern.readOnly then 1 else 0

/-- CIS_STATE_CHANGED. -/
def cisStateRec : ErrRec := { type := 0x00C3, severity := 0, reason := 0x87, die := 4 }

/-- A change of state. -/
def State.cisChanged (s : State) : State := (s.rput CisStatus.CHANGED 0 1).logError cisStateRec

/-- The table entry of a mould returns to FREE. -/
def State.freeEntry (s : State) (index : Nat) : State :=
  (s.rreset .mould index).onCistern fun c => { c with
    used := c.used.filter fun i => i != index, bodies := del index c.bodies, commits := del index c.commits }

/-- A mould's superblocks wait to be erased. -/
def State.releaseSbs (s : State) (index : Nat) : State :=
  (s.sbsOf index).foldl (fun s k => s.setSb k { s.sb k with use := .erasing index, due := false }) s

/-- A cast ends: its command completes with a reason (07, R246; 12, R410; 14, R463). -/
def State.finishCast (s : State) (k : CastJob) (reason : Nat) : State :=
  let s : State := { s with update := { s.update with casts := s.update.casts.filter fun x => x.ctx != k.ctx } }
  let s := match k.cmd with
    | some id => { s with tsq := { s.tsq with early := put id reason s.tsq.early } }
    | none => s
  match k.ring with
  | some id => s.finishCmd id (((s.hub.taken.find? fun t => t.id == id).map Taken.handle).getD (s.handle .context k.ctx)) reason
  | none => s

/-- The cast of a context. -/
def State.castOf (s : State) (c : Nat) : Option CastJob := s.update.casts.find? fun k => k.ctx == c

/-- The operation that runs has its reason. -/
def State.setCisReason (s : State) (reason : Nat) : State :=
  s.onCis fun c => { c with op := c.op.map fun o => { o with reason := some reason } }

/-- Who waited for a mould write learns its reason. -/
def State.ownerDone (s : State) (o : MouldOwner) (reason : Nat) : State :=
  match o with
  | .op => s.setCisReason reason
  | .cast c => match s.castOf c with
    | some k => s.finishCast k reason
    | none => s

/-- A mould write ends before its commit and leaves no mould (16, R524). -/
def State.abortMould (s : State) (w : MouldWrite) (reason : Nat) : State :=
  let s := s.onCis fun c => { c with writes := c.writes.filter fun x => x.index != w.index }
  ((s.releaseSbs w.index).freeEntry w.index).ownerDone w.owner reason

/-- Abort every mould write. -/
def State.abortMoulds (s : State) (reason : Nat) : State := s.cis.writes.foldl (fun s w => s.abortMould w reason) s

/-- READ_ONLY as the free reserve falls and ACTIVE as it rises again. -/
def State.checkReserve (s : State) : State :=
  if s.cistern.failed then s
  else if s.cistern.readOnly then
    if 1024 ≤ s.freeReserve then (s.onCistern fun c => { c with readOnly := false }).cisChanged else s
  else if s.freeReserve < 512 then ((s.onCistern fun c => { c with readOnly := true }).cisChanged).abortMoulds 0x8B
  else s

/-! ## Writing moulds (16, R519 to R522) -/

/-- Whether a mould write may begin. -/
inductive MouldStart where
  | refused (reason : Nat)
  /-- No write stream is free. -/
  | waits
  | at (index : Nat)
  deriving DecidableEq, Repr

/-- May a mould of `n` bytes begin: the state, a write stream, a free table entry and superblocks outside the reserve. -/
def State.mouldStart (s : State) (n : Nat) : MouldStart :=
  if s.cisState ≠ 0 then .refused 0x87
  else if 4 ≤ s.cis.writes.length then .waits
  else match (List.range 4096).find? fun i => !decide (i ∈ s.cistern.used) with
    | none => .refused 0x86
    | some i => if s.freeSb < sbsFor n + sbReserve then .refused 0x86 else .at i

/-- A mould write begins. -/
def State.openMould (s : State) (w : MouldWrite) : State :=
  let s := (s.rput Mould.STATE w.index 1).rput Mould.CONTEXT w.index w.ctx
  let s := s.onCistern fun c => { c with used := c.used ++ [w.index] }
  let s := (s.allocate w.index (sbsFor w.body.bytes.length) 0).countNand w.body.bytes.length
  (s.onCis fun c => { c with writes := c.writes ++ [w] }).checkReserve

/-- The manifest of a mould as stored. -/
def MouldBody.manifestBytes (b : MouldBody) : List Byte := b.bytes.drop b.manifest

/-- A commit record (16, R520). -/
def commitRecord (w : MouldWrite) (serial superblocks now : Nat) : List Byte :=
  let head := ascii "SVMK" ++ toBytes 2 1 ++ toBytes 2 w.index ++ toBytes 8 serial ++ toBytes 2 w.ctx ++ [0, 0] ++
    toBytes 4 w.records ++ toBytes 8 w.step ++ toBytes 4 w.round ++ toBytes 4 superblocks ++ toBytes 8 w.body.bytes.length ++
    toBytes 8 now ++ toBytes 1 (b2n w.signed) ++ List.replicate 7 0 ++ sha512 w.body.manifestBytes ++ List.replicate 120 0
  head ++ (sha512 head).take 8

/-- Committed moulds of a context. -/
def State.committed (s : State) (c : Nat) : List Nat :=
  s.cistern.used.filter fun i => s.rget Mould.STATE i == 2 && s.rget Mould.CONTEXT i == c

/-- A committed or damaged mould is deleted: its entry is ERASING until its superblocks are erased. -/
def State.deleteMould (s : State) (index : Nat) : State :=
  let s := (s.rput Mould.STATE index 4).releaseSbs index
  s.onCistern fun c => { c with bodies := del index c.bodies, commits := del index c.commits }

/-- Is a mould being read? -/
def State.beingRead (s : State) (index : Nat) : Bool :=
  s.cis.op.any fun o => o.op == 1 && o.reason.isNone && o.arg == index

/-- The oldest committed mould of a context beyond KEEP is deleted; one that is being read waits for its read (16, R522). -/
def State.keepMoulds (s : State) (c : Nat) : State :=
  let keep := s.rget CisCtrl.KEEP
  let all := s.committed c
  if keep = 0 ∨ all.length ≤ keep then s
  else
    match all.foldl (fun best i => match best with
      | none => some i
      | some q => if s.rget Mould.SERIAL i < s.rget Mould.SERIAL q then some i else some q) (none : Option Nat) with
    | none => s
    | some i => if s.beingRead i then s.onCis fun c => { c with afterRead := c.afterRead ++ [i] } else s.deleteMould i

/-- The table entry of a mould takes what its commit record holds. -/
def State.stampMould (s : State) (w : MouldWrite) (serial : Nat) : State :=
  let i := w.index
  let s := (((s.rput Mould.STATE i 2).rput Mould.SIGNED i (b2n w.signed)).rput Mould.RECORDS i w.records).rput Mould.SERIAL i serial
  let s := ((s.rput Mould.STEP i w.step).rput Mould.ROUND i w.round).rput Mould.BYTES i w.body.bytes.length
  (s.rput Mould.COMMIT_TIME i s.now).rput Mould.DIGEST i (digest64 w.body.manifestBytes)

/-- Commit a mould whose last page has been programmed. -/
def State.commitMould (s : State) (w : MouldWrite) : State :=
  let serial := s.cistern.serial + 1
  let s := s.onCis fun c => { c with writes := c.writes.filter fun x => x.index != w.index }
  let record := commitRecord w serial (s.sbsOf w.index).length s.now
  let s := s.onCistern fun c => { c with
    serial := serial, bodies := put w.index w.body c.bodies, commits := put w.index record c.commits
    written := c.written + w.body.bytes.length, nand := c.nand + 2 * 16384 }
  ((s.stampMould w serial).keepMoulds w.ctx).ownerDone w.owner 0

/-- MOULD_COMMIT. -/
def execMouldCommit (index : Nat) (s : State) : Host.Outcome State Fault Refusal :=
  .next (match s.cis.writes.find? fun w => w.index == index with
    | none => s
    | some w => s.commitMould w)

/-- Superblocks of a mould that has gone are erased. -/
def State.eraseSbs (s : State) (index : Nat) : State :=
  (s.cistern.sbs.filter fun e => decide (e.2.use = .erasing index)).foldl (fun s e =>
    s.setSb e.1 { e.2 with use := .free, erases := e.2.erases + 1, reads := 0 }) s

/-- MOULD_ERASE_DONE: superblocks are erased, and an entry in ERASING becomes FREE. -/
def execMouldEraseDone (index : Nat) (s : State) : Host.Outcome State Fault Refusal :=
  .next (
    let s := s.eraseSbs index
    (if s.rget Mould.STATE index = 4 then s.freeEntry index else s).checkReserve)

/-! ## What reads meet (16, R512, R513) -/

/-- CIS_PARITY_REBUILD, CIS_UNCORRECTABLE (naming a mould index or a system item) and CIS_BLOCK_RETIRED. -/
def parityRec (k : Nat) : ErrRec := { type := 0x00C0, severity := 1, reason := 0, die := 4, address := k }
def lostRec (unit k : Nat) : ErrRec := { type := 0x00C1, severity := 3, reason := 0x89, die := 4, unit := unit, address := k }
def retiredRec (k channel : Nat) : ErrRec := { type := 0x00C2, severity := 0, reason := 0, die := 4, unit := channel, address := k }

/-- Mark a superblock for relocation. -/
def State.markDue (s : State) (k : Nat) : State := s.setSb k { s.sb k with due := true }

/-- A lost codeword of a mould: which one of the superblock's, the spec leaves to the medium, a free value; its 64 lines
come back poisoned and the mould is DAMAGED (16, R513). -/
def State.loseCodeword (s : State) (k index pos : Nat) : State :=
  match look index s.cistern.bodies with
  | none => s
  | some b =>
    let (v, s) := s.draw
    let first := pos * sbBytes / 4096
    let count := max 1 (min (sbBytes / 4096) (ceilDiv b.bytes.length 4096 - first))
    let w := first + v.toNat % count
    let s := s.onCistern fun c => { c with
      bodies := put index { b with dirty := b.dirty ++ (List.range 64).map fun i => 64 * w + i } c.bodies }
    (s.rput Mould.STATE index 3).logError (lostRec index k)

/-- The items of R511 that are kept in two copies. -/
def sysItems : List SysItem := [.svn, .column, .memory, .key, .cert, .restore, .journal]

/-- The state becomes FAILED (16, R523). -/
def State.failCistern (s : State) : State :=
  if s.cistern.failed then s
  else
    let s := ((s.onCistern fun c => { c with failed := true }).cisChanged).abortMoulds 0x87
    match s.cis.op with
    | some o => if o.reason.isNone then s.setCisReason 0x87 else s
    | none => s

/-- A lost codeword of the image slot: a header that cannot be read leaves no image, and a body fails its digest. -/
def State.loseImage (s : State) (w : Nat) : State :=
  match s.cistern.image with
  | none => s
  | some img => s.onCistern fun c => if w % ceilDiv img.length 4096 = 0 then { c with image := none } else { c with imageLost := true }

/-- A lost codeword of a system item: which item it is in, and which copy or codeword of it, are free values (16, R513). -/
def State.loseItem (s : State) (k : Nat) : State :=
  let (v, s) := s.draw
  let (w, s) := s.draw
  let n := v.toNat % 9
  let s := s.logError (lostRec (0x8000 + n) k)
  if n = 7 then s.loseImage w.toNat
  else if n = 8 then s.onCistern fun c => { c with cfg := .torn }
  else
    let i := sysItems.getD n .svn
    let s := s.loseCopy i (w.getLsbD 0)
    if i = .journal ∧ s.copiesOf .journal = 0 then s.failCistern else s

/-- What a read of a superblock meets: its data is right, or rebuilt, or a codeword is lost; a superblock with weak data waits
to be relocated (16, R512, R513, R516). -/
def State.flashMet (s : State) (k : Nat) (r : FlashRead) : State :=
  match r with
  | .clean => s
  | .weak | .softDecoded => s.markDue k
  | .rebuilt => (s.logError (parityRec k)).markDue k
  | .lost => (match (s.sb k).use with
    | .mould i pos => s.loseCodeword k i pos
    | _ => s.loseItem k).markDue k

/-! ## Operations (16, R529) -/

/-- Operations begin: the registers are taken; an unknown OP or fields outside their limits complete with 0x8A, and every
operation with 0x87 while STATE is FAILED. -/
def State.cisOpStart (s : State) (op : Nat) : State :=
  let addr := s.rget CisOpAddr.ALL
  let arg := s.rget CisOpArg.ALL
  let addrOk := decide (addr % 4096 = 0 ∧ addr < 2 ^ 48)
  let fieldsOk := if op = 1 then addrOk && decide (arg < 4096)
    else if op = 2 then addrOk && decide (addr < 2 ^ 47 ∧ arg < 65536)
    else op == 3 && decide (arg < 4096)
  let reason := if s.cistern.failed then some 0x87 else if fieldsOk then none else some 0x8A
  (s.onCis fun c => { c with op := some ⟨op, addr, s.rget CisOpLen.ALL, arg, reason, false⟩ }).rput CisOp.BUSY 0 1

/-- CIS_OP_COMPLETE. -/
def execCisOpComplete (s : State) : Host.Outcome State Fault Refusal :=
  .next (match s.cis.op with
    | none => s
    | some o => match o.reason with
      | none => s
      | some r =>
        (((s.onCis fun c => { c with op := none }).rput CisOp.BUSY 0 0).rput CisOp.REASON 0 r).setEvt Evt.CISTERN)

/-- The operation that runs, when it is `op` and has no reason yet. -/
def State.cisRunning (s : State) (op : Nat) : Option OpRun := s.cis.op.filter fun o => o.op == op && o.reason.isNone

/-- Records at the front of a cast's bytes: their headers as read and where the manifest begins. The first argument bounds
their number. -/
def castRecords : Nat → Nat → List Byte → List (List Byte) × Nat
  | 0, off, _ => ([], off)
  | n + 1, off, bs =>
    if bs.take 4 = ascii "SVSR" then
      let len := 256 + leField bs 40 8
      let rest := castRecords n (off + roundUp len 8) (bs.drop (roundUp len 8))
      (bs.take len :: rest.1, rest.2)
    else ([], off)

/-- A cast in bytes: its records, where its manifest begins, and what the manifest says. -/
structure CastView where
  records  : List (List Byte)
  manifest : Nat
  count    : Nat
  signed   : Bool
  step     : Nat
  round    : Nat
  entries  : List (List Byte)
  whole    : Bool
  deriving DecidableEq, Repr

/-- Read a cast. `whole` says that its manifest is one and that nothing follows it. -/
def castView (bs : List Byte) : CastView :=
  let (rs, off) := castRecords bs.length 0 bs
  let m := bs.drop off
  let n := leField m 8 4
  let signed := bit (leField m 15 1) 0
  { records := rs, manifest := off, count := n, signed := signed, step := leField m 16 8, round := leField m 24 4
    entries := (List.range (min n bs.length)).map fun i => slice m (64 + 80 * i) 80
    whole := decide (m.take 4 = ascii "SVCM" ∧ m.length = 64 + 80 * n + if signed then 512 else 0) }

/-- The manifest entry of a record (07, R250). -/
def entryOf (r : List Byte) : List Byte :=
  slice r 12 4 ++ slice r 32 4 ++ slice r 8 1 ++ List.replicate 7 0 ++ slice r 192 64

/-- A record's digest is that of its header and data (07, R248). -/
def recordSound (r : List Byte) : Bool := decide (sha512 (r.take 192 ++ r.drop 256) = slice r 192 64)

/-- Poisoned lines of a range, by number from its beginning. -/
def State.dirtyLines (s : State) (a n : Nat) : List Nat :=
  (List.range (ceilDiv n 64)).filter fun i => s.poisoned (a + 64 * i) 64

/-- MOULD_WRITE: the manifest's entries must match the records' digests; then the cast is written as a mould. It waits
while no write stream is free. -/
def execMouldWrite (s : State) : Host.Outcome State Fault Refusal :=
  .next (match s.cisRunning 2 with
    | none => s
    | some o =>
      if s.cisState ≠ 0 then s.setCisReason 0x87
      else if s.cis.writes.any (fun w => decide (w.owner = .op)) then s
      else
        let bs := s.peek o.addr o.len
        let v := castView bs
        if !(s.backed o.addr && s.backed (o.addr + o.len - 1) && v.whole && v.count == v.records.length &&
            v.entries == v.records.map entryOf) then s.setCisReason 0x8A
        else match s.mouldStart o.len with
          | .refused r => s.setCisReason r
          | .waits => s
          | .at i =>
            (s.touch o.addr o.len).openMould
              { index := i, ctx := o.arg, records := v.count, step := v.step, round := v.round, signed := v.signed
                body := ⟨bs, v.manifest, s.dirtyLines o.addr o.len⟩, owner := .op })

/-- Deletions that waited for a read. -/
def State.afterRead (s : State) : State :=
  let l := s.cis.afterRead
  l.foldl (fun s i => if s.rget Mould.STATE i = 2 ∨ s.rget Mould.STATE i = 3 then s.deleteMould i else s)
    (s.onCis fun c => { c with afterRead := [] })

/-- Reads of a mould's blocks wear on its superblocks (16, R516). -/
def State.countReads (s : State) (k n : Nat) : State :=
  let b := s.sb k
  s.setSb k { b with reads := b.reads + n, due := b.due || decide (100000 ≤ b.reads + n) }

/-- Write a mould's bytes with the poison of its lines. -/
def State.deliver (s : State) (a : Nat) (b : MouldBody) : State :=
  let ls := pieces 64 b.bytes
  ((List.range ls.length).zip ls).foldl (fun s e => s.store (a + 64 * e.1) e.2 (decide (e.1 ∈ b.dirty))) s

/-- The superblocks that hold a mould, by their positions. -/
def State.sbsInOrder (s : State) (index : Nat) : List Nat :=
  let l := s.sbsOf index
  (List.range l.length).filterMap fun p => l.find? fun k => decide ((s.sb k).use = .mould index p)

/-- The reads of a mould's superblocks. -/
def State.readSbs (s : State) (index : Nat) : State :=
  (s.sbsInOrder index).foldl (fun s k => s.countReads k 2048) s

/-- MOULD_READ: lines that are lost are delivered as poison. -/
def execMouldRead (s : State) : Host.Outcome State Fault Refusal :=
  .next (match s.cisRunning 1 with
    | none => s
    | some o =>
      let st := s.rget Mould.STATE o.arg
      if st = 1 then s.setCisReason 0x88
      else match look o.arg s.cistern.bodies with
        | none => s.setCisReason 0x8A
        | some b =>
          let a := o.addr
          let n := b.bytes.length
          if o.len < n ∨ s.backed a = false ∨ s.backed (a + n - 1) = false ∨ (spaceOf a = .host ∧ s.hostUp = false) then
            s.setCisReason 0x8A
          else
            let v := castView b.bytes
            let sound := v.records.all recordSound && digest64 b.manifestBytes == s.rget Mould.DIGEST o.arg &&
              decide (((look o.arg s.cistern.commits).map fun c => slice c 64 64) = some (sha512 b.manifestBytes))
            (((s.readSbs o.arg).deliver a b).setCisReason (if sound && b.dirty.isEmpty then 0 else 0x89)).afterRead)

/-- MOULD_DELETE. -/
def execMouldDelete (s : State) : Host.Outcome State Fault Refusal :=
  .next (match s.cisRunning 3 with
    | none => s
    | some o =>
      let st := s.rget Mould.STATE o.arg
      if st = 1 then s.setCisReason 0x88
      else if st = 2 ∨ st = 3 then (s.deleteMould o.arg).setCisReason 0
      else s.setCisReason 0x8A)

/-! ## Patrol, relocation, wear and defects (16, R512 to R516) -/

/-- Superblocks whose pages are programmed. -/
def State.inUse (s : State) (k : Nat) : Bool :=
  match (s.sb k).use with
  | .system | .mould _ _ => true
  | .free | .erasing _ => false

/-- Is the patrol's period over (16, R526)? -/
def State.patrolOver (s : State) : Bool :=
  decide (s.cis.since + max 1 (s.rget CisCtrl.PATROL_DAYS) * 86400000000000 ≤ s.now)

/-- The superblocks that the patrol has read in this period. -/
def State.patrolled (s : State) : List Nat := if s.patrolOver then [] else s.cis.patrolled

/-- Superblocks that hold data: those of the system area to begin with, and listed ones. -/
def State.programmedSbs (s : State) : List Nat := (List.range sbSystem ++ s.cistern.sbs.map Prod.fst).filter fun k => s.inUse k

/-- The superblock that the patrol reads next: of those unread in this period the one programmed longest ago (16, R516). -/
def State.nextPatrol (s : State) : Option Nat :=
  (s.programmedSbs.filter fun k => !decide (k ∈ s.patrolled)).foldl (fun best k => match best with
    | none => some k
    | some q => if (s.sb k).age < (s.sb q).age then some k else some q) none

/-- The patrol has read a superblock; a period begins where one is over. -/
def State.patrolMark (s : State) (k : Nat) : State :=
  s.onCis fun c => { c with patrolled := s.patrolled ++ [k], since := if s.patrolOver then s.now else c.since }

/-- Is the patrol running: is a programmed superblock unread in this period? -/
def State.patrolBusy (s : State) : Bool := s.programmedSbs.any fun k => !decide (k ∈ s.patrolled)

/-- Does the MOULD_READ that runs read a superblock? -/
def State.readsMould (s : State) (k : Nat) : Bool :=
  match s.cisRunning 1, (s.sb k).use with
  | some o, .mould i _ => i == o.arg
  | _, _ => false

/-- CIS_PATROL: the patrol reads its next superblock, or a running MOULD_READ meets a superblock's errors: a lost codeword makes
the mould DAMAGED and its lines poison. The reads of the operation count when it ends. -/
def execCisPatrol (k : Nat) (r : FlashRead) (s : State) : Host.Outcome State Fault Refusal :=
  .next (
    if s.nextPatrol = some k then ((s.patrolMark k).countReads k 2048).flashMet k r
    else if s.readsMould k then s.flashMet k r else s)

/-- Data moves verbatim from one superblock to a free one; the old one is erased. -/
def State.moveSb (s : State) (k q : Nat) : State :=
  let b := s.sb k
  let s := s.program q b.use
  (s.setSb k { b with use := .free, erases := b.erases + 1, reads := 0, due := false }).countNand sbBytes

/-- CIS_RELOCATE. -/
def execCisRelocate (k : Nat) (s : State) : Host.Outcome State Fault Refusal :=
  .next (
    if !(decide (k < sbCount) && s.inUse k && (s.sb k).due) then s
    else match s.nextSb with
      | none => s
      | some q => (s.moveSb k q).checkReserve)

/-- CIS_WEAR_LEVEL: when two erase counts differ by more than 200, the data of the least-worn superblock in use moves to
the most-worn free one. -/
def execCisWearLevel (s : State) : Host.Outcome State Fault Refusal :=
  .next (
    let all := (List.range sbCount).filter fun k => !decide (k ∈ s.cistern.broken)
    let lo := all.foldl (fun m k => min m (s.sb k).erases) (s.sb 0).erases
    let hi := all.foldl (fun m k => max m (s.sb k).erases) 0
    match (all.filter fun k => s.inUse k).foldl (fun b k => s.lessWorn b k) none,
        s.freeSbs.foldl (fun b k => s.moreWorn b k) none with
    | some k, some q => if hi ≤ lo + 200 then s else s.moveSb k q
    | _, _ => s)

/-- Spare blocks left for a channel. -/
def State.sparesOf (s : State) (ch : Nat) : Int := (Config.spareBlocks ch : Int) + lookD ch 0 s.cistern.spares

/-- A spare block of a channel is used; when none is left, a free superblock is taken apart and its other blocks become
the spares of their channels. -/
def State.takeSpare (s : State) (ch : Nat) : State :=
  let use : State → State := fun s => s.onCistern fun c => { c with spares := put ch (lookD ch 0 c.spares - 1) c.spares }
  if 0 < s.sparesOf ch then use s
  else match s.freeSbs.getLast? with
    | none => s
    | some k => use (s.onCistern fun c => { c with
        broken := c.broken ++ [k]
        spares := (List.range 16).foldl (fun m i => put i (lookD i 0 m + 1) m) c.spares })

/-- CIS_BLOCK_RETIRED: the data of the superblock moves to another, the block is replaced, and the record is written. -/
def execCisBlockRetired (k ch : Nat) (s : State) : Host.Outcome State Fault Refusal :=
  .next (
    if !(decide (k < sbCount ∧ ch < 16) && !decide (k ∈ s.cistern.broken)) then s
    else
      let s := if s.inUse k then match s.nextSb with
          | none => s
          | some q => s.moveSb k q
        else s
      let s := (s.takeSpare ch).onCistern fun c => { c with grown := c.grown + 1 }
      (s.logError (retiredRec k ch)).checkReserve)

/-- CIS_CHANNEL_LOST: a channel is lost, or neither journal copy can be read. -/
def execCisChannelLost (ch : Option Nat) (s : State) : Host.Outcome State Fault Refusal :=
  .next (match ch with
    | some c => if c < 16 then s.failCistern else s
    | none => (s.onCistern fun c => { c with copies := put .journal ⟨0, false, none⟩ c.copies }).failCistern)

/-! ## Recovery (16, R531) -/

/-- CIS_TORN_RECOVERY. -/
def tornRec (n : Nat) : ErrRec := { type := 0x00C4, severity := 0, reason := 0x8B, die := 4, detail := n }

/-- At boot order 5 every mould in WRITING is discarded and counted. -/
def State.recoverMoulds (s : State) : State :=
  let gone := s.cistern.used.filter fun i => s.rget Mould.STATE i == 1
  let s := gone.foldl (fun s i => (s.releaseSbs i).freeEntry i) s
  let s := s.rput CisStatus.TORN_DISCARDED 0 gone.length
  if gone.isEmpty then s else s.logError (tornRec gone.length)

end Sys2Proof.Machine
end

