-- ==== Sys2Proof/Machine/Ras.lean ====
section
/-!
DEFINITION. The patrols and failures of the memory tiers (11, R357 to R365) and the column tests (13, R441, R442).
-/
namespace Sys2Proof.Machine

/-! ## Memory devices -/

/-- The entry of MemDev for a device address: HMC_STACK of stack 0 to 15, then LMC_DEV of device n at 16 + n (11, R364). -/
def memDevOf (a : Nat) : Option Nat :=
  match spaceOf a with
  | .hbm => some (stackOf a)
  | .lpddr => some (16 + lpddrOf a)
  | _ => none

/-- The entry of Scrub for a device: its die's, or 4 for LPDDR (11, R365). -/
def scrubOf (d : Nat) : Nat := if d < 16 then d / 4 else 4

/-- The location fields of a memory device: the die and the stack or device number. -/
def ErrRec.atDevice (r : ErrRec) (d : Nat) : ErrRec :=
  if d < 16 then { r with die := d / 4, unit := d % 4 } else { r with die := 4, unit := d - 16 }

/-- MEM_UNCORRECTABLE, MEM_ROW_SPARED and MEM_DEVICE_FAILED (11, R358, R361, R362). -/
def uncorrectableRec (d a : Nat) : ErrRec :=
  ({ type := 0x0080, severity := 3, reason := 0x64, address := a } : ErrRec).atDevice d
def rowSparedRec (d a : Nat) (made : Bool) : ErrRec :=
  ({ type := 0x0081, severity := if made then 1 else 0, reason := if made then 0x66 else 0x65, address := a } : ErrRec).atDevice d
def deviceFailedRec (d : Nat) : ErrRec := ({ type := 0x0082, severity := 5, reason := 0x67 } : ErrRec).atDevice d

/-- STATE of a memory device changes: CHANGED and MEMORY (11, R364; 14, R469). -/
def State.memState (s : State) (d v : Nat) : State :=
  if s.rget MemDev.STATE d = v then s
  else
    let s := s.rput MemDev.STATE d v
    if s.rbit MemDev.CHANGED d then s else (s.rput MemDev.CHANGED d 1).setEvt Evt.MEMORY

/-- The rows of a bank that a spare replaces: by soft repair since boot, and by hard repair from the memory record. -/
def State.sparesUsed (s : State) (d bank : Nat) : Nat :=
  (s.tiers.spared.filter fun e => e.1 == d && Config.rowBank e.2 == bank).length +
    (s.cistern.rows.filter fun e => e.1 == d && Config.rowBank e.2 == bank && !decide (e ∈ s.tiers.spared)).length

/-- A device that is OK is DEGRADED once the spares of a bank are exhausted (11, R364). -/
def State.degrade (s : State) (d bank : Nat) : State :=
  if s.rget MemDev.STATE d = 0 ∧ Config.spareRows d bank ≤ s.sparesUsed d bank then s.memState d 1 else s

/-- Soft repair of a row (11, R361): the count of its errors starts again, and the spare is taken, with the record and the row
in the memory record; or no spare is left. -/
def State.repairRow (s : State) (d a row : Nat) : State :=
  let bank := Config.rowBank row
  let s : State := { s with tiers := { s.tiers with rowErrors := del (d, row) s.tiers.rowErrors } }
  if s.sparesUsed d bank < Config.spareRows d bank then
    let s : State := { s with tiers := { s.tiers with spared := s.tiers.spared ++ [(d, row)] } }
    (((s.writeItem (.memory (s.cistern.rows ++ [(d, row)]))).rinc MemDev.SPARED d).logError (rowSparedRec d a true)).degrade d bank
  else (s.logError (rowSparedRec d a false)).degrade d bank

/-- A corrected error of a line (11, R358, R361). -/
def State.correctLine (s : State) (d a : Nat) : State :=
  let row := Config.memRow a
  let n := lookD (d, row) 0 s.tiers.rowErrors + 1
  let s := s.rinc MemDev.CORRECTED d
  let s : State := { s with tiers := { s.tiers with rowErrors := put (d, row) n s.tiers.rowErrors } }
  if 4 ≤ n ∧ s.rbit Scrub.REPAIR_EN (scrubOf d) = true then s.repairRow d a row else s

/-- An uncorrectable line: poisoned in place and recorded (11, R358). -/
def State.poisonLine (s : State) (d a : Nat) : State :=
  let s : State := { s with poison := markLine (lineOf a) true s.poison }
  ((s.rinc MemDev.UNCORRECTABLE d).rput MemDev.LAST_ADDR d a).logError (uncorrectableRec d a)

/-- The last pseudo-channel of a stack that answers (11, R362). -/
def State.lastPseudo (s : State) (k : Nat) : Nat :=
  ((List.range 32).filter fun p => !decide (MemUnit.pseudoChannel k p ∈ s.tiers.failed)).getLastD 0

/-- The last line of a device that its patrol reads, at which a pass ends (log 56). -/
def State.lastLine (s : State) (a : Nat) : Bool :=
  match spaceOf a with
  | .hbm => decide (0x003000000000 ≤ a % 0x003000000000 + 0x8000 ∧ pseudoOf a = s.lastPseudo (stackOf a) ∧ 192 ≤ a % 256)
  | .lpddr => decide (lpddrBase + 0x00C000000000 ≤ a + 4096 ∧ 192 ≤ a % 256)
  | _ => false

/-- A patrol pass ends: the corrected errors of its period are forgotten (11, R360, R361). -/
def State.endPass (s : State) (d : Nat) : State :=
  let s := s.rwrap MemDev.PATROLS d
  { s with tiers := { s.tiers with rowErrors := s.tiers.rowErrors.filter fun e => e.1.1 != d } }

/-- What the code of a line makes of the wrong bytes that a read meets (11, R354): one is corrected and two are detected. Of
three or more the rule promises nothing: a free choice takes them for no error, for one or for two (log 122). -/
def lineErrors (bytes free : Nat) : Nat := if bytes ≤ 2 then bytes else free % 3

/-- The bytes of a line that the code took for others: free values (log 122). -/
def State.mistaken (s : State) (a : Nat) : State :=
  let s := (List.range 64).foldl (fun (s : State) (i : Nat) =>
    let (v, s) := s.draw
    { s with mem := Memory.write (a + i) (BitVec.ofNat 8 v.toNat) s.mem }) s
  let (p, s) := s.draw
  { s with poison := markLine (lineOf a) (bit p.toNat 0) s.poison }

/-- A read of a line of a device meets bytes in error (11, R354, R358). -/
def State.readLine (s : State) (d a bytes : Nat) : State :=
  let (v, s) := if bytes ≤ 2 then ((0 : Word), s) else s.draw
  let n := lineErrors bytes v.toNat
  let s := if 2 < bytes ∧ n < 2 then s.mistaken a else s
  if n = 0 then s else if n = 1 then s.correctLine d a else s.poisonLine d a

/-- MEM_PATROL_READ: the patrol reads the line that holds `addr`, or an agent does (log 122). A stopped patrol, an address of
no tier and a line that does not answer change nothing. -/
def execMemPatrolRead (addr : Nat) (r : LineVisit) (s : State) : Host.Outcome State Fault Refusal :=
  .next (match memDevOf addr with
    | none => s
    | some d =>
      let a := lineOf addr * 64
      if (r.demand = false ∧ s.rget Scrub.PERIOD_H (scrubOf d) = 0) ∨ s.deadLine a = true then s
      else
        let last := !r.demand && s.lastLine a
        let s := match r.met with
          | .wrong bytes => s.readLine d a bytes
          | .linkCorrected => if 16 ≤ d then s.rinc MemDev.LINK_CORRECTED d else s
        if last then s.endPass d else s)

/-- The entry of a unit that can fail, where it names one. -/
def unitDevice : MemUnit → Option Nat
  | .stack k => if k < 16 then some k else none
  | .pseudoChannel k p => if k < 16 ∧ p < 32 then some k else none
  | .lpddr n => if n < 16 then some (16 + n) else none

/-- MEM_DEVICE_FAILED: its lines read as poisoned from now on, and its STATE is FAILED. -/
def execMemDeviceFailed (u : MemUnit) (s : State) : Host.Outcome State Fault Refusal :=
  .next (match unitDevice u with
    | none => s
    | some d =>
      if u ∈ s.tiers.failed then s
      else
        let s : State := { s with tiers := { s.tiers with failed := s.tiers.failed ++ [u] } }
        (s.memState d 2).logError (deviceFailedRec d))

/-! ## Column tests (13, R441, R442) -/

/-- A column test of a tile begins. -/
def State.beginTest (s : State) (t : Nat) : State :=
  let s : State := { s with ras := { s.ras with
    testing := some t
    testsDue := s.ras.testsDue.filter fun u => decide (u ≠ t) } }
  s.rput RasTest.BUSY 0 1

/-- Does the boot self-test run, so that it may send any live tile to a column test (15, R485)? -/
def State.selfTest (s : State) (t : Nat) : Bool :=
  decide (6 ∈ s.security.orders ∧ ¬ 7 ∈ s.security.orders ∧ t < 1024) && !s.rbit Census.RETIRED t && !s.rbit Census.FUSED_OFF t

/-- May a tile be tested next: until the boot self-test is over, the tests run in rounds in ascending local tile number
(15, R486)? -/
def State.inRound (s : State) (t : Nat) : Bool :=
  decide (7 ∈ s.security.orders) || s.ras.testsDue.all fun u => decide (t % 32 ≤ u % 32)

/-- COLUMN_TEST: a scheduled test, or one that the boot self-test asks for, starts once its tile is in no partition that is
not OFF, its round has come and no other test runs. -/
def execColumnTest (tile : Nat) (s : State) : Host.Outcome State Fault Refusal :=
  .next (
    if (tile ∈ s.ras.testsDue ∨ s.selfTest tile = true) ∧ s.inRound tile = true ∧ s.ras.testing = none ∧
        s.partOfRegion (tile / 32) = none then
      s.beginTest tile
    else s)

/-- A passing test clears the strikes of the tile and of its columns. -/
def State.clearStrikes (s : State) (t : Nat) : State :=
  let s : State := { s with ras := { s.ras with
    tileStrikes := del t s.ras.tileStrikes
    colStrikes := s.ras.colStrikes.filter fun e => e.1.1 != t } }
  if s.rbit Census.PENDING t && (look t s.ras.bypasses).isNone then (s.rput Census.PENDING t 0).censusMoved else s

/-- Columns that fail are bypassed, or wait while the tile's partition is not OFF (04, R153). -/
def State.bypass (s : State) (t mask : Nat) : State :=
  if (s.partOfRegion (t / 32)).isNone then s.applyBypass t mask
  else
    let s : State := { s with ras := { s.ras with bypasses := put t (lookD t 0 s.ras.bypasses ||| mask) s.ras.bypasses } }
    (s.rput Census.PENDING t 1).censusMoved

/-- COLUMN_TEST_DONE: the columns of `failed` read wrong bits; a column that was bypassed already counts for nothing. -/
def execColumnTestDone (tile : Nat) (failed : Word) (s : State) : Host.Outcome State Fault Refusal :=
  .next (
    if s.ras.testing = some tile then
      let fresh := packNat 1 ((List.range 64).map fun p =>
        b2n (bit failed.toNat p && !bit (s.rget Census.BYPASS tile) p))
      let s : State := { s with ras := { s.ras with testing := none } }
      let s := (s.rput RasTest.BUSY 0 0).rput RasTest.FAILED 0 (b2n (decide (fresh ≠ 0)))
      if fresh = 0 then s.clearStrikes tile else s.bypass tile fresh
    else s)

end Sys2Proof.Machine
end

