-- ==== Sys2Proof/Machine/Observe.lean ====
section
/-!
DEFINITION. Sampling sessions (18, R561 to R564) and trace sessions (18, R565 to R571): what they write, how they start,
and when they have stopped.
-/
namespace Sys2Proof.Machine

/-- Does a ring of `n` bytes lie wholly in HBM, LPDDR or host memory, aligned to 4 KiB (18, R562, R566)? -/
def ringPlaced (base n : Nat) : Bool :=
  base % 4096 == 0 && spaceOf base == spaceOf (base + n - 1) &&
  match spaceOf base with
  | .hbm | .lpddr | .host => true
  | _ => false

/-- May the collector or the exporter write to a ring now (11, R370)? -/
def State.ringReach (s : State) (base : Nat) : Bool := spaceOf base != .host || s.hostUp

/-! ## Sampling -/

/-- Is a tile of a session's range stopped now? -/
def State.rangeStopped (s : State) (i : Nat) : Bool :=
  (List.range (s.rget Sample.TILE_COUNT i)).any fun k =>
    let t := s.rget Sample.FIRST_TILE i + k
    s.rbit PwrRegion.STOPPED (t / 32) || !s.clusterUp (t / 4)

/-- A session with nothing counted, whose period ends at a time. -/
def State.freshSampler (s : State) (i ends : Nat) : Sampler :=
  { counts := noCounts, periods := 0, endTime := ends, stopped := s.rangeStopped i, later := [] }

/-- STARTING: HEAD, TAIL and MERGED are 0, and the period in progress begins to be counted (18, R562, R563). -/
def State.startSample (s : State) (i : Nat) : State :=
  let p := s.samplePeriod i
  let s := ((s.rput Sample.HEAD i 0).rput Sample.TAIL i 0).rput Sample.MERGED i 0
  { s with obs := { s.obs with samplers := put i (s.freshSampler i ((s.now / p + 1) * p)) s.obs.samplers } }

/-- A sample record (18, R564). -/
def sampleBytes (handle : Nat) (m : Sampler) : List Byte :=
  toBytes 8 m.endTime ++ toBytes 4 handle ++ toBytes 2 m.periods ++
  toBytes 1 (b2n (decide (1 < m.periods)) + 2 * b2n m.stopped) ++ [0] ++ m.counts.flatMap fun n => toBytes 8 n

/-- Write a session's record. -/
def State.writeSample (s : State) (i : Nat) (m : Sampler) : State :=
  let head := s.rget Sample.HEAD i
  let a := s.rget Sample.RING_BASE i + 64 * (head % 2 ^ s.rget Sample.RING_LOG2 i)
  let s := (s.store a (sampleBytes (s.handle .sample i) m) false).rwrap Sample.HEAD i
  let later := ((look i s.obs.samplers).getD m).later
  { s with obs := { s.obs with samplers := put i { s.freshSampler i m.endTime with later := later } s.obs.samplers } }

/-- Keep a period's counts for the next record. -/
def State.mergeSample (s : State) (i : Nat) (m : Sampler) : State :=
  let s := s.rinc Sample.MERGED i
  { s with obs := { s.obs with samplers := put i m s.obs.samplers } }

/-- The end of a period: its record, or its merging where the ring is full or cannot be reached. -/
def State.endPeriod (s : State) (i : Nat) (m : Sampler) : State :=
  let m := { m with periods := m.periods + 1 }
  if !s.ringReach (s.rget Sample.RING_BASE i) then (s.rput Sample.LAST_ERROR i 0x74).mergeSample i m
  else if 2 ^ s.rget Sample.RING_LOG2 i ≤ (s.rget Sample.HEAD i + 2 ^ 32 - s.rget Sample.TAIL i) % 2 ^ 32 then s.mergeSample i m
  else s.writeSample i m

/-- The period that ends at a time is the next to be recorded: what has been counted in it joins what is kept. -/
def Sampler.next (m : Sampler) (ends : Nat) : Sampler :=
  { m with
    endTime := ends
    counts := (m.counts.zip (lookD ends noCounts m.later)).map fun p => p.1 + p.2
    later := del ends m.later }

/-- The next period begins, or a session that stops has ended its last. -/
def State.nextPeriod (s : State) (i : Nat) : State :=
  let go : Map Nat Sampler := s.obs.samplers.map fun e =>
    if e.1 = i then (i, e.2.next (e.2.endTime + s.samplePeriod i)) else e
  { s with obs := { s.obs with samplers := if s.isOn Kind.sample i then go else del i s.obs.samplers } }

/-- SAMPLE_PERIOD_END. -/
def execSamplePeriodEnd (i : Nat) (s : State) : Host.Outcome State Fault Refusal :=
  .next (match look i s.obs.samplers with
    | none => s
    | some m => if m.endTime ≤ s.now then (s.endPeriod i m).nextPeriod i else s)

/-! ## Trace -/

/-- STARTING of a trace session: the buffer is empty and CAPTURE is ARMED (18, R566). -/
def State.startTrace (s : State) (d : Nat) : State :=
  let s := s.setTraceBuf d { recs := [], written := 0, exported := 0, left := 0, gapStops := [], stalled := false, lost := none }
  ((s.rput Trace.EXP_HEAD d 0).rput Trace.EXP_TAIL d 0).rput Trace.CAPTURE d captureArmed

/-- A disable while ARMED acts as a trigger with POST_FILL taken as 0 (18, R568). -/
def State.stopTrace (s : State) (d : Nat) : State :=
  if s.rget Trace.CAPTURE d = captureArmed then s.traceFire d 0 d 0 else s

/-- Has the exporter passed every record? -/
def TraceBuf.caughtUp (b : TraceBuf) : Bool := decide (b.written ≤ b.exported)

/-- Has a session's capture ended, so that STOPPING may end (18, R568)? -/
def State.traceOver (s : State) (d : Nat) : Bool :=
  if s.rbit Trace.EXPORT_MODE d then s.rget Trace.CAPTURE d == captureFrozen && (s.traceBuf d).caughtUp
  else s.rget Trace.CAPTURE d == captureDone

/-- The host triggers the sessions of a mask. -/
def State.hostTrigger (s : State) (mask : Nat) : State :=
  (List.range 4).foldl (fun s d => if bit mask d then s.traceTrigger d 0 d else s) s

/-- A mark of the host: a record in session 0's buffer. -/
def State.hostMark (s : State) (v : Nat) : State :=
  if s.isOn .trace 0 then s.traceWrite 0 ⟨0x14, 0, 0xFFFF, 0, s.now, 0, v, 0⟩ else s

/-- A session that is ON and whose capture is over is armed again (18, R568). -/
def State.armTrace (s : State) (d : Nat) : State :=
  let c := s.rget Trace.CAPTURE d
  if !s.isOn .trace d then s
  else if c = captureFrozen ∨ c = captureDone then
    let s := s.setTraceBuf d { s.traceBuf d with recs := [], written := 0, exported := 0, left := 0, lost := none }
    s.rput Trace.CAPTURE d captureArmed
  else if c = captureFilling ∨ c = captureExporting then s.rput Trace.LAST_ERROR d 0x75
  else s

/-- LINKED_TRIGGER: a session receives another session's trigger. -/
def execLinkedTrigger (session source : Nat) (s : State) : Host.Outcome State Fault Refusal :=
  .next (
    if (session, source) ∈ s.obs.linked then
      ({ s with obs := { s.obs with linked := s.obs.linked.erase (session, source) } } : State).traceTrigger session 4 source
    else s)

/-- A trace record's bytes (18, R565). -/
def TraceRec.bytes (r : TraceRec) : List Byte :=
  toBytes 1 r.kind ++ toBytes 1 r.flags ++ toBytes 2 r.loc ++ toBytes 4 r.ctx ++ toBytes 8 r.time ++ toBytes 4 r.opid ++
  toBytes 4 r.a ++ toBytes 8 r.b

/-- OBS_EXPORT_STALLED (18, R571). -/
def stalledRec (d : Nat) : ErrRec := { type := 0x00E0, severity := 0, reason := 0x74, die := d }

/-- Index of the oldest record that a buffer still holds. -/
def TraceBuf.oldest (b : TraceBuf) : Nat := b.written - b.recs.length

/-- Put a record into the export ring. -/
def State.exportRec (s : State) (d : Nat) (r : TraceRec) : State :=
  let a := s.rget Trace.EXP_BASE d + 32 * (s.rget Trace.EXP_HEAD d % 2 ^ s.rget Trace.EXP_LOG2 d)
  (s.store a r.bytes false).rwrap Trace.EXP_HEAD d

/-- The exporter was overtaken: one GAP_DROP for what it skips, and it goes on 32,768 records after the oldest record
present (18, R570). -/
def State.exportGap (s : State) (d : Nat) (b : TraceBuf) : State :=
  let next := min b.written (b.oldest + 32768)
  let n := next - b.exported
  let last := ((b.recs[next - b.oldest - 1]?).map TraceRec.time).getD 0
  let s := s.exportRec d ⟨0x10, 0, 0xFFFF, 0, b.lost.getD last, 0, min n (2 ^ 32 - 1), last⟩
  (s.rinc Trace.DROPPED d n).setTraceBuf d { b with exported := next, lost := none, stalled := false }

/-- Export the next record. -/
def State.exportNext (s : State) (d : Nat) (b : TraceBuf) : State :=
  match b.recs[b.exported - b.oldest]? with
  | none => s
  | some r => (s.exportRec d r).setTraceBuf d { b with exported := b.exported + 1, stalled := false }

/-- The exporter cannot reach its ring. -/
def State.exportStall (s : State) (d : Nat) (b : TraceBuf) : State :=
  let s := s.rput Trace.LAST_ERROR d 0x74
  if b.stalled then s else (s.setTraceBuf d { b with stalled := true }).logError (stalledRec d)

/-- In FREEZE mode the window is exported after the capture, and CAPTURE shows it; OBSERVE at DONE (18, R567). -/
def State.exportFrozen (s : State) (d : Nat) (b : TraceBuf) : State :=
  let b := { b with exported := max b.exported b.oldest }
  let s := (s.rput Trace.CAPTURE d captureExporting).exportNext d b
  if (s.traceBuf d).caughtUp then (s.rput Trace.CAPTURE d captureDone).setEvt Evt.OBSERVE else s

/-- TRACE_EXPORT: the exporter copies one record, or writes one GAP_DROP, as room and reach allow. -/
def execTraceExport (d : Nat) (s : State) : Host.Outcome State Fault Refusal :=
  .next (
    let b := s.traceBuf d
    let stream := s.rbit Trace.EXPORT_MODE d
    let c := s.rget Trace.CAPTURE d
    let active := s.isOn .trace d || s.fstate .trace d == 3
    if 4 ≤ d ∨ !active ∨ b.caughtUp = true ∨ (!stream ∧ c ≠ captureFrozen ∧ c ≠ captureExporting) then s
    else if 2 ^ s.rget Trace.EXP_LOG2 d ≤ (s.rget Trace.EXP_HEAD d + 2 ^ 32 - s.rget Trace.EXP_TAIL d) % 2 ^ 32 then s
    else if !s.ringReach (s.rget Trace.EXP_BASE d) then s.exportStall d b
    else if !stream then s.exportFrozen d b
    else if b.exported < b.oldest then s.exportGap d b
    else s.exportNext d b)

end Sys2Proof.Machine
end

