-- ==== Sys2Proof/Machine/Casts.lean ====
section
/-!
DEFINITION. Casts: requests, the manifest, their destinations, and their completion (07, R246 to R251; 10, R350; 12,
R410; 16, R521).
-/
namespace Sys2Proof.Machine

/-! ## Requests (07, R246) -/

/-- The destination address of a cast: host addresses have bit 47 set (14, R453). -/
def castAddr (dest v : Nat) : Nat := if dest = 1 then v % 2 ^ 47 + 2 ^ 47 else v

/-- Is the destination of a cast to memory an address that may be written? -/
def State.castTarget (s : State) (dest v : Nat) : Bool :=
  let a := castAddr dest v
  !(dest == 0 || dest == 1) || (s.backed a && !s.reserved a)

/-- Why a cast request is refused. -/
def State.castRefusal (s : State) (c content : Nat) : Option Nat :=
  if (s.castOf c).isSome then some 0x4C
  else if (s.castPlan c content (s.rget Ctx.STEP c)).isEmpty then some 0x4D
  else none

/-- A cast request is accepted: it is taken at the next passing gate of its context. -/
def State.addCast (s : State) (k : CastJob) : State := { s with update := { s.update with casts := s.update.casts ++ [k] } }

/-- A cast as UCAST's word 1 and g[GT] name it. A mould holds every content that the context's bindings and outer state hold,
the context record with it, whatever the mask (R251). -/
def castJob (c w1 addr : Nat) (cmd ring : Option Nat) : CastJob :=
  { ctx := c, content := if bits w1 10 2 = 3 then 0x3FF else bits w1 0 10, dest := bits w1 10 2, addr := addr, sign := bit w1 12, cmd := cmd, ring := ring
    taken := none, read := false, reason := none }

/-- UCAST's check at issue: a destination in memory must be an address that may be written. -/
def ucastCheck (s : State) (c : EngCmd) : Option IssueFault :=
  let w := c.w1.toNat
  if s.castTarget (bits w 10 2) c.gt.toNat then none else some (.address, 0x62, castAddr (bits w 10 2) c.gt.toNat)

/-- UCAST, R410. -/
def execUcast (t : ThreadRef) (e : FormE) (s : State) : Host.Outcome State Fault Refusal :=
  engine t e .ucast (bitsFrom 13) true 1 ucastCheck s

/-- A UCAST reaches the update units. -/
def startUcast (c : EngCmd) (s : State) : State :=
  match s.resolve .context (bits c.gs.toNat 0 32) with
  | none => s.endEarly c 0x10
  | some x =>
    match s.castRefusal x (bits c.w1.toNat 0 10) with
    | some r => s.endEarly c r
    | none => s.addCast (castJob x c.w1.toNat c.gt.toNat (some c.id) none)

/-! ## The manifest (07, R250) -/

/-- The manifest of a cast's records, with its signature. -/
def State.manifest (s : State) (k : CastJob) (step : Nat) (rs : List Record) : List Byte :=
  let head := ascii "SVCM" ++ toBytes 2 1 ++ toBytes 2 s.moduleId ++ toBytes 4 rs.length ++ toBytes 2 (s.rget HubIdent.PART) ++
    toBytes 1 (16 * s.rget HubIdent.STEP_MAJOR + s.rget HubIdent.STEP_MINOR) ++ toBytes 1 (b2n k.sign) ++ toBytes 8 step ++
    toBytes 4 (s.lastRound k.ctx) ++ List.replicate 36 0
  let body := head ++ rs.flatMap fun r =>
    toBytes 4 r.tensor ++ toBytes 4 r.shard ++ toBytes 1 r.content ++ List.replicate 7 0 ++ r.digest
  if k.sign then body ++ padTo 512 (Config.sign s.fuses.epoch body) else body

/-- The records of a cast at its step count, the context record last. -/
def State.castRecordsOf (s : State) (k : CastJob) (step : Nat) : List Record :=
  ((s.castPlan k.ctx k.content step).map fun e => s.shardRecord e.1 e.2.1 e.2.2 step) ++
    if bit k.content contentContext then [s.contextRecord k.ctx step] else []

/-- The state after the reads of a cast's records. -/
def State.castReads (s : State) (k : CastJob) (step : Nat) : State :=
  (s.castPlan k.ctx k.content step).foldl (fun s e =>
    (s.recordRanges e.1 e.2.1 e.2.2 step).foldl (fun s r => s.touch r.1 r.2) s) s

/-- Store bytes line by line where the address is backed. -/
def State.storeBacked (s : State) (a : Nat) (bs : List Byte) : State :=
  if s.backed a && s.backed (a + bs.length - 1) then s.store a bs false
  else
    ((List.range bs.length).zip bs).foldl (fun s e =>
      if s.backed (a + e.1) then s.store (a + e.1) [e.2] false else s) s

/-! ## Completion -/

/-- Have all commits of the gates before a cast's step count been made on the shards that it reads? -/
def State.castSettled (s : State) (k : CastJob) (step : Nat) : Bool :=
  (s.onBindings k.ctx).all fun b => (s.bindShards b).all fun j => s.settled b j step

/-- A cast's records have been read. -/
def State.castRead (s : State) (k : CastJob) : State :=
  { s with update := { s.update with casts := s.update.casts.map fun x => if x.ctx = k.ctx then { x with read := true } else x } }

/-- The binding that carries a cast stream to a partner entry: that of the context, else one that exchanges with the site,
else any that is ON (10, R350; log 119). -/
def State.streamBinding (s : State) (k : CastJob) : Option Nat :=
  let own := match s.outerOf k.ctx with
    | some i => if s.isOn .round i then some i else none
    | none => none
  own.orElse fun _ => (s.bindingTo (k.addr % 64)).orElse fun _ =>
    (List.range 64).find? fun i => s.isAllocated .round i && s.isOn .round i

/-- A cast stream: each record as an object of kind 3, then the manifest as one of kind 4 (10, R350). A stream with an object
that is not sent ends with the code of its record (R339, R340; log 119). -/
def State.streamCast (s : State) (k : CastJob) (i : Nat) (rs : List Record) (manifest : List Byte) : State :=
  let site := k.addr % 64
  let r := s.lastRound k.ctx
  let self := s.rget Round.SELF_SITE i
  let lens := rs.map (fun x => x.bytes.length) ++ [manifest.length]
  let all := lens.all fun n => s.objectFits i n && s.ackFits i n site
  let s := ((List.range rs.length).zip rs).foldl (fun s e =>
    s.sendFitting i site ⟨kindCast, self, r, e.2.tensor, e.1⟩ (fromBytes (e.2.digest.take 8)) e.2.bytes) s
  let s := s.sendFitting i site ⟨kindManifest, self, r, 0, 0⟩ (digest64 manifest) manifest
  if all then s
  else { s with update := { s.update with casts := s.update.casts.map fun x =>
      if x.ctx = k.ctx then { x with reason := some 0x51 } else x } }

/-- The destination takes a cast's records and manifest. -/
def State.castOut (s : State) (k : CastJob) (step : Nat) (rs : List Record) (m : List Byte) : State :=
  let body := rs.flatMap Record.bytes
  if k.dest = 2 then
    match if s.rbit Partner.VALID (k.addr % 64) then s.streamBinding k else none with
    | none => s.finishCast k 0x5D
    | some i => ((s.castReads k step).castRead k).streamCast k i rs m
  else if k.dest = 3 then
    match s.mouldStart (body.length + m.length) with
    | .refused r => s.finishCast k r
    | .waits => s
    | .at x =>
      ((s.castReads k step).castRead k).openMould
        { index := x, ctx := k.ctx, records := rs.length, step := step, round := s.lastRound k.ctx, signed := k.sign
          body := ⟨body ++ m, body.length, []⟩, owner := .cast k.ctx }
  else ((s.castReads k step).storeBacked (castAddr k.dest k.addr) (body ++ m)).finishCast k 0

/-- Objects of a cast stream that are not acknowledged yet. -/
def State.streaming (s : State) (site : Nat) : Bool :=
  s.wellhead.outgoing.any fun o => o.site == site && (o.key.kind == kindCast || o.key.kind == kindManifest)

/-- CAST_COMPLETE. A cast that has been taken waits for the commits of the gates up to it, for the identity key when it is
signed, and for the link to host memory; a mould waits for a write stream, and a cast stream for its acknowledgements. A
context that is no longer ON holds no content of an ON binding. -/
def execCastComplete (c : Nat) (s : State) : Host.Outcome State Fault Refusal :=
  .next (match s.castOf c with
    | none => s
    | some k =>
      match k.reason, k.taken with
      | some r, _ => s.finishCast k r
      | none, some step =>
        if k.read then (if k.dest = 2 ∧ s.streaming (k.addr % 64) = false then s.finishCast k 0 else s)
        else if !s.isOn .context c then s.finishCast k 0x4D
        else if !s.castSettled k step || (k.sign && !s.security.identity) || (k.dest == 1 && !s.hostUp) then s
        else
          let rs := s.castRecordsOf k step
          s.castOut k step rs (s.manifest k step rs)
      | none, none => if s.isOn .context c then s else s.finishCast k 0x4D)

end Sys2Proof.Machine
end

