-- ==== Sys2Proof/Machine/Vector.lean ====
section
/-!
DEFINITION. Vector commands: activations with their branch bitmaps, their derivatives, and elementwise operations
(06, R190, R202 to R206, R588; 12, R400, R401).
-/
namespace Sys2Proof.Machine

/-! ## Bitmaps (06, R204) -/

/-- The address of square (I, J) of a bitmap. -/
def bitmapSquare (o : Operand) (i j : Nat) : Nat := o.base + 128 * o.pitch0 * i + 128 * j

/-- The byte ranges of a bitmap. -/
def bitmapRanges (o : Operand) : List (Nat × Nat) :=
  (List.range o.gridRows).map fun i => (bitmapSquare o i 0, 128 * o.gridCols)

/-- The validity of a bitmap descriptor, of which only BASE, EXT0, EXT1 and PITCH0 are read (12, R383; 06, R204). -/
def bitmapCheck (s : State) (c : EngCmd) (allow : Space → Bool) (o : Operand) (rows cols : Nat) : Option IssueFault :=
  firstFault [
    descFault [
      (decide (o.ext0 = rows ∧ o.ext1 = cols), 0x1D),
      (o.base % 128 == 0, 0x1D),
      ((bitmapRanges o).all fun r => s.rangeBacked r.1 r.2, 0x62),
      (decide (o.gridCols ≤ o.pitch0), 0x1D)],
    storesFault s c allow (bitmapRanges o)]

/-- Bit (r, c) of a bitmap. -/
def bitmapBit (s : State) (o : Operand) (r c : Nat) : Bool :=
  let e := r % 32 * 32 + c % 32
  (Memory.read (bitmapSquare o (r / 32) (c / 32) + e / 8) s.mem).getLsbD (e % 8)

/-- Does a bitmap carry poison? -/
def bitmapDirty (s : State) (o : Operand) : Bool := (bitmapRanges o).any fun r => s.poisoned r.1 r.2

/-- Count the bytes of a bitmap that is read. -/
def State.touchBitmap (s : State) (o : Operand) : State := (bitmapRanges o).foldl (fun s r => s.touch r.1 r.2) s

/-- Write a bitmap; bits outside the extents are 0 (04, R587). -/
def State.storeBitmap (s : State) (o : Operand) (b : Nat → Nat → Bool) (poison : Bool) : State :=
  (List.range o.gridRows).foldl (fun s i => (List.range o.gridCols).foldl (fun s j =>
    s.store (bitmapSquare o i j) (toBytes 128 (packNat 1 ((List.range 1024).map fun e =>
      let r := 32 * i + e / 32
      let c := 32 * j + e % 32
      b2n (decide (r < o.ext0 ∧ c < o.ext1) && b r c)))) poison) s) s

/-! ## Activation functions (06, R202, R203, R588) -/

/-- Gated codes. -/
def gatedAct (act : Nat) : Bool := act == 9 || act == 10

/-- Codes with a branch bit. -/
def branchAct (act : Nat) : Bool := act == 2 || act == 7 || act == 8 || gatedAct act

/-- The function under a gated code: SiLU or GELU. -/
def baseAct (act : Nat) : Nat := if act = 9 then 7 else if act = 10 then 8 else act

/-- Is a value greater than zero? -/
def positive (v : Val) : Bool := (Val.zero false).lt v && !v.isZero

/-- f of an FP32 input (06, R588; ACT 0x4 and above: log 20). A NaN input gives the canonical NaN. -/
def actValue (act : Nat) (alpha x : Val) : Val :=
  if x = .nan then .nan
  else match act with
    | 0 => x
    | 1 => if positive x then x else .zero false
    | 2 => if positive x then x else rn (alpha.mul x)
    | 3 => if positive x then rn (x.mul x) else .zero false
    | _ => ofF32 (Config.activation (baseAct act) (BitVec.ofNat 32 (toF32 x))).toNat

/-- The branch bit of an FP32 input (06, R203); 0 for a NaN. -/
def branchBit (act : Nat) (x : Val) : Bool :=
  if x = .nan then false
  else match baseAct act with
    | 2 => positive x
    | 7 => !x.lt (.fin (-1278465 / 1000000))
    | 8 => !x.lt (.fin (-751791 / 1000000))
    | _ => false

/-- The minimum of SiLU and of GELU (06, R205; log 34). -/
def actMinimum (act : Nat) : Rat := if baseAct act = 7 then -27846454276107 / 10 ^ 14 else -16997120747990 / 10 ^ 14

/-- f′ at a stored output (06, R203, R205): the table's formulas, each operation rounded to FP32 (DEDUCED, log 20), 0 below the
function's minimum, and for SiLU and GELU, whose preimage only the published procedure gives, a free value. -/
def actSlope (act : Nat) (alpha y : Val) (bit : Bool) : Val :=
  match act with
  | 0 => .fin 1
  | 1 => if positive y then .fin 1 else .zero false
  | 2 => if bit then .fin 1 else alpha
  | 3 => if y.lt (.zero true) then .zero false else rn ((Val.fin 2).mul (sqrtRn y))
  | 4 => rn (y.mul (rn ((Val.fin 1).sub y)))
  | 5 => rn ((Val.fin 1).sub (rn (y.mul y)))
  | 6 => rn ((Val.fin 1).sub (expRn y.neg))
  | _ =>
    if (branchAct act && y.lt (.fin (actMinimum act))) then .zero false
    else if y = .nan then .nan
    else ofF32 (Config.activationDeriv (baseAct act) (BitVec.ofNat 32 (toF32 y)) bit).toNat

/-! ## Shared parts -/

/-- ACT or OP: word 1 [7:4]. -/
def EngCmd.code (c : EngCmd) : Nat := bits c.w1.toNat 4 4

/-- The FP32 scalar in g[GS][31:0]. -/
def EngCmd.scalarS (c : EngCmd) : Val := ofF32 c.gs.toNat

/-- BMAP of VACT, taken only for codes with a branch bit (12, R400). -/
def EngCmd.bmap (c : EngCmd) : Bool := c.flag 8 && branchAct c.code

/-- Reserved bits of a vector command's word 1. -/
def vectorReserved : Word := bitsFrom 9

/-- The check of an input or output of a vector or row command in the stores that its engine may reach. -/
def operandFault (s : State) (c : EngCmd) (out : Bool) (allow : Space → Bool) (o : Operand) : Option IssueFault :=
  (operandCheck s c out allow o).map badDesc

/-- Two descriptors of equal extents. -/
def sameExtents (a b : Operand) : Bool := a.ext0 == b.ext0 && a.ext1 == b.ext1

/-- The FP32 values of an operand (06, R190). -/
def fp32Values (r : InRead) : List (List Val) := r.vals.map fun row => row.map rn

/-- Write one or two outputs of a command. -/
def writeOutputs (p : Producer) : List (Operand × List (List Val)) → State → OutStat × Nat × State
  | [], s => (.clean, 0, s)
  | (o, m) :: rest, s =>
    let (st, s) := writeTensor s p o m
    match rest with
    | [] => (st, 0, s)
    | _ =>
      let (st', n, s) := writeOutputs p rest s
      (st.merge st', if st.nonFinite then 0 else if st'.nonFinite then n + 1 else 0, s)

/-! ## VACT (12, R400; 06, R202, R206) -/

def vactCheck (s : State) (c : EngCmd) : Option IssueFault :=
  let x := resolved c.da c.rung
  let y := resolved c.dc c.rung
  let b := resolved c.db c.rung
  let h := resolved c.dc1 c.rung
  firstFault [
    descFault [(bits c.w1.toNat 0 2 != 3, 0x1D), (decide (c.code ≤ 10), 0x1D)],
    operandFault s c false (tileStores c) x,
    operandFault s c true (tileStores c) y,
    descFault [(sameExtents x y, 0x1D)],
    if gatedAct c.code then firstFault [
      operandFault s c false (tileStores c) b, operandFault s c true (tileStores c) h,
      descFault [(sameExtents x b && sameExtents x h, 0x1D)]] else none,
    if c.bmap then bitmapCheck s c (tileStores c) (operandOf c.dd) x.ext0 x.ext1 else none]

def runVact (c : EngCmd) (s : State) : Done :=
  let x := resolved c.da c.rung
  let act := c.code
  let (ins, s) := readAll c 0 c.thread.tile.toNat
    ([x] ++ if gatedAct act then [resolved c.db c.rung] else []) s
  let poison := ins.any InRead.poison
  let xs := fp32Values (ins.getD 0 ⟨[], [], false, s⟩)
  let bs := fp32Values (ins.getD 1 ⟨[], [], false, s⟩)
  let f := xs.map fun row => row.map (actValue act c.scalarS)
  let outs := [(resolved c.dc c.rung, f)] ++
    if gatedAct act then
      [(resolved c.dc1 c.rung, table2 x.ext0 x.ext1 fun r q => rn ((at2 f r q).mul (at2 bs r q)))]
    else []
  let (st, nf, s) := writeOutputs (c.producer poison) outs s
  let s := if c.bmap then s.storeBitmap (operandOf c.dd) (fun r q => branchBit act (at2 xs r q)) poison else s
  ⟨{ st with poison := poison }, nf, 0, 0, s, false⟩

def execVact (t : ThreadRef) (e : FormE) (s : State) : Host.Outcome State Fault Refusal :=
  engine t e .vact vectorReserved (!gatedAct (bits e.w1.toNat 4 4) || follows e.dc 1) 0 vactCheck s

/-! ## VACTB (06, R203, R205, R206) -/

def vactbCheck (s : State) (c : EngCmd) : Option IssueFault :=
  let y := resolved c.da c.rung
  let b := resolved c.da1 c.rung
  let dy := resolved c.db c.rung
  let dx := resolved c.dc c.rung
  let db := resolved c.dc1 c.rung
  firstFault [
    descFault [(bits c.w1.toNat 0 2 != 3, 0x1D), (decide (c.code ≤ 10), 0x1D)],
    operandFault s c false (tileStores c) y,
    operandFault s c false (tileStores c) dy,
    operandFault s c true (tileStores c) dx,
    descFault [(sameExtents y dy && sameExtents y dx, 0x1D)],
    if gatedAct c.code then firstFault [
      operandFault s c false (tileStores c) b, operandFault s c true (tileStores c) db,
      descFault [(sameExtents y b && sameExtents y db, 0x1D)]] else none,
    if branchAct c.code then bitmapCheck s c (tileStores c) (operandOf c.dd) y.ext0 y.ext1 else none]

def runVactb (c : EngCmd) (s : State) : Done :=
  let y := resolved c.da c.rung
  let act := c.code
  let map := operandOf c.dd
  let bit := fun r q => branchAct act && bitmapBit s map r q
  let mapDirty := branchAct act && bitmapDirty s map
  let s := if branchAct act then s.touchBitmap map else s
  let (ins, s) := readAll c 0 c.thread.tile.toNat
    ([y, resolved c.db c.rung] ++ if gatedAct act then [resolved c.da1 c.rung] else []) s
  let poison := ins.any InRead.poison || mapDirty
  let ys := fp32Values (ins.getD 0 ⟨[], [], false, s⟩)
  let dys := fp32Values (ins.getD 1 ⟨[], [], false, s⟩)
  let bs := fp32Values (ins.getD 2 ⟨[], [], false, s⟩)
  let slope := fun r q => actSlope act c.scalarS (at2 ys r q) (bit r q)
  let outs :=
    if gatedAct act then
      [(resolved c.dc c.rung, table2 y.ext0 y.ext1 fun r q =>
          rn ((rn ((at2 dys r q).mul (at2 bs r q))).mul (slope r q))),
       (resolved c.dc1 c.rung, table2 y.ext0 y.ext1 fun r q => rn ((at2 dys r q).mul (at2 ys r q)))]
    else [(resolved c.dc c.rung, table2 y.ext0 y.ext1 fun r q => rn ((at2 dys r q).mul (slope r q)))]
  let (st, nf, s) := writeOutputs (c.producer poison) outs s
  ⟨{ st with poison := poison }, nf, 0, 0, s, false⟩

def execVactb (t : ThreadRef) (e : FormE) (s : State) : Host.Outcome State Fault Refusal :=
  engine t e .vactb vectorReserved
    (!gatedAct (bits e.w1.toNat 4 4) || (follows e.da 1 && follows e.dc 1)) 0 vactbCheck s

/-! ## VEW (12, R401) -/

/-- Does an OP read d[DB]? -/
def vewTwo (op : Nat) : Bool := op ≤ 4 || op == 7

def vewCheck (s : State) (c : EngCmd) : Option IssueFault :=
  let a := resolved c.da c.rung
  let b := resolved c.db c.rung
  let y := resolved c.dc c.rung
  firstFault [
    descFault [(bits c.w1.toNat 0 2 != 3, 0x1D), (decide (c.code ≤ 7), 0x1D)],
    operandFault s c false (tileStores c) a,
    if vewTwo c.code then firstFault [
      operandFault s c false (tileStores c) b, descFault [(sameExtents a b, 0x1D)]] else none,
    descFault [(c.code == 6 || (a.fmt != fmtFP64 && (!vewTwo c.code || b.fmt != fmtFP64)), 0x1D)],
    operandFault s c true (tileStores c) y,
    descFault [(if c.code = 7 then y.ext0 == a.ext0 && y.ext1 == 1 else sameExtents a y, 0x1D)]]

/-- An element of VEW from the FP32 values of its operands; OP 6 takes the exact value. -/
def vewValue (op : Nat) (sc exact a b : Val) : Val :=
  match op with
  | 0 => rn (a.add b)
  | 1 => rn (a.sub b)
  | 2 => rn (a.mul b)
  | 3 => a.max b
  | 4 => a.min b
  | 5 => rn (a.mul sc)
  | _ => exact

def runVew (c : EngCmd) (s : State) : Done :=
  let a := resolved c.da c.rung
  let (ins, s) := readAll c 0 c.thread.tile.toNat
    ([a] ++ if vewTwo c.code then [resolved c.db c.rung] else []) s
  let poison := ins.any InRead.poison
  let ra := ins.getD 0 ⟨[], [], false, s⟩
  let xs := fp32Values ra
  let bs := fp32Values (ins.getD 1 ⟨[], [], false, s⟩)
  let out :=
    if c.code = 7 then
      (List.range a.ext0).map fun r => [sumVals ((List.range a.ext1).map fun q => (at2 xs r q).mul (at2 bs r q))]
    else table2 a.ext0 a.ext1 fun r q => vewValue c.code c.scalarS (at2 ra.vals r q) (at2 xs r q) (at2 bs r q)
  let (st, s) := writeTensor s (c.producer poison) (resolved c.dc c.rung) out
  ⟨st, 0, 0, 0, s, false⟩

def execVew (t : ThreadRef) (e : FormE) (s : State) : Host.Outcome State Fault Refusal :=
  engine t e .vew vectorReserved true 0 vewCheck s

end Sys2Proof.Machine
end

