-- ==== Sys2Proof/Machine/Rows.lean ====
section
/-!
DEFINITION. Row commands: normalisation, soft-maximum, merging and the recomputation of statistics (06, R188 to R201;
12, R402).
-/
namespace Sys2Proof.Machine

/-! ## Word 1 and operands (12, R402) -/

def EngCmd.rms (c : EngCmd) : Bool := c.flag 4
def EngCmd.finalRow (c : EngCmd) : Bool := c.flag 4
def EngCmd.maskMode (c : EngCmd) : Nat := bits c.w1.toNat 5 2
def EngCmd.paramGrad (c : EngCmd) : Bool := c.flag 7
def EngCmd.pSrc (c : EngCmd) : Bool := c.flag 8
def EngCmd.dSrc (c : EngCmd) : Bool := c.flag 9
def EngCmd.rec1 (c : EngCmd) : Nat := bits c.w1.toNat 10 15
def EngCmd.rec2 (c : EngCmd) : Nat := bits c.w1.toNat 25 15

/-- Reserved bits of a row command's word 1. -/
def rowReserved : Word := bitsFrom 40

/-- The cluster of a command. -/
def EngCmd.cluster (c : EngCmd) : Nat := clusterOfTile c.thread.tile.toNat

/-- The stores of a row engine's operands: the basins of its own cluster (06, R188). -/
def clusterBasins (c : EngCmd) : Space → Bool := fun x =>
  match x with
  | .basin t => t / 4 == c.cluster
  | _ => false

/-- Rows and elements within their limits (06, R189). -/
def rowShape (o : Operand) : Option IssueFault := descFault [(decide (o.ext0 ≤ 4096 ∧ o.ext1 ≤ 65536), 0x1D)]

/-- The records of a command end at 32,767 (12, R402). -/
def recordsOk (base rows : Nat) : Option IssueFault := descFault [(decide (base + rows ≤ 32768), 0x1D)]

/-- An FP32 vector of `n` elements (06, R191): one row or one column (log 35). -/
def vectorShape (o : Operand) (n : Nat) : Option IssueFault :=
  descFault [(o.fmt == fmtFP32, 0x1D), (decide ((o.ext0 = 1 ∧ o.ext1 = n) ∨ (o.ext0 = n ∧ o.ext1 = 1)), 0x1D)]

/-- The elements of a vector operand. -/
def flatVals (r : InRead) : List Val := (fp32Values r).flatten

/-- A vector laid out in the extents of its descriptor. -/
def shaped (o : Operand) (xs : List Val) : List (List Val) := if o.ext0 = 1 then [xs] else xs.map fun x => [x]

/-! ## Statistics records (06, R198, R199) -/

/-- A statistics record. -/
structure RowRec where
  s0 : Nat
  s1 : Nat
  tag : Nat
  att : Nat
  kind : Nat
  nonFinite : Bool
  poison : Bool
  masked : Bool
  deriving DecidableEq, Repr

/-- The address of a record of a cluster. -/
def recordAddr (cluster i : Nat) : Nat := sideOf cluster + 16 * i

def readRowRec (s : State) (cluster i : Nat) : RowRec :=
  let n := s.peekNat (recordAddr cluster i) 16
  ⟨bits n 0 32, bits n 32 32, bits n 64 16, bits n 80 16, bits n 96 3, bit n 99, bit n 100, bit n 101⟩

/-- The 128 bits of a record. -/
def RowRec.code (r : RowRec) : Nat :=
  r.s0 % 2 ^ 32 + r.s1 % 2 ^ 32 * 2 ^ 32 + r.tag % 2 ^ 16 * 2 ^ 64 + r.att % 2 ^ 16 * 2 ^ 80 + r.kind % 8 * 2 ^ 96 +
    b2n r.nonFinite * 2 ^ 99 + b2n r.poison * 2 ^ 100 + b2n r.masked * 2 ^ 101

/-- The record of a row that a command writes, with its own TAG and ATT. -/
def EngCmd.rowRec (c : EngCmd) (kind : Nat) (s0 s1 : Val) (nonFinite poison masked : Bool) : RowRec :=
  ⟨toF32 s0, toF32 s1, bits c.opid.toNat 16 16, bits c.attempt.toNat 0 16, kind, nonFinite, poison, masked⟩

/-- Write a record of a command's cluster as one write. -/
def State.putRowRec (s : State) (c : EngCmd) (i : Nat) (r : RowRec) : State :=
  s.storeNat (recordAddr c.cluster i) 16 r.code r.poison

/-- A record that fits a command: its KIND, TAG and ATT (06, R200). -/
def RowRec.fits (r : RowRec) (c : EngCmd) (kind : Nat) : Bool :=
  r.kind == kind && r.tag == bits c.opid.toNat 16 16 && r.att == bits c.attempt.toNat 0 16

/-- A record read back, with the poison of its line beside its own POISON bit. -/
def recPoison (s : State) (c : EngCmd) (i : Nat) (r : RowRec) : Bool :=
  r.poison || s.poisoned (recordAddr c.cluster i) 16

/-- ROW_STAT_MISMATCH (06, R200). -/
def State.rowMismatch (s : State) (c : EngCmd) (i : Nat) : State :=
  s.logError (c.note s { type := 0x0030, severity := 3, reason := 0, address := recordAddr c.cluster i })

/-- Errors for each row of a list that failed its check, in row order. -/
def State.rowMismatches (s : State) (c : EngCmd) (base : Nat) (bad : List Bool) : State :=
  ((List.range bad.length).zip bad).foldl (fun s e => if e.2 then s.rowMismatch c (base + e.1) else s) s

/-! ## Poison of one row -/

/-- Does row `r` of a stored tensor carry poison: the bytes of its elements or the blocks that hold them, as the tile's slots
decode them, or its scales (06, R198)? -/
def rowPoison (s : State) (tile : Nat) (o : Operand) (r : Nat) : Bool :=
  let b := fmtBits o.fmt
  let base := scaleBase s o
  ((List.range o.gridCols).any fun j =>
    if o.coded then blockPoison s (s.slotTable 0 tile) o (r / 32 * o.gridCols + j) (r % 32 / 8)
    else s.poisoned (o.square (r / 32) j + r % 32 * 4 * b) (4 * b)) ||
  (o.tscaleBytes != 0 && s.poisoned base o.tscaleBytes) ||
  (decide (2 ≤ o.scl) && (List.range o.ext1).any fun c => s.poisoned (base + o.tscaleBytes + o.blockOf r c) 1)

/-! ## Procedures on one row -/

def oneOver (n : Nat) (v : Val) : Val := rn (v.div (.fin (n : Rat)))

/-- The statistics of a normalisation row: S0 and S1 (06, R191). -/
def normStats (rms : Bool) (eps : Val) (x : List Val) : Val × Val :=
  let n := x.length
  if rms then
    let ms := oneOver n (exactSum (x.map fun v => v.mul v))
    (.zero false, rsqrtRn (rn (ms.add eps)))
  else
    let mean := oneOver n (exactSum x)
    let d := x.map fun v => rn (v.sub mean)
    let var := oneOver n (exactSum (d.map fun v => v.mul v))
    (mean, rsqrtRn (rn (var.add eps)))

/-- A normalised row (06, R191). -/
def normRow (rms : Bool) (st : Val × Val) (x g b : List Val) : List Val :=
  if rms then (x.zip g).map fun p => rn ((rn (p.1.mul st.2)).mul p.2)
  else ((x.zip g).zip b).map fun p =>
    rn ((rn ((rn ((rn (p.1.1.sub st.1)).mul st.2)).mul p.1.2)).add p.2)

/-- x̂ of a row (06, R192). -/
def xhat (rms : Bool) (st : Val × Val) (x : List Val) : List Val :=
  if rms then x.map fun v => rn (v.mul st.2) else x.map fun v => rn ((rn (v.sub st.1)).mul st.2)

/-- dx of a row (06, R192). -/
def normBack (rms : Bool) (st : Val × Val) (xh dy g : List Val) : List Val :=
  let n := xh.length
  let gv := (dy.zip g).map fun p => rn (p.1.mul p.2)
  let a := if rms then Val.zero false else oneOver n (exactSum gv)
  let c := oneOver n (exactSum ((gv.zip xh).map fun p => p.1.mul p.2))
  (gv.zip xh).map fun p => rn (st.2.mul (rn ((rn (p.1.sub a)).sub (rn (p.2.mul c)))))

/-- Is element `j` of row `i` masked (06, R193)? -/
def EngCmd.maskedAt (c : EngCmd) (s : State) (i j : Nat) : Bool :=
  match c.maskMode with
  | 1 => decide (i + bits c.gt.toNat 0 32 < j + bits c.gt.toNat 32 32)
  | 2 => bitmapBit s (operandOf c.dd) i j
  | _ => false

/-- A soft-maximum row: its output, m, l, and whether it is masked throughout or meets a NaN or +infinity
(06, R193, R194). -/
structure SoftRow where
  y : List Val
  m : Val
  l : Val
  masked : Bool
  bad : Bool
  deriving DecidableEq, Repr

/-- The largest of a row's scaled elements. -/
def rowMax (z : List Val) : Val := z.foldl (fun m v => m.max v) (.inf true)

def softRow (final : Bool) (scale : Val) (mask : List Bool) (x : List Val) : SoftRow :=
  if mask.all id then ⟨x.map fun _ => .zero false, .inf true, .zero false, true, false⟩
  else
    let z := (x.zip mask).map fun p => if p.2 then Val.inf true else rn (p.1.mul scale)
    let m := rowMax z
    let e := (z.zip mask).map fun p => if p.2 then Val.zero false else expRn (rn (p.1.sub m))
    let l := exactSum e
    let bad := x.any fun v => v == .nan || v == .inf false
    ⟨if bad then x.map fun _ => .nan else if final then e.map fun v => rn (v.div l) else e, m, l, false, bad⟩

/-- A probability recomputed from the saved input (06, R195). -/
def probAgain (scale m l x : Val) : Val := rn ((expRn (rn ((rn (x.mul scale)).sub m))).div l)

/-- dx of a soft-maximum row (06, R195). -/
def softBack (scale d : Val) (mask : List Bool) (p dy : List Val) : List Val :=
  ((p.zip dy).zip mask).map fun e =>
    if e.2 then .zero false else rn ((rn (e.1.1.mul (rn (e.1.2.sub d)))).mul scale)

/-! ## Shared parts of a command -/

/-- Elements that row engines read, counted in the region and in the sessions of the cluster's tiles (18, R557,
R560; log 37). -/
def State.countRows (s : State) (c : EngCmd) (ops : List Operand) : State :=
  let n := ops.foldl (fun n o => n + o.ext0 * o.ext1) 0
  (s.rwrap RegionCnt.ROW_ELEMENTS (regionOfTile c.thread.tile.toNat) n).countEvent 0x08 (4 * c.cluster) 4
    (some c.ctx) c.opid n

/-- Inputs of a row command: read with their poison, and counted. -/
def rowInputs (c : EngCmd) (ops : List Operand) (s : State) : List InRead × State :=
  let (ins, s) := readAll c 0 c.thread.tile.toNat ops s
  (ins, s.countRows c ops)

/-- The bitmap of MASK 2. -/
def EngCmd.bitmapMask (c : EngCmd) : Bool := c.maskMode == 2

/-- RND and MASK are no reserved codes (03, R96; 12, R402). -/
def rowCodes (c : EngCmd) : Option IssueFault :=
  descFault [(bits c.w1.toNat 0 2 != 3, 0x1D), (c.maskMode != 3, 0x1D)]

/-- Rows of free values for a row that failed its check (log 36). -/
def uncheckedRow (k i n : Nat) : List Val :=
  (List.range n).map fun j => ofF32 (Config.rowUnchecked k i j).toNat

/-- Row `i` of an operand's FP32 values. -/
def rowAt (m : List (List Val)) (i : Nat) : List Val := m.getD i []

/-- Write rows into a tensor; a row that is absent keeps its stored codes in the plain layout and is coded as zeros
in the coded one (log 35). -/
def writeRows (s : State) (p : Producer) (o : Operand) (rows : List (Option (List Val))) : OutStat × State :=
  let zeros := List.replicate o.ext1 (Val.zero false)
  let k := convertTensor s p o (rows.map fun r => r.getD zeros)
  let old := fun i => if o.coded then List.replicate o.ext1 0 else plainRow s o i
  let codes := ((List.range o.ext0).zip (k.codes.zip rows)).map fun e => if e.2.2.isSome then e.2.1 else old e.1
  let seen : Converted := { k with elems := (k.elems.zip rows).filterMap fun e => if e.2.isSome then some e.1 else none }
  let s := addCensus (storeTensor s p o codes (scaleArea o k.scale k.blocks)) o codes
  (seen.stat p.poison, s.observeOut p o seen)

/-! ## RNORM_F (06, R191) -/

def rnormFCheck (s : State) (c : EngCmd) : Option IssueFault :=
  let x := resolved c.da c.rung
  let y := resolved c.dc c.rung
  let vec := fun (d : Desc) => firstFault [
    operandFault s c false (clusterBasins c) (resolved d c.rung), vectorShape (resolved d c.rung) x.ext1]
  firstFault [
    rowCodes c,
    operandFault s c false (clusterBasins c) x, rowShape x,
    vec c.db, if c.rms then none else vec c.dd,
    operandFault s c true (clusterBasins c) y, descFault [(sameExtents x y, 0x1D)],
    recordsOk c.rec1 x.ext0]

def runRnormF (c : EngCmd) (s : State) : Done :=
  let x := resolved c.da c.rung
  let s0 := s
  let (ins, s) := rowInputs c ([x, resolved c.db c.rung] ++ if c.rms then [] else [resolved c.dd c.rung]) s
  let get := fun i => ins.getD i ⟨[], [], false, s⟩
  let xs := fp32Values (get 0)
  let vecPoison := (get 1).poison || (get 2).poison
  let stats := xs.map (normStats c.rms c.scalarS)
  let ys := (xs.zip stats).map fun p => normRow c.rms p.2 p.1 (flatVals (get 1)) (flatVals (get 2))
  let (st, s) := writeTensor s (c.producer ((get 0).poison || vecPoison)) (resolved c.dc c.rung) ys
  let s := (List.range x.ext0).foldl (fun s i =>
    let q := stats.getD i (.nan, .nan)
    s.putRowRec c (c.rec1 + i) (c.rowRec (if c.rms then 2 else 1) q.1 q.2
      ((rowAt xs i).any fun v => !v.isFinite) (rowPoison s0 c.thread.tile.toNat x i) false)) s
  ⟨st, 0, 0, 0, s, false⟩

def execRnormF (t : ThreadRef) (e : FormE) (s : State) : Host.Outcome State Fault Refusal :=
  engine t e .rnormF rowReserved true 0 rnormFCheck s

/-! ## RNORM_B (06, R192, R200) -/

/-- The outputs of RNORM_B: dx, and with PARAM_GRAD dγ and, for layer normalisation, dβ. -/
def rnormBOutputs (c : EngCmd) : List Operand :=
  [resolved c.dc c.rung] ++
  (if c.paramGrad then [resolved c.dc1 c.rung] ++ (if c.rms then [] else [resolved c.dc2 c.rung]) else [])

def rnormBCheck (s : State) (c : EngCmd) : Option IssueFault :=
  let x := resolved c.da c.rung
  let dy := resolved c.db c.rung
  let g := resolved c.dd c.rung
  let outs := rnormBOutputs c
  firstFault [
    rowCodes c,
    operandFault s c false (clusterBasins c) x, rowShape x,
    operandFault s c false (clusterBasins c) dy, descFault [(sameExtents x dy, 0x1D)],
    operandFault s c false (clusterBasins c) g, vectorShape g x.ext1,
    outs.findSome? fun o => operandFault s c true (clusterBasins c) o,
    descFault [(sameExtents x (resolved c.dc c.rung), 0x1D)],
    (outs.drop 1).findSome? fun o => vectorShape o x.ext1,
    recordsOk c.rec1 x.ext0]

def runRnormB (c : EngCmd) (s : State) : Done :=
  let x := resolved c.da c.rung
  let n := x.ext1
  let rows := List.range x.ext0
  let recs := rows.map fun i => readRowRec s c.cluster (c.rec1 + i)
  let recDirty := (rows.zip recs).any fun e => recPoison s c (c.rec1 + e.1) e.2
  let bad := recs.map fun r => !r.fits c (if c.rms then 2 else 1)
  let (ins, s) := rowInputs c [x, resolved c.db c.rung, resolved c.dd c.rung] s
  let s := s.rowMismatches c c.rec1 bad
  let (_, s) := if bad.any id then s.draw else (0, s)
  let k := s.freeCount
  let get := fun i => ins.getD i ⟨[], [], false, s⟩
  let xs := fp32Values (get 0)
  let dys := fp32Values (get 1)
  let g := flatVals (get 2)
  let st := fun i => (ofF32 (recs.getD i ⟨0, 0, 0, 0, 0, false, false, false⟩).s0,
    ofF32 (recs.getD i ⟨0, 0, 0, 0, 0, false, false, false⟩).s1)
  let xh := rows.map fun i => if bad.getD i false then uncheckedRow k i n else xhat c.rms (st i) (rowAt xs i)
  let dx := rows.map fun i =>
    if bad.getD i false then uncheckedRow k (i + x.ext0) n else normBack c.rms (st i) (rowAt xh i) (rowAt dys i) g
  let dgamma := (List.range n).map fun j => exactSum (rows.map fun i => (at2 dys i j).mul (at2 xh i j))
  let dbeta := (List.range n).map fun j => exactSum (rows.map fun i => at2 dys i j)
  let poison := ins.any InRead.poison || recDirty || bad.any id
  let outs := rnormBOutputs c
  let vals := ((outs.zip [dx, shaped (resolved c.dc1 c.rung) dgamma, shaped (resolved c.dc2 c.rung) dbeta]))
  let (os, nf, s) := writeOutputs (c.producer poison) vals s
  ⟨os, nf, 0, 0, s, false⟩

def execRnormB (t : ThreadRef) (e : FormE) (s : State) : Host.Outcome State Fault Refusal :=
  engine t e .rnormB rowReserved
    (!e.w1.getLsbD 7 || follows e.dc (if e.w1.getLsbD 4 then 1 else 2)) 0 rnormBCheck s

/-! ## RSMAX_F (06, R193, R194) -/

/-- The mask bitmap of a soft-maximum command. -/
def maskFault (s : State) (c : EngCmd) (x : Operand) : Option IssueFault :=
  if c.bitmapMask then bitmapCheck s c (clusterBasins c) (operandOf c.dd) x.ext0 x.ext1 else none

def rsmaxFCheck (s : State) (c : EngCmd) : Option IssueFault :=
  let x := resolved c.da c.rung
  let y := resolved c.dc c.rung
  firstFault [
    rowCodes c,
    operandFault s c false (clusterBasins c) x, rowShape x,
    operandFault s c true (clusterBasins c) y, descFault [(sameExtents x y, 0x1D)],
    maskFault s c x, recordsOk c.rec1 x.ext0]

def runRsmaxF (c : EngCmd) (s : State) : Done :=
  let x := resolved c.da c.rung
  let s0 := s
  let map := operandOf c.dd
  let mapDirty := c.bitmapMask && bitmapDirty s map
  let s := if c.bitmapMask then s.touchBitmap map else s
  let (ins, s) := rowInputs c [x] s
  let r0 := ins.getD 0 ⟨[], [], false, s⟩
  let xs := fp32Values r0
  let rows := (List.range x.ext0).map fun i =>
    softRow c.finalRow c.scalarS ((List.range x.ext1).map fun j => c.maskedAt s0 i j) (rowAt xs i)
  let (st, s) := writeTensor s (c.producer (r0.poison || mapDirty)) (resolved c.dc c.rung) (rows.map SoftRow.y)
  let s := ((List.range x.ext0).zip rows).foldl (fun s e =>
    s.putRowRec c (c.rec1 + e.1) (c.rowRec (if c.finalRow then 3 else 4) e.2.m e.2.l
      (e.2.bad || (!e.2.masked && (rowAt xs e.1).any fun v => !v.isFinite)) (rowPoison s0 c.thread.tile.toNat x e.1 || mapDirty)
      e.2.masked)) s
  ⟨st, 0, 0, 0, s, false⟩

def execRsmaxF (t : ThreadRef) (e : FormE) (s : State) : Host.Outcome State Fault Refusal :=
  engine t e .rsmaxF rowReserved true 0 rsmaxFCheck s

/-! ## RSMAX_B (06, R195, R200) -/

def rsmaxBCheck (s : State) (c : EngCmd) : Option IssueFault :=
  let x := resolved c.da c.rung
  let dy := resolved c.db c.rung
  let dx := resolved c.dc c.rung
  let d := resolved c.db1 c.rung
  firstFault [
    rowCodes c,
    operandFault s c false (clusterBasins c) x, rowShape x,
    operandFault s c false (clusterBasins c) dy, descFault [(sameExtents x dy, 0x1D)],
    if c.dSrc then firstFault [operandFault s c false (clusterBasins c) d, vectorShape d x.ext0] else none,
    operandFault s c true (clusterBasins c) dx, descFault [(sameExtents x dx, 0x1D)],
    maskFault s c x, if c.pSrc then recordsOk c.rec1 x.ext0 else none]

def runRsmaxB (c : EngCmd) (s : State) : Done :=
  let x := resolved c.da c.rung
  let n := x.ext1
  let s0 := s
  let rows := List.range x.ext0
  let map := operandOf c.dd
  let mapDirty := c.bitmapMask && bitmapDirty s map
  let s := if c.bitmapMask then s.touchBitmap map else s
  let recs := if c.pSrc then rows.map fun i => readRowRec s c.cluster (c.rec1 + i) else []
  let recDirty := (rows.zip recs).any fun e => recPoison s c (c.rec1 + e.1) e.2
  let bad := recs.map fun r => !r.fits c 3
  let (ins, s) := rowInputs c ([x, resolved c.db c.rung] ++ if c.dSrc then [resolved c.db1 c.rung] else []) s
  let s := s.rowMismatches c c.rec1 bad
  let (_, s) := if bad.any id then s.draw else (0, s)
  let k := s.freeCount
  let get := fun i => ins.getD i ⟨[], [], false, s⟩
  let xs := fp32Values (get 0)
  let dys := fp32Values (get 1)
  let ds := flatVals (get 2)
  let dx := rows.map fun i =>
    if bad.getD i false then uncheckedRow k i n
    else
      let mask := (List.range n).map fun j => c.maskedAt s0 i j
      let r := recs.getD i ⟨0, 0, 0, 0, 0, false, false, false⟩
      let p := if c.pSrc then
          ((rowAt xs i).zip mask).map fun e =>
            if e.2 then Val.zero false else probAgain c.scalarS (ofF32 r.s0) (ofF32 r.s1) e.1
        else rowAt xs i
      let d := if c.dSrc then ds.getD i (.zero false)
        else exactSum (((rowAt dys i).zip p).map fun e => e.1.mul e.2)
      softBack c.scalarS d mask p (rowAt dys i)
  let poison := ins.any InRead.poison || recDirty || mapDirty || bad.any id
  let (st, s) := writeTensor s (c.producer poison) (resolved c.dc c.rung) dx
  ⟨st, 0, 0, 0, s, false⟩

def execRsmaxB (t : ThreadRef) (e : FormE) (s : State) : Host.Outcome State Fault Refusal :=
  engine t e .rsmaxB rowReserved (!e.w1.getLsbD 9 || follows e.db 1) 0 rsmaxBCheck s

/-! ## RMERGE (06, R196, R200) -/

def rmergeCheck (s : State) (c : EngCmd) : Option IssueFault :=
  let b := resolved c.da c.rung
  let a := resolved c.db c.rung
  let y := resolved c.dc c.rung
  firstFault [
    rowCodes c,
    operandFault s c false (clusterBasins c) b, rowShape b,
    operandFault s c false (clusterBasins c) a, operandFault s c true (clusterBasins c) a,
    descFault [(a.fmt == fmtFP32 && b.fmt == fmtFP32, 0x1D), (sameExtents a b, 0x1D)],
    if c.finalRow then firstFault [
      operandFault s c true (clusterBasins c) y, descFault [(sameExtents a y, 0x1D)]] else none,
    recordsOk c.rec1 a.ext0, recordsOk c.rec2 a.ext0]

/-- A merged row: the running row and record after the merge, and the final output where it is written. `run` and
`fin` are absent where the procedure leaves them as they are (06, R196; log 35). -/
structure MergedRow where
  run : Option (List Val)
  fin : Option (List Val)
  rcd : Option RowRec
  deriving DecidableEq, Repr

/-- Merge one row: records a and b, running output `u` and partial output `v`. -/
def mergeRow (c : EngCmd) (a b : RowRec) (dirty : Bool) (u v : List Val) : MergedRow :=
  let nf := a.nonFinite || b.nonFinite || (v.any fun x => !x.isFinite) || (u.any fun x => !x.isFinite)
  if b.masked then
    ⟨none, none, some { c.rowRec 4 (ofF32 a.s0) (ofF32 a.s1) a.nonFinite dirty a.masked with s0 := a.s0, s1 := a.s1 }⟩
  else if a.masked then
    ⟨some v, none, some { c.rowRec 4 (ofF32 b.s0) (ofF32 b.s1) nf dirty false with s0 := b.s0, s1 := b.s1 }⟩
  else
    let ma := ofF32 a.s0
    let mb := ofF32 b.s0
    let m := ma.max mb
    let al := expRn (rn (ma.sub m))
    let be := expRn (rn (mb.sub m))
    let l := rn ((rn (al.mul (ofF32 a.s1))).add (rn (be.mul (ofF32 b.s1))))
    let o := (u.zip v).map fun p => rn ((rn (al.mul p.1)).add (rn (be.mul p.2)))
    ⟨some o, if c.finalRow then some (o.map fun x => rn (x.div l)) else none,
     some (c.rowRec (if c.finalRow then 3 else 4) m l nf dirty false)⟩

def runRmerge (c : EngCmd) (s : State) : Done :=
  let b := resolved c.da c.rung
  let a := resolved c.db c.rung
  let n := a.ext1
  let s0 := s
  let rows := List.range a.ext0
  let ra := rows.map fun i => readRowRec s c.cluster (c.rec1 + i)
  let rb := rows.map fun i => readRowRec s c.cluster (c.rec2 + i)
  let bad := (ra.zip rb).map fun p => !(p.1.fits c 4 && p.2.fits c 4)
  let dirtyRec := fun i => recPoison s0 c (c.rec1 + i) (ra.getD i ⟨0, 0, 0, 0, 0, false, false, false⟩) ||
    recPoison s0 c (c.rec2 + i) (rb.getD i ⟨0, 0, 0, 0, 0, false, false, false⟩)
  let (ins, s) := rowInputs c [b, a] s
  let s := s.rowMismatches c c.rec1 bad
  let (_, s) := if bad.any id then s.draw else (0, s)
  let k := s.freeCount
  let get := fun i => ins.getD i ⟨[], [], false, s⟩
  let vb := fp32Values (get 0)
  let va := fp32Values (get 1)
  let poison := ins.any InRead.poison || (rows.any dirtyRec) || bad.any id
  let out := rows.map fun i =>
    if bad.getD i false then
      ⟨some (uncheckedRow k i n), if c.finalRow then some (uncheckedRow k (i + a.ext0) n) else none, none⟩
    else mergeRow c (ra.getD i ⟨0, 0, 0, 0, 0, false, false, false⟩) (rb.getD i ⟨0, 0, 0, 0, 0, false, false, false⟩)
      (dirtyRec i || rowPoison s0 c.thread.tile.toNat a i || rowPoison s0 c.thread.tile.toNat b i) (rowAt va i) (rowAt vb i)
  let p := c.producer poison
  let (sa, s) := writeRows s p a (out.map MergedRow.run)
  let (sy, s) := if c.finalRow then writeRows s p (resolved c.dc c.rung) (out.map MergedRow.fin) else (sa, s)
  let s := (rows.zip out).foldl (fun s e =>
    match e.2.rcd with
    | some r => s.putRowRec c (c.rec1 + e.1) r
    | none => s) s
  ⟨if c.finalRow then sy.merge sa else sa, 0, 0, 0, s, false⟩

def execRmerge (t : ThreadRef) (e : FormE) (s : State) : Host.Outcome State Fault Refusal :=
  engine t e .rmerge rowReserved true 0 rmergeCheck s

/-! ## RSTAT (06, R201; 12, R402) -/

def rstatCheck (s : State) (c : EngCmd) : Option IssueFault :=
  let x := resolved c.da c.rung
  firstFault [
    rowCodes c, operandFault s c false (clusterBasins c) x, rowShape x, recordsOk c.rec1 x.ext0]

def runRstat (c : EngCmd) (s : State) : Done :=
  let x := resolved c.da c.rung
  let s0 := s
  let (ins, s) := rowInputs c [x] s
  let xs := fp32Values (ins.getD 0 ⟨[], [], false, s⟩)
  let s := (List.range x.ext0).foldl (fun s i =>
    let q := normStats c.rms c.scalarS (rowAt xs i)
    s.putRowRec c (c.rec1 + i) (c.rowRec (if c.rms then 2 else 1) q.1 q.2
      ((rowAt xs i).any fun v => !v.isFinite) (rowPoison s0 c.thread.tile.toNat x i) false)) s
  .plain s

def execRstat (t : ThreadRef) (e : FormE) (s : State) : Host.Outcome State Fault Refusal :=
  engine t e .rstat rowReserved true 0 rstatCheck s

end Sys2Proof.Machine
end

