-- ==== Sys2Proof/Machine/Tables.lean ====
section
/-!
DEFINITION. What each command reads and writes, and the table slots of the coding units: their reference counts (05, R175,
R176, R178, R185) and TLOAD (05, R173, R176; 12, R399).
-/
namespace Sys2Proof.Machine

/-! ## What a command reads -/

/-- The operands that a command reads, and the stores where its engine may read them. -/
def EngCmd.inputs (c : EngCmd) : List Operand × (Space → Bool) :=
  let r := fun d => resolved d c.rung
  match c.op with
  | .mma => (mmaInputs c, ownBasin c)
  | .vact => ([r c.da] ++ (if gatedAct c.code then [r c.db] else []), tileStores c)
  | .vactb => ([r c.da, r c.db] ++ (if gatedAct c.code then [r c.da1] else []), tileStores c)
  | .vew => ([r c.da] ++ (if vewTwo c.code then [r c.db] else []), tileStores c)
  | .rnormF => ([r c.da, r c.db] ++ (if c.rms then [] else [r c.dd]), clusterBasins c)
  | .rnormB => ([r c.da, r c.db, r c.dd], clusterBasins c)
  | .rsmaxF | .rstat => ([r c.da], clusterBasins c)
  | .rsmaxB => ([r c.da, r c.db] ++ (if c.dSrc then [r c.db1] else []), clusterBasins c)
  | .rmerge => ([r c.da, r c.db], clusterBasins c)
  | .cmove => (if c.flag 0 then [] else [r c.da], clusterTensorStores c)
  | .tmove => ([r c.da], tierStores c)
  | .creduce | .cshift | .csend => ([r c.da], collectStores)
  | .tbuild | .tload | .cgather | .crecv | .uapply | .uprefetch | .ucast => ([], fun _ => false)

/-! ## What a command writes -/

/-- The outputs of a command in order. -/
def EngCmd.outputs (c : EngCmd) : List Operand :=
  match c.op with
  | .mma => mmaOutputs c
  | .tbuild | .tload | .csend | .uapply | .uprefetch | .ucast => []
  | .cgather => [resolved c.dc c.rung] ++ if c.copy = 3 then [resolved c.dc1 c.rung] else []
  | .vact | .vactb | .vew | .rnormF | .rnormB | .rsmaxF | .rsmaxB | .rmerge | .rstat | .cmove | .tmove | .creduce | .cshift
  | .crecv => [resolved c.dc c.rung]

/-- Its output ranges, a gather's status entries among them. -/
def EngCmd.outRanges (c : EngCmd) : List (Nat × Nat) :=
  c.outputs.flatMap writeRanges ++ if c.op = .cgather then [(statusArea c, 4 * c.shardCount)] else []

/-! ## Slots and TLOAD -/

/-- The unit that TLOAD names and its number: tile, die, die or region. -/
def tloadUnit (c : EngCmd) : Nat × Nat :=
  let tile := c.thread.tile.toNat
  match bits c.w1.toNat 4 2 with
  | 0 => (0, tile)
  | 1 => (1, dieOfTile tile)
  | 2 => (2, dieOfTile tile)
  | _ => (3, regionOfTile tile)

/-- The coding unit that a command's coded tensors use. -/
def EngCmd.codingUnit (c : EngCmd) : Nat × Nat :=
  let tile := c.thread.tile.toNat
  match c.op.engine with
  | .tier => (1, dieOfTile tile)
  | .collective => (2, dieOfTile tile)
  | .update => (3, regionOfTile tile)
  | _ => (0, tile)

/-- Does an engine decode the coded operands that it reads? Verbatim copies do not (04, R144; 05, R186; 11, R367). -/
def EngCmd.decodes (c : EngCmd) : Bool :=
  match c.op with
  | .mma | .vact | .vactb | .vew | .rnormF | .rnormB | .rsmaxF | .rsmaxB | .rmerge | .rstat => true
  | .tmove => c.cvt == 1 || c.cvt == 3
  | .tbuild | .tload | .cmove | .cgather | .creduce | .cshift | .csend | .crecv | .uapply | .uprefetch | .ucast => false

/-- The coded blocks of the operands that a command decodes whose headers name a slot (05, R163, R175). -/
def EngCmd.blocksRead (s : State) (c : EngCmd) (slot : Nat) : Nat :=
  if c.decodes then
    ((c.inputs.1.filter fun o => o.coded).map fun o => ((List.range o.squares).flatMap fun j =>
      (blockSpansAt s 4 (o.base + 8 * dirEntry s o j)).filter fun x =>
        let h := readHead (s.peek x.1 8)
        h.coded && h.slot == slot).length).sum
  else 0

/-- The slot with which a command codes an output: that of a conversion, that of a channel with CODE_EN, or the
descriptor's (05, R185; 09, R305; 11, R367). -/
def EngCmd.codesWith (s : State) (c : EngCmd) (o : Operand) : Option Nat :=
  match c.op with
  | .cmove | .cshift | .crecv | .csend | .tbuild | .tload | .uapply | .uprefetch | .ucast => none
  | .tmove => if 2 ≤ c.cvt then some c.destSlot else none
  | .creduce => match s.resolve .channel (bits c.gs.toNat 0 32) with
    | some ch => if (s.ownShards c).isEmpty then none else some (if s.rbit Chan.CODE_EN ch then s.rget Chan.CODE_SLOT ch else o.slot)
    | none => none
  | .mma | .vact | .vactb | .vew | .rnormF | .rnormB | .rsmaxF | .rsmaxB | .rmerge | .rstat | .cgather => some o.slot

/-- The blocks of its coded outputs that a command codes with a slot. -/
def EngCmd.blocksWritten (s : State) (c : EngCmd) (slot : Nat) : Nat :=
  ((c.outputs.filter fun o => o.coded && c.codesWith s o == some slot).map fun o => 4 * o.squares).sum

/-- The most blocks that name a slot and can be in progress in a unit: those of its started commands, at most 64 in each of
a tile's two expanders and its encoder, and in any other unit (05, R175). -/
def State.slotBound (s : State) (unit : Nat × Nat) (slot : Nat) : Nat :=
  let cs := s.tsq.cmds.filter fun c => c.started && decide (c.codingUnit = unit)
  let reads := (cs.map fun c => c.blocksRead s slot).sum
  let writes := (cs.map fun c => c.blocksWritten s slot).sum
  if unit.1 = 0 then min reads 128 + min writes 64 else min (reads + writes) 64

/-- The reference count of a slot (05, R175): how many blocks of the started commands a unit has accepted and not finished is
timing, a free value up to the bound (log 32). -/
def State.slotRefs (s : State) (unit : Nat × Nat) (slot : Nat) : Nat × State :=
  let n := s.slotBound unit slot
  if n = 0 then (0, s)
  else
    let (v, s) := s.draw
    (v.toNat % (n + 1), s)

def tloadCheck (s : State) (c : EngCmd) : Option IssueFault := rangeFault s (tileStores c) c.addrS imageBytes 1

/-- Load a slot. -/
def State.loadSlot (s : State) (u : Nat × Nat) (slot : Nat) (t : Table) : State :=
  { s with slots := put ⟨u.1, u.2, slot⟩ t s.slots }

/-- Run a TLOAD: refusals 0xA2 and 0xA1 (05, R173, R176); a poisoned image is consumed (13, R431). -/
def runTload (c : EngCmd) (s : State) : Done :=
  let slot := bits c.w1.toNat 0 3
  let u := tloadUnit c
  let bs := s.peek c.addrS imageBytes
  let dirty := s.poisoned c.addrS imageBytes
  let s := s.touch c.addrS imageBytes
  if dirty then
    match s.thread? c.thread with
    | some th => { Done.plain (s.consumePoison c.thread { th with opid := c.opid, step := c.step } c.addrS) with quiet := true }
    | none => { Done.plain s with quiet := true }
  else match readImage bs with
    | none => Done.plain s 0xA2
    | some t =>
      let (n, s) := s.slotRefs u slot
      if n = 0 then Done.plain (s.loadSlot u slot t) else Done.plain s 0xA1

def execTload (t : ThreadRef) (e : FormE) (s : State) : Host.Outcome State Fault Refusal :=
  engine t e .tload (BitVec.twoPow 64 3 ||| bitsFrom 6) true 0 tloadCheck s

end Sys2Proof.Machine
end

