-- ==== Sys2Proof/Machine/EngineEvents.lean ====
section
/-!
DEFINITION. The life of an engine command: acceptance from a BLOCKED thread, its start and its completion (02, R46, R71,
R72; 12, R377 to R379), with the checks that ride along: sampled bands (13, R421 to R423) and the two halves of a pair
(13, R425 to R427). The handshake supervisor (01, R33).
-/
namespace Sys2Proof.Machine

/-! ## Acceptance and start -/

/-- QUEUE_ACCEPT: a queue with room accepts the command of a BLOCKED thread, which becomes READY. -/
def execQueueAccept (t : ThreadRef) (s : State) : Host.Outcome State Fault Refusal :=
  .next (match look t s.tsq.blockedCmd, s.thread? t with
    | some c, some th =>
      if s.queueRoom t.tile c.op.engine then
        let s := { s.setThread t { th with status := .ready } with
          tsq := { (s.setThread t { th with status := .ready }).tsq with blockedCmd := del t s.tsq.blockedCmd } }
        s.accept c
      else s
    | _, _ => s)

/-- What an operation does as it starts; the engines of half B leave the fabric, the updates and the casts to half A
(13, R426). -/
def startOp (c : EngCmd) (s : State) : State :=
  if c.mirror then s
  else match c.op with
    | .cgather => startGather c s
    | .creduce => startReduce c s
    | .cshift => startCshift c s
    | .csend => startCsend c s
    | .crecv => startCrecv c s
    | .uapply => startUapply c s
    | .uprefetch => startUprefetch c s
    | .ucast => startUcast c s
    | .mma | .tbuild | .tload | .vact | .vactb | .vew | .rnormF | .rnormB | .rsmaxF | .rsmaxB | .rmerge | .rstat | .cmove
    | .tmove => s

/-- A command is marked as started. -/
def State.markStarted (s : State) (id : Nat) : State :=
  { s with tsq := { s.tsq with cmds := s.tsq.cmds.map fun d => if d.id = id then { d with started := true } else d } }

/-- Does an operation read its operands as it starts, and not as it completes? -/
def EngOp.readsAtStart (o : EngOp) : Bool := decide (o ∈ [EngOp.creduce, .cshift, .csend])

/-- Why a command faults as it reads its coded operands (12, R383; log 29); a half-B command leaves the shared operations'
operands to half A. -/
def State.inputReason (s : State) (c : EngCmd) : Option Nat :=
  if c.mirror && decide (c.op.engine = .collective) then none
  else c.inputs.1.findSome? fun o => bodyFault s c c.inputs.2 o

/-- Is a command in the hint queue of a tier mover (11, R368)? -/
def EngCmd.hintMove (c : EngCmd) : Bool := decide (c.op = .tmove) && c.prio

/-- ENGINE_COMMAND_START. A hint move waits for its turn (11, R368). On a borrowed array it waits behind the unit's commands (07, R237). Its trace record may trigger the die's session (18, R566). -/
def execEngineCommandStart (id : Nat) (s : State) : Host.Outcome State Fault Refusal :=
  .next (match s.tsq.cmds.find? fun c => c.id == id with
    | none => s
    | some c =>
      if c.started || !s.firstUnstarted c || !s.waitMet c || !s.transferTurn c then s
      else if c.hintMove && !s.hintTurn (dieOfTile c.thread.tile.toNat) then s
      else if decide (c.op.engine = .matrix) && s.lent c.thread.tile.toNat then s.lendWait c
      else
        let d := dieOfTile c.thread.tile.toNat
        let s := if c.hintMove then s.hintMoved d else s
        let s := ((s.markStarted id).engineUse c).traceCmd c 0x01 c.op.opcode c.step.toNat
        let s := if opidPasses c.opid.toNat (s.rget Trace.OPID_MATCH d) (s.rget Trace.OPID_MASK d) then s.traceTrigger d 3 d else s
        match if c.op.readsAtStart then s.inputReason c else none with
        | some r => s.inputFault c r
        | none => startOp { c with started := true } s)

/-! ## What a command writes -/

/-- The CRC-64 of a command's output bytes and its status word (13, R422, R427). -/
def EngCmd.digest (c : EngCmd) (d : Done) : Nat :=
  crc64 ((c.outRanges.flatMap fun r => d.state.peek r.1 r.2) ++ toBytes 8 d.stat.word)

/-- Copy a range and its poison. -/
def State.mirrorRange (s : State) (a b n : Nat) : State :=
  (linePieces a n).foldl (fun s p => s.store (b + p.1) (s.peek (a + p.1) p.2) (s.poisoned (a + p.1) p.2)) s

/-- What a half-A collective command delivered on chip is delivered to the mirrors as well (13, R426). -/
def State.mirrorRanges (s : State) (c : EngCmd) : State :=
  (c.outRanges.filter fun r => mirrorAddr r.1 != r.1).foldl (fun s r => s.mirrorRange r.1 (mirrorAddr r.1) r.2) s

/-! ## Running -/

/-- May a started command complete? -/
def readyOp (c : EngCmd) (s : State) : Bool :=
  (look c.id s.tsq.early).isSome ||
  match c.op with
  | .cgather => gatherReady s c
  | .creduce => reduceReady s c
  | .cshift | .csend | .crecv => transferReady s c
  | .uapply => applyReady s c
  | .uprefetch | .ucast => false
  | .mma | .tbuild | .tload | .vact | .vactb | .vew | .rnormF | .rnormB | .rsmaxF | .rsmaxB | .rmerge | .rstat | .cmove
  | .tmove => true

/-- The work of a command; `found` is what the checks on its products find. -/
def runOp (c : EngCmd) (found : ProductCheck) (s : State) : Done :=
  match c.op with
  | .mma => runMma c found s
  | .tbuild => runTbuild c s
  | .tload => runTload c s
  | .vact => runVact c s
  | .vactb => runVactb c s
  | .vew => runVew c s
  | .rnormF => runRnormF c s
  | .rnormB => runRnormB c s
  | .rsmaxF => runRsmaxF c s
  | .rsmaxB => runRsmaxB c s
  | .rmerge => runRmerge c s
  | .rstat => runRstat c s
  | .cmove => runCmove c s
  | .tmove => runTmove c s
  | .cgather => runGather c s
  | .creduce => runReduce c s
  | .cshift | .csend | .crecv => runTransfer c s
  | .uapply => runApply c s
  | .uprefetch | .ucast => .plain s

/-- The command with a reason that it met as it started. -/
def completeOp (c : EngCmd) (found : ProductCheck) (s : State) : Done :=
  match look c.id s.tsq.early with
  | some r => .plain { s with tsq := { s.tsq with early := del c.id s.tsq.early } } r
  | none => runOp c found s

/-! ## Pairs (13, R425 to R427) -/

/-- The thread at the other half of a pair. -/
def twinThread (t : ThreadRef) : ThreadRef := { t with tile := BitVec.ofNat 10 (mirrorTile t.tile.toNat) }

/-- Is the half-A twin of a half-B command over? -/
def State.twinDone (s : State) (c : EngCmd) : Bool :=
  match c.pairNo, s.thread? (twinThread c.thread) with
  | some n, some _ =>
    decide (n < lookD (twinThread c.thread) 0 s.tsq.pairNext) &&
      !s.tsq.cmds.any fun d => d.thread == twinThread c.thread && d.pairNo == some n
  | _, _ => true

/-- Does the collective engine or the update unit run an operation? -/
def EngOp.shared (o : EngOp) : Bool := decide (o.engine = .collective ∨ o.engine = .update)

/-- A half-B command as it completes: shared operations leave their work to half A; others keep off the chip's outside,
and a command whose twin writes there waits for it. None when it still waits. -/
def mirrorDone (c : EngCmd) (found : ProductCheck) (s : State) : Option Done :=
  if c.op.shared then (if s.twinDone c then some (.plain s) else none)
  else
    let d := runOp c found s
    let kept := keepOffChip s d.state
    if (decide (kept.mem ≠ d.state.mem) || decide (kept.poison ≠ d.state.poison)) && !s.twinDone c then none
    else some { d with state := kept }

/-- The number by which the halves name a command of a pair: its number in its thread, and the thread's slot (log 9). -/
def EngCmd.pairKey (c : EngCmd) : Option Nat := c.pairNo.map fun n => n * 2048 + c.thread.slot.toNat

/-- Each half of a pair forms the digest of a command as it completes; half B sends its own to half A. -/
def State.pairEnd (s : State) (c : EngCmd) (d : Done) : State :=
  match c.pairKey with
  | none => s
  | some n =>
    let tile := c.thread.tile.toNat
    let p : PairDigest :=
      ⟨if c.mirror then mirrorTile tile else tile, n, c.digest d, s.now, c.ctx.toNat, c.opid.toNat, c.step.toNat⟩
    if c.mirror then s.sendDigest tile p (some c.ctx) else s.pairFormed p

/-! ## Sampled bands (13, R421 to R423) -/

/-- Is a band sampled? -/
def sampled (shift tile n b : Nat) : Bool := crc32c (toBytes 8 (tile + n * 2 ^ 10 + b % 2 ^ 22 * 2 ^ 42)) % 2 ^ shift == 0

/-- The audit tile of a tile's sampled bands (13, R422). -/
def State.auditTile (s : State) (t : Nat) : Option Nat :=
  let g := t / 32
  if s.rbit TsqSplit.MODE g then
    let as := (s.liveTiles g).filter fun u => s.role u == 3
    if s.role t = 2 then as.getLast? else as.head?
  else
    let c := t / 4
    match ([1, 2, 3].map fun k => 4 * c + (t % 4 + k) % 4).find? fun u => s.tileLive u with
    | some u => some u
    | none => (s.liveTiles g).head?

/-- The squares, by their numbers, that hold a band's rows of A: a row of the grid, or a column of it where A is
stored transposed. A convolution's band reads pixels of all of A. -/
def EngCmd.bandSquares (c : EngCmd) (o : Operand) (b : Nat) : List Nat :=
  if c.conv then List.range o.squares
  else if c.orientA then (List.range o.gridRows).map fun i => i * o.gridCols + b
  else (List.range o.gridCols).map fun j => b * o.gridCols + j

/-- Bytes of a square as it is stored. -/
def squareSize (s : State) (o : Operand) (j : Nat) : Nat :=
  if o.coded then 8 * (dirEntry s o (j + 1) - dirEntry s o j) else o.squareBytes

/-- Bytes of a band's rows of A, of all of B and of their scale areas; the operands alternate A, B. -/
def EngCmd.bandBytes (c : EngCmd) (s : State) (ops : List Operand) (b : Nat) : Nat :=
  ((List.range ops.length).zip ops).foldl (fun n e =>
    n + e.2.scaleBytes +
      ((if e.1 % 2 = 0 then c.bandSquares e.2 b else List.range e.2.squares).map (squareSize s e.2)).sum) 0

/-- A sampled band waits for its audit, or is skipped where its copy does not fit (13, R423). -/
def State.sampleBand (s : State) (c : EngCmd) (n b bytes : Nat) : State :=
  let t := c.thread.tile.toNat
  let p := s.partOf c.ctxIx
  match s.auditTile t with
  | none => s.rinc Part.AUDITS_SKIPPED p
  | some u =>
    if basinOf u + basinBytes < s.lendBase u + bytes then s.rinc Part.AUDITS_SKIPPED p
    else { s with ras := { s.ras with audits := s.ras.audits ++ [⟨t, n, b, u, c.ctx.toNat, c.opid.toNat, c.step.toNat⟩] } }

/-- The sampled bands of an L1 matrix command. -/
def State.sampleBands (s : State) (c : EngCmd) : State :=
  match c.l1 with
  | none => s
  | some n =>
    let ops := mmaInputs c
    let sh := mmaShape c (ops.getD 0 (operandOf 0)) (ops.getD 1 (operandOf 0))
    ((List.range (ceilDiv sh.m 32)).filter fun b =>
      sampled (s.rget Part.AUDIT_SHIFT (s.partOf c.ctxIx)) c.thread.tile.toNat n b).foldl
      (fun s b => s.sampleBand c n b (c.bandBytes s ops b)) s

/-- AUDIT_MISMATCH, naming both tiles; `fold` is the two CRC-64 values folded by XOR (R438), a free value (log 75). -/
def auditRec (s : State) (a : Audit) (fold : Nat) : ErrRec :=
  (({ type := 0x00A2, severity := 2, reason := 0x39, address := a.by_, detail := fold } : ErrRec).ofCtx s a.ctx a.opid
    a.step).atTile a.tile

/-- Is an update phase under way in a region: a passed UAPPLY that still has a shard of it to commit? -/
def State.inPhase (s : State) (g : Nat) : Bool :=
  s.update.applies.any fun a => a.passed && a.shards.any fun u => u.done.isNone && s.shardRegion a.bind u.shard == g

/-- AUDIT_BAND_RUN: an audit tile recomputes its next band outside an update phase; `agree` says whether the two CRC-64
values agree. The waves it takes are timing, a free value. -/
def execAuditBandRun (tile : Nat) (agree : Bool) (s : State) : Host.Outcome State Fault Refusal :=
  .next (match s.ras.audits.find? fun a => a.by_ == tile with
    | none => s
    | some a =>
      if s.inPhase (tile / 32) then s
      else
        let p := s.partOf (bits a.ctx 0 16)
        let (v, s) := s.draw
        let s : State := { s with ras := { s.ras with audits := s.ras.audits.erase a } }
        let s := (s.rinc Part.AUDITS_RUN p).rwrap TileCnt.AUDIT_WAVES tile (v.toNat % 2 ^ 32)
        if agree then s
        else
          let (fold, s) := s.draw
          ((s.detect p (auditRec s a fold.toNat)).strikeTile a.tile).strikeTile a.by_)

/-! ## Completion -/

/-- A command of half A or outside pair mode completes. -/
def State.completeCmd (s : State) (c : EngCmd) (found : ProductCheck) : State :=
  let d := completeOp c found s
  let d := { d with state := d.state.sampleBands c }
  let d := if c.pairNo.isSome && c.op.shared then { d with state := d.state.mirrorRanges c } else d
  (State.finish c d).pairEnd c d

/-- ENGINE_COMMAND_COMPLETE; `found` is what the checks on a matrix command's products find, and counts for no other
command. -/
def execEngineCommandComplete (id : Nat) (found : ProductCheck) (s : State) : Host.Outcome State Fault Refusal :=
  .next (match s.tsq.cmds.find? fun c => c.id == id with
    | none => s
    | some c =>
      if !c.started then s
      else if let some r := (if c.op.readsAtStart then none else s.inputReason c) then s.inputFault c r
      else if c.mirror then
        match mirrorDone c found s with
        | none => s
        | some d => (State.finish c d).pairEnd c d
      else if readyOp c s then s.completeCmd c found
      else s)

/-! ## The handshake supervisor (01, R33) -/

/-- HANDSHAKE_TIMEOUT. -/
def handshakeRec (g unit : Nat) : ErrRec := ({ type := 0x0001, severity := 4, reason := 0, unit := unit } : ErrRec).atRegion g

/-- HANDSHAKE_TIMEOUT: the record, the quiescing of the region, and the reset of its partition. -/
def execHandshakeTimeout (region unit : Nat) (s : State) : Host.Outcome State Fault Refusal :=
  .next (
    if 32 ≤ region then s
    else
      let s := (s.logError (handshakeRec region unit)).stopRegion region
      match s.partOfRegion region with
      | some p => s.resetPartition p
      | none => s)

end Sys2Proof.Machine
end

