-- ==== Sys2Proof/Machine/Launch.lean ====
section
/-!
DEFINITION. Launches: the hub's checks, the arrival at each tile, the context caches and the threads that start (02, R49
to R52, R64; 12, R389; 13, R425).
-/
namespace Sys2Proof.Machine

/-! ## Slots and caches -/

/-- Launches on their way to a tile, or waiting there for their context entry. -/
def State.pendingAt (s : State) (t : Nat) : List Arrival := (s.tsq.arrivals ++ s.tsq.fetching).filter fun a => a.tile == t

/-- Slots of a tile that hold a thread or are promised to one. -/
def State.takenSlots (s : State) (t : Nat) : List Nat :=
  ((s.tsq.threads.filter fun e => e.1.tile.toNat == t).map fun e => e.1.slot.toNat) ++ (s.pendingAt t).flatMap Arrival.slots

/-- Contexts whose entry is pinned at a tile (02, R64), those of launches on their way among them. -/
def State.pinnedAt (s : State) (t : Nat) : List Nat :=
  (((s.tsq.threads.filter fun e => e.1.tile.toNat == t).map fun e => e.2.ctxIx) ++
    (s.pendingAt t).map fun a => bits a.ctx.toNat 0 16).eraseDups

/-- Can a tile's context cache take a context? -/
def State.cacheTakes (s : State) (t c : Nat) : Bool :=
  let p := s.pinnedAt t
  decide (c ∈ p) || decide (p.length < 16)

/-- The first `n` slots that are free on every tile of a list: none when there are too few. -/
def State.freeSlots (s : State) (ts : List Nat) (n : Nat) : Option (List Nat) :=
  let used := ts.flatMap fun t => s.takenSlots t
  let free := ((List.range 2048).filter fun k => !decide (k ∈ used)).take n
  if free.length = n then some free else none

/-! ## Admission (02, R49, R50; 12, R389) -/

/-- The fields of a launch descriptor are as its table says. -/
def LaunchReq.sound (r : LaunchReq) : Bool :=
  (slice r.bytes 10 6 ++ slice r.bytes 40 8).all (fun b => b == 0) &&
  decide (1 ≤ r.count ∧ r.first + r.count ≤ 1024 ∧ 1 ≤ r.threads ∧ r.threads ≤ 2048 ∧ r.entry.toNat % 8 = 0)

/-- The tiles that a launch names. -/
def LaunchReq.tiles (r : LaunchReq) : List Nat := (List.range r.count).map fun i => r.first + i

/-- A named tile with the mirror that a pair launch starts too. -/
def State.tileGroup (s : State) (c t : Nat) : List Nat := if s.paired c then [t, mirrorTile t] else [t]

/-- May a launch take slots of a tile? Tiles that are not live and audit tiles have none. -/
def State.tileTakes (s : State) (t : Nat) : Bool := s.tileLive t && s.role t != 3

/-- The arrivals of a launch, or why it is refused. -/
def State.arrivalsOf (s : State) (r : LaunchReq) : Except Nat (List Arrival) :=
  if !r.sound then .error 0x11
  else match r.refusal with
    | some reason => .error reason
    | none =>
      let c := bits r.ctx.toNat 0 16
      let p := s.partOf c
      let groups := r.tiles.map fun t => (t, s.tileGroup c t, s.freeSlots (s.tileGroup c t) r.threads)
      if r.tiles.any fun t => !bit (s.rget Part.REGIONS p) (t / 32) then .error 0x15
      else if groups.any fun g => g.2.2.isNone || g.2.1.any fun t => !s.tileTakes t then .error 0x16
      else if groups.any fun g => g.2.1.any fun t => !s.cacheTakes t c then .error 0x19
      else .ok (groups.flatMap fun g => g.2.1.map fun t =>
        { tile := t, g1 := g.1, ctx := r.ctx, slots := g.2.2.getD [], entry := r.entry, arg0 := r.arg0, arg1 := r.arg1 })

/-- The hub's answer reaches the agent that asked. -/
def State.answerLaunch (s : State) (r : LaunchReq) (reason : Nat) : State :=
  match r.thread, r.cmd with
  | some (t, ctx), _ => match s.thread? t with
    | some th => match th.asking with
      | some dst => if th.ctx = ctx then s.setThread t { th.setReg dst (BitVec.ofNat 64 reason) with asking := none } else s
      | none => s
    | none => s
  | none, some id => s.finishCmd id 0 reason
  | none, none => s

/-- A TSPAWN that names another context (02, R50). DESIGN CHOICE (log 112): a handle that names no current context, of a wrong
kind or of an old generation, is another context too, so that it faults as R50 says and is not refused with 0x10. -/
def State.spawnFault (s : State) (r : LaunchReq) : Option (ThreadRef × Thread) :=
  match r.thread with
  | none => none
  | some (t, ctx) => match s.thread? t with
    | some th => if th.ctx = ctx ∧ r.ctx ≠ ctx then some (t, th) else none
    | none => none

/-- Does a request come from a half-B thread of a pair, whose launch its half-A twin makes for both (13, R425)? -/
def State.twinAsks (s : State) (r : LaunchReq) : Option ThreadRef :=
  match r.thread with
  | some (t, ctx) => if s.isMirror t (bits ctx.toNat 0 16) then some t else none
  | none => none

/-- What half B will be told of a half-A TSPAWN. -/
def State.tellTwin (s : State) (r : LaunchReq) (reason : Nat) : State :=
  match r.thread with
  | some (t, ctx) =>
    if s.paired (bits ctx.toNat 0 16) then
      { s with tsq := { s.tsq with answers := s.tsq.answers ++ [(twinThread t, reason)] } }
    else s
  | none => s

/-- Admit or refuse a launch. -/
def State.decideLaunch (s : State) (r : LaunchReq) : State :=
  match s.arrivalsOf r with
  | .error reason => (s.answerLaunch r reason).tellTwin r reason
  | .ok as => (({ s with tsq := { s.tsq with arrivals := s.tsq.arrivals ++ as } } : State).answerLaunch r 0).tellTwin r 0

/-- A half-B TSPAWN takes its twin's answer, or waits behind the other launches. -/
def State.answerTwin (s : State) (r : LaunchReq) (t : ThreadRef) : State :=
  match s.tsq.answers.find? fun a => a.1 == t with
  | some a => ({ s with tsq := { s.tsq with answers := s.tsq.answers.erase a } } : State).answerLaunch r a.2
  | none => { s with tsq := { s.tsq with launches := s.tsq.launches ++ [r] } }

/-- LAUNCH_ADMIT: the hub admits or refuses the launch that reached it first, whole. -/
def execLaunchAdmit (s : State) : Host.Outcome State Fault Refusal :=
  .next (match s.tsq.launches with
    | [] => s
    | r :: rest =>
      let s : State := { s with tsq := { s.tsq with launches := rest } }
      match s.spawnFault r, s.twinAsks r with
      | some (t, th), _ => s.insnFault t th .privilege 0x02
      | none, some t => s.answerTwin r t
      | none, none => s.decideLaunch r)

/-! ## Arrival (02, R51, R52, R64) -/

/-- A thread as it starts (02, R52). -/
def State.freshThread (s : State) (a : Arrival) (i : Nat) : Thread :=
  let c := bits a.ctx.toNat 0 16
  let g : Vector Word 32 := Vector.replicate 32 0
  { status := .ready, asking := none, pc := a.entry
    g := (((g.set 0 (BitVec.ofNat 64 i)).set 1 (BitVec.ofNat 64 a.g1)).set 2 a.arg0).set 3 a.arg1
    d := Vector.replicate 16 0, p := 0, k := Vector.replicate 16 0, opid := 0, ctx := a.ctx
    step := BitVec.ofNat 64 (s.rget Ctx.STEP c), attempt := BitVec.ofNat 64 (s.rget Ctx.ATTEMPT c) }

/-- The threads of an arrival take their slots; those of a context that is no longer ON end at once. -/
def State.startThreads (s : State) (a : Arrival) : State :=
  match s.resolve .context a.ctx.toNat with
  | none => s
  | some c =>
    if s.isOn .context c then
      { s with tsq := { s.tsq with threads := ((List.range a.slots.length).zip a.slots).foldl (fun m e =>
          put ⟨BitVec.ofNat 10 a.tile, BitVec.ofNat 11 e.2⟩ (s.freshThread a e.1) m) s.tsq.threads } }
    else s

/-- Room for a new entry: of sixteen the unpinned one that has gone unused the longest leaves. -/
def State.evict (s : State) (t : Nat) : State :=
  let l := lookD t [] s.tsq.caches
  if l.length < 16 then s
  else match l.find? fun x => !decide (x ∈ s.pinnedAt t) with
    | some x => { s with tsq := { s.tsq with caches := put t (l.filter fun y => y != x) s.tsq.caches } }
    | none => s

/-- LAUNCH_TILE_ARRIVAL: on a hit the threads are READY; on a miss the entry is fetched. -/
def execLaunchTileArrival (tile : Nat) (s : State) : Host.Outcome State Fault Refusal :=
  .next (match s.tsq.arrivals.find? fun a => a.tile == tile with
    | none => s
    | some a =>
      let s : State := { s with tsq := { s.tsq with arrivals := s.tsq.arrivals.erase a } }
      let c := bits a.ctx.toNat 0 16
      if c ∈ lookD tile [] s.tsq.caches then (s.useCache tile c).startThreads a
      else { s with tsq := { s.tsq with fetching := s.tsq.fetching ++ [a] } })

/-- CONTEXT_CACHE_FILL: the entry arrives, takes a place unless an earlier fetch has brought it, and is pinned; the threads are
READY. -/
def execContextCacheFill (tile : Nat) (s : State) : Host.Outcome State Fault Refusal :=
  .next (match s.tsq.fetching.find? fun a => a.tile == tile with
    | none => s
    | some a =>
      let s := if bits a.ctx.toNat 0 16 ∈ lookD tile [] s.tsq.caches then s else s.evict tile
      let s : State := { s with tsq := { s.tsq with fetching := s.tsq.fetching.erase a } }
      (s.useCache tile (bits a.ctx.toNat 0 16)).startThreads a)

end Sys2Proof.Machine
end

