-- ==== Sys2Proof/Machine/Fabric.lean ====
section
/-!
DEFINITION. The fabric: arbitration at a port and its link blocks (09, R288, R291, R292, R312), forwarding (09, R303),
frames and flows (09, R302, R308, R309), retraining (09, R311 to R315), grants and token posts taken in, and the links
between the dies (01, R42 to R44).
-/
namespace Sys2Proof.Machine

/-! ## A port that stops (09, R313, R314) -/

/-- FAB_LINK_RETRAINED, FAB_LINK_DEGRADED and FAB_LINK_DOWN. -/
def linkRec (type severity p : Nat) : ErrRec :=
  ({ type := type, severity := severity, reason := 0x28, unit := p } : ErrRec).atDie (p / 8)

/-- STATE or WIDTH of a port has changed (09, R315; 14, R469). -/
def State.portMoved (s : State) (p : Nat) : State :=
  if s.rbit FabPort.CHANGED p then s else (s.rput FabPort.CHANGED p 1).setEvt Evt.FAB_PORT

/-- A frame of this module is sent again whole on a new port, or is undeliverable. -/
def State.rerouteOut (s : State) (id : Nat) (o : OutFrame) : State :=
  match s.egress o.frame.dest s.moduleId o.frame.channel o.frame.cls with
  | none => ({ s with fabric := { s.fabric with outs := del id s.fabric.outs } } : State).dropUnroutable o.frame.channel
  | some p =>
    let fs := flitsOf o.frame
    ({ s with fabric := { s.fabric with outs := put id { o with port := p, left := fs.length } s.fabric.outs } } : State).enqueueFlits
      p (some id) fs

/-- A forwarded flit selects its egress. -/
def State.forwardFlit (s : State) (f : Flit) : State :=
  match s.egress f.dest f.src f.channel f.cls with
  | none => s.dropUnroutable f.channel
  | some p => s.enqueueFlits p none [f]

/-- A port that is no longer UP: its own frames are sent again whole elsewhere, forwarded flits of its retry buffer are
discarded, and those that still wait select again. -/
def State.emptyPort (s : State) (p : Nat) : State :=
  let waiting := (s.port p).queue.filter fun q => q.out.isNone
  let outs := s.fabric.outs.filter fun o => o.2.port == p
  let s := s.setPort p freshPort
  let s := outs.foldl (fun s o => s.rerouteOut o.1 o.2) s
  waiting.foldl (fun s q => s.forwardFlit q.flit) s

/-- A port begins to retrain. -/
def State.retrainPort (s : State) (p : Nat) : State :=
  (((s.rput FabPort.STATE p 1).rinc FabPort.RETRAINS p).portMoved p).emptyPort p

/-- A port retrains by itself: the record too (09, R313). -/
def State.retrainFailed (s : State) (p : Nat) : State := (s.logError (linkRec 0x0063 1 p)).retrainPort p

/-- The width that trained lanes give. -/
def trainedWidth (lanes : Nat) : Nat :=
  if lanes % 16 = 15 then 4 else if lanes % 4 = 3 ∨ lanes / 4 % 4 = 3 then 2 else if lanes % 16 = 0 then 0 else 1

/-- A port that is training: by a retrain, or for the first time after a module reset. -/
def State.training (s : State) (p : Nat) : Bool :=
  s.rget FabPort.STATE p == 1 || (s.rget FabPort.STATE p == 0 && (look p s.fabric.ports).isNone)

/-- PORT_TRAINING_DONE: the widest width whose lanes all trained, or DOWN. The first training after a module reset is no
change and has no record. -/
def execPortTrainingDone (port : Nat) (lanes polarity : BitVec 4) (reversed : Bool) (s : State) :
    Host.Outcome State Fault Refusal :=
  .next (
    let st := s.rget FabPort.STATE port
    if 32 ≤ port ∨ s.training port = false then s
    else
      let good := lanes.toNat &&& (15 - s.rget FabPort.LANE_FORCE port)
      let was := s.rget FabPort.WIDTH port
      let w := trainedWidth good
      let s := ((s.rput FabPort.LANES_OK port good).rput FabPort.WIDTH port w).rput FabPort.STATE port (if w = 0 then 0 else 2)
      let s := (s.rput FabPort.REVERSED port (b2n reversed)).rput FabPort.POLARITY port polarity.toNat
      let s := s.setPort port freshPort
      if st = 1 then
        let s := s.portMoved port
        if w = 0 then s.logError (linkRec 0x0065 0 port) else if w < was then s.logError (linkRec 0x0064 0 port) else s
      else s)

/-- DISABLE of a port takes a value: out of service, or back through training. -/
def State.disablePort (s : State) (p : Nat) (v : Bool) : State :=
  if v == s.rbit FabPort.DISABLE p then s
  else if v then (((s.rput FabPort.DISABLE p 1).rput FabPort.STATE p 3).portMoved p).emptyPort p
  else ((s.rput FabPort.DISABLE p 0).rput FabPort.STATE p 1).portMoved p

/-! ## Sending (09, R288, R291, R292) -/

/-- May a flit of a class be sent: does one wait, and is there a credit? -/
def PortState.sendable (p : PortState) (cls : Nat) : Bool :=
  (p.queue.any fun q => q.flit.cls == cls) && decide (0 < p.credits.getD cls 0)

/-- The turn size of a class (09, R293). -/
def State.turnSize (s : State) (cls : Nat) : Nat :=
  let w := if cls = 1 then s.rget FabArb.W1 else if cls = 2 then s.rget FabArb.W2 else s.rget FabArb.W3
  max w 1

/-- The class whose flit goes next, with the turn, the flits taken in it and its size: C0 first, then C1 to C3 in turns. A
turn keeps the size with which it began (R293). -/
def State.nextClass (s : State) (p : PortState) : Option (Nat × Nat × Nat × Nat) :=
  if p.sendable 0 then some (0, p.turn, p.used, p.size)
  else if p.sendable p.turn && decide (p.used < p.size) then some (p.turn, p.turn, p.used + 1, p.size)
  else ([1, 2, 3].map fun k => (p.turn - 1 + k) % 3 + 1).findSome? fun c =>
    if p.sendable c then some (c, c, 1, s.turnSize c) else none

/-- A filler flit. -/
def idleFlit : Flit :=
  { cls := 0, poison := false, first := false, last := false, idle := true, dest := 0, src := 0, channel := 0, hops := 0
    payload := [] }

/-- The class whose credits the next link word returns: the one with most pending, the lower on a tie. -/
def PortState.owedClass (p : PortState) : Nat :=
  [1, 2, 3].foldl (fun b c => if p.owed.getD b 0 < p.owed.getD c 0 then c else b) 0

/-- A whole block goes into the retry buffer; its link word carries the acknowledgement, the NAK that waits, and credits. -/
def PortState.seal (p : PortState) (now : Nat) : PortState :=
  if p.forming.length < blockFlits then p
  else
    let c := p.owedClass
    { p with
      forming := [], txSeq := (p.txSeq + 1) % 4096, nak := false
      retry := p.retry ++ [⟨p.forming, p.txSeq, p.rxLast, p.nak, c, min 511 (p.owed.getD c 0), 0⟩]
      lastAck := if p.retry.isEmpty then now else p.lastAck
      owed := p.owed.set c (p.owed.getD c 0 - min 511 (p.owed.getD c 0)) }

/-- The next flit of a port. -/
def State.sendFlit (s : State) (n : Nat) : State :=
  let p := s.port n
  if !s.portUp n || decide (256 ≤ p.retry.length) then s
  else match s.nextClass p with
    | some (c, turn, used, size) =>
      (match p.queue.find? fun q => q.flit.cls == c with
       | none => s
       | some q =>
         let p := { p with
           queue := p.queue.erase q, forming := p.forming ++ [q], turn := turn, used := used, size := size
           credits := p.credits.set c (p.credits.getD c 0 - 1) }
         let s := s.setPort n (p.seal s.now)
         let s := if q.out.isNone then s.rinc FabPort.FORWARDED n else s
         (s.rinc FabPort.TX_FLITS n).countEvent 0x24 0 1024 none 0 1)
    | none => s.setPort n ({ p with forming := p.forming ++ [PortFlit.mk idleFlit none] }.seal s.now)

/-- FLIT_TRANSMIT: at a flit boundary the port sends its next flit, or a filler flit with which link words go on: its
acknowledgements, NAKs and credits leave though nothing waits. -/
def execFlitTransmit (port : Nat) (s : State) : Host.Outcome State Fault Refusal :=
  .next (if 32 ≤ port then s else s.sendFlit port)

/-- C0_ADMIT: a source's policer admits a frame that waits, once its bucket holds a token. -/
def execC0Admit (source : Nat) (s : State) : Host.Outcome State Fault Refusal :=
  .next (
    let p := s.policer source
    match p.waiting with
    | [] => s
    | f :: rest =>
      if p.level s.now = 0 then s else (s.setPolicer source { p.take s.now with waiting := rest }).launchFrame f.1 f.2)

/-! ## Acknowledgements (09, R312) -/

/-- A flit of a frame of this module has been acknowledged at the first hop. -/
def State.ackFlit (s : State) (q : PortFlit) : State :=
  match q.out with
  | none => s
  | some id => match look id s.fabric.outs with
    | none => s
    | some o =>
      if o.left ≤ 1 then ({ s with fabric := { s.fabric with outs := del id s.fabric.outs } } : State).doneSending o.cmd
      else { s with fabric := { s.fabric with outs := put id { o with left := o.left - 1 } s.fabric.outs } }

/-- Does an ACK cover a sequence number? -/
def ackCovers (ack seq : Nat) : Bool := decide ((ack + 4096 - seq) % 4096 < 2048)

/-- An ACK ends the retry of the blocks that it covers. -/
def State.takeAck (s : State) (n ack : Nat) : State :=
  let p := s.port n
  let done := p.retry.takeWhile fun b => ackCovers ack b.seq
  if done.isEmpty then s
  else
    let s := s.setPort n { p with retry := p.retry.drop done.length, ackWaits := 0, lastAck := s.now }
    done.foldl (fun s b => b.flits.foldl (fun s q => s.ackFlit q) s) s

/-- Every unacknowledged block is sent again, from the oldest; 8 times for one block retrain the port. -/
def State.resendBlocks (s : State) (n : Nat) : State :=
  let p := s.port n
  if p.retry.isEmpty then s
  else
    let again := p.retry.map fun b => { b with resends := b.resends + 1 }
    let s := (s.setPort n { p with retry := again, lastAck := s.now }).rinc FabPort.RESENT n p.retry.length
    if again.any fun b => decide (8 ≤ b.resends) then s.retrainFailed n else s

/-- LINK_ACK_TIMEOUT: no new ACK for 2 us; 4 such waits in a row retrain the port. -/
def execLinkAckTimeout (port : Nat) (s : State) : Host.Outcome State Fault Refusal :=
  .next (
    let p := s.port port
    if 32 ≤ port ∨ s.portUp port = false ∨ p.retry.isEmpty = true ∨ s.now < p.lastAck + 2000 then s
    else
      let s := s.setPort port { p with ackWaits := p.ackWaits + 1 }
      if 4 ≤ p.ackWaits + 1 then
        ((s.rinc FabPort.RESENT port p.retry.length).retrainFailed port)
      else s.resendBlocks port)

/-! ## Frames that arrive (09, R302, R308, R309) -/

/-- A frame is delivered to the module's engines. -/
def State.deliverFrame (s : State) (f : Frame) : State :=
  let s := (s.rwrap Chan.RX_FRAMES f.channel).rwrap Chan.RX_BYTES f.channel f.body.length
  { s with fabric := { s.fabric with delivered := s.fabric.delivered ++ [f] } }

/-- The frames held for a flow that are next in order. The first argument bounds their number. -/
def State.drainFlow : Nat → FlowKey → State → State
  | 0, _, s => s
  | n + 1, k, s => match look k s.fabric.rx with
    | none => s
    | some r => match r.held.find? fun f => f.2.seq == r.next with
      | none => s
      | some f =>
        let s : State := { s with fabric := { s.fabric with
          rx := put k { r with next := (r.next + 1) % 2 ^ 32, held := r.held.erase f } s.fabric.rx } }
        State.drainFlow n k (s.deliverFrame f.2)

/-- A frame in the order of its flow: delivered, held, or discarded as one already delivered or a ninth held. -/
def State.orderFrame (s : State) (f : Frame) : State :=
  let k : FlowKey := ⟨f.src, f.channel, f.cls⟩
  let r := lookD k ⟨0, []⟩ s.fabric.rx
  let d := (f.seq + 2 ^ 32 - r.next) % 2 ^ 32
  if d = 0 then
    let s : State := { s with fabric := { s.fabric with rx := put k { r with next := (r.next + 1) % 2 ^ 32 } s.fabric.rx } }
    (s.deliverFrame f).drainFlow 9 k
  else if 2 ^ 31 ≤ d ∨ r.held.any (fun g => g.2.seq == f.seq) = true ∨ 8 ≤ r.held.length then s
  else
    { s with fabric := { s.fabric with rx := put k { r with held := r.held ++ [(s.now, f)] } s.fabric.rx } }

/-- The answer to a frame for a channel that is not ON. -/
def State.rejectFrame (s : State) (f : Frame) : State :=
  s.sendFrame { blankFrame with
    op := opReject, dest := f.src, channel := f.channel, member := s.rget Chan.SELF f.channel, status := 0x24 }

/-- A whole frame has arrived from another module. -/
def State.arriveFrame (s : State) (f : Frame) : State :=
  if f.op = 0 ∨ opBulk < f.op then s.rinc Chan.REJECTS f.channel
  else if f.op = opHello then s.deliverFrame f
  else if f.dstEpoch ≠ s.epoch f.channel ∨ look (f.channel, f.src) s.fabric.peerEpoch ≠ some f.srcEpoch then s
  else if f.op = opReject then s.deliverFrame f
  else if s.isOn .channel f.channel then s.orderFrame f
  else s.rejectFrame f

/-- A flit for this module joins its frame; FIRST begins the frame anew, and LAST ends it. -/
def State.landFlit (s : State) (f : Flit) : State :=
  let k : FlowKey := ⟨f.src, f.channel, f.cls⟩
  let old := if f.first then some [] else look k s.fabric.partials
  match old with
  | none => s
  | some fs =>
    let fs := fs ++ [f]
    if f.last then
      ({ s with fabric := { s.fabric with partials := del k s.fabric.partials } } : State).arriveFrame
        (readFrame f.cls f.src f.dest f.channel (fs.map Flit.poison) (fs.flatMap Flit.payload))
    else { s with fabric := { s.fabric with partials := put k fs s.fabric.partials } }

/-- FAB_HOP_LIMIT. -/
def hopRec (f : Flit) : ErrRec := { type := 0x0062, severity := 3, reason := 0x27, die := 4, unit := f.channel, detail := f.dest }

/-- A flit arrives at a port: it is counted, its credit is owed, and it lands or goes on. -/
def State.takeFlit (s : State) (n : Nat) (f : Flit) : State :=
  if f.idle then s
  else
    let p := s.port n
    let s := s.setPort n { p with owed := p.owed.set f.cls (p.owed.getD f.cls 0 + 1) }
    let s := (s.rinc FabPort.RX_FLITS n).countEvent 0x25 0 1024 none 0 1
    if f.dest = s.moduleId then s.landFlit f
    else if s.rget FabId.HOP_LIMIT ≤ f.hops then (s.rput Chan.LAST_ERROR f.channel 0x27).logError (hopRec f)
    else s.forwardFlit { f with hops := f.hops + 1 }

/-- The link word of a block taken: ACK, NAK and credits. -/
def State.takeLinkWord (s : State) (n : Nat) (b : LinkRead) : State :=
  let s := s.takeAck n b.ack
  let p := s.port n
  let c := b.creditClass
  let s := s.setPort n { p with credits := p.credits.set c (p.credits.getD c 0 + b.creditCount) }
  if b.nak then s.resendBlocks n else s

/-- A block that arrives at a port that is UP. One that FEC or a CRC fails is answered with a NAK; one that is not the next
is discarded. -/
def State.takeBlock (s : State) (n : Nat) (k : LinkBlock) : State :=
  let b := readBlock k
  let s := (s.rinc FabPort.CORRECTED n k.corrected).rinc FabPort.UNCORRECTABLE n k.uncorrectable
  let p := s.port n
  if !b.intact then s.setPort n { p with nak := true }
  else if b.seq ≠ (p.rxLast + 1) % 4096 then s
  else
    let s := (s.setPort n { p with rxLast := b.seq, nak := false }).takeLinkWord n b
    if s.portUp n then b.flits.foldl (fun s f => s.takeFlit n f) s else s

/-- LINK_BLOCK_RECEIVE. -/
def execLinkBlockReceive (port : Nat) (b : LinkBlock) (s : State) : Host.Outcome State Fault Refusal :=
  .next (if 32 ≤ port ∨ s.portUp port = false then s else s.takeBlock port b)

/-- FAB_SEQ_GAP. -/
def gapRec (src chan : Nat) : ErrRec := { type := 0x0061, severity := 3, reason := 0x26, die := 4, unit := chan, detail := src }

/-- FRAME_SEQ_TIMEOUT: a frame has been held for 100 us behind a missing one; delivery goes on from the next frame held. -/
def execFrameSeqTimeout (src chan cls : Nat) (s : State) : Host.Outcome State Fault Refusal :=
  .next (
    let k : FlowKey := ⟨src, chan, cls⟩
    match look k s.fabric.rx with
    | none => s
    | some r =>
      if !r.held.any fun f => decide (f.1 + 100000 ≤ s.now) then s
      else
        let ahead := fun (f : Frame) => (f.seq + 2 ^ 32 - r.next) % 2 ^ 32
        let n := r.held.foldl (fun m f => min m (ahead f.2)) (2 ^ 32)
        let s := ((s.logError (gapRec src chan)).rinc Chan.SEQ_GAPS chan).rput Chan.LAST_ERROR chan 0x26
        let s : State := { s with fabric := { s.fabric with
          rx := put k { r with next := (r.next + n) % 2 ^ 32 } s.fabric.rx } }
        s.drainFlow 9 k)

/-! ## Channels (09, R307 to R309) -/

/-- The other members of a channel. -/
def State.otherMembers (s : State) (ch : Nat) : List Nat := (s.members ch).filter fun m => m != s.moduleId

/-- Has a HELLO from every other member arrived? -/
def State.allHeard (s : State) (ch : Nat) : Bool := (s.otherMembers ch).all fun m => decide ((ch, m) ∈ s.fabric.hellos)

/-- A HELLO to a member. -/
def State.sendHello (s : State) (ch m : Nat) : State :=
  s.sendFrame { blankFrame with op := opHello, dest := m, channel := ch, member := s.rget Chan.SELF ch }

/-- The flows with a member begin anew with its epoch (09, R308). -/
def State.newEpoch (s : State) (ch m e : Nat) : State :=
  let other : FlowKey → Bool := fun k => !(k.peer == m && k.chan == ch)
  { s with fabric := { s.fabric with
      peerEpoch := put (ch, m) e s.fabric.peerEpoch
      rx := s.fabric.rx.filter fun e => other e.1
      partials := s.fabric.partials.filter fun e => other e.1
      txSeq := s.fabric.txSeq.filter fun e => other e.1 } }

/-- A HELLO from a member whose epoch is new: it counts for the start, and a channel that is ON answers it. -/
def State.hearMember (s : State) (ch m e : Nat) : State :=
  let s := s.newEpoch ch m e
  let s : State := { s with fabric := { s.fabric with
    hellos := if (ch, m) ∈ s.fabric.hellos then s.fabric.hellos else s.fabric.hellos ++ [(ch, m)] } }
  let s := if s.fstate .channel ch = 1 ∧ s.allHeard ch = true ∧ ¬ (Kind.channel, ch) ∈ s.hub.aborting then
      s.reachOn .channel ch
    else s
  if s.isOn .channel ch then s.sendHello ch m else s

/-- HELLO: on a channel that is STARTING or ON. Any other is answered with a REJECT. -/
def execHello (f : Frame) (s : State) : Host.Outcome State Fault Refusal :=
  .next (match s.popFrame opHello f with
    | none => s
    | some s =>
      if s.fstate .channel f.channel ≠ 1 ∧ s.fstate .channel f.channel ≠ 2 then s.rejectFrame f
      else if ¬ f.src ∈ s.otherMembers f.channel ∨ look (f.channel, f.src) s.fabric.peerEpoch = some f.srcEpoch then s
      else s.hearMember f.channel f.src f.srcEpoch)

/-- REJECT: counted in its channel. -/
def execReject (f : Frame) (s : State) : Host.Outcome State Fault Refusal :=
  .next (match s.popFrame opReject f with
    | none => s
    | some s => (s.rinc Chan.REJECTS f.channel).rput Chan.LAST_ERROR f.channel f.status)

/-- CHANNEL_HELLO_TIMEOUT: a channel that lacks a HELLO 10 s after its enable enters FAULT. -/
def execChannelHelloTimeout (chan : Nat) (s : State) : Host.Outcome State Fault Refusal :=
  .next (
    if s.fstate .channel chan = 1 ∧ s.allHeard chan = false ∧
        lookD chan 0 s.fabric.started + 10000000000 ≤ s.now then
      ((s.rput Chan.END_REASON chan 0x25).rput Chan.LAST_ERROR chan 0x25).reachFault .channel chan 0x25
    else s)

/-! ## Frames of class C0 and C3 taken in -/

/-- GRANT: a window opens again by the frame that it returns, a contribution has been accepted, and waiting frames leave
(09, R294; 08, R276). -/
def execGrant (f : Frame) (s : State) : Host.Outcome State Fault Refusal :=
  .next (match s.takeFrame opGrant f with
    | none => s
    | some s =>
      let cls := leField f.body 0 1
      let flits := leField f.body 1 2
      let id := leField f.body 4 4
      let key : FlowKey := ⟨f.src, 0, cls⟩
      let ws := lookD key [] s.fabric.windows
      match ws.find? fun w => w.flits == flits && (cls != 1 || w.cmd == some (id, f.shard)) with
      | none => s
      | some w =>
        let s : State := { s with fabric := { s.fabric with windows := put key (ws.erase w) s.fabric.windows } }
        let s := if cls = 1 then s.acceptContrib id f.shard (leField f.body 3 1) else s
        s.pumpWindow 32 f.src cls)

/-- TOKEN_POST: the tile adds to the slot's counter, or drops the post and counts it. -/
def execTokenPost (f : Frame) (s : State) : Host.Outcome State Fault Refusal :=
  .next (match s.takeFrame opTokenPost f with
    | none => s
    | some s =>
      s.postToken ⟨BitVec.ofNat 10 (leField f.body 0 2), BitVec.ofNat 11 (leField f.body 2 2)⟩ (BitVec.ofNat 4 (leField f.body 4 1))
        (BitVec.ofNat 32 (leField f.body 8 4)) (BitVec.ofNat 32 (leField f.body 12 4)))

/-- BULK: the frame is taken in. -/
def execBulk (f : Frame) (s : State) : Host.Outcome State Fault Refusal :=
  .next ((s.takeFrame opBulk f).getD s)

/-! ## Links between the dies (01, R42 to R44) -/

/-- The link fields of HUB_D2D_STATUS: neighbour links 0 to 3, then the hub links of dies 0 to 3. -/
def d2dFld (i : Nat) : Fld :=
  [HubD2d.LINK_01, HubD2d.LINK_12, HubD2d.LINK_23, HubD2d.LINK_30, HubD2d.HUB_0, HubD2d.HUB_1, HubD2d.HUB_2, HubD2d.HUB_3].getD
    i HubD2d.LINK_01

/-- D2D_DETOUR and D2D_DEGRADED. -/
def d2dRec (type link : Nat) : ErrRec := ({ type := type, severity := 0, reason := 0, unit := link } : ErrRec).atDie (link % 4)

/-- D2D_LINK_DOWN: a neighbour link goes down and its traffic takes the other way round. -/
def execD2dLinkDown (link : Nat) (s : State) : Host.Outcome State Fault Refusal :=
  .next (
    if 4 ≤ link ∨ s.rget (d2dFld link) = 0 then s
    else
      let s := (s.rput (d2dFld link) 0 0).rput HubD2d.DETOUR 0 (s.rget HubD2d.DETOUR ||| 2 ^ link)
      s.d2dChanged.logError (d2dRec 0x0070 link))

/-- D2D_LINK_DEGRADED: a link drops to half width. -/
def execD2dLinkDegraded (link : Nat) (s : State) : Host.Outcome State Fault Refusal :=
  .next (
    if 8 ≤ link ∨ s.rget (d2dFld link) ≠ 2 then s
    else (s.rput (d2dFld link) 0 1).d2dChanged.logError (d2dRec 0x0071 link))

/-- HUB_LINK_DOWN: the die is retired. -/
def execHubLinkDown (die : Nat) (s : State) : Host.Outcome State Fault Refusal :=
  .next (
    if 4 ≤ die ∨ s.dieUp die = false then s
    else ((s.rput (d2dFld (4 + die)) 0 0).d2dChanged).retireDie die)

end Sys2Proof.Machine
end

