-- ==== Sys2Proof/Machine/Checks.lean ====
section
/-!
DEFINITION. The consistency checks of enables: contexts (02, R58), rule bindings (07, R218), channels (09, R306; 08,
R256), partitions (13, R434), far ports (14, R479), round engine bindings (10, R320), sessions (18, R562, R566) and
command rings (14, R461). The condition on reserved bits reads the stored entry (00, R10).
-/
namespace Sys2Proof.Machine

/-- The code of the first condition that fails. -/
def firstCode (checks : List (Bool × Nat)) : Option Nat := (checks.find? fun c => !c.1).map Prod.snd

/-- Are the reserved bits of a stored entry 0 (00, R10; log 121)? -/
def State.reservedClear (s : State) (k : Kind) (i : Nat) : Bool := !decide ((k, i) ∈ s.hub.corrupted)

/-- Does a range of bytes lie in HBM or LPDDR? -/
def inTiers (a n : Nat) : Bool :=
  match spaceOf a with
  | .hbm | .lpddr => n == 0 || spaceOf (a + n - 1) == spaceOf a
  | _ => false

/-- Does a range of bytes lie in LPDDR? -/
def inLpddr (a n : Nat) : Bool := spaceOf a == .lpddr && inTiers a n

/-- Do two ranges of bytes, or of entries, share a place? -/
def overlap (a n b m : Nat) : Bool := decide (0 < n ∧ 0 < m ∧ a < b + m ∧ b < a + n)

/-- A base that is 0, or aligned and in a tier. -/
def baseOk (a align : Nat) : Bool := a == 0 || (a % align == 0 && inTiers a 1)

/-- Allocated functions of a kind other than `i` that are not OFF. -/
def State.othersUp (s : State) (k : Kind) (i : Nat) : List Nat :=
  ((s.hub.allocated.filter fun e => e.1 == k).map Prod.snd).filter fun j => j != i && s.fstate k j != 0

/-- Is the context of an index allocated and ON? -/
def State.ctxOn (s : State) (c : Nat) : Bool := s.isAllocated .context c && s.isOn .context c

/-! ## Contexts (02, R58) -/

/-- Does a context's gauge range overlap that of another context that is not OFF? -/
def State.gaugeClash (s : State) (c : Nat) : Bool :=
  (s.othersUp .context c).any fun d =>
    overlap (s.rget Ctx.GAUGE_BASE c) (s.rget Ctx.GAUGE_COUNT c) (s.rget Ctx.GAUGE_BASE d) (s.rget Ctx.GAUGE_COUNT d)

def State.checkContext (s : State) (c level : Nat) : Option Nat :=
  let aligned := fun a => a % 4096 == 0 && inTiers a 1
  let f := s.rget Ctx.FACTOR_BASE c
  firstCode
    [ (s.reservedClear .context c && decide (s.rget Ctx.LADDER_LO c ≤ s.rget Ctx.LADDER_HI c), 0x11),
      (s.isOn .partition (s.partOf c), 0x12),
      (aligned (s.rget Ctx.MASTER_BASE c) && aligned (s.rget Ctx.MOMENT_BASE c) && aligned (s.rget Ctx.WORK_BASE c) &&
        (f == 0 || aligned f), 0x13),
      (decide (s.rget Ctx.GAUGE_BASE c + s.rget Ctx.GAUGE_COUNT c ≤ 16384) && !s.gaugeClash c, 0x14),
      (s.rget Ctx.CHECK c != 3 || s.rbit Part.PAIR (s.partOf c), 0x18),
      (!s.rbit Ctx.PRIV c || decide (1 ≤ level), 0x02) ]

/-! ## Rule bindings (07, R218) -/

/-- A positive FP32 power of two. -/
def isPowerOfTwo (b : Nat) : Bool :=
  match ofF32 b with
  | .fin q => decide (0 < q) && twoPow (floorLog2 q) == q
  | _ => false

/-- The state ranges of a binding (07, R221, R222). -/
def State.stateRanges (s : State) (b : Nat) : List (Nat × Nat) :=
  let n := s.rget Bind.SHARD_COUNT b
  let j := s.rget Bind.SHARD_FIRST b
  [ (s.masterBase b j, 4 * n * s.places b), (s.momentBase b j 0, n * s.momentBytes b * s.places b),
    (s.factorBase b j 0, if s.rget Bind.RULE b = ruleKron then n * s.factorBytes b else 0),
    (s.workBase b j, n * s.workBytes b) ].filter fun r => r.2 != 0

/-- Do two lists of ranges share a byte? -/
def clash (xs ys : List (Nat × Nat)) : Bool := xs.any fun x => ys.any fun y => overlap x.1 x.2 y.1 y.2

/-- The fields of a binding lie in their limits. -/
def State.bindFields (s : State) (b : Nat) : Bool :=
  let r := s.rget Bind.RULE b
  let f := s.rget Bind.WORK_FMT b
  decide (r ≤ 2) && (!s.rbit Bind.MOM_FMT b || r == ruleElem) && (!s.rbit Bind.NESTEROV b || r == ruleOrtho) &&
  (r == ruleElem || decide (1 ≤ s.rget Bind.ITERS b)) && (r != ruleKron || decide (1 ≤ s.rget Bind.ROOT_EVERY b)) &&
  (f == fmtLadder || (decide (f ∈ [fmtBF16, fmtFP16, fmtE4M3, fmtE5M2, fmtE2M1, fmtT3, fmtINT8, fmtINT4, fmtINT2]) &&
    fmtAccepts f (s.rget Bind.WORK_SCL b))) &&
  isPowerOfTwo (s.rget Bind.WORK_TSCALE b) &&
  (!s.rbit Bind.WORK_GAUGE_EN b || decide (s.rget Bind.WORK_GAUGE b < s.rget Ctx.GAUGE_COUNT (s.bindCtx b)))

/-- The shards of a binding lie in their limits. -/
def State.bindShape (s : State) (b : Nat) : Bool :=
  let wide := s.rget Bind.RULE b != ruleElem
  decide (1 ≤ s.rget Bind.DIM0 b ∧ 1 ≤ s.rget Bind.DIM1 b ∧ 1 ≤ s.shardRows b ∧ 1 ≤ s.shardCols b ∧ s.places b ≤ 262144) &&
  (!wide || decide (s.shardRows b ≤ 512 ∧ s.shardCols b ≤ 512)) &&
  decide (s.rget Bind.SHARD_FIRST b + s.rget Bind.SHARD_COUNT b ≤ s.shardTotal b)

/-- A region lends what a rule needs. -/
def State.lends (s : State) (b g : Nat) : Bool :=
  let r := s.rget Bind.RULE b
  let lend := s.rget UpuLend.LEND g
  let d := max (s.shardRows b) (s.shardCols b)
  (r != ruleOrtho || decide (4 ≤ lend)) &&
  (r != ruleKron || (lend == 8 && decide (ceilDiv (32 * d ^ 2) (2 ^ 20) ≤ s.rget UpuLend.ROOT_POOL g)))

def State.checkBinding (s : State) (b : Nat) : Option Nat :=
  let c := s.bindCtx b
  let ranges := s.stateRanges b
  firstCode
    [ (s.reservedClear .binding b && s.bindFields b, 0x41), (s.ctxOn c, 0x42), (s.bindShape b, 0x43),
      (s.rget Bind.REGION_MASK b != 0 && (s.bindRegions b).all fun g => bit (s.rget Part.REGIONS (s.partOf c)) g, 0x44),
      ((ranges.all fun r => inTiers r.1 r.2) && !((s.othersUp .binding b).any fun o => clash ranges (s.stateRanges o)) &&
        (s.rget Bind.RULE b != ruleKron || s.rget Ctx.FACTOR_BASE c != 0), 0x45),
      ((s.bindRegions b).all fun g => s.lends b g, 0x46) ]

/-! ## Channels (09, R306; 08, R255, R256) -/

/-- The member table in memory. -/
def State.memberTable (s : State) (ch : Nat) : List Nat :=
  (List.range (s.rget Chan.MEMBERS ch)).map fun k => s.peekNat (s.rget Chan.MEMBER_BASE ch + 2 * k) 2 % 2 ^ 14

/-- No entry stands twice in a list. -/
def distinct : List Nat → Bool
  | [] => true
  | x :: xs => !decide (x ∈ xs) && distinct xs

/-- The collective checks. -/
def State.collectiveOk (s : State) (ch : Nat) : Bool :=
  let n := s.rget Chan.MEMBERS ch
  let late := s.rget Chan.LATENESS ch
  let ms := s.memberTable ch
  decide (1 ≤ n ∧ n ≤ 4096 ∧ 1 ≤ s.rget Chan.QUORUM ch ∧ s.rget Chan.QUORUM ch ≤ n) &&
  ms[s.rget Chan.SELF ch]? == some s.moduleId && distinct ms && late != 3 &&
  decide (1 ≤ s.rget Chan.ABANDON ch) && (late == 0 || decide (s.rget Chan.DEADLINE ch < 1000 * s.rget Chan.ABANDON ch)) &&
  baseOk (s.rget Chan.MEMBER_BASE ch) 8 && baseOk (s.rget Chan.LOG_BASE ch) 4096 && baseOk (s.rget Chan.CARRY_BASE ch) 4096 &&
  (s.rget Chan.LOG_BASE ch == 0 || decide (1 ≤ s.rget Chan.LOG_ENTRIES ch)) &&
  (late != 1 || decide (1 ≤ s.rget Chan.CARRY_SLOTS ch))

def State.checkChannel (s : State) (ch : Nat) : Option Nat :=
  firstCode
    [ (s.reservedClear .channel ch && s.rbit FabId.ID_SET, 0x22), (s.ctxOn (s.rget Chan.CONTEXT ch), 0x21),
      ((s.memberTable ch).all fun m => m == s.moduleId || !(s.usablePorts m).isEmpty, 0x23),
      (s.collectiveOk ch, 0x2A) ]

/-! ## Partitions (13, R434) -/

/-- The named regions of a partition. -/
def State.namedRegions (s : State) (p : Nat) : List Nat := (List.range 32).filter fun g => bit (s.rget Part.REGIONS p) g

/-- The mirrors of a pair partition's regions. -/
def State.mirrorRegions (s : State) (p : Nat) : List Nat :=
  if s.rbit Part.PAIR p then (s.namedRegions p).map mirrorRegion else []

/-- Does a region lie in another partition that is not OFF? -/
def State.regionBusy (s : State) (p g : Nat) : Bool :=
  (List.range 32).any fun q => q != p && s.fstate .partition q != 0 && decide (g ∈ s.partRegions q)

def State.checkPartition (s : State) (p : Nat) : Option Nat :=
  let gs := s.namedRegions p
  let ms := s.mirrorRegions p
  let a := s.rget Part.AUDIT_SHIFT p
  firstCode
    [ (s.reservedClear .partition p && !gs.isEmpty && decide (4 ≤ a ∧ a ≤ 8), 0x31), (!gs.any fun g => s.regionBusy p g, 0x32),
      (!s.rbit Part.PAIR p || ((gs.all fun g => decide (g < 16)) && !ms.any fun g => s.regionBusy p g), 0x33),
      ((gs ++ ms).all fun g => s.dieUp (g / 8) && decide (5 ≤ (s.liveTiles g).length), 0x34) ]

/-! ## Far ports (14, R479) and round engine bindings (10, R320) -/

def State.checkFarPort (s : State) (p : Nat) : Option Nat :=
  let mac := s.rget WhdPort.MAC p
  let mtu := s.rget WhdPort.MTU p
  let v4 := s.rget WhdPort.IPV4 p
  let v6 := s.rget WhdPort.IPV6 p
  firstCode
    [ (s.reservedClear .farPort p && mac != 0 && !bit mac 40 && decide (1280 ≤ mtu ∧ mtu ≤ 9194) && (v4 != 0 || v6 != 0) &&
        (v4 == 0 || decide (s.rget WhdPort.V4_PREFIX p ≤ 32)) && (v6 == 0 || decide (s.rget WhdPort.V6_PREFIX p ≤ 128)) &&
        s.rget WhdPort.GATEWAY_MAC p != 0, 0x08) ]

/-- The outer planes and the fragment store of a round engine binding. -/
def State.outerArea (s : State) (i : Nat) : Nat × Nat := (s.rget Round.OUTER_BASE i, 20 * s.rget Round.OUTER_PARAMS i)
def State.storeArea (s : State) (i : Nat) : Nat × Nat := (s.rget Round.STORE_BASE i, s.rget Round.STORE_MIB i * 2 ^ 20)

/-- The areas of other bindings of both kinds that are not OFF. -/
def State.otherAreas (s : State) (i : Nat) : List (Nat × Nat) :=
  ((s.othersUp .round i).flatMap fun o => [s.outerArea o, s.storeArea o]) ++
  ((s.othersUp .binding 8192).flatMap fun b => s.stateRanges b)

/-- The end of a rule binding's parameters in its context's master space. -/
def State.paramEnd (s : State) (b : Nat) : Nat := s.rget Bind.P0 b + s.rget Bind.SHARD_COUNT b * s.places b

/-- The sites of a binding and their far ports will do. -/
def State.sitesOk (s : State) (i : Nat) : Bool :=
  let others := s.partners i
  decide (s.rget Round.SELF_SITE i ∈ s.sites i) && !others.isEmpty &&
  (others.all fun x => s.rbit Partner.VALID x && s.isOn .farPort (s.rget Partner.FAR_PORT x) &&
    decide (1024 * 2 ^ s.rget Round.PIECE i + 144 ≤ s.mtuTo x)) &&
  (!s.rbit Round.JOINER i || decide (s.rget Round.SEED_SITE i ∈ others))

def State.checkRound (s : State) (i : Nat) : Option Nat :=
  let c := s.rget Round.CONTEXT i
  let h := s.rget Round.H i
  let dl := s.rget Round.DEADLINE_STEPS i
  let k := s.rget Round.TOPK_SHIFT i
  let binds := s.onBindings c
  let outer := s.outerArea i
  let store := s.storeArea i
  let others := s.otherAreas i
  firstCode
    [ (s.reservedClear .round i && decide (1 ≤ h ∧ 1 ≤ dl ∧ 1 ≤ s.rget Round.TAKEOVER_STEPS i ∧ 1 ≤ k ∧ k ≤ 12 ∧ dl < h) &&
        decide (s.rget Round.QFMT i ∈ [3, 5, 6]), 0x51),
      (s.ctxOn c && !binds.isEmpty && !((s.boundTo .round c).any fun o => o != i && s.isOn .round o), 0x52),
      (inLpddr outer.1 outer.2 && !clash [outer] others &&
        (binds.all fun b => decide (s.paramEnd b ≤ s.rget Round.OUTER_PARAMS i)), 0x53),
      (s.sitesOk i, 0x54),
      (inLpddr store.1 store.2 && decide (64 ≤ s.rget Round.STORE_MIB i) && !clash [store] (outer :: others), 0x57) ]

/-! ## Sessions (18, R562, R566) and command rings (14, R461) -/

/-- Event codes that the spec defines, and the privileged ones (18, R560). -/
def eventDefined (e : Nat) : Bool := decide (e ≤ 0x0C) || decide (0x20 ≤ e ∧ e ≤ 0x28)
def eventPrivileged (e : Nat) : Bool := decide (0x20 ≤ e)

/-- The privilege row of R562. -/
def State.sampleOpen (s : State) (i : Nat) : Bool :=
  !s.rbit Sample.ALL_CONTEXTS i && !(sampleEvents s i).any eventPrivileged

def State.checkSample (s : State) (i level : Nat) : Option Nat :=
  let n := s.rget Sample.TILE_COUNT i
  let l := s.rget Sample.RING_LOG2 i
  firstCode
    [ (s.reservedClear .sample i && decide (s.rget Sample.PERIOD_LOG2 i ≤ 20 ∧ 6 ≤ l ∧ l ≤ 20 ∧ 1 ≤ n ∧ s.rget Sample.FIRST_TILE i + n ≤ 1024) &&
        (sampleEvents s i).all eventDefined, 0x71),
      (decide (1 ≤ level) || s.sampleOpen i, 0x02),
      (s.rbit Sample.ALL_CONTEXTS i || s.ctxOn (s.rget Sample.CONTEXT i), 0x72),
      (ringPlaced (s.rget Sample.RING_BASE i) (64 * 2 ^ l), 0x73) ]

def State.checkTrace (s : State) (d : Nat) : Option Nat :=
  let l := s.rget Trace.EXP_LOG2 d
  firstCode
    [ (s.reservedClear .trace d && decide (10 ≤ l ∧ l ≤ 20), 0x71), (s.rbit Trace.ALL_CONTEXTS d || s.ctxOn (s.rget Trace.CONTEXT d), 0x72),
      (ringPlaced (s.rget Trace.EXP_BASE d) (32 * 2 ^ l), 0x73) ]

def State.checkRing (s : State) (n : Nat) : Option Nat :=
  let cmd := s.rget Ring.CMD_LOG2 n
  let cpl := s.rget Ring.CPL_LOG2 n
  let base := fun f => s.rget f n != 0 && s.rget f n % 4096 == 0
  firstCode
    [ (s.rbit SecBoot.READY, 0x0A),
      (s.reservedClear .ring n && decide (6 ≤ cmd ∧ cmd ≤ 16 ∧ 6 ≤ cpl ∧ cpl ≤ 16) && base Ring.CMD_BASE && base Ring.CPL_BASE &&
        decide (s.rget Ring.VECTOR n < 2048), 0x08) ]

/-- The consistency check of an enable by an agent of a level. -/
def State.checkEnable (s : State) (k : Kind) (i level : Nat) : Option Nat :=
  match k with
  | .context => s.checkContext i level
  | .channel => s.checkChannel i
  | .partition => s.checkPartition i
  | .farPort => s.checkFarPort i
  | .round => s.checkRound i
  | .trace => s.checkTrace i
  | .sample => s.checkSample i level
  | .binding => s.checkBinding i
  | .ring => s.checkRing i

end Sys2Proof.Machine
end

