-- ==== Sys2Proof/Machine/Functions.lean ====
section
/-!
DEFINITION. Function control (14, R471 to R477): enables and disables by state, what each kind of function does in
STARTING and when its STOPPING ends, and the create and destroy of objects (02, R66 to R68; 14, R476).
-/
namespace Sys2Proof.Machine

/-! ## Roles (06, R212) -/

/-- Roles of a region's live tiles as the bits of ROLE. -/
def State.rolesOf (s : State) (g : Nat) : Nat :=
  let live := (s.liveTiles g).map fun t => t % 32
  let n := live.length
  if s.rbit TsqSplit.MODE g = false ∨ n < 5 then 0
  else
    let fwd := ceilDiv (n - 2) 3
    packNat 2 ((List.range 32).map fun t =>
      match live.findIdx? fun u => u == t with
      | none => 0
      | some k => if k < fwd then 1 else if k < n - 2 then 2 else 3)

/-- The roles of a region are recomputed. -/
def State.setRoles (s : State) (gs : List Nat) : State := gs.foldl (fun s g => s.rput TsqSplit.ROLE g (s.rolesOf g)) s

/-! ## STARTING -/

/-- A function has left OFF for STARTING: the members of a channel and its epoch, the rounds and the JOIN of a round engine
binding. -/
def State.beginChannel (s : State) (ch : Nat) : State :=
  let mine : FlowKey → Bool := fun k => k.chan == ch
  let s : State := { s with
    fabric := { s.fabric with
      epochs := put ch ((s.epoch ch + 1) % 256) s.fabric.epochs
      peerEpoch := s.fabric.peerEpoch.filter fun e => e.1.1 != ch
      rx := s.fabric.rx.filter fun e => !mine e.1
      partials := s.fabric.partials.filter fun e => !mine e.1
      txSeq := s.fabric.txSeq.filter fun e => !mine e.1
      hellos := s.fabric.hellos.filter fun e => e.1 != ch
      members := put ch (s.memberTable ch) s.fabric.members
      started := put ch s.now s.fabric.started }
    collect := { s.collect with
      requests := s.collect.requests.filter fun r => r.chan != ch
      closed := s.collect.closed.filter fun r => r.chan != ch
      results := s.collect.results.filter fun r => r.chan != ch
      carries := s.collect.carries.filter fun r => r.chan != ch
      flags := s.collect.flags.filter fun r => r.chan != ch } }
  let s := (s.touch (s.rget Chan.MEMBER_BASE ch) (2 * s.rget Chan.MEMBERS ch)).rput Chan.LOG_HEAD ch 0
  (s.otherMembers ch).foldl (fun s m => s.sendHello ch m) s

def State.beginStart (s : State) (k : Kind) (i : Nat) : State :=
  let s := s.rput k.stateFld i 1
  match k with
  | .channel => s.beginChannel i
  | .round => s.beginRound i
  | _ => s

/-- Generation 0 of each owned shard (07, R252). -/
def State.deriveFirst (s : State) (b j : Nat) : State :=
  let rung := (s.rungOf (s.bindCtx b)).rung
  let step := s.rget Ctx.STEP (s.bindCtx b)
  let mark := s.paramPoison b j (s.masterBase b j) 4
  let s := (s.paramRanges b j (s.masterBase b j) 4).foldl (fun s r => s.touch r.1 r.2) s
  let d := s.deriveSlot b j 0 rung 0 step (valsOf (s.readParams b j (s.masterBase b j) 4))
  let s := d.bytes.foldl (fun s w => if w.2.isEmpty then s else s.store w.1 w.2 mark) s
  let s := [1, 2, 3].foldl (fun s k => s.store (s.headAddr b j k) (List.replicate 64 0) false) s
  (s.observeWork b j d).setRetained b j ⟨[some 0, none, none, none], [step, 0, 0, 0], [rung, 0, 0, 0], 0⟩

/-- The rung brought into a context's ladder (03, R120). -/
def State.ladderRung (s : State) (c : Nat) : Nat := max (s.rget Ctx.LADDER_LO c) (min (s.rget Ctx.LADDER_HI c) (s.rungOf c).rung)

/-- The gauge entries of a context at its enable, its rung, and no flags of earlier attempts (03, R117, R120). -/
def State.startContext (s : State) (c : Nat) : State :=
  let s := (s.gaugeRange c).foldl (fun s e =>
    { s.rput Gau.TRIP_RUN e 0 with tsq := { s.tsq with gauges := del e s.tsq.gauges } }) s
  let s := s.setRung c { s.rungOf c with rung := s.ladderRung c }
  { s with tsq := { s.tsq with flags := s.tsq.flags.filter fun e => e.1 != c } }

/-- A far port is configured; queued traffic begins afresh. -/
def State.startRing (s : State) (n : Nat) : State :=
  let s := [Ring.CMD_HEAD, Ring.CMD_TAIL, Ring.CPL_TAIL, Ring.CPL_HEAD].foldl (fun s f => s.rput f n 0) s
  { s with hub := { s.hub with unsignalled := del n s.hub.unsignalled } }

/-- The STARTING work of a function (14, R471). -/
def State.startWork (s : State) (k : Kind) (i : Nat) : State :=
  match k with
  | .context => s.startContext i
  | .channel | .farPort => s
  | .partition => s.setRoles (s.partRegions i)
  | .round =>
    let s := s.endRoundStart i (decide (i ∈ s.hub.keepPlanes))
    { s with hub := { s.hub with keepPlanes := s.hub.keepPlanes.filter fun j => j != i } }
  | .trace => s.startTrace i
  | .sample => s.startSample i
  | .binding => (s.bindShards i).foldl (fun s j => s.deriveFirst i j) s
  | .ring => s.startRing i

/-- May the STARTING work end? -/
def State.startReady (s : State) (k : Kind) (i : Nat) : Bool :=
  match k with
  | .channel => s.allHeard i
  | .round => s.roundStartReady i
  | _ => true

/-- Kinds whose STARTING work has no consistent point inside it (14, R471). -/
def Kind.wholeStart : Kind → Bool
  | .context | .partition | .farPort | .ring => true
  | .channel | .round | .trace | .sample | .binding => false

/-- A disable asked for the abort of a start. -/
def State.abortAsked (s : State) (k : Kind) (i : Nat) : Bool := decide ((k, i) ∈ s.hub.aborting)

/-- A function of a kind code and an index. -/
def fnOf (kind index : Nat) : Option (Kind × Nat) :=
  match Kind.ofCode kind with
  | some k => if index < k.size then some (k, index) else none
  | none => none

/-- FUNCTION_START_DONE: the STARTING work ends and the function enters ON. -/
def State.functionStartDone (s : State) (k : Kind) (i : Nat) : State :=
  if s.fstate k i = 1 ∧ s.abortAsked k i = false ∧ s.startReady k i = true then (s.startWork k i).reachOn k i else s

def execFunctionStartDone (kind index : Nat) (s : State) : Host.Outcome State Fault Refusal :=
  .next (match fnOf kind index with
    | some (k, i) => s.functionStartDone k i
    | none => s)

/-! ## Stopping -/

/-- The enables that wait on a function complete with a code. -/
def State.answerEnables (s : State) (k : Kind) (i code : Nat) : State :=
  let ws := s.hub.waiters.filter fun w => w.kind == k && w.index == i && w.enable
  let s : State := { s with hub := { s.hub with
    waiters := s.hub.waiters.filter fun w => !(w.kind == k && w.index == i && w.enable) } }
  ws.foldl (fun s w => s.answerWaiter w code) s

/-- What stops at once when a function leaves ON or its start is aborted. -/
def State.stopWork (s : State) (k : Kind) (i : Nat) : State :=
  match k with
  | .binding => s.dropUpdates i
  | .trace => s.stopTrace i
  | _ => s.halt k i

/-- A context that is being disabled stops its functions one after another: round engine bindings, rule bindings, channels;
then its threads end (14, R477). A function in FAULT goes OFF at once, and one that starts aborts its start. -/
def State.stopNext (s : State) (c : Nat) : State :=
  let todo := ([Kind.round, .binding, .channel].flatMap fun k => (s.boundTo k c).map fun i => (k, i)).filter fun e =>
    s.fstate e.1 e.2 != 0
  match todo.find? fun e => s.fstate e.1 e.2 != 4 with
  | some (k, i) =>
    if s.fstate k i = 2 then (s.rput k.stateFld i 3 |>.stopWork k i)
    else if s.fstate k i = 1 ∧ s.abortAsked k i = false then
      { s with hub := { s.hub with aborting := s.hub.aborting ++ [(k, i)] } }
    else s
  | none => s.endThreads c

/-- Functions in FAULT of a context that is being disabled go OFF. -/
def State.clearFaults (s : State) (c : Nat) : State :=
  ([Kind.round, .binding, .channel].flatMap fun k => (s.boundTo k c).map fun i => (k, i)).foldl (fun s e =>
    if s.fstate e.1 e.2 = 4 then s.reachOff e.1 e.2 else s) s

/-- A context leaves ON by a disable: sessions over it stop on their way to FAULT (18, R562), and its functions stop in
order. -/
def State.stopContext (s : State) (c : Nat) : State :=
  let s := (s.boundTo .sample c).foldl (fun s i => s.stopForFault .sample i 0) s
  (s.clearFaults c).stopNext c

/-- A function leaves ON for STOPPING by a disable. -/
def State.beginStop (s : State) (k : Kind) (i : Nat) : State :=
  let s := s.rput k.stateFld i 3
  let s := match k.endFld with
    | some f => s.rput f i 0
    | none => s
  match k with
  | .context => s.stopContext i
  | _ => s.stopWork k i

/-- START_ABORT: a start that a disable aborts goes to STOPPING at its next consistent point; one without such a point
completes its work first (14, R472, R474). -/
def State.startAbort (s : State) (k : Kind) (i : Nat) : State :=
  if s.fstate k i = 1 ∧ s.abortAsked k i = true then
    let s := if k.wholeStart then s.startWork k i else s
    let s : State := { s with hub := { s.hub with
      aborting := s.hub.aborting.filter fun e => e ≠ (k, i)
      keepPlanes := if k = .round then s.hub.keepPlanes.filter fun j => j != i else s.hub.keepPlanes } }
    (s.answerEnables k i 0x07).beginStop k i
  else s

def execStartAbort (kind index : Nat) (s : State) : Host.Outcome State Fault Refusal :=
  .next (match fnOf kind index with
    | some (k, i) => s.startAbort k i
    | none => s)

/-- Launches of a context that are on their way. -/
def State.launching (s : State) (c : Nat) : Bool :=
  (s.tsq.launches.any fun l => bits l.ctx.toNat 0 16 == c) ||
  (s.tsq.arrivals ++ s.tsq.fetching).any fun a => bits a.ctx.toNat 0 16 == c

/-- The functions bound to a context have stopped. -/
def State.boundStopped (s : State) (c : Nat) : Bool :=
  [Kind.round, .binding, .channel, .sample].all fun k => (s.boundTo k c).all fun i => s.fstate k i == 0 || s.fstate k i == 4

/-- Packets of a far port are discarded; a piece that they carried counts as sent and not acknowledged. -/
def State.dropPort (s : State) (p : Nat) : State :=
  let mine : WxpOut → Bool := fun q => s.rget Partner.FAR_PORT q.site == p
  let gone := s.wellhead.queue.filter mine
  gone.foldl (fun s q => s.markSent q) (s.onWell fun w => { w with queue := w.queue.filter fun q => !mine q })

/-- Does a frame of a channel to another module wait for a policer (09, R295, R310)? -/
def State.policerHolds (s : State) (ch : Nat) : Bool :=
  s.fabric.sources.any fun e => e.2.waiting.any fun w => w.1.channel == ch && w.1.dest != s.moduleId

/-- May STOPPING end (14, R471)? -/
def State.stopReady (s : State) (k : Kind) (i : Nat) : Bool :=
  match k with
  | .context => s.boundStopped i && s.liveThreads i == 0 && !s.launching i && !s.resetting (s.partOf i)
  | .channel =>
    !(s.fabric.outs.any fun o => o.2.frame.channel == i) && !s.policerHolds i &&
    !(s.collect.reds.any fun r => r.chan == i) && !s.collect.waitLine.any fun e => e.2.2.channel == i
  | .partition => !s.resetting i
  | .sample => (look i s.obs.samplers).isNone
  | .trace => s.traceOver i
  | .ring => !(s.hub.taken.any fun t => t.ring == i) && !s.hub.completions.any fun c => c.ring == i
  | .farPort | .round | .binding => true

/-- A rung that the host set and that waits takes effect when its context is OFF (03, R120). -/
def State.settleRung (s : State) (c : Nat) : State :=
  let r := s.rungOf c
  match r.pending with
  | none => s
  | some v => s.setRung c { r with rung := v, pending := none }

/-- What a function gives up as it ends (02, R59; 10, R348; 13, R434; 14, R471). -/
def State.endWork (s : State) (k : Kind) (i : Nat) : State :=
  match k with
  | .context => s.releaseLeases fun h => h.ctx == i
  | .round => s.dropRound i
  | .binding => s.dropUpdates i
  | .farPort => s.dropPort i
  | _ => s

/-- What follows when a function is OFF. -/
def State.offWork (s : State) (k : Kind) (i : Nat) : State :=
  match k with
  | .context => s.settleRung i
  | .partition => (s.applyHeld (s.partRegions i)).setRoles (s.partRegions i)
  | _ => s

/-- The reason with which a function enters FAULT (14, R472). -/
def State.endReason (s : State) (k : Kind) (i : Nat) : Nat :=
  match k.endFld, k.ctxFld with
  | some f, _ => s.rget f i
  | none, some f => s.rget Ctx.END_REASON (s.rget f i)
  | none, none => 0

/-- A refused enable of a channel: its code is the channel's last fabric code (09, R305, R306). -/
def State.noteRefused (s : State) (k : Kind) (i code : Nat) : State :=
  if k = .channel ∧ 0x21 ≤ code ∧ code ≤ 0x23 then s.rput Chan.LAST_ERROR i code else s

/-- A latched enable runs as an enable in OFF, and its outcome is posted as an event (14, R473). -/
def State.runLatched (s : State) (k : Kind) (i : Nat) : State :=
  match look (k, i) s.hub.latched with
  | none => s
  | some (level, keep) =>
    let s : State := { s.rput k.pendFld i 0 with hub := { s.hub with latched := del (k, i) s.hub.latched } }
    match s.checkEnable k i level with
    | some code => (s.noteRefused k i code).postEvent k i code
    | none =>
      let s : State := { s with hub := { s.hub with
        keepPlanes := if k = .round ∧ keep = true then s.hub.keepPlanes ++ [i] else s.hub.keepPlanes } }
      s.beginStart k i

/-- A function that is being stopped with its context lets the context stop the next. -/
def State.stopOwner (s : State) (k : Kind) (i : Nat) : State :=
  match k, k.ctxFld with
  | .context, _ => s
  | _, some f =>
    let c := s.rget f i
    if s.fstate .context c = 3 ∧ ¬ s.isEnding .context c = true then s.stopNext c else s
  | _, none => s

/-- FUNCTION_STOP_DONE: a function that is STOPPING reaches OFF, or FAULT when it is ending, and a latched enable runs. -/
def State.functionStopDone (s : State) (k : Kind) (i : Nat) : State :=
  if s.fstate k i ≠ 3 then s
  else
    let s := if k = .context ∧ s.boundStopped i = true ∧ s.resetting (s.partOf i) = false then s.endThreads i else s
    if !s.stopReady k i then s
    else
      let s := s.endWork k i
      if s.isEnding k i then s.reachFault k i (s.endReason k i)
      else (((s.reachOff k i).offWork k i).runLatched k i).stopOwner k i

def execFunctionStopDone (kind index : Nat) (s : State) : Host.Outcome State Fault Refusal :=
  .next (match fnOf kind index with
    | some (k, i) => s.functionStopDone k i
    | none => s)

/-! ## The end of a partition reset (13, R435) -/

/-- A context of a partition that was reset enters FAULT, and the functions bound to it with it. -/
def State.endReset (s : State) (c : Nat) : State :=
  let s := [Kind.round, Kind.binding, Kind.channel, Kind.sample].foldl (fun s k => (s.boundTo k c).foldl (fun s i =>
    if s.fstate k i = 3 then (s.endWork k i).reachFault k i 0x1C else s) s) s
  if s.fstate .context c = 3 then (s.endWork .context c).reachFault .context c (s.rget Ctx.END_REASON c) else s

/-- A partition's reset is no longer in progress. -/
def State.resetOver (s : State) (p : Nat) : State := { s with ras := { s.ras with resets := del p s.ras.resets } }

/-- PARTITION_RESET_END: orders 5 and 6. Every region and mirror is reset, held bypasses take effect, the functions of
the contexts and the contexts enter FAULT, and the partition with them. -/
def execPartitionResetEnd (p : Nat) (s : State) : Host.Outcome State Fault Refusal :=
  .next (match look p s.ras.resets with
    | none => s
    | some died =>
      let gs := s.partRegions p
      let reason := if died then 0x1F else 0x1C
      let s := (gs.foldl (fun s g => s.resetRegion g) s).applyHeld gs
      (((s.partContexts p).foldl (fun s c => s.endReset c) s).resetOver p |>.rput Part.END_REASON p reason).reachFault
        .partition p reason)

/-! ## Enables and disables (14, R472) -/

/-- An enable: the code that completes it at once, or none when it waits. -/
def State.enable (s : State) (k : Kind) (i level : Nat) (keep : Bool) : Option Nat × State :=
  match s.fstate k i with
  | 0 =>
    match s.checkEnable k i level with
    | some code => (some code, s.noteRefused k i code)
    | none =>
      let s : State := { s with hub := { s.hub with
        keepPlanes := if k = .round ∧ keep = true then s.hub.keepPlanes ++ [i] else s.hub.keepPlanes } }
      (none, s.beginStart k i)
  | 1 => (none, s)
  | 2 => (some 0, s)
  | 3 => (some 1, { s.rput k.pendFld i 1 with hub := { s.hub with latched := put (k, i) (level, keep) s.hub.latched } })
  | _ => (some 5, s)

/-- A disable: likewise. A partition with a context that is not OFF refuses it. -/
def State.disable (s : State) (k : Kind) (i : Nat) : Option Nat × State :=
  if k = .partition ∧ (s.partContexts i).isEmpty = false then (some 0x35, s)
  else match s.fstate k i with
  | 0 => (some 0, s)
  | 1 =>
    (none, if s.abortAsked k i then s else { s with hub := { s.hub with aborting := s.hub.aborting ++ [(k, i)] } })
  | 2 => (none, s.beginStop k i)
  | 3 =>
    (none,
      if s.rbit k.pendFld i then
        ({ s.rput k.pendFld i 0 with hub := { s.hub with latched := del (k, i) s.hub.latched } } : State).postEvent k i 0x07
      else s)
  | _ => (some 0, (s.rput k.stateFld i 0).offWork k i)

/-- A command that waits on a function. -/
def State.waitOn (s : State) (k : Kind) (i : Nat) (cmd : Option Nat) (enable : Bool) : State :=
  { s with hub := { s.hub with waiters := s.hub.waiters ++ [⟨k, i, cmd, enable⟩] } }

/-! ## Create and destroy (14, R476; 02, R67, R68) -/

/-- The lowest free index of a kind. -/
def State.freeIndex (s : State) (k : Kind) : Option Nat :=
  (List.range k.size).find? fun i => !decide ((k, i) ∈ s.hub.allocated)

/-- CREATE: the new handle, or the code that refuses it. An INDEX of 0xFFFF stands for any. -/
def State.create (s : State) (k : Kind) (index : Nat) : Except Nat (Nat × State) :=
  let take : Nat → Nat × State := fun i =>
    (s.handle k i, { s with hub := { s.hub with allocated := s.hub.allocated ++ [(k, i)] } })
  if index = 0xFFFF then
    match s.freeIndex k with
    | none => .error 0x06
    | some i => .ok (take i)
  else if s.isAllocated k index then .error 0x05
  else .ok (take index)

/-- Does another allocated function name an object (02, R68)? -/
def State.named (s : State) (k : Kind) (i : Nat) : Bool :=
  match k with
  | .context => [Kind.channel, .round, .binding, .sample, .trace].any fun f => !(s.boundTo f i).isEmpty
  | .binding => s.hub.allocated.any fun e => e.1 == .channel && s.rget Chan.BINDING e.2 == i
  | _ => false

/-- What the units keep of an object goes with it. -/
def State.forget (s : State) (k : Kind) (i : Nat) : State :=
  match k with
  | .binding =>
    { s with update := { s.update with
        retained := s.update.retained.filter fun e => e.1.1 != i
        held := s.update.held.filter fun e => e.1.1 != i } }
  | .channel => { s with fabric := { s.fabric with members := del i s.fabric.members } }
  | _ => s

/-- DESTROY: every field returns to its reset value, and the generation of the index rises. -/
def State.destroy (s : State) (k : Kind) (i : Nat) : Option Nat × State :=
  if s.fstate k i ≠ 0 ∨ s.named k i = true then (some (if k = .context then 0x1A else 0x09), s)
  else
    let h := s.handle k i
    let gen := (bits h 16 12 + 1) % 4096
    let s := (s.rreset k.tab i).rput k.handleFld i (k.code * 2 ^ 28 + gen * 2 ^ 16 + i)
    let s : State := { s with hub := { s.hub with allocated := s.hub.allocated.filter fun e => e ≠ (k, i) } }
    (none, s.forget k i)

end Sys2Proof.Machine
end

