-- ==== Sys2Proof/Machine/Power.lean ====
section
/-!
DEFINITION. Power and time (17): the input bands, region supplies and cluster gates, the power cap, the thermal limits, the
rails, and the time base with its corrections.
-/
namespace Sys2Proof.Machine

/-- Update power. -/
def State.onPower (s : State) (f : Power → Power) : State := { s with power := f s.power }

/-! ## Flags (17, R549, R554) -/

/-- Write a flag of PWR_STATUS [4:0]; a change sets CHANGED and POWER. -/
def State.powerFlag (s : State) (f : Fld) (v : Bool) : State :=
  if s.rbit f = v then s else ((s.rput f 0 (b2n v)).rput PwrStatus.CHANGED 0 1).setEvt Evt.POWER

/-- Write a flag of TBS_STATUS [2:0]. -/
def State.timeFlag (s : State) (f : Fld) (v : Bool) : State :=
  if s.rbit f = v then s else ((s.rput f 0 (b2n v)).rput TbsStatus.CHANGED 0 1).setEvt Evt.POWER

/-! ## The input (17, R535) -/

/-- PWR_INPUT_RANGE. -/
def inputRangeRec (mv : Nat) : ErrRec := { type := 0x00B1, severity := 0, reason := 0x81, die := 4, detail := mv }

/-- An input flag takes its value; a change is recorded. -/
def State.inputFlag (s : State) (f : Fld) (v : Bool) (mv : Nat) : State :=
  if s.rbit f = v then s else ((s.powerFlag f v).logError (inputRangeRec mv)).setEvt Evt.POWER

/-- INPUT_BAND_CHANGE: the input, in mV, lies between the bounds at which the module stops. -/
def execInputBandChange (mv : Nat) (s : State) : Host.Outcome State Fault Refusal :=
  .next (
    if s.power.running = true ∧ 34000 ≤ mv ∧ mv ≤ 46000 then
      ((s.rput PwrInput.VIN 0 mv).inputFlag PwrStatus.LOW_INPUT (decide (mv < 36000)) mv).inputFlag PwrStatus.HIGH_INPUT
        (decide (44000 < mv)) mv
    else s)

/-! ## Rails (17, R539, R540) -/

/-- A value held to a range. -/
def clampTo (lo hi v : Nat) : Nat := max lo (min hi v)

/-- VSET as it is taken. -/
def State.vset (s : State) (g : Nat) : Nat := clampTo 560 760 (s.rget PwrRegion.VSET g)

/-- The thermal ceiling of a region. -/
def State.ceiling (s : State) (g : Nat) : Nat := lookD g 760 s.power.ceilings

/-- The voltage to which a region's rail moves. -/
def State.railTarget (s : State) (g : Nat) : Nat := max 560 (min (min (s.vset g) (s.rget PwrStatus.VCAP)) (min (s.ceiling g) 760))

/-- LIMITER: the first of VSET, the cap ceiling and the thermal ceiling that is the least. -/
def State.limiter (s : State) (g : Nat) : Nat :=
  let v := s.railTarget g
  if s.rbit PwrRegion.STOP g then 3 else if s.vset g ≤ v then 0 else if s.rget PwrStatus.VCAP ≤ v then 1 else 2

/-- RAIL_STEP: one step of at most 5 mV, 100 us after the last. -/
def execRailStep (region : Nat) (s : State) : Host.Outcome State Fault Refusal :=
  .next (
    let v := s.rget PwrRegion.VAPPLIED region
    let t := s.railTarget region
    let free := match look region s.power.lastStep with
      | none => true
      | some at_ => decide (at_ + 100000 ≤ s.now)
    if s.power.running && decide (region < 32) && !s.rbit PwrRegion.STOP region && free && decide (v ≠ t) then
      (s.rput PwrRegion.VAPPLIED region (if v < t then min t (v + 5) else max t (v - 5))).onPower fun p =>
        { p with lastStep := put region s.now p.lastStep }
    else s)

/-! ## Region supplies and cluster gates (17, R541, R542) -/

/-- A write of STOP that is not refused. When the supply returns the region is reset first, and its rail is at the voltage
that R539 gives (log 58). -/
def State.setStop (s : State) (g : Nat) (v : Bool) : State :=
  if s.rbit PwrRegion.STOP g = v then s
  else if v then
    ((((s.rput PwrRegion.STOP g 1).rput PwrRegion.VAPPLIED g 0).stopRegion g).wipeRegion g).clearUnits g
  else
    let s := (s.rput PwrRegion.STOP g 0).resetRegion g
    s.rput PwrRegion.VAPPLIED g (s.railTarget g)

/-- The stores and coding slots of a cluster are lost, and read as zero when its supply is back. -/
def State.wipeCluster (s : State) (c : Nat) : State :=
  let s := [0, 1, 2, 3].foldl (fun s t => s.wipe (basinOf (4 * c + t)) (basinOf (4 * c + t) + basinBytes)) s
  let s := s.wipe (sideOf c) (sideOf c + 0x80000)
  { s with slots := s.slots.filter fun e => !(e.1.unit == 0 && e.1.i / 4 == c) }

/-- A write of CGATE that is not refused: clusters are gated or get their supply back. -/
def State.setCgate (s : State) (g mask : Nat) : State :=
  let old := s.rget PwrRegion.CGATE g
  let s := s.rput PwrRegion.CGATE g mask
  (List.range 8).foldl (fun s c =>
    if bit mask c = bit old c then s
    else
      let s := s.wipeCluster (8 * g + c)
      if bit mask c then s.stopSamples (4 * (8 * g + c)) 4 else s) s

/-! ## The power cap (17, R543, R544) -/

/-- CAP_W as it is taken. -/
def State.capW (s : State) : Nat := clampTo 1200 2800 (s.rget PwrCap.CAP_W)

/-- Input energy of the 100 us up to a tick, counted in millijoules (18, R558; log 59). -/
def State.countEnergy (s : State) (watts : Nat) : State :=
  let e := s.power.energy + watts
  ((s.rwrap ModuleCnt.ENERGY_MJ 0 (e / 10)).countEvent 0x27 0 1024 none 0 (e / 10)).onPower fun p => { p with energy := e % 10 }

/-- CAP_TICK: the input power averaged over the last 1 ms, in W, against CAP_W. -/
def execCapTick (power : Nat) (s : State) : Host.Outcome State Fault Refusal :=
  .next (
    if s.power.running then
      let s := (s.rput PwrInput.POWER 0 power).rput PwrInput.PEAK 0 (max (s.rget PwrInput.PEAK) (min power 65535))
      let s := s.countEnergy power
      let v := s.rget PwrStatus.VCAP
      let w := if s.capW < power then max 560 (v - 5) else if 100 * power < 98 * s.capW then min 760 (v + 5) else v
      let above := decide (s.capW < power)
      let s := (s.rput PwrStatus.VCAP 0 w).powerFlag PwrStatus.CAP_ACTIVE (decide (w < 760))
      let s := s.onPower fun p => { p with
        above := above
        floorAt := if w = 560 then some (p.floorAt.getD s.now) else none }
      if above && decide (w = 560) then s else s.powerFlag PwrStatus.CAP_UNMET false
    else s)

/-- PWR_CAP_UNMET. -/
def capUnmetRec : ErrRec := { type := 0x00B2, severity := 0, reason := 0x82, die := 4 }

/-- CAP_UNMET: the ceiling has stood at 560 mV for 10 ms and the power is still above CAP_W. -/
def execCapUnmet (s : State) : Host.Outcome State Fault Refusal :=
  .next (match s.power.floorAt with
    | none => s
    | some t =>
      if s.power.running && s.power.above && decide (t + 10000000 ≤ s.now) && !s.rbit PwrStatus.CAP_UNMET then
        (s.powerFlag PwrStatus.CAP_UNMET true).logError capUnmetRec
      else s)

/-! ## Thermal limits (17, R546) -/

/-- TJ_LIMIT as it is taken. -/
def State.tjLimit (s : State) : Nat := clampTo 80 100 (s.rget PwrStatus.TJ_LIMIT)

/-- PWR_THERMAL. -/
def thermalRec (g : Nat) : ErrRec := ({ type := 0x00B3, severity := 0, reason := 0x83 } : ErrRec).atRegion g

/-- Has a region's thermal ceiling stood for a time? -/
def State.ceilingStood (s : State) (g ns : Nat) : Bool :=
  match look g s.power.moved with
  | none => true
  | some t => decide (t + ns ≤ s.now)

/-- A region's thermal ceiling moves. -/
def State.setCeiling (s : State) (g v : Nat) : State :=
  s.onPower fun p => { p with ceilings := put g v p.ceilings, moved := put g s.now p.moved }

/-- THERMAL_TICK: the hottest junction of a region, in degrees, moves its ceiling: down by 5 mV per 100 us above TJ_LIMIT, up
by 5 mV per 1 ms from TJ_LIMIT - 2 down. -/
def execThermalTick (region tj : Nat) (s : State) : Host.Outcome State Fault Refusal :=
  .next (
    if s.power.running = true ∧ region < 32 then
      let s := s.rput PwrRegion.TJ region (min tj 255)
      let s := s.rput PwrStatus.TJ_MAX 0 ((List.range 32).foldl (fun m g => max m (s.rget PwrRegion.TJ g)) 0)
      let c := s.ceiling region
      let s := if s.tjLimit < tj then (if s.ceilingStood region 100000 then s.setCeiling region (max 560 (c - 5)) else s)
        else if tj + 2 ≤ s.tjLimit ∧ c < 760 then
          (if s.ceilingStood region 1000000 then s.setCeiling region (min 760 (c + 5)) else s)
        else s
      let active := (List.range 32).any fun g => decide (s.ceiling g < 760)
      let s := if active && !s.rbit PwrStatus.THERMAL_ACTIVE then s.logError (thermalRec region) else s
      s.powerFlag PwrStatus.THERMAL_ACTIVE active
    else s)

/-! ## The time base (17, R550 to R554) -/

/-- TBS_REF_LOST and TBS_STEP. -/
def refLostRec : ErrRec := { type := 0x00B5, severity := 0, reason := 0x85, die := 4 }
def timeStepRec (ns : Nat) : ErrRec := { type := 0x00B6, severity := 0, reason := 0x85, die := 4, detail := ns }

/-- REF_LOST. -/
def execRefLost (s : State) : Host.Outcome State Fault Refusal :=
  .next (
    if s.power.running && !s.rbit TbsStatus.REF_LOST then (s.timeFlag TbsStatus.REF_LOST true).logError refLostRec else s)

/-- REF_RETURN. -/
def execRefReturn (s : State) : Host.Outcome State Fault Refusal :=
  .next (if s.power.running then s.timeFlag TbsStatus.REF_LOST false else s)

/-- A pending correction above 1 ms is stepped at once while STEP_FWD is set; any other is slewed. -/
def State.settleTime (s : State) : State :=
  let c := s.power.pending
  if s.rbit TbsStatus.STEP_FWD = true ∧ 1000000 < c then
    let s := (s.rput TbsTime.ALL 0 (s.now + c.toNat)).onPower fun p => { p with pending := 0, part := 0 }
    (s.timeFlag TbsStatus.SLEWING false).logError (timeStepRec c.toNat)
  else if c = 0 then s
  else s.timeFlag TbsStatus.SLEWING true

/-- A correction adds into the pending one. -/
def State.correct (s : State) (ns : Int) : State := (s.onPower fun p => { p with pending := p.pending + ns }).settleTime

/-- A write of TBS_ADJ: ignored while a far port has PTP_EN set. -/
def State.adjust (s : State) (v : Nat) : State :=
  if s.rbit WhdPort.PTP_EN 0 || s.rbit WhdPort.PTP_EN 1 then s else s.correct (signed 64 v)

/-- TBS_SLEW_DONE. -/
def execTbsSlewDone (s : State) : Host.Outcome State Fault Refusal :=
  .next (if s.power.pending = 0 then s.timeFlag TbsStatus.SLEWING false else s)

/-- The time stamp of a PTP event message, and the delay request with its own (10, R349; log 120). -/
def State.ptpStamp (s : State) (port : Nat) : State :=
  { s with wellhead := { s.wellhead with
      ptpStamps := put port s.now s.wellhead.ptpStamps
      farOut := s.wellhead.farOut ++ [.delayRequest port (s.vlanTag port) s.now] } }

/-- PTP_EVENT_MESSAGE: the message is time-stamped at a far port with PTP_EN set, a delay request leaves, and what the
ordinary clock makes of it is taken: a correction in ns, and whether it is locked to its master (10, R349). -/
def execPtpEventMessage (port : Nat) (correction : Int) (locked : Bool) (s : State) : Host.Outcome State Fault Refusal :=
  .next (
    if decide (port < 2) && s.isOn .farPort port && s.rbit WhdPort.PTP_EN port then
      ((s.ptpStamp port).timeFlag TbsStatus.PTP_LOCKED locked).correct correction
    else s)

/-- SLEW_PPM as it is taken. -/
def State.slewPpm (s : State) : Nat := clampTo 1 250 (s.rget TbsStatus.SLEW_PPM)

/-- Regions whose sump has no room for a result that waits for it (07, R226). -/
def State.fullSumps (s : State) : Nat :=
  ((List.range 32).filter fun g => s.collect.results.any fun r =>
    r.toSump && s.shardRegion r.bind r.shard == g && decide (sumpBytes < s.sumpUsed g + 4 * s.places r.bind)).length

/-- The count of full sumps' nanoseconds (18, R558). -/
def State.countSumps (s : State) : State :=
  if s.collect.results.isEmpty then s
  else
    let s' := (List.range 32).foldl (fun s g =>
      if s.collect.results.any fun r =>
          r.toSump && s.shardRegion r.bind r.shard == g && decide (sumpBytes < s.sumpUsed g + 4 * s.places r.bind) then
        s.rwrap RegionCnt.SUMP_FULL_NS g
      else s) s
    s'.countEvent 0x28 0 1024 none 0 s.fullSumps

/-- One nanosecond of a running module: the time base advances by 1, and by none or by 2 where slewing has gathered a whole
nanosecond (17, R550, R553). -/
def State.tick (s : State) : State :=
  if !s.power.running then s
  else
    let s := s.countSumps
    let ppm : Int := s.slewPpm
    let part := if s.power.pending < 0 then s.power.part - ppm else if 0 < s.power.pending then s.power.part + ppm else 0
    if part ≤ -1000000 then s.onPower fun p => { p with pending := p.pending + 1, part := part + 1000000 }
    else if 1000000 ≤ part then
      (s.rwrap TbsTime.ALL 0 2).onPower fun p => { p with pending := p.pending - 1, part := part - 1000000 }
    else (s.rwrap TbsTime.ALL).onPower fun p => { p with part := part }

end Sys2Proof.Machine
end

