-- ==== Sys2Proof/Machine/Rings.lean ====
section
/-!
DEFINITION. Command rings and completion rings: doorbells (14, R460, R467), the taking of commands (14, R464), the
commands of the table of R463, completion entries and function events (14, R465, R466, R470), and interrupt moderation
(14, R468).
-/
namespace Sys2Proof.Machine

/-! ## Rings in host memory (14, R453, R459) -/

def State.cmdSize (s : State) (n : Nat) : Nat := 2 ^ s.rget Ring.CMD_LOG2 n
def State.cplSize (s : State) (n : Nat) : Nat := 2 ^ s.rget Ring.CPL_LOG2 n

/-- A difference of two counters that run modulo 2^32. -/
def ahead (a b : Nat) : Nat := (a + 2 ^ 32 - b) % 2 ^ 32

/-- Has a completion ring a free entry? -/
def State.cplRoom (s : State) (n : Nat) : Bool := decide (ahead (s.rget Ring.CPL_TAIL n) (s.rget Ring.CPL_HEAD n) < s.cplSize n)

/-- Is the host link up? -/
def State.linkUp (s : State) : Bool := decide (s.rget HubLink.SPEED ≠ 0)

/-! ## Doorbells (14, R460, R467) -/

/-- RING_BAD_DOORBELL. -/
def doorbellRec (n : Nat) : ErrRec := { type := 0x00F3, severity := 3, reason := 0x0D, die := 4, unit := n }

/-- A refusal that BAD_ENTRIES counts. -/
def State.badEntry (s : State) (n code : Nat) : State := (s.rinc Ring.BAD_ENTRIES n).rput Ring.LAST_REASON n code

/-- A refused doorbell. -/
def State.badDoorbell (s : State) (n : Nat) : State := (s.badEntry n 0x0D).logError (doorbellRec n)

/-- CMD_TAIL of a ring. -/
def State.cmdDoorbell (s : State) (n v : Nat) : State :=
  if s.cmdSize n < ahead v (s.rget Ring.CMD_HEAD n) then s.badDoorbell n else s.rput Ring.CMD_TAIL n v

/-- CPL_HEAD of a ring. -/
def State.cplDoorbell (s : State) (n v : Nat) : State :=
  let old := s.rget Ring.CPL_HEAD n
  if ahead (s.rget Ring.CPL_TAIL n) old < ahead v old then s.badDoorbell n else s.rput Ring.CPL_HEAD n v

/-! ## Taking commands (14, R462, R464, R466) -/

/-- A command with FENCE set that has not started. -/
def Taken.fences (t : Taken) : Bool := bit t.flags 0 && !t.started

/-- May the hub take a command from a ring? -/
def State.takeable (s : State) (n : Nat) : Bool :=
  s.isOn .ring n && decide (s.rget Ring.CMD_HEAD n ≠ s.rget Ring.CMD_TAIL n) && s.cplRoom n &&
  !s.hub.taken.any fun t => t.ring == n && t.fences

/-- The next ring in turn. -/
def State.nextRing (s : State) : Option Nat :=
  ((List.range 128).map fun k => (s.hub.lastRing + 1 + k) % 128).find? fun n => s.takeable n

/-- A command entry as read (14, R462): `bad` for a reserved bit that is set. -/
def entryOfBytes (id ring : Nat) (bs : List Byte) : Taken :=
  { id := id, ring := ring, op := leField bs 0 1, flags := leField bs 1 1, tag := leField bs 4 4, handle := leField bs 8 4
    body := slice bs 16 48
    bad := decide (4 ≤ leField bs 1 1) || leField bs 2 2 != 0 || leField bs 12 4 != 0
    started := false }

/-- The operations of the table of R463. -/
def opNop : Nat := 0
def opLaunch : Nat := 1
def opCreate : Nat := 2
def opEnable : Nat := 3
def opDisable : Nat := 4
def opDestroy : Nat := 5
def opCast : Nat := 6

/-- A command refused under R463 completes. -/
def State.refuseEntry (s : State) (t : Taken) (code : Nat) : State := (s.badEntry t.ring code).finishCmd t.id t.handle code

/-- The hub takes the next command of a ring. -/
def State.takeCommand (s : State) (n : Nat) : State :=
  let head := s.rget Ring.CMD_HEAD n
  let a := hostBase + s.rget Ring.CMD_BASE n + 64 * (head % s.cmdSize n)
  let t := entryOfBytes s.hub.nextTaken n (s.peek a 64)
  let dirty := s.poisoned a 64
  let s := (s.touch a 64).rwrap Ring.CMD_HEAD n
  let s : State := { s with hub := { s.hub with
    taken := s.hub.taken ++ [t], nextTaken := s.hub.nextTaken + 1, lastRing := n } }
  if dirty || decide (opCast < t.op) then s.refuseEntry t 0x04 else s

/-- RING_COMMAND_TAKE: round-robin over the rings that have a command. -/
def execRingCommandTake (s : State) : Host.Outcome State Fault Refusal :=
  .next (match s.nextRing with
    | some n => if s.linkUp then s.takeCommand n else s
    | none => s)

/-! ## Starting commands (14, R463, R464) -/

/-- May a taken command start? One with FENCE waits until every earlier command of its ring has completed. -/
def State.startable (s : State) (t : Taken) : Bool :=
  !t.started && (!bit t.flags 0 || !s.hub.taken.any fun u => u.ring == t.ring && decide (u.id < t.id))

/-- The command that starts next: each starts as soon as it is taken, so that it is the oldest that may. -/
def State.nextCommand (s : State) : Option Taken := s.hub.taken.find? fun t => s.startable t

/-- A ring command: it starts when it is the next to start, and it is of the ring and the operation named. -/
def ringRow (n op : Nat) (run : Taken → State → State) (s : State) : Host.Outcome State Fault Refusal :=
  .next (match s.nextCommand with
    | some t =>
      if t.ring = n ∧ t.op = op then
        run t { s with hub := { s.hub with
          taken := s.hub.taken.map fun u => if u.id = t.id then { u with started := true } else u } }
      else s
    | none => s)

/-- Level of a ring's commands. -/
def State.ringLevel (s : State) (n : Nat) : Nat := s.rget Ring.PRIV n

/-- Bytes of a body that an operation does not use are 0. -/
def Taken.idleFrom (t : Taken) (n : Nat) : Bool := (t.body.drop n).all fun b => b == 0

/-- KEEP_PLANES, which only an ENABLE carries. -/
def Taken.keep (t : Taken) : Bool := bit t.flags 1

/-- NOP. -/
def execNop (ring : Nat) (s : State) : Host.Outcome State Fault Refusal :=
  ringRow ring opNop (fun t s =>
    if t.bad || t.keep || t.handle != 0 || !t.idleFrom 0 then s.refuseEntry t 0x04 else s.finishCmd t.id t.handle 0) s

/-- Does a launch name a context of level 1? -/
def State.launchLevel (s : State) (t : Taken) : Nat :=
  match s.resolve .context (leField t.body 0 4) with
  | some c => s.rget Ctx.PRIV c
  | none => 0

/-- LAUNCH: the hub's checks follow in LAUNCH_ADMIT. -/
def execLaunch (ring : Nat) (s : State) : Host.Outcome State Fault Refusal :=
  ringRow ring opLaunch (fun t s =>
    if s.ringLevel ring < s.launchLevel t then s.refuseEntry t 0x02
    else if t.bad || t.keep || t.handle != 0 then s.refuseEntry t 0x04
    else s.addLaunch (launchOf none (some t.id) t.body)) s

/-- CREATE. -/
def execCreate (ring : Nat) (s : State) : Host.Outcome State Fault Refusal :=
  ringRow ring opCreate (fun t s =>
    let index := leField t.body 1 2
    match Kind.ofCode (leField t.body 0 1) with
    | none => s.refuseEntry t 0x04
    | some k =>
      if t.bad || t.keep || !t.idleFrom 3 || !k.created || (index != 0xFFFF && decide (k.size ≤ index)) then s.refuseEntry t 0x04
      else match s.create k index with
        | .error code => s.finishCmd t.id t.handle code
        | .ok (h, s) => s.finishCmd t.id h 0) s

/-- CTL levels of R471. -/
def Kind.ctlLevel : Kind → Nat
  | .partition | .farPort | .trace => 1
  | .context | .channel | .round | .sample | .binding | .ring => 0

/-- Level that an object asks of a CTL command. -/
def State.objectLevel (s : State) (k : Kind) (i : Nat) : Nat :=
  let c := match k, k.ctxFld with
    | .context, _ => s.rget Ctx.PRIV i
    | _, some f => s.rget Ctx.PRIV (s.rget f i)
    | _, none => 0
  max c (if k = .sample ∧ s.sampleOpen i = false then 1 else 0)

/-- A command on a function: the level, the entry, the handle, then what the command does. -/
def ctlRow (n op : Nat) (run : Kind → Nat → Taken → State → State) (s : State) : Host.Outcome State Fault Refusal :=
  ringRow n op (fun t s =>
    match Kind.ofCode (bits t.handle 28 4) with
    | none => if t.bad || !t.idleFrom 0 then s.refuseEntry t 0x04 else s.finishCmd t.id t.handle 0x10
    | some k =>
      let i := s.resolve k t.handle
      let need := max k.ctlLevel ((i.map fun i => s.objectLevel k i).getD 0)
      if s.ringLevel n < need then s.refuseEntry t 0x02
      else if t.bad || !t.idleFrom 0 || k == .ring || (t.keep && op != opEnable) || (op == opDestroy && !k.created) then
        s.refuseEntry t 0x04
      else match i with
        | none => s.finishCmd t.id t.handle 0x10
        | some i => run k i t s) s

/-- A command completes at once, or waits on its function. -/
def State.settleCtl (r : Option Nat × State) (k : Kind) (i : Nat) (t : Taken) (enable : Bool) : State :=
  match r.1 with
  | some code => r.2.finishCmd t.id t.handle code
  | none => r.2.waitOn k i (some t.id) enable

/-- ENABLE. -/
def execEnable (ring : Nat) (s : State) : Host.Outcome State Fault Refusal :=
  ctlRow ring opEnable (fun k i t s => State.settleCtl (s.enable k i (s.ringLevel ring) t.keep) k i t true) s

/-- DISABLE. -/
def execDisable (ring : Nat) (s : State) : Host.Outcome State Fault Refusal :=
  ctlRow ring opDisable (fun k i t s => State.settleCtl (s.disable k i) k i t false) s

/-- DESTROY. -/
def execDestroy (ring : Nat) (s : State) : Host.Outcome State Fault Refusal :=
  ctlRow ring opDestroy (fun k i t s =>
    match s.destroy k i with
    | (code, s) => s.finishCmd t.id t.handle (code.getD 0)) s

/-- CAST: CONTENT, DEST, SIGN and the destination as bytes of the body. -/
def execCast (ring : Nat) (s : State) : Host.Outcome State Fault Refusal :=
  ringRow ring opCast (fun t s =>
    let content := leField t.body 0 2
    let dest := leField t.body 2 1
    let sign := leField t.body 3 1
    let addr := leField t.body 8 8
    if s.ringLevel ring = 0 then s.refuseEntry t 0x02
    else if t.bad || t.keep || decide (1024 ≤ content) || decide (3 < dest) || decide (1 < sign) || leField t.body 4 4 != 0 ||
        !t.idleFrom 16 || !s.castTarget dest addr then s.refuseEntry t 0x04
    else match s.resolve .context t.handle with
      | none => s.finishCmd t.id t.handle 0x10
      | some c => match s.castRefusal c content with
        | some code => s.finishCmd t.id t.handle code
        | none => s.addCast (castJob c (content + 1024 * dest + 4096 * sign) addr none (some t.id))) s

/-! ## Completion entries (14, R465, R468) -/

/-- A message of a ring, when IRQ_EN allows one, as entries and time ask for it. -/
def State.signalRing (s : State) (n : Nat) : State :=
  { s.sendMsix (s.rget Ring.VECTOR n) with hub := { s.hub with unsignalled := del n s.hub.unsignalled } }

/-- An entry has been posted to a ring. -/
def State.noteEntry (s : State) (n : Nat) : State :=
  let (k, t) := lookD n (0, s.now) s.hub.unsignalled
  let s : State := { s with hub := { s.hub with unsignalled := put n (k + 1, t) s.hub.unsignalled } }
  if s.rbit Ring.IRQ_EN n && (decide (max 1 (s.rget Ring.MOD_COUNT n) ≤ k + 1) || s.rget Ring.MOD_TIME n == 0) then s.signalRing n
  else s

/-- Write an entry of 16 bytes, but for its PHASE. -/
def State.postEntry (s : State) (n tag handle reason kind state ring : Nat) : State :=
  let tail := s.rget Ring.CPL_TAIL n
  let phase := 1 - tail / s.cplSize n % 2
  let bs := toBytes 4 tag ++ toBytes 4 handle ++ toBytes 1 reason ++ toBytes 1 kind ++ toBytes 1 state ++ toBytes 1 phase ++
    toBytes 2 ring ++ [0, 0]
  ((s.store (hostBase + s.rget Ring.CPL_BASE n + 16 * (tail % s.cplSize n)) bs false).rwrap Ring.CPL_TAIL n).noteEntry n

/-- COMPLETION_POST: the oldest completion of a ring, when its ring has room and the link is up. -/
def execCompletionPost (ring : Nat) (s : State) : Host.Outcome State Fault Refusal :=
  .next (match s.hub.completions.find? fun c => c.ring == ring with
    | none => s
    | some c =>
      if s.cplRoom ring && s.linkUp then
        ({ s with hub := { s.hub with completions := s.hub.completions.erase c } } : State).postEntry ring c.tag c.handle c.reason
          0 0 ring
      else s)

/-- FUNCTION_EVENT_POST: the oldest function event goes to the ring of HUB_EVT_CTRL. -/
def execFunctionEventPost (s : State) : Host.Outcome State Fault Refusal :=
  .next (match s.hub.events with
    | [] => s
    | e :: rest =>
      let n := s.rget EvtCtrl.RING
      if s.rbit EvtCtrl.EN && s.isOn .ring n && s.cplRoom n && s.linkUp then
        ({ s with hub := { s.hub with events := rest } } : State).postEntry n 0xFFFFFFFF e.handle e.reason 1 e.state 0xFFFF
      else s)

/-- INTERRUPT_MODERATION_TIMEOUT: MOD_TIME after the first unsignalled entry. -/
def execInterruptModerationTimeout (ring : Nat) (s : State) : Host.Outcome State Fault Refusal :=
  .next (match look ring s.hub.unsignalled with
    | none => s
    | some (_, t) =>
      if s.rbit Ring.IRQ_EN ring && decide (t + 1000 * s.rget Ring.MOD_TIME ring ≤ s.now) then s.signalRing ring else s)

/-! ## Enabling a ring by its register (14, R461, R472) -/

/-- A write of ENABLE or DISABLE. -/
def State.ringControl (s : State) (n : Nat) (on : Bool) : State :=
  match if on then s.enable .ring n 1 false else s.disable .ring n with
  | (some 0, s) => s
  | (some code, s) => s.rput Ring.LAST_REASON n code
  | (none, s) => s.waitOn .ring n none on

end Sys2Proof.Machine
end

