-- ==== Sys2Proof/Machine/BarMap.lean ====
section
/-!
DEFINITION. BAR0 (14, R447, R448): where each register, entry, window and counter lies, and what a read of it shows. The
fields that report what a unit holds are computed when they are read.
-/
namespace Sys2Proof.Machine

/-! ## Places -/

/-- What an aligned 64-bit word of BAR0 is: a word of an entry, a word of the data window of a table, a doorbell, two
words of coding slots, a word of the MSI-X pending bits, of an error record or of the identity key; a write-only word of
the time base or of the trace; a word of the CXL component registers; or reserved. -/
inductive BarPlace where
  | reg (t : Tab) (i word : Nat)
  | window (t : Tab) (word : Nat)
  | doorbell (n : Nat) (head : Bool)
  | slots (unit i word : Nat)
  | pba (word : Nat)
  | log (i word : Nat)
  | identity (word : Nat)
  | adjust
  | mark
  | component
  | empty
  deriving DecidableEq, Repr

/-- What lies in a block of places. -/
inductive Target where
  /-- Entries of a table from an index on. -/
  | tab (t : Tab) (first : Nat)
  | window (t : Tab)
  | doorbells
  | slots (unit first : Nat)
  | pba
  | log
  | identity
  | adjust
  | mark
  | component
  deriving DecidableEq, Repr

/-- A block: `count` places of `bytes` bytes, `stride` bytes apart. -/
structure BarBlock where
  base   : Nat
  stride : Nat
  count  : Nat
  bytes  : Nat
  target : Target
  deriving DecidableEq, Repr

/-- The place of word `w` of entry `k` of a block. -/
def BarBlock.at_ (b : BarBlock) (k w : Nat) : BarPlace :=
  match b.target with
  | .tab t first => .reg t (first + k) w
  | .window t => .window t w
  | .doorbells => .doorbell k (w == 1)
  | .slots unit first => .slots unit (first + k) w
  | .pba => .pba w
  | .log => .log k w
  | .identity => .identity w
  | .adjust => .adjust
  | .mark => .mark
  | .component => .component

/-- The place of an offset that a block holds. -/
def BarBlock.hit (b : BarBlock) (off : Nat) : Option BarPlace :=
  if b.base ≤ off ∧ off < b.base + b.stride * b.count ∧ (off - b.base) % b.stride < b.bytes then
    some (b.at_ ((off - b.base) / b.stride) ((off - b.base) % b.stride / 8))
  else none

/-- One register of 64 bits. -/
def word1 (base : Nat) (t : Tab) : BarBlock := ⟨base, 8, 1, 8, .tab t 0⟩

/-- Blocks of the hub die. -/
def hubBlocks : List BarBlock :=
  [ word1 0x0 .hubIdent, word1 0x8 .hubRwlRefused, word1 0x100 .hubD2d, word1 0x200 .censusSum, word1 0x400 .hubLink ] ++
  [ word1 0x500 .evtStatus, word1 0x508 .evtEnable, word1 0x510 .evtCtrl, ⟨0x2000, 16, 1024, 16, .tab .census 0⟩ ] ++
  [ word1 0x7000 .scrub |> fun b => { b with target := .tab .scrub 4 }, ⟨0x8000, 0x40, 16, 64, .tab .memDev 16⟩ ] ++
  [ ⟨0x10000, 16, 2048, 16, .tab .msix 0⟩, ⟨0x18000, 256, 1, 256, .pba⟩, ⟨0x20000, 0x10000, 1, 0x10000, .component⟩ ]

/-- Blocks of the context and queue windows. -/
def queueBlocks : List BarBlock :=
  [ word1 0x100000 .ctxSel, ⟨0x100080, 128, 1, 128, .window .ctx⟩, word1 0x100200 .gauSel ] ++
  [ ⟨0x100280, 128, 1, 128, .window .gauge⟩, word1 0x100300 .gauRung, word1 0x100400 .bindSel ] ++
  [ ⟨0x100480, 128, 1, 128, .window .bind⟩, word1 0x100500 .colSel, ⟨0x100580, 64, 1, 64, .window .colStep⟩ ] ++
  [ ⟨0x140000, 0x40, 128, 64, .tab .ring 0⟩, ⟨0x180000, 0x1000, 128, 16, .doorbells⟩ ]

/-- Blocks of the fabric, the wellhead and the cistern. -/
def unitBlocks : List BarBlock :=
  [ word1 0x200000 .chanSel, ⟨0x200080, 128, 1, 128, .window .chan⟩, word1 0x200100 .fabId, word1 0x200108 .fabArb ] ++
  [ ⟨0x210000, 0x40, 32, 64, .tab .fabPort 0⟩, ⟨0x220000, 8, 16384, 8, .tab .fabRoute 0⟩ ] ++
  [ word1 0x300000 .roundSel, ⟨0x300080, 128, 1, 128, .window .round⟩, ⟨0x300800, 0x100, 2, 128, .tab .whdPort 0⟩ ] ++
  [ ⟨0x301000, 0x40, 64, 64, .tab .partner 0⟩ ] ++
  [ word1 0x400000 .cisStatus, word1 0x400008 .cisCtrl, word1 0x400010 .cisWear, word1 0x400018 .cisWritten ] ++
  [ word1 0x400020 .cisNand, word1 0x400100 .cisOp, word1 0x400108 .cisOpAddr, word1 0x400110 .cisOpLen ] ++
  [ word1 0x400118 .cisOpArg, word1 0x401000 .mouldSel, ⟨0x401080, 64, 1, 64, .window .mould⟩ ]

/-- Blocks of power, time base, observability, reliability and security. -/
def serviceBlocks : List BarBlock :=
  [ word1 0x500000 .pwrInput, word1 0x500008 .pwrCap, word1 0x500010 .pwrStatus, ⟨0x500100, 0x20, 32, 32, .tab .pwrRegion 0⟩ ] ++
  [ word1 0x501000 .tbsTime, word1 0x501008 .tbsStatus, ⟨0x501010, 8, 1, 8, .adjust⟩ ] ++
  [ ⟨0x600010, 8, 1, 8, .mark⟩, ⟨0x600100, 56, 1, 56, .tab .moduleCnt 0⟩, ⟨0x601000, 0x40, 4, 64, .tab .trace 0⟩ ] ++
  [ word1 0x602000 .sampleSel, ⟨0x602080, 64, 1, 64, .window .sample⟩ ] ++
  [ word1 0x700000 .rasLog, word1 0x700010 .rasTest, ⟨0x701000, 0x40, 32, 64, .tab .part 0⟩, ⟨0x710000, 0x40, 1024, 64, .log⟩ ] ++
  [ word1 0x800000 .secBoot, word1 0x800008 .secFwBuild, word1 0x800010 .secState, word1 0x800100 .secOp ] ++
  [ word1 0x800108 .secOpAddr, word1 0x800110 .secOpLen, word1 0x800118 .secOpArg, ⟨0x801000, 512, 1, 512, .identity⟩ ]

/-- Blocks of region `g`, at offsets within the region. -/
def regionBlocks (g : Nat) : List BarBlock :=
  [ ⟨0x100, 16, 1, 16, .tab .tsqSplit g⟩, ⟨0x2000, 0x80, 32, 72, .tab .tileCnt (32 * g)⟩ ] ++
  [ ⟨0x3000, 32, 1, 32, .tab .regionCnt g⟩, ⟨0x10000, 0x20, 32, 32, .slots 0 (32 * g)⟩ ] ++
  [ ⟨0x20000, 8, 1, 8, .tab .upuLend g⟩, ⟨0x20008, 8, 1, 8, .tab .upuStatus g⟩ ] ++
  [ ⟨0x20010, 8, 1, 8, .tab .upuAudit g⟩, ⟨0x20040, 32, 1, 32, .slots 3 g⟩ ]

/-- Blocks of die `d`, at offsets within the die. -/
def dieBlocks (d : Nat) : List BarBlock :=
  [ ⟨0x200000, 0x40, 4, 64, .tab .memDev (4 * d)⟩, ⟨0x200400, 8, 1, 8, .tab .scrub d⟩ ] ++
  [ ⟨0x200800, 8, 1, 8, .tab .tmvStatus d⟩, ⟨0x201000, 56, 1, 56, .tab .dieCnt d⟩ ]

/-- The size of BAR0 (14, R447). -/
def barBytes : Nat := 0x4000000

/-- The place of the word at an offset. -/
def placeOf (off : Nat) : BarPlace :=
  let find := fun (bs : List BarBlock) (o : Nat) => (bs.findSome? fun b => b.hit o).getD .empty
  if off < 0x100000 then find hubBlocks off
  else if off < 0x200000 then find queueBlocks off
  else if off < 0x500000 then find unitBlocks off
  else if off < 0x1000000 then find serviceBlocks off
  else if off < 0x2000000 then
    let d := (off - 0x1000000) / 0x400000
    let o := (off - 0x1000000) % 0x400000
    if o < 0x200000 then find (regionBlocks (8 * d + o / 0x40000)) (o % 0x40000) else find (dieBlocks d) o
  else .empty

/-! ## Data windows (02, R62, R63) -/

/-- The selector of a data window: its INDEX, its REFRESH, and how many entries there are. -/
def selector (t : Tab) : Option (Fld × Fld × Nat) :=
  match t with
  | .ctx => some (CtxSel.INDEX, CtxSel.REFRESH, 65536)
  | .gauge => some (GauSel.INDEX, GauSel.REFRESH, 16384)
  | .bind => some (BindSel.INDEX, BindSel.REFRESH, 8192)
  | .colStep => some (ColSel.INDEX, ColSel.REFRESH, 65536)
  | .chan => some (ChanSel.INDEX, ChanSel.REFRESH, 32768)
  | .round => some (RoundSel.INDEX, RoundSel.REFRESH, 64)
  | .mould => some (MouldSel.INDEX, MouldSel.REFRESH, 4096)
  | .sample => some (SampleSel.INDEX, SampleSel.REFRESH, 64)
  | _ => none

/-- The kind of the objects of a window. -/
def windowKind (t : Tab) : Option Kind :=
  match t with
  | .ctx => some .context
  | .bind => some .binding
  | .chan => some .channel
  | .round => some .round
  | .sample => some .sample
  | _ => none

/-! ## Fields that report (02, R57; 03, R119; 04, R155; 07, R253; 11, R371; 16, R525, R527; 17, R540, R549, R554) -/

/-- Tiles neither retired nor fused off. -/
def State.tilesLive (s : State) : Nat :=
  ((List.range 1024).filter fun t => !s.rbit Census.RETIRED t && !s.rbit Census.FUSED_OFF t).length

/-- A signed number held to the range of 32 bits without the most negative one. -/
def clamp32 (v : Int) : Nat := wrapInt 32 (max (-(2 ^ 31 - 1 : Nat)) (min ((2 ^ 31 - 1 : Nat) : Int) v))

/-- Commands in one of the two queues of a die's tier mover (11, R368, R371). -/
def State.tierQueue (s : State) (d : Nat) (hint : Bool) : Nat :=
  (s.tierMoves d hint).length + (if hint then s.hintStages d else s.demandFetches d).length

/-- The superblock blocks' average erase count. -/
def State.eraseAvg (s : State) : Nat := (s.cistern.sbs.foldl (fun n e => n + e.2.erases) 0) / sbCount

/-- HIGH_SVN, 255 while the SVN record is lost (15, R491). -/
def State.highSvn (s : State) : Nat := if s.copiesOf .svn = 0 then 255 else s.cistern.highSvn

/-- The wave rate of a region in Mwave/s: at a junction temperature it never falls when the supply rises, and at 720 mV and
75 °C it is at least the guaranteed rate (00, R2; 17, R589). -/
def rateAt (g : Nat) (tj : Nat) : Nat → Nat
  | 0 => Config.waveRate g 0 tj
  | v + 1 =>
    let r := max (rateAt g tj v) (Config.waveRate g (v + 1) tj)
    if v + 1 = 720 ∧ tj = 75 then max 1600 r else r

/-- What the reporting fields of a table's entry show. -/
def State.reported (s : State) (t : Tab) (i : Nat) : List (Fld × Nat) :=
  match t with
  | .ctx => [(Ctx.LIVE_THREADS, s.liveThreads i)]
  | .gauRung =>
    let r := s.rungOf (s.rget GauRung.INDEX)
    [(GauRung.RUNG, r.rung), (GauRung.PENDING, b2n r.pending.isSome), (GauRung.PROMOTIONS, r.promotions)]
  | .censusSum =>
    [ (CensusSum.COLUMNS, (List.range 1024).foldl (fun n t => n + s.rget Census.W t) 0), (CensusSum.TILES_LIVE, s.tilesLive),
      (CensusSum.ANY_PENDING, b2n ((List.range 1024).any fun t => s.rbit Census.PENDING t)) ]
  | .tsqSplit =>
    [(TsqSplit.AUDIT_HELD, b2n (s.rbit TsqSplit.MODE i && s.ras.audits.any fun a => a.by_ / 32 == i && s.role a.by_ == 3))]
  | .upuStatus =>
    [ (UpuStatus.SUMP_BYTES, s.sumpUsed i), (UpuStatus.STATE_BYTES, stagedBytes s i s.update.staged),
      (UpuStatus.LENDING, b2n (s.lending i)),
      (UpuStatus.ROOT_BUSY, b2n (s.update.roots.any fun e => !e.2.done && s.shardRegion e.1.1 e.1.2 == i)) ]
  | .tmvStatus => [(TmvStatus.DEMAND, s.tierQueue i false), (TmvStatus.HINT, s.tierQueue i true),
      (TmvStatus.BUSY, b2n ((s.tierMoves i false ++ s.tierMoves i true).any EngCmd.started))]
  | .memDev => [(MemDev.TEMP, if 8 ∈ s.security.orders then Config.deviceTemp i s.now else 0)]
  | .cisStatus =>
    [ (CisStatus.STATE, s.cisState), (CisStatus.PATROL_BUSY, b2n s.patrolBusy),
      (CisStatus.OPEN_WRITES, s.cis.writes.length), (CisStatus.FREE_ENTRIES, 4096 - s.cistern.used.length),
      (CisStatus.FREE_SB, s.freeSb) ]
  | .cisWear =>
    [ (CisWear.PERCENT_USED, min 255 (s.eraseAvg * 100 / 3000)), (CisWear.SPARE_PERCENT, s.freeReserve * 100 / sbReserve),
      (CisWear.ERASE_MAX, s.cistern.sbs.foldl (fun n e => max n e.2.erases) 0), (CisWear.ERASE_AVG, s.eraseAvg),
      (CisWear.GROWN_BAD, min 65535 s.cistern.grown) ]
  | .cisWritten => [(CisWritten.ALL, s.cistern.written / 2 ^ 30)]
  | .cisNand => [(CisNand.ALL, s.cistern.nand / 2 ^ 30)]
  | .pwrRegion =>
    [ (PwrRegion.LIMITER, s.limiter i),
      (PwrRegion.RATE, if s.rbit PwrRegion.STOPPED i then 0
        else rateAt i (s.rget PwrRegion.TJ i) (s.rget PwrRegion.VAPPLIED i)) ]
  | .pwrStatus =>
    [(PwrStatus.ALERT, b2n (s.rbit PwrStatus.LOW_INPUT || s.rbit PwrStatus.HIGH_INPUT || s.rbit PwrStatus.CAP_UNMET ||
      s.rbit PwrStatus.THERMAL_ACTIVE))]
  | .tbsStatus => [(TbsStatus.REMAINING, clamp32 s.power.pending)]
  | .secState =>
    [ (SecState.SVN_FLOOR, s.fuses.svnFloor), (SecState.EPOCH, s.fuses.epoch), (SecState.SEAL_BROKEN, b2n s.fuses.broken),
      (SecState.HIGH_SVN, s.highSvn) ]
  | _ => []

/-- What a field of an entry shows. -/
def State.shown (s : State) (f : Fld) (i : Nat) : Nat :=
  match (s.reported f.tab i).find? fun e => e.1.lo == f.lo with
  | some e => e.2 % 2 ^ f.len
  | none => s.rget f i

/-- The bits of an entry as a read shows them; write-only fields read 0 (00). -/
def State.image (s : State) (t : Tab) (i : Nat) : Nat :=
  t.fields.foldl (fun n f => n + (if f.acc = .wo then 0 else s.shown f i * 2 ^ f.lo)) 0

/-- A snapshot of the entry that a window's INDEX selects; an index beyond the table shows zeros (09, R305). -/
def State.snapshot (s : State) (t : Tab) : State :=
  match selector t with
  | none => s
  | some (f, _, n) =>
    let i := s.rget f
    { s with hub := { s.hub with snapshots := put t (if i < n then s.image t i else 0) s.hub.snapshots } }

/-! ## Reads -/

/-- The word of a coding slot (05, R178). -/
def State.slotWord (s : State) (unit i slot : Nat) : Nat × State :=
  let (n, s) := s.slotRefs (unit, i) slot
  (min 255 n * 2 ^ 16 + (match look ⟨unit, i, slot⟩ s.slots with
    | none => 0
    | some t => t.gen % 16 + 16 + (t.fmt % 16) * 32), s)

/-- An error record as its 64 bytes (13, R438). -/
def ErrRec.bytes (r : ErrRec) : List Byte :=
  toBytes 2 r.type ++ toBytes 1 r.severity ++ toBytes 1 r.reason ++ toBytes 4 r.context ++ toBytes 4 r.opid ++
  toBytes 1 r.partition ++ toBytes 1 r.die ++ toBytes 1 r.region ++ toBytes 1 r.cluster ++ toBytes 1 r.tile ++
  toBytes 1 r.column ++ toBytes 2 r.unit ++ toBytes 4 r.seq ++ toBytes 8 r.step ++ toBytes 8 r.time ++ toBytes 8 r.address ++
  toBytes 8 r.detail

/-- The modulus of the identity key, zeros while it is not available (15, R494). -/
def State.identityBytes (s : State) : List Byte :=
  if s.security.identity then padTo 512 (Config.identityModulus s.fuses.epoch) else List.replicate 512 0

/-- A word of a census entry. DESIGN CHOICE (log 125): all 16 bytes are of one instant (04, R154), that of the read of the lower
word; the next read of the upper word shows what it held then. -/
def State.censusWord (s : State) (i w : Nat) : Nat × State :=
  let e := s.image .census i
  if w = 0 then (bits e 0 64, { s with hub := { s.hub with latch := some (i, bits e 64 64) } })
  else match s.hub.latch with
    | some (j, v) => if j = i then (v, { s with hub := { s.hub with latch := none } }) else (bits e 64 64, s)
    | none => (bits e 64 64, s)

/-- An aligned 64-bit word of BAR0, and the state after the read: what CXL lays down of its component registers, and not
the spec, is a free value (log 57). DESIGN CHOICE (log 112): a data window that no write of its INDEX or REFRESH has filled shows
its first entry as reset leaves it (02, R63; 09, R305). -/
def State.barWord (s : State) (off : Nat) : Nat × State :=
  match placeOf off with
  | .reg .census i w => s.censusWord i w
  | .reg t i w => (bits (s.image t i) (64 * w) 64, s)
  | .window t w => (bits (lookD t (State.reset.image t 0) s.hub.snapshots) (64 * w) 64, s)
  | .slots u i w =>
    let (lo, s) := s.slotWord u i (2 * w)
    let (hi, s) := s.slotWord u i (2 * w + 1)
    (lo + 2 ^ 32 * hi, s)
  | .pba w => (packNat 1 ((List.range 64).map fun k => s.rget MsixPba.PENDING (64 * w + k)), s)
  | .log i w => (((look i s.rasLog).map fun r => leField r.bytes (8 * w) 8).getD 0, s)
  | .identity w => (leField s.identityBytes (8 * w) 8, s)
  | .component => (s.draw.1.toNat, s.draw.2)
  | .doorbell _ _ | .adjust | .mark | .empty => (0, s)

end Sys2Proof.Machine
end

