-- ==== Sys2Proof/Machine/Security.lean ====
section
/-!
DEFINITION. Identity, configuration and privileged operations (15): the firmware image and the configuration block, the
operations of SEC_OP, presence and the seal, debug access, and the SPDM responder.
-/
namespace Sys2Proof.Machine

/-- Update security. -/
def State.onSec (s : State) (f : Security → Security) : State := { s with security := f s.security }

/-- Has an order of the boot sequence completed? -/
def State.booted (s : State) (n : Nat) : Bool := decide (n ∈ s.security.orders)

/-- Is the module in host-load state (15, R489)? -/
def State.hostLoad (s : State) : Bool := s.rbit SecBoot.HOST_LOAD

/-! ## The firmware image (15, R487, R488) -/

/-- Are all bytes of a range 0? -/
def zeros (bs : List Byte) : Bool := bs.all fun b => b == 0

/-- The stepping as STEP_MIN and STEP_MAX code it. -/
def State.stepping (s : State) : Nat := s.rget HubIdent.STEP_MAJOR * 16 + s.rget HubIdent.STEP_MINOR

/-- The SVN of an image. -/
def imageSvn (img : List Byte) : Nat := leField img 10 1

/-- Do the fields of an image header fit? -/
def State.imageFits (s : State) (img : List Byte) : Bool :=
  let body := leField img 24 8
  decide (leField img 4 2 = 1 ∧ leField img 6 2 = 0x768 ∧ 1 ≤ body ∧ body ≤ 67108864 ∧ img.length = 1536 + body ∧
    leField img 8 1 ≤ s.stepping ∧ s.stepping ≤ leField img 9 1) &&
  zeros (slice img 11 5) && zeros (slice img 96 32) && zeros (slice img 644 380)

/-- Is an image authentic? -/
def imageAuthentic (img : List Byte) : Bool :=
  decide (sha512 (slice img 128 516) = Config.keyHash) &&
  Config.verify (slice img 128 512) (leField img 640 4) (slice img 0 1024) (slice img 1024 512) &&
  decide (sha512 (img.drop 1536) = slice img 32 64)

/-- Why an image is not valid: the first failing check. -/
def State.imageFault (s : State) (img : List Byte) : Option Nat :=
  if img.length < 1536 ∨ img.take 4 ≠ ascii "SVFW" then some 0x98
  else if !s.imageFits img then some 0x92
  else if !imageAuthentic img then some 0x93
  else if imageSvn img < s.fuses.svnFloor then some 0x94
  else none

/-- Why the image in the slot is not valid; the digest of a body with a lost codeword does not match (16, R513). -/
def State.slotFault (s : State) : Option Nat :=
  match s.imageFault (s.cistern.image.getD []) with
  | none => if s.cistern.imageLost then some 0x93 else none
  | some r => if s.cistern.imageLost && r == 0x94 then some 0x93 else some r

/-! ## The configuration block (15, R505, R506) -/

/-- Bytes of the block. -/
def cfgBytes : Nat := 65536

/-- A sound block of no entries. -/
def emptyBlock (writes : Nat) : List Byte :=
  let b := padTo 65528 (ascii "SVCF" ++ toBytes 2 1 ++ toBytes 2 0x768 ++ toBytes 4 0 ++ toBytes 4 writes)
  b ++ (sha512 b).take 8

/-- The stored block, none while it is erased or torn. -/
def CfgStore.bytes : CfgStore → Option (List Byte)
  | .empty n => some (emptyBlock n)
  | .block b => some b
  | .torn => none

/-- WRITES of the stored block. -/
def CfgStore.writes : CfgStore → Nat
  | .empty n => n
  | .block b => leField b 12 4
  | .torn => 0

/-- The bits of a 64-bit word whose fields are RW or RWL. -/
def writable (t : Tab) (w : Nat) : Nat :=
  packNat 1 ((List.range 64).map fun k => b2n (t.fields.any fun f =>
    (f.acc == .rw || f.acc == .rwl) && decide (f.lo ≤ 64 * w + k ∧ 64 * w + k < f.lo + f.len)))

/-- Blocks in which the configuration block may set registers. -/
def cfgArea (off : Nat) : Bool :=
  decide (off < 0x100000 ∨ (0x200000 ≤ off ∧ off < 0x400000) ∨ (0x500000 ≤ off ∧ off < 0x800000) ∨
    (0x1000000 ≤ off ∧ off < 0x2000000))

/-- Is an entry permitted? -/
def cfgPermitted (off mask : Nat) : Bool :=
  cfgArea off && decide (off % 8 = 0) &&
  match placeOf off with
  | .reg .msix _ _ | .pba _ | .component => false
  | .reg t _ w | .window t w => decide (mask &&& writable t w = mask)
  | .doorbell _ _ | .slots _ _ _ | .log _ _ | .identity _ | .adjust | .mark | .empty => mask == 0

/-- An entry of a block: OFFSET, MASK and VALUE, and whether it is permitted. -/
def cfgEntry (b : List Byte) (i : Nat) : Nat × Nat × Nat × Bool :=
  let o := 64 + 24 * i
  let off := leField b o 4
  let mask := leField b (o + 8) 8
  (off, mask, leField b (o + 16) 8, leField b (o + 4) 4 == 0 && cfgPermitted off mask)

/-- ENTRIES of a block. -/
def cfgCount (b : List Byte) : Nat := leField b 8 4

/-- Is a block sound? -/
def cfgSound (b : List Byte) : Bool :=
  decide (b.length = cfgBytes ∧ leField b 65528 8 = digest64 (b.take 65528) ∧ b.take 4 = ascii "SVCF" ∧
    leField b 4 2 = 1 ∧ leField b 6 2 = 0x768 ∧ cfgCount b ≤ 2727) &&
  zeros (slice b 16 48) && zeros (slice b (64 + 24 * cfgCount b) (65528 - (64 + 24 * cfgCount b))) &&
  (List.range (cfgCount b)).all fun i => (cfgEntry b i).2.2.2

/-! ## The operations of SEC_OP (15, R495 to R497) -/

def opFwUpdate : Nat := 1
def opCfgWrite : Nat := 2
def opCfgErase : Nat := 3
def opDebugUnlock : Nat := 4
def opRaiseFloor : Nat := 5
def opRekey : Nat := 6
def opFactoryRestore : Nat := 7

/-- SEC_OP_REFUSED. -/
def secRefusedRec : ErrRec := { type := 0x00D1, severity := 0, reason := 0x91, die := 4 }

/-- Do the registers lie within the limits of an operation? -/
def State.secLimits (s : State) (op addr len arg : Nat) : Bool :=
  if op = opFwUpdate then decide (addr % 4096 = 0 ∧ addr + len ≤ 2 ^ 47 ∧ 1536 < len ∧ len ≤ 1536 + 67108864)
  else if op = opCfgWrite then decide (addr + len ≤ 2 ^ 47 ∧ len = cfgBytes)
  else if op = opRaiseFloor then decide (s.fuses.svnFloor < arg ∧ arg ≤ s.rget SecBoot.FW_SVN)
  else decide (op = opCfgErase ∨ op = opDebugUnlock ∨ op = opRekey ∨ op = opFactoryRestore)

/-- The reason that an operation has at its START already, if it is refused there. -/
def State.secRefusal (s : State) (op addr len arg : Nat) : Option Nat :=
  if s.hostLoad ∧ op ≠ opFwUpdate then some 0x0A
  else if 4 ≤ op ∧ op ≤ 7 ∧ s.rbit SecState.PRESENCE = false then some 0x03
  else if !s.secLimits op addr len arg then some 0x95
  else none

/-- START of an operation while none runs. -/
def State.secStart (s : State) (op : Nat) : State :=
  let addr := s.rget SecOpAddr.ALL
  let len := s.rget SecOpLen.ALL
  let arg := s.rget SecOpArg.ALL
  (s.onSec fun c => { c with
    op := some ⟨op, addr, len, arg, s.secRefusal op addr len arg, s.rbit SecState.PRESENCE⟩ }).rput SecOp.BUSY 0 1

/-- The operation that runs, when it is `op` and has no reason yet. -/
def State.secRunning (s : State) (op : Nat) : Option OpRun := s.security.op.filter fun o => o.op == op && o.reason.isNone

/-- The operation that runs has its reason. -/
def State.secReason (s : State) (reason : Nat) : State :=
  s.onSec fun c => { c with op := c.op.map fun o => { o with reason := some reason } }

/-- Bytes that an operation reads from host memory with CXL.io requests, none where the read fails or returns poison. -/
def State.hostBytes (s : State) (a n : Nat) : Option (List Byte) :=
  if !s.linkUp || s.poisoned (hostBase + a) n then none else some (s.peek (hostBase + a) n)

/-- FW_UPDATED. -/
def fwUpdatedRec : ErrRec := { type := 0x00D6, severity := 0, reason := 0, die := 4 }

/-- Why an image that FW_UPDATE has read is not written. -/
def State.updateFault (s : State) (o : OpRun) (img : List Byte) : Option Nat :=
  match s.imageFault img with
  | some r => some r
  | none =>
    if imageSvn img < s.highSvn ∧ o.present = false then some 0x03
    else if s.cisState ≠ 0 then some 0x87
    else none

/-- Orders 3 to 6 of FW_UPDATE: the slot and then the SVN record are written. -/
def State.writeImage (s : State) (img : List Byte) : State :=
  ((s.onCistern fun c => { c with image := some img, imageLost := false }).countNand img.length).writeItem (.svn (imageSvn img))

/-- FW_UPDATE (15, R492). -/
def execFwUpdate (s : State) : Host.Outcome State Fault Refusal :=
  .next (match s.secRunning opFwUpdate with
    | none => s
    | some o => match s.hostBytes o.addr o.len with
      | none => s.secReason 0x97
      | some img =>
        let s := s.touch (hostBase + o.addr) o.len
        match s.updateFault o img with
        | some r => s.secReason r
        | none => ((s.writeImage img).logError fwUpdatedRec).secReason 0)

/-- CFG_WRITE (15, R508): a write that the cistern cannot complete leaves a block that fails its check word. -/
def execCfgWrite (s : State) : Host.Outcome State Fault Refusal :=
  .next (match s.secRunning opCfgWrite with
    | none => s
    | some o => match s.hostBytes o.addr o.len with
      | none => s.secReason 0x97
      | some b =>
        let s := s.touch (hostBase + o.addr) o.len
        if !cfgSound b then s.secReason 0x8D
        else if s.cisState ≠ 0 then (s.onCistern fun c => { c with cfg := .torn }).secReason 0x8E
        else ((s.onCistern fun c => { c with cfg := .block b }).countNand cfgBytes).secReason 0)

/-- CFG_ERASE: a valid block of no entries that keeps WRITES (log 60). -/
def execCfgErase (s : State) : Host.Outcome State Fault Refusal :=
  .next (match s.secRunning opCfgErase with
    | none => s
    | some _ =>
      if s.cisState ≠ 0 then (s.onCistern fun c => { c with cfg := .torn }).secReason 0x8E
      else ((s.onCistern fun c => { c with cfg := .empty c.cfg.writes }).countNand cfgBytes).secReason 0)

/-- DEBUG_UNLOCKED. -/
def unlockedRec : ErrRec := { type := 0x00D3, severity := 0, reason := 0x9A, die := 4 }

/-- DEBUG_UNLOCK. -/
def execDebugUnlock (s : State) : Host.Outcome State Fault Refusal :=
  .next (match s.secRunning opDebugUnlock with
    | none => s
    | some _ => ((s.rput SecState.DEBUG_UNLOCKED 0 1).logError unlockedRec).secReason 0)

/-- RAISE_FLOOR: SVN_FLOOR holds 255 steps, and ARG is at most FW_SVN. -/
def execRaiseFloor (s : State) : Host.Outcome State Fault Refusal :=
  .next (match s.secRunning opRaiseFloor with
    | none => s
    | some o =>
      if 255 < o.arg then s.secReason 0x96
      else ({ s with fuses := { s.fuses with svnFloor := o.arg } } : State).secReason 0)

/-- IDENTITY_REKEYED. -/
def rekeyedRec : ErrRec := { type := 0x00D4, severity := 0, reason := 0x9B, die := 4 }

/-- The identity key of the epoch is available and its wrapped copy is in the cistern, where the cistern takes it. -/
def State.holdKey (s : State) : State :=
  let s := s.onSec fun c => { c with identity := true }
  if s.cisState ≠ 0 then s else s.writeItem (.key (some s.fuses.epoch))

/-- The fuse of REKEY is burnt and certificate slot 1 erased; the old key is gone. -/
def State.burnEpoch (s : State) : State :=
  let s : State := { s with fuses := { s.fuses with epoch := s.fuses.epoch + 1 } }
  (s.writeBoth (.cert none)).onSec fun c => { c with identity := false }

/-- REKEY: EPOCH holds 15 steps. -/
def execRekey (s : State) : Host.Outcome State Fault Refusal :=
  .next (match s.secRunning opRekey with
    | none => s
    | some _ =>
      if 15 ≤ s.fuses.epoch then s.secReason 0x96
      else ((s.burnEpoch.holdKey).logError rekeyedRec).secReason 0)

/-- IDENTITY_KEY_DERIVED (15, R501): a missing key has been derived beside the boot. -/
def execIdentityKeyDerived (s : State) : Host.Outcome State Fault Refusal :=
  .next (if s.power.running && s.booted 5 && !s.security.identity then s.holdKey else s)

/-- FACTORY_RESTORED. -/
def restoredRec : ErrRec := { type := 0x00D5, severity := 0, reason := 0x9C, die := 4 }

/-- The body of a factory restore: mould writes in progress are aborted, and the configuration block, certificate slot 1
and every mould are discarded; then the pending mark goes. -/
def State.restore (s : State) : State :=
  let s := s.abortMoulds 0x8B
  let s := s.cistern.used.foldl (fun s i =>
    if s.rget Mould.STATE i = 2 ∨ s.rget Mould.STATE i = 3 then s.deleteMould i else s) s
  let s := ((s.onCistern fun c => { c with cfg := .torn }).writeBoth (.cert none)).writeBoth (.restore false)
  s.logError restoredRec

/-- FACTORY_RESTORE. -/
def execFactoryRestore (s : State) : Host.Outcome State Fault Refusal :=
  .next (match s.secRunning opFactoryRestore with
    | none => s
    | some _ => if s.cisState ≠ 0 then s.secReason 0x87 else (s.restore).secReason 0)

/-- The boot goes on at order 5 with the image that a load has left in the slot (15, R490). -/
def State.leaveHostLoad (s : State) : State :=
  let s := ((s.rput SecBoot.HOST_LOAD 0 0).rput HubLink.HOST_LOAD 0 0).setEvt Evt.HOST_LINK
  s.onSec fun c => { c with orders := c.orders ++ [4], image := s.cistern.image.getD [] }

/-- STAGE: the highest n such that orders 1 to n have completed. -/
def State.bootStage (s : State) : Nat :=
  (List.range 11).foldl (fun m n => if (List.range n).all (fun k => s.booted (k + 1)) then n else m) 0

/-- SEC_OP_COMPLETE. -/
def execSecOpComplete (s : State) : Host.Outcome State Fault Refusal :=
  .next (match s.security.op with
    | none => s
    | some o => match o.reason with
      | none => s
      | some r =>
        let s := (((s.onSec fun c => { c with op := none }).rput SecOp.BUSY 0 0).rput SecOp.REASON 0 r).setEvt Evt.SECURITY
        if s.hostLoad ∧ o.op = opFwUpdate ∧ r = 0 then
          let s := s.leaveHostLoad
          s.rput SecBoot.STAGE 0 s.bootStage
        else s)

/-! ## Presence and the seal (15, R498, R499) -/

/-- PRESENCE_ASSERT: PRES_N has been low for 50 ms. -/
def execPresenceAssert (s : State) : Host.Outcome State Fault Refusal :=
  .next (
    if s.power.running && s.booted 2 then
      (s.onSec fun c => { c with present := true }).rput SecState.PRESENCE 0 1
    else s)

/-- PRESENCE_DEASSERT: the window stays open for 30 s. -/
def execPresenceDeassert (s : State) : Host.Outcome State Fault Refusal :=
  .next (
    if s.security.present then s.onSec fun c => { c with present := false, windowEnd := s.now + 30000000000 } else s)

/-- PRESENCE_WINDOW_EXPIRE. -/
def execPresenceWindowExpire (s : State) : Host.Outcome State Fault Refusal :=
  .next (
    if !s.security.present && decide (s.security.windowEnd ≤ s.now) then s.rput SecState.PRESENCE 0 0 else s)

/-- SEAL_BROKEN. -/
def sealRec : ErrRec := { type := 0x00D2, severity := 0, reason := 0x99, die := 4 }

/-- SEAL_BROKEN: from order 2 on, a seal open for 1 ms burns the fuse. -/
def execSealBroken (s : State) : Host.Outcome State Fault Refusal :=
  .next (
    if s.power.running && s.booted 2 && !s.fuses.broken then
      (({ s with fuses := { s.fuses with broken := true } } : State).setEvt Evt.SECURITY).logError sealRec
    else s)

/-! ## Debug access (15, R500; 19, R574) -/

/-- Is any debug access granted? -/
def State.debugOpen (s : State) : Bool := s.power.running && (s.fuses.broken || s.rbit SecState.DEBUG_UNLOCKED)

/-- Is a request granted? Scan and the direct access to stores are deep debug. -/
def State.debugGrants (s : State) (r : DebugRequest) : Bool :=
  match r with
  | .halt | .resume | .step | .readMemory _ | .writeMemory _ _ => s.debugOpen
  | .scan _ | .store _ => s.power.running && s.fuses.broken

/-- DEBUG_ACCESS: a request that is granted reaches the control processors, dies or stores; any other is ignored. -/
def execDebugAccess (r : DebugRequest) (s : State) : Host.Outcome State Fault Refusal :=
  .next (
    if s.debugGrants r then
      s.onSec fun c => { c with
        debug := c.debug ++ [r]
        halted := match r with
          | .halt => true
          | .resume => false
          | _ => c.halted }
    else s)

/-- DEBUG_HALT: DBG_RST_N goes low or high. -/
def execDebugHalt (low : Bool) (s : State) : Host.Outcome State Fault Refusal :=
  .next (
    if s.debugOpen then s.onSec fun c => { c with dbgLow := low, halted := low } else s.onSec fun c => { c with dbgLow := low })

/-- DYNAMIC_ADDRESS_ASSIGNMENT (19, R576). -/
def execDynamicAddressAssignment (addr : BitVec 7) (s : State) : Host.Outcome State Fault Refusal :=
  .next (if s.power.running then s.onSec fun c => { c with i3c := addr.toNat } else s)

end Sys2Proof.Machine
end

