-- ==== Sys2Proof/Machine/Registers.lean ====
section
/-!
DEFINITION. Register writes and reads (00, R10, R11, R583; 14, R447; 15, R484): the fields of a word by their access codes,
the refusals, what particular registers do when they are written, and SYSRD and SYSWR (12, R413).
-/
namespace Sys2Proof.Machine

/-! ## The owner of RWL fields (00, R11) -/

/-- Objects of a kind that are allocated. -/
def State.objects (s : State) (k : Kind) : List Nat := (s.hub.allocated.filter fun e => decide (e.1 = k)).map Prod.snd

/-- Is the owning function of an entry OFF? A gauge entry belongs to the contexts whose range holds it, a region's
registers to its partition, FAB_ID to all channels, and a partner to the round engine bindings that name its site. -/
def State.ownerOff (s : State) (t : Tab) (i : Nat) : Bool :=
  match t with
  | .ctx => s.fstate .context i == 0
  | .chan => s.fstate .channel i == 0
  | .part => s.fstate .partition i == 0
  | .whdPort => s.fstate .farPort i == 0
  | .round => s.fstate .round i == 0
  | .trace => s.fstate .trace i == 0
  | .sample => s.fstate .sample i == 0
  | .bind => s.fstate .binding i == 0
  | .ring => s.fstate .ring i == 0
  | .gauge => (s.objects .context).all fun c => s.fstate .context c == 0 ||
      decide (i < s.rget Ctx.GAUGE_BASE c ∨ s.rget Ctx.GAUGE_BASE c + s.rget Ctx.GAUGE_COUNT c ≤ i)
  | .tsqSplit | .upuLend | .pwrRegion => (s.partOfRegion i).isNone
  | .fabId => (s.objects .channel).all fun c => s.fstate .channel c == 0
  | .partner => (s.objects .round).all fun r => s.fstate .round r == 0 || !bit (s.rget Round.SITES r) i
  | _ => true

/-! ## Fields of a word -/

/-- A write of `n` bits of `v` at bit `lo` of an entry. -/
structure BarWrite where
  lo : Nat
  n  : Nat
  v  : Nat
  deriving DecidableEq, Repr

/-- Does a write cover a part of a field? -/
def BarWrite.covers (w : BarWrite) (f : Fld) : Bool := decide (f.lo < w.lo + w.n ∧ w.lo < f.lo + f.len)

/-- A field with the bits that a write covers replaced in `old`. -/
def BarWrite.into (w : BarWrite) (f : Fld) (old : Nat) : Nat :=
  let a := max f.lo w.lo
  let b := min (f.lo + f.len) (w.lo + w.n)
  if b ≤ a then old
  else old - bits old (a - f.lo) (b - a) * 2 ^ (a - f.lo) + bits w.v (a - w.lo) (b - a) * 2 ^ (a - f.lo)

/-- Is a one-bit field written 1? -/
def BarWrite.sets (w : BarWrite) (f : Fld) : Bool := w.into f 0 == 1

/-- Fields whose writes act beyond the register file, and which `afterWrite` writes. -/
def acting (f : Fld) : Bool :=
  f == PwrRegion.STOP || f == PwrRegion.CGATE || f == FabPort.DISABLE || f == GauRung.RUNG

/-- A tail beyond its head is not taken (13, R440; 18, R561, R566). -/
def State.takes (s : State) (f : Fld) (i v : Nat) : Bool :=
  let within := fun (len head tail : Nat) => decide ((v + 2 ^ len - tail) % 2 ^ len ≤ (head + 2 ^ len - tail) % 2 ^ len)
  if f = RasLog.TAIL then within 16 (s.rget RasLog.HEAD) (s.rget RasLog.TAIL)
  else if f = Sample.TAIL then within 32 (s.rget Sample.HEAD i) (s.rget Sample.TAIL i)
  else if f = Trace.EXP_TAIL then within 32 (s.rget Trace.EXP_HEAD i) (s.rget Trace.EXP_TAIL i)
  else true

/-- A write to one field by its access code; `off` says whether the owning function is OFF. -/
def State.writeFld (s : State) (off : Bool) (w : BarWrite) (i : Nat) (f : Fld) : State :=
  if !w.covers f || acting f then s
  else
    let old := s.rget f i
    match f.acc with
    | .ro | .wo => s
    | .rw => if s.takes f i (w.into f old) then s.rput f i (w.into f old) else s
    | .rwl => if off then s.rput f i (w.into f old) else s
    | .rw1c => s.rput f i (old - (old &&& w.into f 0))

/-- Would a write change an RWL field? -/
def State.changesRwl (s : State) (w : BarWrite) (t : Tab) (i : Nat) : Bool :=
  t.fields.any fun f => f.acc == .rwl && w.covers f && w.into f (s.rget f i) != s.rget f i

/-! ## Refused writes (00, R583) -/

/-- The tile that a write of RAS_TEST names. -/
def State.testTile (s : State) (w : BarWrite) : Nat := w.into RasTest.TILE (s.rget RasTest.TILE)

/-- The context and the rung that a write of GAU_RUNG names. -/
def State.rungTarget (s : State) (w : BarWrite) : Nat × Nat := (w.into GauRung.INDEX (s.rget GauRung.INDEX), w.into GauRung.RUNG 0)

/-- Why a write is refused with a code and changes nothing else. -/
def State.writeRefusal (s : State) (w : BarWrite) (t : Tab) (i : Nat) : Option Nat :=
  match t with
  | .part =>
    if w.sets Part.RESET && !(s.fstate .partition i == 1 || s.isOn .partition i || s.fstate .partition i == 3) then some 0x36 else none
  | .rasTest =>
    if w.sets RasTest.START && (s.rbit RasTest.BUSY || (s.partOfRegion (s.testTile w / 32)).isSome) then some 0x32 else none
  | .gauRung =>
    let (c, r) := s.rungTarget w
    if w.sets GauRung.SET && decide (s.fstate .context c ≠ 0 ∧ (r < s.rget Ctx.LADDER_LO c ∨ s.rget Ctx.LADDER_HI c < r)) then
      some 0x11
    else none
  | _ => none

/-! ## What a write does beyond its fields -/

/-- CLEAR_HISTORY of a gauge entry (03, R116): at once while its context is OFF, else at the next gate. -/
def State.clearHistoryNow (s : State) (e : Nat) : State :=
  if s.ownerOff .gauge e then s.clearHistory e
  else { s with tsq := { s.tsq with clearing := if e ∈ s.tsq.clearing then s.tsq.clearing else s.tsq.clearing ++ [e] } }

/-- A set of a context's rung that is not refused (03, R120). -/
def State.hostRung (s : State) (c r : Nat) : State :=
  let old := s.rungOf c
  if s.fstate .context c = 0 then s.setRung c { old with rung := r, pending := none }
  else s.setRung c { old with pending := some r }

/-- A write of HUB_EVT_STATUS that leaves an enabled bit set sends the message again (14, R469). -/
def State.evtAgain (s : State) : State :=
  if s.image .evtStatus 0 &&& s.rget EvtEnable.ALL ≠ 0 then s.sendMsix (s.rget EvtCtrl.VECTOR) else s

/-- A vector that is unmasked sends the message that waits for it. -/
def State.unmask (s : State) (v : Nat) : State :=
  if s.rbit MsixPba.PENDING v && !s.rbit Msix.MASK v then (s.rput MsixPba.PENDING v 0).sendMsix v else s

/-- A write of a region's supply and cluster gates by the owner's leave (17, R541, R542). -/
def State.supplyWrite (s : State) (w : BarWrite) (g : Nat) : State :=
  let s := if w.covers PwrRegion.STOP then s.setStop g (w.sets PwrRegion.STOP) else s
  if w.covers PwrRegion.CGATE then s.setCgate g (w.into PwrRegion.CGATE (s.rget PwrRegion.CGATE g)) else s

/-- What follows a write to entry `i` of a table. `old` is the state before it and `off` says whether the owner was OFF. -/
def State.afterWrite (s old : State) (off : Bool) (w : BarWrite) (t : Tab) (i : Nat) : State :=
  match t with
  | .ctxSel => if w.covers CtxSel.INDEX then s.snapshot .ctx else s
  | .gauSel => if w.covers GauSel.INDEX then s.snapshot .gauge else s
  | .bindSel => if w.covers BindSel.INDEX then s.snapshot .bind else s
  | .colSel => if w.covers ColSel.INDEX then s.snapshot .colStep else s
  | .chanSel => if w.covers ChanSel.INDEX then s.snapshot .chan else s
  | .roundSel => if w.covers RoundSel.INDEX then s.snapshot .round else s
  | .mouldSel => if w.covers MouldSel.INDEX then s.snapshot .mould else s
  | .sampleSel => if w.covers SampleSel.INDEX then s.snapshot .sample else s
  | .gauge => if w.sets Gau.CLEAR_HISTORY then s.clearHistoryNow i else s
  | .gauRung => if w.sets GauRung.SET then s.hostRung (old.rungTarget w).1 (old.rungTarget w).2 else s
  | .part => if w.sets Part.RESET then s.resetPartition i else s
  | .rasTest => if w.sets RasTest.START then s.beginTest (s.rget RasTest.TILE) else s
  | .evtStatus => s.evtAgain
  | .evtEnable =>
    let st := s.image .evtStatus 0
    if st &&& s.rget EvtEnable.ALL &&& (2 ^ 64 - 1 - (st &&& old.rget EvtEnable.ALL)) ≠ 0 then s.sendMsix (s.rget EvtCtrl.VECTOR) else s
  | .msix => s.unmask i
  | .cisOp => if w.sets CisOp.START then s.cisOpStart (s.rget CisOp.OP) else s
  | .secOp => if w.sets SecOp.START then s.secStart (s.rget SecOp.OP) else s
  | .trace => if w.sets Trace.ARM then s.armTrace i else s
  | .fabPort =>
    let s := if w.covers FabPort.DISABLE then s.disablePort i (w.sets FabPort.DISABLE) else s
    if w.sets FabPort.RETRAIN && decide (s.rget FabPort.STATE i ≠ 1 ∧ s.rget FabPort.STATE i ≠ 3) then s.retrainPort i else s
  | .fabId => if off && w.covers FabId.MODULE_ID then s.rput FabId.ID_SET 0 1 else s
  | .ring =>
    let s := if w.sets Ring.ENABLE then s.ringControl i true else s
    if w.sets Ring.DISABLE then s.ringControl i false else s
  | .pwrRegion => if off then s.supplyWrite w i else s
  | .tbsStatus => s.settleTime
  | _ => s

/-- A START while an operation runs changes nothing; SEC_OP records it (15, R496; 16, R529). -/
def State.startBusy (s : State) (w : BarWrite) (t : Tab) : Option State :=
  match t with
  | .secOp => if w.sets SecOp.START && s.rbit SecOp.BUSY then some (s.logError secRefusedRec) else none
  | .cisOp => if w.sets CisOp.START && s.rbit CisOp.BUSY then some s else none
  | _ => none

/-- A write to an entry: refused with a code, or taken field by field, counted when it would change an RWL field of a
function that is not OFF. -/
def State.writeEntry (s : State) (w : BarWrite) (t : Tab) (i : Nat) : State :=
  match s.writeRefusal w t i, s.startBusy w t with
  | some code, _ => s.refuse code
  | none, some s => s
  | none, none =>
    let off := s.ownerOff t i
    let s' := if !off && s.changesRwl w t i then s.rinc HubRwlRefused.COUNT else s
    (t.fields.foldl (fun s f => s.writeFld off w i f) s').afterWrite s off w t i

/-- A write of `width` bytes to BAR0 by the host, a thread or the firmware. -/
def State.barWrite (s : State) (off width v : Nat) : State :=
  let lo := 8 * (off % 8)
  let n := 8 * width
  let word := v % 2 ^ n * 2 ^ lo
  match placeOf (off - off % 8) with
  | .reg t i w => s.writeEntry ⟨64 * w + lo, n, v % 2 ^ n⟩ t i
  | .window t w =>
    match selector t with
    | none => s
    | some (f, _, size) =>
      let i := s.rget f
      if size ≤ i then s
      else if ((windowKind t).map fun k => s.isAllocated k i).getD true then s.writeEntry ⟨64 * w + lo, n, v % 2 ^ n⟩ t i
      else s.refuse 0x10
  | .doorbell k head =>
    if lo ≠ 0 then s else if head then s.cplDoorbell k (v % 2 ^ 32) else s.cmdDoorbell k (v % 2 ^ 32)
  | .adjust => s.adjust word
  | .mark =>
    let s := s.hostTrigger (bits word 0 4)
    if bit word 4 then s.hostMark (bits word 32 32) else s
  | .slots _ _ _ | .pba _ | .log _ _ | .identity _ | .component | .empty => s

/-! ## The host (14, R447; 15, R484) -/

/-- Does a host access reach BAR0? -/
def State.barOpen (s : State) : Bool := s.power.running && s.linkUp

/-- Is an offset in the SEC block? -/
def inSec (off : Nat) : Bool := decide (0x800000 ≤ off ∧ off < 0x1000000)

/-- A ring enable before READY is refused with 0x0A, reported in the ring's LAST_REASON. -/
def State.earlyWrite (s : State) (off width v : Nat) : State :=
  match placeOf (off - off % 8) with
  | .reg .ring i w =>
    if (BarWrite.mk (64 * w + 8 * (off % 8)) (8 * width) (v % 2 ^ (8 * width))).sets Ring.ENABLE then s.rput Ring.LAST_REASON i 0x0A else s
  | _ => s

/-- A host write: 4 or 8 bytes, naturally aligned. Before READY only the SEC block takes writes. -/
def State.hostWrite (s : State) (off width v : Nat) : State :=
  if !s.barOpen || !decide ((width = 4 ∨ width = 8) ∧ off % width = 0 ∧ off < barBytes) then s
  else if !s.rbit SecBoot.READY && !inSec off then s.earlyWrite off width v
  else s.barWrite off width v

/-- An effect of a host write to a register outside the SEC block. -/
def State.onHostWrite (s : State) (f : State → State) : State := if s.barOpen && s.rbit SecBoot.READY then f s else s

/-- A host read of an aligned word: its answer, and the fields that a host read clears. -/
def State.hostRead (s : State) (off : Nat) (clears : List Fld) : State :=
  if !s.barOpen then s
  else
    let (v, s) := s.barWord off
    let s : State := { s with link := { s.link with answer := some (toBytes 8 v, false) } }
    clears.foldl (fun s f => s.rput f 0 0) s

/-- REGISTER_WRITE. -/
def execRegisterWrite (off width : Nat) (v : Word) (s : State) : Host.Outcome State Fault Refusal :=
  .next (s.hostWrite off width v.toNat)

/-- HUB_RWL_REFUSED_READ (00, R583). -/
def execHubRwlRefusedRead (s : State) : Host.Outcome State Fault Refusal :=
  .next (s.hostRead 0x8 [HubRwlRefused.COUNT, HubRwlRefused.LAST_REFUSED])

/-- HUB_EVT_CTRL_READ (14, R470). -/
def execHubEvtCtrlRead (s : State) : Host.Outcome State Fault Refusal := .next (s.hostRead 0x510 [EvtCtrl.DROPPED])

/-- PWR_INPUT_READ (17, R549). -/
def execPwrInputRead (s : State) : Host.Outcome State Fault Refusal := .next (s.hostRead 0x500000 [PwrInput.PEAK])

/-- HUB_EVT_STATUS_WRITE (14, R469). -/
def execHubEvtStatusWrite (v : Word) (s : State) : Host.Outcome State Fault Refusal := .next (s.hostWrite 0x500 8 v.toNat)

/-! ## Selectors of the data windows (02, R62 and the rules that follow it) -/

def execTsqCtxSel (v : Word) (s : State) : Host.Outcome State Fault Refusal := .next (s.hostWrite 0x100000 8 v.toNat)
def execGauSel (v : Word) (s : State) : Host.Outcome State Fault Refusal := .next (s.hostWrite 0x100200 8 v.toNat)
def execUpuBindSel (v : Word) (s : State) : Host.Outcome State Fault Refusal := .next (s.hostWrite 0x100400 8 v.toNat)
def execColStepSel (v : Word) (s : State) : Host.Outcome State Fault Refusal := .next (s.hostWrite 0x100500 8 v.toNat)
def execFabChanSel (v : Word) (s : State) : Host.Outcome State Fault Refusal := .next (s.hostWrite 0x200000 8 v.toNat)
def execWhdRoundSel (v : Word) (s : State) : Host.Outcome State Fault Refusal := .next (s.hostWrite 0x300000 8 v.toNat)
def execCisMouldSel (v : Word) (s : State) : Host.Outcome State Fault Refusal := .next (s.hostWrite 0x401000 8 v.toNat)
def execObsSampleSel (v : Word) (s : State) : Host.Outcome State Fault Refusal := .next (s.hostWrite 0x602000 8 v.toNat)

/-! ## Writes with rows of their own -/

/-- CLEAR_HISTORY (03, R116). -/
def execClearHistory (entry : Nat) (s : State) : Host.Outcome State Fault Refusal :=
  .next (s.onHostWrite fun s => if entry < 16384 then s.clearHistoryNow entry else s)

/-- GAU_RUNG_SET (03, R120). -/
def execGauRungSet (v : Word) (s : State) : Host.Outcome State Fault Refusal := .next (s.hostWrite 0x100300 8 v.toNat)

/-- RAS_PART_RESET (13, R435). -/
def execRasPartReset (part : Nat) (s : State) : Host.Outcome State Fault Refusal :=
  .next (s.onHostWrite fun s =>
    if part < 32 then s.writeEntry ⟨Part.RESET.lo, 1, 1⟩ .part part else s)

/-- RAS_TEST_START (13, R442). -/
def execRasTestStart (v : Word) (s : State) : Host.Outcome State Fault Refusal := .next (s.hostWrite 0x700010 8 v.toNat)

/-- RAS_LOG_TAIL_WRITE (13, R440). -/
def execRasLogTailWrite (v : BitVec 16) (s : State) : Host.Outcome State Fault Refusal :=
  .next (s.onHostWrite fun s => s.writeEntry ⟨RasLog.TAIL.lo, 16, v.toNat⟩ .rasLog 0)

/-- PWR_REGION_STOP (17, R541). -/
def execPwrRegionStop (region : Nat) (v : Bool) (s : State) : Host.Outcome State Fault Refusal :=
  .next (s.onHostWrite fun s =>
    if region < 32 then s.writeEntry ⟨PwrRegion.STOP.lo, 1, b2n v⟩ .pwrRegion region else s)

/-- PWR_REGION_CGATE (17, R542). -/
def execPwrRegionCgate (region : Nat) (mask : Byte) (s : State) : Host.Outcome State Fault Refusal :=
  .next (s.onHostWrite fun s =>
    if region < 32 then s.writeEntry ⟨PwrRegion.CGATE.lo, 8, mask.toNat⟩ .pwrRegion region else s)

/-- TBS_ADJ (17, R553). -/
def execTbsAdj (v : Word) (s : State) : Host.Outcome State Fault Refusal := .next (s.hostWrite 0x501010 8 v.toNat)

/-- OBS_MARK_TRIGGER and HOST_MARK (18, R566). -/
def execObsMarkTrigger (mask : BitVec 4) (s : State) : Host.Outcome State Fault Refusal :=
  .next (s.onHostWrite fun s => s.hostTrigger mask.toNat)

def execHostMark (v : Half) (s : State) : Host.Outcome State Fault Refusal := .next (s.onHostWrite fun s => s.hostMark v.toNat)

/-- TRACE_ARM (18, R568). -/
def execTraceArm (session : Nat) (s : State) : Host.Outcome State Fault Refusal :=
  .next (s.onHostWrite fun s => if session < 4 then s.armTrace session else s)

/-- FAB_PORT_RETRAIN: a port that is in service is retrained (09, R315). -/
def execFabPortRetrain (port : Nat) (s : State) : Host.Outcome State Fault Refusal :=
  .next (s.onHostWrite fun s =>
    if 32 ≤ port ∨ s.rget FabPort.STATE port = 3 ∨ s.rget FabPort.STATE port = 1 then s else s.retrainPort port)

/-- FAB_PORT_DISABLE (09, R315). -/
def execFabPortDisable (port : Nat) (v : Bool) (s : State) : Host.Outcome State Fault Refusal :=
  .next (s.onHostWrite fun s => if port < 32 then s.disablePort port v else s)

/-- RING_ENABLE and RING_DISABLE (14, R461, R472; 15, R484). -/
def execRingEnable (ring : Nat) (s : State) : Host.Outcome State Fault Refusal :=
  .next (
    if !s.barOpen || decide (128 ≤ ring) then s
    else if s.rbit SecBoot.READY then s.ringControl ring true
    else s.rput Ring.LAST_REASON ring 0x0A)

def execRingDisable (ring : Nat) (s : State) : Host.Outcome State Fault Refusal :=
  .next (s.onHostWrite fun s => if ring < 128 then s.ringControl ring false else s)

/-- CMD_TAIL_DOORBELL and CPL_HEAD_DOORBELL (14, R460, R467). -/
def execCmdTailDoorbell (ring : Nat) (v : Half) (s : State) : Host.Outcome State Fault Refusal :=
  .next (s.onHostWrite fun s => if ring < 128 then s.cmdDoorbell ring v.toNat else s)

def execCplHeadDoorbell (ring : Nat) (v : Half) (s : State) : Host.Outcome State Fault Refusal :=
  .next (s.onHostWrite fun s => if ring < 128 then s.cplDoorbell ring v.toNat else s)

/-! ## SYSRD and SYSWR (12, R413, R414) -/

/-- Why an access of a thread to BAR0 faults: beyond BAR0, not aligned, or in the SEC block, which needs level 2. -/
def barFault (off : Nat) : Option (InsnFault × Nat) :=
  if barBytes ≤ off then some (.address, 0x62)
  else if off % 8 ≠ 0 then some (.misaligned, 0x1D)
  else if inSec off then some (.privilege, 0x02)
  else none

/-- The offset of an access. -/
def barOffset (f : FormS) (th : Thread) : Nat := (th.reg f.src1 + immNum f).toNat

/-- SYSRD. A thread's read is no host read and clears nothing (log 62). -/
def execSysrd (t : ThreadRef) (f : FormS) (s : State) : Host.Outcome State Fault Refusal :=
  scalar t f true 1 (fun th s => match barFault (barOffset f th) with
    | some (k, reason) => s.insnFault t th k reason (barOffset f th)
    | none =>
      let (v, s) := s.barWord (barOffset f th)
      s.retire t (th.setReg f.dst (BitVec.ofNat 64 v))) s

/-- SYSWR. -/
def execSyswr (t : ThreadRef) (f : FormS) (s : State) : Host.Outcome State Fault Refusal :=
  scalar t f true 1 (fun th s => match barFault (barOffset f th) with
    | some (k, reason) => s.insnFault t th k reason (barOffset f th)
    | none => (s.retire t th).barWrite (barOffset f th) 8 (th.reg f.src2).toNat) s

end Sys2Proof.Machine
end

