-- ==== Sys2Proof/Machine/Boot.lean ====
section
/-!
DEFINITION. Start and stop of the module: what a loss of power and a module reset leave (15, R481, R482; 16, R530 to R533;
17, R536 to R538, R548), the orders of the boot sequence (15, R483 to R490, R507), and PERST_N (19, R578).
-/
namespace Sys2Proof.Machine

/-! ## What is left -/

/-- Everything volatile is lost: what stays is the cistern with its mould table, the fuses, host memory, the levels of the
pins, and what has left the module. -/
def State.lost (s : State) : State :=
  { State.reset with
    pending := s.pending
    mem := s.mem.filter fun c => decide (hostBase ≤ c.1)
    poison := s.poison.filter fun l => decide (hostBase ≤ l * 64)
    regs := s.regs.filter fun e => decide (e.1.tab = .mould)
    cistern := s.cistern
    fuses := s.fuses
    wellhead := { State.reset.wellhead with farOut := s.wellhead.farOut }
    security := { Security.reset with
      dbgLow := s.security.dbgLow
      debug := s.security.debug
      spdm := { Security.reset.spdm with out := s.security.spdm.out } }
    power := { Power.reset with
      running := s.power.running
      thermtrip := s.power.thermtrip
      perst := s.power.perst }
    link := { State.reset.link with answer := s.link.answer }
    msixOut := s.msixOut
    freeCount := s.freeCount }

/-- One of `n` points, which the spec leaves to the moment (log 63). -/
def State.choose (s : State) (n : Nat) : Nat × State := (s.draw.1.toNat % n, s.draw.2)

/-- An interrupted FW_UPDATE that would write leaves the slot old, without an image, or new (15, R492; 16, R533). -/
def State.cutUpdate (s : State) (o : OpRun) : State :=
  match s.hostBytes o.addr o.len with
  | none => s
  | some img =>
    if (s.updateFault o img).isSome then s
    else
      let (k, s) := s.choose 4
      if k = 0 then s
      else if k = 1 then s.onCistern fun c => { c with image := none }
      else if k = 2 then s.onCistern fun c => { c with image := some img, imageLost := false }
      else s.writeImage img

/-- An interrupted write of the configuration block leaves it old, failing its check, or new (15, R482; 16, R533). -/
def State.cutCfg (s : State) (new : CfgStore) : State :=
  let (k, s) := s.choose 3
  if k = 0 then s else s.onCistern fun c => { c with cfg := if k = 1 then .torn else new }

/-- What an operation of SEC_OP that is interrupted leaves (15, R497). -/
def State.cutSecOp (s : State) : State :=
  match s.security.op with
  | none => s
  | some o =>
    if o.reason.isSome then s
    else if o.op = opFwUpdate then s.cutUpdate o
    else if s.cisState ≠ 0 ∧ o.op ≠ opRekey ∧ o.op ≠ opRaiseFloor then s
    else if o.op = opCfgWrite then
      match s.hostBytes o.addr o.len with
      | none => s
      | some b => if cfgSound b then s.cutCfg (.block b) else s
    else if o.op = opCfgErase then s.cutCfg (.empty s.cistern.cfg.writes)
    else
      let (k, s) := s.choose 2
      if k = 0 then s
      else if o.op = opRaiseFloor then (if o.arg ≤ 255 then { s with fuses := { s.fuses with svnFloor := o.arg } } else s)
      else if o.op = opRekey then (if s.fuses.epoch < 15 then s.burnEpoch else s)
      else if o.op = opFactoryRestore then s.writeItem (.restore true)
      else s

/-- Moulds in WRITING. -/
def State.writing (s : State) : List Nat := s.cistern.used.filter fun i => s.rget Mould.STATE i == 1

/-- The torn mark, in both journal copies (16, R530). -/
def State.tornMark (s : State) (cause : StopCause) : State :=
  if s.cistern.failed then s
  else
    let open_ := s.writing.flatMap fun i => s.sbsOf i
    (s.onCistern fun c => { c with torn := some ⟨s.now, cause, s.writing, open_⟩ }).writeBoth .journal

/-! ## Stops (17, R535 to R538, R548) -/

/-- The module stops: compute at once and with it everything volatile; the hub die and the cistern go on for the hold-up. -/
def State.stopModule (s : State) (cause : StopCause) : State :=
  let t := s.now
  (s.cutSecOp.lost.onPower fun p => { p with running := false, holdUp := some cause }).rput TbsTime.ALL 0 t

/-- POWER_FAIL: the input, in mV, is below 34 V for 1 us. A module that stands still releases THERMTRIP_N. -/
def execPowerFail (mv : Nat) (s : State) : Host.Outcome State Fault Refusal :=
  .next (
    if 34000 ≤ mv then s
    else if s.power.running then s.stopModule .powerFail
    else s.onPower fun p => { p with thermtrip := false })

/-- OVER_VOLTAGE_STOP: the input is above 46 V for 1 us. -/
def execOverVoltageStop (mv : Nat) (s : State) : Host.Outcome State Fault Refusal :=
  .next (if 46000 < mv ∧ s.power.running = true then s.stopModule .overVoltage else s)

/-- THERMTRIP. -/
def execThermtrip (s : State) : Host.Outcome State Fault Refusal :=
  .next (if s.power.running then (s.stopModule .thermtrip).onPower fun p => { p with thermtrip := true } else s)

/-- HOLD_UP_END: the torn mark is written, and the hub die stops. -/
def execHoldUpEnd (s : State) : Host.Outcome State Fault Refusal :=
  .next (match s.power.holdUp with
    | none => s
    | some cause => ((s.tornMark cause).lost).onPower fun p => { p with holdUp := none })

/-- POWER_GOOD: a module that has stopped starts; one that holds THERMTRIP_N does not. -/
def execPowerGood (s : State) : Host.Outcome State Fault Refusal :=
  .next (
    if s.power.running || s.power.holdUp.isSome || s.power.thermtrip then s
    else s.lost.onPower fun p => { p with running := true })

/-- A module reset by PERST_N: the cistern finishes its programs and writes the torn mark, and the boot begins again. -/
def State.moduleReset (s : State) : State :=
  let vin := s.rget PwrInput.VIN
  let low := s.rget PwrStatus.LOW_INPUT
  let high := s.rget PwrStatus.HIGH_INPUT
  (((s.cutSecOp.tornMark .reset).lost.rput PwrInput.VIN 0 vin).rput PwrStatus.LOW_INPUT 0 low).rput PwrStatus.HIGH_INPUT 0 high

/-- PERST_N_ASSERT: an assertion shorter than 1 us is ignored. -/
def execPerstNAssert (long : Bool) (s : State) : Host.Outcome State Fault Refusal :=
  .next (
    if !long || s.power.perst then s
    else if s.power.running then s.moduleReset.onPower fun p => { p with perst := true }
    else s.onPower fun p => { p with perst := true })

/-- PERST_N_DEASSERT. -/
def execPerstNDeassert (s : State) : Host.Outcome State Fault Refusal :=
  .next (s.onPower fun p => { p with perst := false })

/-! ## The boot sequence (15, R483) -/

/-- BOOT_HOST_LOAD, BOOT_RECORD_LOST, CFG_DEFAULTED, PWR_FAIL_RECOVERED and PWR_THERMTRIP_RECOVERED. -/
def hostLoadRec (reason : Nat) : ErrRec := { type := 0x00D0, severity := 0, reason := reason, die := 4 }
def recordLostRec : ErrRec := { type := 0x00D8, severity := 0, reason := 0x9E, die := 4 }
def cfgDefaultedRec : ErrRec := { type := 0x00C8, severity := 0, reason := 0x8C, die := 4 }
def recoveredRec (thermal : Bool) (t : Nat) : ErrRec :=
  { type := if thermal then 0x00B4 else 0x00B0, severity := 5, reason := if thermal then 0x84 else 0x80, die := 4, detail := t }

/-- Host-load state (15, R489). -/
def State.enterHostLoad (s : State) (reason : Nat) : State :=
  let s := ((s.rput SecBoot.HOST_LOAD 0 1).rput HubLink.HOST_LOAD 0 1).setEvt Evt.HOST_LINK
  (s.rput SecBoot.LAST_REASON 0 reason).logError (hostLoadRec reason)

/-- The record of the stop that the torn mark tells of (17, R538). -/
def State.reportStop (s : State) : State :=
  match s.cistern.torn with
  | none => s
  | some m =>
    let s := s.onCistern fun c => { c with torn := none }
    match m.cause with
    | .powerFail | .overVoltage => s.logError (recoveredRec false m.time)
    | .thermtrip => s.logError (recoveredRec true m.time)
    | .reset => s

/-- A record of the cistern of which no copy can be read is reported and written anew. -/
def State.lostRecord (s : State) (fresh : SysValue) : State :=
  if s.copiesOf fresh.item = 0 then (s.writeItem fresh).logError recordLostRec else s

/-- Tiles not fused off. -/
def State.enabledTiles (s : State) : List Nat := (List.range 1024).filter fun t => !s.rbit Census.FUSED_OFF t

/-- The records that order 5 reads (15, R486, R491): a lost SVN record is taken as HIGH_SVN 255, and a lost column record
sends every tile to a column test. -/
def State.readRecords (s : State) : State :=
  let lost := decide (s.copiesOf .column = 0)
  let s := ((s.lostRecord (.svn 255)).lostRecord (.memory [])).lostRecord (.column [])
  if lost then { s with ras := { s.ras with testsDue := s.enabledTiles } } else s

/-- Order 5: the firmware runs with its image; a pending factory restore runs first; stops and moulds are recovered, the
records are read, and the identity key is unwrapped where its copy is sound and of this epoch. -/
def State.firmwareRuns (s : State) : State :=
  let s := (s.rput SecBoot.FW_SVN 0 (imageSvn s.security.image)).rput SecFwBuild.BUILD 0 (leField s.security.image 16 8)
  let s := if s.cistern.restore && decide (s.copiesOf .restore ≠ 0) then s.restore else s
  let s := s.reportStop.recoverMoulds.readRecords
  s.onSec fun c => { c with identity := decide (s.cistern.keyEpoch = some s.fuses.epoch ∧ s.copiesOf .key ≠ 0) }

/-- The census is rebuilt from the column record (15, R485); no tile has a fused bypass (log 4). -/
def State.rebuildCensus (s : State) : State :=
  s.cistern.columns.foldl (fun s e =>
    let (t, mask, retired, grown) := e
    let s := ((s.rput Census.BYPASS t mask).rput Census.RETIRED t (b2n retired)).rput Census.GROWN t grown
    s.rput Census.W t (if retired || decide (64 - popcount 64 mask < 56) then 0 else 64 - popcount 64 mask)) s

/-- TSQ_SPLIT.MODE of every region, and with it the roles of the tiles (06, R212). -/
def State.setSplit (s : State) (v : Nat) : State :=
  (List.range 32).foldl (fun s g =>
    let s := s.rput TsqSplit.MODE g v
    s.rput TsqSplit.ROLE g (s.rolesOf g)) s

/-- Order 7 begins as order 6 ends (15, R485): the census is rebuilt, and the self-test runs in split mode. -/
def State.beginSelfTest (s : State) : State := s.rebuildCensus.setSplit 1

/-- Order 8: hard repairs of the rows in the memory record, a device whose spares they exhaust DEGRADED, and every line of both
tiers zero with poison clear (11, R361, R363, R364). -/
def State.trainMemory (s : State) : State :=
  let s := (List.range 32).foldl (fun (s : State) (d : Nat) =>
    let s := s.rput MemDev.SPARED d (min 65535 (s.cistern.rows.filter fun e => e.1 == d).length)
    let full := s.cistern.rows.any fun e => e.1 == d && decide (Config.spareRows d (Config.rowBank e.2) ≤
      (s.cistern.rows.filter fun r => r.1 == d && Config.rowBank r.2 == Config.rowBank e.2).length)
    if s.rget MemDev.STATE d = 0 ∧ full = true then s.rput MemDev.STATE d 1 else s) s
  (s.wipe 0 hbmBytes).wipe lpddrBase (lpddrBase + hbmBytes)

/-- An entry of the configuration block is written to its register (15, R507). -/
def State.applyEntry (s : State) (b : List Byte) (i : Nat) : State :=
  let (off, mask, value, _) := cfgEntry b i
  let old := (s.barWord off).1
  s.barWrite off 8 ((old - (old &&& mask)) ||| (value &&& mask))

/-- Order 9: the entries of a sound block are applied in ascending order; any other block leaves every register alone. -/
def State.applyCfg (s : State) : State :=
  let defaulted : State := (s.rput SecState.CFG_DEFAULTED 0 1).logError cfgDefaultedRec
  match s.cistern.cfg.bytes with
  | none => defaulted
  | some b =>
    if cfgSound b then
      let s := (List.range (cfgCount b)).foldl (fun s i => s.applyEntry b i) s
      (s.rput SecState.CFG_ENTRIES 0 (cfgCount b)).onSec fun c => { c with applied := some b }
    else defaulted

/-- An order completes: STAGE follows. -/
def State.orderDone (s : State) (n : Nat) : State :=
  let s := s.onSec fun c => { c with orders := c.orders ++ [n] }
  s.rput SecBoot.STAGE 0 s.bootStage

/-- May an order of the boot sequence end: every order before it but order 3 has; order 3 needs order 1, PERST_N deasserted
and the link trained; order 7 needs the column tests over. -/
def State.orderReady (s : State) (n : Nat) : Bool :=
  s.power.running && decide (1 ≤ n ∧ n ≤ 10) && !s.booted n &&
  if n = 3 then s.booted 1 && !s.power.perst && s.linkUp
  else (List.range n).all (fun k => k == 0 || k == 3 || s.booted k) &&
    (n != 7 || (s.ras.testsDue.isEmpty && s.ras.testing.isNone)) && (n != 4 || !s.hostLoad)

/-- What an order does, apart from its completion. -/
def State.orderWork (s : State) (n : Nat) : State :=
  match n with
  | 5 => s.firmwareRuns
  | 6 => s.beginSelfTest
  | 7 => s.setSplit 0
  | 8 => s.trainMemory
  | 9 => s.applyCfg
  | 10 => s.rput SecBoot.READY 0 1
  | _ => s

/-- BOOT_ORDER_COMPLETE. At order 4 an image that is not valid leads to host-load state. -/
def execBootOrderComplete (order : Nat) (s : State) : Host.Outcome State Fault Refusal :=
  .next (
    if !s.orderReady order then s
    else if order = 4 then
      match s.slotFault with
      | some r => s.enterHostLoad r
      | none => (s.onSec fun c => { c with image := s.cistern.image.getD [] }).orderDone 4
    else (s.orderWork order).orderDone order)

end Sys2Proof.Machine
end

