-- ==== Sys2Proof/Machine/HostLink.lean ====
section
/-!
DEFINITION. The host link (14): training and loss, CXL.cache and CXL.mem, the host's reads and writes of device memory with
the snoop filter, and IDE with its key sets.
-/
namespace Sys2Proof.Machine

/-- Update the host link. -/
def State.onLink (s : State) (f : HostLink → HostLink) : State := { s with link := f s.link }

/-- Write a field of HUB_LINK; a change sets HOST_LINK (14, R469). -/
def State.linkField (s : State) (f : Fld) (v : Nat) : State :=
  if s.rget f = v then s else (s.rput f 0 v).setEvt Evt.HOST_LINK

/-- IDE_IO and IDE_CM follow the key sets: a stream is secure when both its directions have a current set. -/
def State.ideFlags (s : State) : State :=
  let secure := fun (i : IdeStream) => [IdeDir.transmit, IdeDir.receive].all fun d =>
    ((look (i, d) s.link.ide).bind IdeKeys.current).isSome
  (s.linkField HubLink.IDE_IO (b2n (secure .io))).linkField HubLink.IDE_CM (b2n (secure .cachemem))

/-- Every key set of the link is discarded (14, R454). -/
def State.dropKeys (s : State) : State := (s.onLink fun l => { l with ide := [] }).ideFlags

/-! ## Training (14, R446) -/

/-- Widths and speeds at which the link trains. -/
def linkFits (width speed : Nat) : Bool := decide ((width = 8 ∨ width = 16) ∧ (speed = 1 ∨ speed = 2))

/-- HOST_LINK_DOWN and HOST_LINK_DEGRADED. -/
def linkDownRec : ErrRec := { type := 0x00F0, severity := 0, reason := 0x0B, die := 4 }
def linkDegradedRec : ErrRec := { type := 0x00F1, severity := 0, reason := 0x0B, die := 4 }

/-- Width and speed of the link. -/
def State.setLink (s : State) (width speed : Nat) : State := (s.linkField HubLink.WIDTH width).linkField HubLink.SPEED speed

/-- HOST_LINK_TRAINED: a link that is down trains once order 1 has ended and PERST_N is deasserted; after the first time it
is a retrain. -/
def execHostLinkTrained (width speed : Nat) (s : State) : Host.Outcome State Fault Refusal :=
  .next (
    if s.power.running && s.booted 1 && !s.power.perst && !s.linkUp && linkFits width speed then
      (if s.booted 3 then s.rinc HubLink.RETRAINS else s).setLink width speed
    else s)

/-- HOST_LINK_DOWN. -/
def execHostLinkDown (s : State) : Host.Outcome State Fault Refusal :=
  .next (if s.linkUp then ((s.setLink 0 0).dropKeys).logError linkDownRec else s)

/-- HOST_LINK_DEGRADED: another width or speed after training. -/
def execHostLinkDegraded (width speed : Nat) (s : State) : Host.Outcome State Fault Refusal :=
  .next (
    if s.linkUp && linkFits width speed && !decide (s.rget HubLink.WIDTH = width ∧ s.rget HubLink.SPEED = speed) then
      ((((s.rinc HubLink.RETRAINS).setLink width speed).setEvt Evt.HOST_LINK).dropKeys).logError linkDegradedRec
    else s)

/-! ## CXL.cache and CXL.mem (14, R449, R450) -/

/-- Does a decoder commit: at most 768 GiB and one interleave way? -/
def decoderFits (d : HdmDecoder) : Bool := decide (d.ways = 1 ∧ 0 < d.size ∧ d.size ≤ hbmBytes)

/-- The decoders after the host has asked for commits. -/
def commitDecoders : List (Option HdmDecoder) → List HdmDecoder → List (Option HdmDecoder)
  | [], _ => []
  | os, [] => os
  | o :: os, d :: ds => (if decoderFits d then some d else o) :: commitDecoders os ds

/-- CXL_CACHE_MEM_ENABLE: decoders 0 and 1 are committed from the list. -/
def execCxlCacheMemEnable (cache mem : Bool) (dec : List HdmDecoder) (s : State) : Host.Outcome State Fault Refusal :=
  .next (
    if s.barOpen then
      let s := s.onLink fun l => { l with decoders := commitDecoders l.decoders dec }
      (s.linkField HubLink.CACHE_EN (b2n cache)).linkField HubLink.MEM_EN (b2n (mem && s.link.decoders.any Option.isSome))
    else s)

/-- The device address of a host physical address that a committed decoder maps. -/
def State.hdmAddress (s : State) (a : Nat) : Option Nat :=
  (s.link.decoders.zip [0, lpddrBase]).findSome? fun e => e.1.bind fun d =>
    if d.base ≤ a ∧ a < d.base + d.size then some (e.2 + (a - d.base)) else none

/-- Entries of the snoop filter. -/
def snoopEntries : Nat := 4194304

/-- A line enters the snoop filter; a full filter gives up the line that entered first (14, R451). -/
def State.admitLine (s : State) (l : Nat) : State :=
  let f := s.tiers.snoop
  if l ∈ f then s
  else { s with tiers := { s.tiers with snoop := (if f.length < snoopEntries then f else f.drop 1) ++ [l] } }

/-- Is CXL.mem in use? -/
def State.memOpen (s : State) : Bool := s.barOpen && s.rbit HubLink.MEM_EN

/-- HDM_READ: the line that holds a host physical address, with its poison (14, R452). -/
def execHdmRead (addr : Nat) (s : State) : Host.Outcome State Fault Refusal :=
  if !s.memOpen then .next s
  else match s.hdmAddress addr with
    | none => .fault .unmapped
    | some a =>
      let l := lineOf a
      let s := ((s.countBytes (64 * l) 64 false).rwrap ModuleCnt.CXL_TX_BYTES 0 64).admitLine l
      .next (s.onLink fun k => { k with answer := some (s.peek (64 * l) 64, s.poisoned (64 * l) 64) })

/-- HDM_WRITE: bytes within a line, with their poison; `cached` says that the host keeps the line. -/
def execHdmWrite (addr : Nat) (data : List Byte) (poison cached : Bool) (s : State) : Host.Outcome State Fault Refusal :=
  if !s.memOpen then .next s
  else match s.hdmAddress addr with
    | none => .fault .unmapped
    | some a =>
      let bs := data.take (64 - a % 64)
      let s := (s.store a bs poison).rwrap ModuleCnt.CXL_RX_BYTES 0 bs.length
      .next (if cached then s.admitLine (lineOf a) else s)

/-! ## IDE (14, R454 to R457) -/

/-- The key sets of a stream and direction. -/
def State.keys (s : State) (i : IdeStream) (d : IdeDir) : IdeKeys :=
  lookD (i, d) { current := none, next := none, previous := none, waiting := false } s.link.ide

def State.setKeys (s : State) (i : IdeStream) (d : IdeDir) (k : IdeKeys) : State :=
  (s.onLink fun l => { l with ide := put (i, d) k l.ide }).ideFlags

/-- Does a secure session carry IDE_KM? -/
def State.ideKm (s : State) : Bool := s.power.running && s.linkUp && s.security.spdm.sessions.any fun e => e.2

/-- An IDE_KM answer: KEY_PROG is answered with its status, and a set that may not be programmed with the status for an
invalid key set (log 61). -/
def State.keyAnswer (s : State) (error : Option Nat) : State :=
  let n := ((s.security.spdm.sessions.find? fun e => e.2).map Prod.fst).getD 0
  s.onSec fun c => { c with spdm := { c.spdm with out := c.spdm.out ++ [⟨true, n, 2, error, [], none⟩] } }

/-- KEY_PROG: refused for the slot of the current set, and while a receiver keeps its previous set (14, R454, R456). -/
def execKeyProg (i : IdeStream) (d : IdeDir) (slot : Bool) (s : State) : Host.Outcome State Fault Refusal :=
  .next (
    if !s.ideKm then s
    else
      let k := s.keys i d
      if k.current = some slot ∨ k.previous.isSome = true then s.keyAnswer (some 3)
      else (s.setKeys i d { k with next := some slot }).keyAnswer none)

/-- K_SET_GO: a transmitter waits until its retry buffer holds no item under the current key; a receiver takes the new set
and keeps its current one as the previous set. -/
def execKSetGo (i : IdeStream) (d : IdeDir) (s : State) : Host.Outcome State Fault Refusal :=
  .next (
    if !s.ideKm then s
    else
      let k := s.keys i d
      match k.next, d with
      | none, _ => s
      | some _, .transmit => s.setKeys i d { k with waiting := true }
      | some n, .receive => s.setKeys i d { current := some n, next := none, previous := k.current, waiting := false })

/-- IDE_KEY_SWITCH: the retry buffer holds no item under the current key, and the transmitter switches (14, R455). -/
def execIdeKeySwitch (i : IdeStream) (s : State) : Host.Outcome State Fault Refusal :=
  .next (
    let k := s.keys i .transmit
    if k.waiting then s.setKeys i .transmit { current := k.next, next := none, previous := none, waiting := false } else s)

/-- IDE_CHECK_FAILED. -/
def ideFailedRec (i : IdeStream) : ErrRec :=
  { type := 0x00F2, severity := 3, reason := 0x0C, die := 4, unit := if i = .io then 0 else 1 }

/-- A stream is insecure: its key sets are gone. -/
def State.dropStream (s : State) (i : IdeStream) : State :=
  (s.onLink fun l => { l with ide := l.ide.filter fun e => decide (e.1.1 ≠ i) }).ideFlags

/-- CXL_ITEM_RECEIVE: the first item verified under a new key frees the previous set, and one that fails is sent again (14,
R456); any other item that fails its check makes the stream insecure (14, R457). -/
def execCxlItemReceive (i : IdeStream) (item : IdeItem) (s : State) : Host.Outcome State Fault Refusal :=
  .next (
    let k := s.keys i .receive
    if !s.linkUp || k.current.isNone then s
    else if item.passes then
      (if item.change && k.previous.isSome then s.setKeys i .receive { k with previous := none } else s)
    else if item.change && k.previous.isSome then s
    else (((s.dropStream i).rinc HubLink.IDE_FAILS).setEvt Evt.HOST_LINK).logError (ideFailedRec i))

end Sys2Proof.Machine
end

