-- ==== Sys2Proof/Machine/Scalar.lean ====
section
/-!
DEFINITION. Integer, predicate and floating-point scalar instructions, special registers and branches
(12, R385 to R388; 02, R48, R55).
-/
namespace Sys2Proof.Machine

/-! ## Integer and predicate instructions (12, R385) -/

/-- IADD. -/
def addResult (fn : Nat) (a b : Word) : Word :=
  match fn with
  | 0 => a + b
  | 1 => a - b
  | 2 => a * b
  | 3 => BitVec.ofInt 64 (a.toInt * b.toInt / 2 ^ 64)
  | _ => BitVec.ofNat 64 (a.toNat * b.toNat / 2 ^ 64)

def execIadd (t : ThreadRef) (f : FormS) (s : State) : Host.Outcome State Fault Refusal :=
  regWrite t f (decide (fnLow f ≤ 4)) (fun th => addResult (fnLow f) (opA f th) (opB f th)) s

/-- ILOGIC. -/
def logicResult (fn : Nat) (a b : Word) : Word :=
  match fn with
  | 0 => a &&& b
  | 1 => a ||| b
  | 2 => a ^^^ b
  | _ => a &&& ~~~b

def execIlogic (t : ThreadRef) (f : FormS) (s : State) : Host.Outcome State Fault Refusal :=
  regWrite t f (decide (fnLow f ≤ 3)) (fun th => logicResult (fnLow f) (opA f th) (opB f th)) s

/-- ISHIFT: the count is taken modulo 64. -/
def shiftResult (fn : Nat) (a b : Word) : Word :=
  let n := b.toNat % 64
  match fn with
  | 0 => a <<< n
  | 1 => a >>> n
  | 2 => a.sshiftRight n
  | _ => a.rotateLeft n

def execIshift (t : ThreadRef) (f : FormS) (s : State) : Host.Outcome State Fault Refusal :=
  regWrite t f (decide (fnLow f ≤ 3)) (fun th => shiftResult (fnLow f) (opA f th) (opB f th)) s

/-- ICMP. -/
def compareResult (fn : Nat) (a b : Word) : Bool :=
  match fn with
  | 0 => a == b
  | 1 => a != b
  | 2 => a.slt b
  | 3 => !a.slt b
  | 4 => a.ult b
  | _ => !a.ult b

def execIcmp (t : ThreadRef) (f : FormS) (s : State) : Host.Outcome State Fault Refusal :=
  scalar t f (decide (fnLow f ≤ 5) && isPred f.dst) 0 (fun th s =>
    s.retire t (th.setPred (low3 f.dst) (compareResult (fnLow f) (opA f th) (opB f th)))) s

/-- IMOVI. -/
def moviResult (fn : Nat) (old : Word) (imm : BitVec 32) : Word :=
  if fn = 0 then imm.signExtend 64 else imm ++ old.truncate 32

def execImovi (t : ThreadRef) (f : FormS) (s : State) : Host.Outcome State Fault Refusal :=
  regWrite t f (decide (fnLow f ≤ 1)) (fun th => moviResult (fnLow f) (th.reg f.dst) f.imm) s

/-- PLOGIC. -/
def plogicResult (f : FormS) (th : Thread) : Bool :=
  let x := th.pred (low3 f.src1)
  let y := th.pred (low3 f.src2)
  match fnLow f with
  | 0 => x && y
  | 1 => x || y
  | 2 => x ^^ y
  | 3 => !x
  | _ => (opA f th).getLsbD (f.imm.toNat % 64)

/-- The predicates that PLOGIC names exist: p[DST], and of the sources those that FN reads. -/
def plogicDefined (f : FormS) : Bool :=
  decide (fnLow f ≤ 4) && isPred f.dst && (decide (fnLow f = 4) || isPred f.src1) && (decide (3 ≤ fnLow f) || isPred f.src2)

def execPlogic (t : ThreadRef) (f : FormS) (s : State) : Host.Outcome State Fault Refusal :=
  scalar t f (plogicDefined f) 0 (fun th s => s.retire t (th.setPred (low3 f.dst) (plogicResult f th))) s

/-! ## Floating point (12, R386) -/

/-- The exact result of a floating-point operation. -/
def floatResult (fn : Nat) (x y : Val) : Val :=
  match fn with
  | 0 => x.add y
  | 1 => x.sub y
  | 2 => x.mul y
  | 3 => x.div y
  | 4 => x.max y
  | 5 => x.min y
  | _ => x.sqrt

def execF32 (t : ThreadRef) (f : FormS) (s : State) : Host.Outcome State Fault Refusal :=
  regWrite t f (decide (fnLow f ≤ 6)) (fun th =>
    BitVec.ofNat 64 (toF32 (floatResult (fnLow f) (ofF32 (opA f th).toNat) (ofF32 (opB f th).toNat)))) s

def execF64 (t : ThreadRef) (f : FormS) (s : State) : Host.Outcome State Fault Refusal :=
  regWrite t f (decide (fnLow f ≤ 6)) (fun th =>
    BitVec.ofNat 64 (toF64 (floatResult (fnLow f) (ofF64 (opA f th).toNat) (ofF64 (opB f th).toNat)))) s

/-- Conversion to INT64: toward zero, NaN to 0, and the nearest end of the range beyond it. -/
def toInt64 (v : Val) : Word :=
  match v with
  | .nan => 0
  | .inf n => BitVec.ofInt 64 (if n then -2 ^ 63 else 2 ^ 63 - 1)
  | .zero _ => 0
  | .fin q =>
    let n : Int := if q < 0 then -(-q).floor else q.floor
    BitVec.ofInt 64 (Max.max (-2 ^ 63) (Min.min (2 ^ 63 - 1) n))

/-- FCVT. -/
def convertResult (fn : Nat) (a : Word) : Word :=
  match fn with
  | 0 => BitVec.ofNat 64 (toF64 (ofF32 a.toNat))
  | 1 => BitVec.ofNat 64 (toF32 (ofF64 a.toNat))
  | 2 => toInt64 (ofF32 a.toNat)
  | 3 => BitVec.ofNat 64 (toF32 (Val.ofRat a.toInt))
  | 4 => toInt64 (ofF64 a.toNat)
  | _ => BitVec.ofNat 64 (toF64 (Val.ofRat a.toInt))

def execFcvt (t : ThreadRef) (f : FormS) (s : State) : Host.Outcome State Fault Refusal :=
  regWrite t f (decide (f.fn.toNat ≤ 5)) (fun th => convertResult f.fn.toNat (opA f th)) s

/-! ## Special registers (12, R387; 02, R55) -/

/-- The special register that a number names. -/
def Thread.special (th : Thread) (n : Nat) : Word :=
  match n with
  | 0 => th.opid.zeroExtend 64
  | 1 => th.ctx.zeroExtend 64
  | 2 => th.step
  | _ => th.attempt

/-- A write of a special register, or the privilege fault of CTXID and, at level 0, of STEP and ATTEMPT. -/
def writeSpecial (t : ThreadRef) (n : Nat) (v : Word) (th : Thread) (s : State) : State :=
  let privileged := s.levelOf th.ctxIx ≥ 1
  match n with
  | 0 => s.retire t { th with opid := v.truncate 32 }
  | 2 => if privileged then s.retire t { th with step := v } else s.insnFault t th .privilege 0x02
  | 3 => if privileged then s.retire t { th with attempt := v } else s.insnFault t th .privilege 0x02
  | _ => s.insnFault t th .privilege 0x02

def execMovs (t : ThreadRef) (f : FormS) (s : State) : Host.Outcome State Fault Refusal :=
  scalar t f (decide (f.fn.toNat ≤ 1)) 0 (fun th s =>
    let n := f.imm.toNat % 4
    if f.fn = 0 then s.retire t (th.setReg f.dst (th.special n)) else writeSpecial t n (opA f th) th s) s

/-! ## Branches and the end of a thread (12, R388; 02, R48) -/

/-- A relative branch target. -/
def branchTarget (f : FormS) (th : Thread) : Word := th.pc + 8#64 * immNum f

def execBr (t : ThreadRef) (f : FormS) (s : State) : Host.Outcome State Fault Refusal :=
  scalar t f true 0 (fun th s => s.setThread t { th with pc := branchTarget f th }) s

def execJmp (t : ThreadRef) (f : FormS) (s : State) : Host.Outcome State Fault Refusal :=
  scalar t f true 0 (fun th s =>
    if (opA f th).toNat % 8 = 0 then s.setThread t { th with pc := opA f th }
    else s.insnFault t th .misaligned 0x1D (opA f th).toNat) s

def execCall (t : ThreadRef) (f : FormS) (s : State) : Host.Outcome State Fault Refusal :=
  scalar t f true 0 (fun th s =>
    s.setThread t { th.setReg f.dst (th.pc + 8) with pc := branchTarget f th }) s

def execExit (t : ThreadRef) (f : FormS) (s : State) : Host.Outcome State Fault Refusal :=
  scalar t f true 0 (fun _ s => s.endThread t) s

end Sys2Proof.Machine
end

