-- ==== Sys2Proof/Machine/Spdm.lean ====
section
/-!
DEFINITION. The SPDM responder (15, R501 to R504): the requests that it answers, with what the spec gives the answers. The
codes of requests and errors are those of SPDM (log 61).
-/
namespace Sys2Proof.Machine

def spdmInvalid : Nat := 0x01
def spdmBusy : Nat := 0x03
def spdmUnexpected : Nat := 0x04
def spdmUnspecified : Nat := 0x05
def spdmVersion : Nat := 0x41

/-- Update the responder. -/
def State.onSpdm (s : State) (f : Spdm → Spdm) : State := s.onSec fun c => { c with spdm := f c.spdm }

/-- Does the responder hear a request: the module runs, and the link is up for a request by DOE? -/
def State.hears (s : State) (q : SpdmRef) : Bool := s.power.running && (!q.doe || s.linkUp)

/-- An answer goes out. -/
def State.answer (s : State) (q : SpdmRef) (code : Nat) (error : Option Nat) (bs : List Byte) (sig : Option (List Byte)) : State :=
  s.onSpdm fun c => { c with out := c.out ++ [⟨q.doe, q.session, code, error, bs, sig⟩] }

/-- An error goes out. -/
def State.spdmError (s : State) (q : SpdmRef) (code e : Nat) : State := s.answer q code (some e) [] none

/-- Is a session established? -/
def State.established (s : State) (n : Nat) : Bool := lookD n false s.security.spdm.sessions

/-- A request that the responder hears: one inside a session needs it established, and every request but those that agree
on the version and the algorithms needs them agreed. -/
def State.onRequest (s : State) (q : SpdmRef) (code : Nat) (agreed : Bool) (body : State → State) : State :=
  if !s.hears q then s
  else if q.session ≠ 0 ∧ s.established q.session = false then s.spdmError q code spdmInvalid
  else if agreed && !s.security.spdm.negotiated then s.spdmError q code spdmUnexpected
  else body s

/-- GET_VERSION: 1.2 and 1.3; the connection begins again. -/
def execGetVersion (q : SpdmRef) (s : State) : Host.Outcome State Fault Refusal :=
  .next (s.onRequest q 0x84 false fun s =>
    (s.onSpdm fun c => { c with version := none, negotiated := false, sessions := [] }).answer q 0x84 none [0x12, 0x13] none)

/-- GET_CAPABILITIES: certificates, challenge, signed measurements, key exchange, encryption and MACs, heartbeat, key update
and certificate setting; the bits of features that are not supported are 0. -/
def execGetCapabilities (q : SpdmRef) (s : State) : Host.Outcome State Fault Refusal :=
  .next (s.onRequest q 0xE1 false fun s => s.answer q 0xE1 none [] none)

/-- NEGOTIATE_ALGORITHMS: `supported` says that the request offers what R503 lists. -/
def execNegotiateAlgorithms (q : SpdmRef) (version : Nat) (supported : Bool) (s : State) : Host.Outcome State Fault Refusal :=
  .next (s.onRequest q 0xE3 false fun s =>
    if version ≠ 0x12 ∧ version ≠ 0x13 then s.spdmError q 0xE3 spdmVersion
    else if !supported then s.spdmError q 0xE3 spdmInvalid
    else (s.onSpdm fun c => { c with version := some version, negotiated := true }).answer q 0xE3 none [] none)

/-- The chain of a certificate slot (15, R502): slot 0 is empty from epoch 1 on. -/
def State.chain (s : State) (slot : Nat) : Option (List Byte) :=
  if slot = 0 then (if s.fuses.epoch = 0 then some Config.slot0Chain else none)
  else if slot = 1 ∧ s.copiesOf .cert ≠ 0 then s.cistern.cert
  else none

/-- GET_DIGESTS: which slots hold a chain, and the digests of the chains. -/
def execGetDigests (q : SpdmRef) (s : State) : Host.Outcome State Fault Refusal :=
  .next (s.onRequest q 0x81 true fun s =>
    let full := [0, 1].filterMap fun i => (s.chain i).map fun c => (i, c)
    s.answer q 0x81 none (toBytes 1 (full.foldl (fun n e => n + 2 ^ e.1) 0) ++ full.flatMap fun e => sha512 e.2) none)

/-- GET_CERTIFICATE: a portion of a chain. -/
def execGetCertificate (q : SpdmRef) (slot offset len : Nat) (s : State) : Host.Outcome State Fault Refusal :=
  .next (s.onRequest q 0x82 true fun s => match s.chain slot with
    | none => s.spdmError q 0x82 spdmInvalid
    | some c => if c.length ≤ offset then s.spdmError q 0x82 spdmInvalid else s.answer q 0x82 none (slice c offset len) none)

/-- A signed answer: Busy until the identity key is available (15, R501). -/
def State.signedAnswer (s : State) (q : SpdmRef) (code : Nat) (nonce bs : List Byte) : State :=
  if !s.security.identity then s.spdmError q code spdmBusy
  else s.answer q code none bs (some (Config.sign s.fuses.epoch (nonce ++ bs)))

/-- CHALLENGE. -/
def execChallenge (q : SpdmRef) (slot : Nat) (nonce : List Byte) (s : State) : Host.Outcome State Fault Refusal :=
  .next (s.onRequest q 0x83 true fun s => match s.chain slot with
    | none => s.spdmError q 0x83 spdmInvalid
    | some c => s.signedAnswer q 0x83 nonce (sha512 c))

/-- A measurement block (15, R504). -/
def State.measurement (s : State) (index : Nat) : List Byte :=
  let dark := s.hostLoad
  if index = 1 then Config.bootRomDigest
  else if index = 2 then sha512 (if dark then [] else s.security.image)
  else if index = 3 then sha512 (if dark then [] else s.security.applied.getD [])
  else if index = 4 then
    let v := s.image .secState 0
    toBytes 8 (v - bits v 14 1 * 2 ^ 14 + b2n s.hostLoad * 2 ^ 31)
  else sha512 (if dark then [] else (List.range 1024).flatMap fun t => toBytes 16 (s.image .census t))

/-- GET_MEASUREMENTS: the number of blocks, one block, or all of them. -/
def execGetMeasurements (q : SpdmRef) (index : Nat) (signed : Bool) (nonce : List Byte) (s : State) :
    Host.Outcome State Fault Refusal :=
  .next (s.onRequest q 0xE0 true fun s =>
    if 5 < index ∧ index ≠ 0xFF then s.spdmError q 0xE0 spdmInvalid
    else
      let bs := if index = 0 then [5] else if index = 0xFF then [1, 2, 3, 4, 5].flatMap fun i => s.measurement i
        else s.measurement index
      if signed then s.signedAnswer q 0xE0 nonce bs else s.answer q 0xE0 none bs none)

/-- KEY_EXCHANGE: a session that is not established yet; its answer is signed. -/
def execKeyExchange (q : SpdmRef) (session : Nat) (ok : Bool) (s : State) : Host.Outcome State Fault Refusal :=
  .next (s.onRequest q 0xE4 true fun s =>
    if !ok || decide (session = 0) then s.spdmError q 0xE4 spdmInvalid
    else if !s.security.identity then s.spdmError q 0xE4 spdmBusy
    else (s.onSpdm fun c => { c with sessions := put session false c.sessions }).signedAnswer q 0xE4 [] [])

/-- FINISH: the session is established; one whose check fails is gone. -/
def execFinish (q : SpdmRef) (session : Nat) (ok : Bool) (s : State) : Host.Outcome State Fault Refusal :=
  .next (
    if !s.hears q then s
    else match look session s.security.spdm.sessions with
      | some false =>
        if ok then (s.onSpdm fun c => { c with sessions := put session true c.sessions }).answer q 0xE5 none [] none
        else (s.onSpdm fun c => { c with sessions := del session c.sessions }).spdmError q 0xE5 spdmInvalid
      | _ => s.spdmError q 0xE5 spdmUnexpected)

/-- A request that only an established session carries. -/
def State.inSession (s : State) (q : SpdmRef) (session code : Nat) (body : State → State) : State :=
  s.onRequest q code true fun s => if s.established session then body s else s.spdmError q code spdmUnexpected

/-- SPDM_HEARTBEAT. -/
def execSpdmHeartbeat (q : SpdmRef) (session : Nat) (s : State) : Host.Outcome State Fault Refusal :=
  .next (s.inSession q session 0xE8 fun s => s.answer q 0xE8 none [] none)

/-- KEY_UPDATE. -/
def execKeyUpdate (q : SpdmRef) (session : Nat) (s : State) : Host.Outcome State Fault Refusal :=
  .next (s.inSession q session 0xE9 fun s => s.answer q 0xE9 none [] none)

/-- END_SESSION. -/
def execEndSession (q : SpdmRef) (session : Nat) (s : State) : Host.Outcome State Fault Refusal :=
  .next (s.inSession q session 0xEC fun s =>
    (s.answer q 0xEC none [] none).onSpdm fun c => { c with sessions := del session c.sessions })

/-- CERT_INSTALLED. -/
def certRec : ErrRec := { type := 0x00D7, severity := 0, reason := 0x9D, die := 4 }

/-- SET_CERTIFICATE: slot 1, while the presence window is open, with a leaf that holds the current identity public key. -/
def execSetCertificate (q : SpdmRef) (slot : Nat) (chain : List Byte) (s : State) : Host.Outcome State Fault Refusal :=
  .next (s.onRequest q 0xEE true fun s =>
    if slot ≠ 1 ∨ s.rbit SecState.PRESENCE = false ∨ Config.leafHolds chain (Config.identityModulus s.fuses.epoch) = false then
      s.spdmError q 0xEE spdmInvalid
    else if s.cisState ≠ 0 then s.spdmError q 0xEE spdmUnspecified
    else ((s.writeItem (.cert (some chain))).logError certRec).answer q 0xEE none [] none)

end Sys2Proof.Machine
end

