-- ==== Sys2Proof/Machine/Dispatch.lean ====
section
/-!
DEFINITION. One arm for each command of the opcode table: a direct call of its meaning.
-/
namespace Sys2Proof.Machine

def exec (i : Instr) (s : State) : Host.Outcome State Fault Refusal :=
  match i with
  | .iadd t f => Sys2Proof.Machine.execIadd t f s
  | .ilogic t f => Sys2Proof.Machine.execIlogic t f s
  | .ishift t f => Sys2Proof.Machine.execIshift t f s
  | .icmp t f => Sys2Proof.Machine.execIcmp t f s
  | .imovi t f => Sys2Proof.Machine.execImovi t f s
  | .plogic t f => Sys2Proof.Machine.execPlogic t f s
  | .f32 t f => Sys2Proof.Machine.execF32 t f s
  | .f64 t f => Sys2Proof.Machine.execF64 t f s
  | .fcvt t f => Sys2Proof.Machine.execFcvt t f s
  | .movs t f => Sys2Proof.Machine.execMovs t f s
  | .br t f => Sys2Proof.Machine.execBr t f s
  | .jmp t f => Sys2Proof.Machine.execJmp t f s
  | .call t f => Sys2Proof.Machine.execCall t f s
  | .exit t f => Sys2Proof.Machine.execExit t f s
  | .tspawn t f => Sys2Proof.Machine.execTspawn t f s
  | .sgate t f => Sys2Proof.Machine.execSgate t f s
  | .ld t f => Sys2Proof.Machine.execLd t f s
  | .st t f => Sys2Proof.Machine.execSt t f s
  | .fence t f => Sys2Proof.Machine.execFence t f s
  | .aadd t f => Sys2Proof.Machine.execAadd t f s
  | .amin t f => Sys2Proof.Machine.execAmin t f s
  | .amax t f => Sys2Proof.Machine.execAmax t f s
  | .aswap t f => Sys2Proof.Machine.execAswap t f s
  | .acas t f => Sys2Proof.Machine.execAcas t f s
  | .dload t f => Sys2Proof.Machine.execDload t f s
  | .dsave t f => Sys2Proof.Machine.execDsave t f s
  | .dsetf t f => Sys2Proof.Machine.execDsetf t f s
  | .dgetf t f => Sys2Proof.Machine.execDgetf t f s
  | .dcopy t f => Sys2Proof.Machine.execDcopy t f s
  | .twait t f => Sys2Proof.Machine.execTwait t f s
  | .tpost t f => Sys2Proof.Machine.execTpost t f s
  | .tset t f => Sys2Proof.Machine.execTset t f s
  | .tget t f => Sys2Proof.Machine.execTget t f s
  | .mma t e => Sys2Proof.Machine.execMma t e s
  | .tbuild t e => Sys2Proof.Machine.execTbuild t e s
  | .tload t e => Sys2Proof.Machine.execTload t e s
  | .vact t e => Sys2Proof.Machine.execVact t e s
  | .vactb t e => Sys2Proof.Machine.execVactb t e s
  | .vew t e => Sys2Proof.Machine.execVew t e s
  | .rnormF t e => Sys2Proof.Machine.execRnormF t e s
  | .rnormB t e => Sys2Proof.Machine.execRnormB t e s
  | .rsmaxF t e => Sys2Proof.Machine.execRsmaxF t e s
  | .rsmaxB t e => Sys2Proof.Machine.execRsmaxB t e s
  | .rmerge t e => Sys2Proof.Machine.execRmerge t e s
  | .rstat t e => Sys2Proof.Machine.execRstat t e s
  | .cmove t e => Sys2Proof.Machine.execCmove t e s
  | .tmove t e => Sys2Proof.Machine.execTmove t e s
  | .cgather t e => Sys2Proof.Machine.execCgather t e s
  | .creduce t e => Sys2Proof.Machine.execCreduce t e s
  | .cshift t e => Sys2Proof.Machine.execCshift t e s
  | .csend t e => Sys2Proof.Machine.execCsend t e s
  | .crecv t e => Sys2Proof.Machine.execCrecv t e s
  | .uapply t e => Sys2Proof.Machine.execUapply t e s
  | .uprefetch t e => Sys2Proof.Machine.execUprefetch t e s
  | .ucast t e => Sys2Proof.Machine.execUcast t e s
  | .gread t f => Sys2Proof.Machine.execGread t f s
  | .grung t f => Sys2Proof.Machine.execGrung t f s
  | .xstat t f => Sys2Proof.Machine.execXstat t f s
  | .sysrd t f => Sys2Proof.Machine.execSysrd t f s
  | .syswr t f => Sys2Proof.Machine.execSyswr t f s
  | .fwcall t f => Sys2Proof.Machine.execFwcall t f s
  | .queueAccept t => Sys2Proof.Machine.execQueueAccept t s
  | .engineCommandStart id => Sys2Proof.Machine.execEngineCommandStart id s
  | .engineCommandComplete id found => Sys2Proof.Machine.execEngineCommandComplete id found s
  | .handshakeTimeout region unit => Sys2Proof.Machine.execHandshakeTimeout region unit s
  | .launchAdmit => Sys2Proof.Machine.execLaunchAdmit s
  | .launchTileArrival tile => Sys2Proof.Machine.execLaunchTileArrival tile s
  | .contextCacheFill tile => Sys2Proof.Machine.execContextCacheFill tile s
  | .stepGateDecide part => Sys2Proof.Machine.execStepGateDecide part s
  | .stateFetch bind shard => Sys2Proof.Machine.execStateFetch bind shard s
  | .updateRuleRun bind shard => Sys2Proof.Machine.execUpdateRuleRun bind shard s
  | .shardCommit bind shard => Sys2Proof.Machine.execShardCommit bind shard s
  | .masterCorrectionCommit bind shard => Sys2Proof.Machine.execMasterCorrectionCommit bind shard s
  | .driftAudit region => Sys2Proof.Machine.execDriftAudit region s
  | .rootJobStart bind shard => Sys2Proof.Machine.execRootJobStart bind shard s
  | .rootJobDone bind shard => Sys2Proof.Machine.execRootJobDone bind shard s
  | .castComplete ctx => Sys2Proof.Machine.execCastComplete ctx s
  | .sumpWrite region => Sys2Proof.Machine.execSumpWrite region s
  | .gatherServe chan member shard => Sys2Proof.Machine.execGatherServe chan member shard s
  | .contributionLineGrant die => Sys2Proof.Machine.execContributionLineGrant die s
  | .reductionDeadline chan shard => Sys2Proof.Machine.execReductionDeadline chan shard s
  | .reductionAbandon chan shard => Sys2Proof.Machine.execReductionAbandon chan shard s
  | .leaseTimeout chan member shard gen => Sys2Proof.Machine.execLeaseTimeout chan member shard gen s
  | .contribUnaccepted id shard => Sys2Proof.Machine.execContribUnaccepted id shard s
  | .gatherTimeout id shard => Sys2Proof.Machine.execGatherTimeout id shard s
  | .gatherReq f => Sys2Proof.Machine.execGatherReq f s
  | .gatherData f => Sys2Proof.Machine.execGatherData f s
  | .leaseRelease f => Sys2Proof.Machine.execLeaseRelease f s
  | .contribution f => Sys2Proof.Machine.execContribution f s
  | .shift f => Sys2Proof.Machine.execShift f s
  | .send f => Sys2Proof.Machine.execSend f s
  | .grant f => Sys2Proof.Machine.execGrant f s
  | .hello f => Sys2Proof.Machine.execHello f s
  | .reject f => Sys2Proof.Machine.execReject f s
  | .tokenPost f => Sys2Proof.Machine.execTokenPost f s
  | .gateFlags f => Sys2Proof.Machine.execGateFlags f s
  | .digest f => Sys2Proof.Machine.execDigest f s
  | .bulk f => Sys2Proof.Machine.execBulk f s
  | .c0Admit source => Sys2Proof.Machine.execC0Admit source s
  | .flitTransmit port => Sys2Proof.Machine.execFlitTransmit port s
  | .linkBlockReceive port b => Sys2Proof.Machine.execLinkBlockReceive port b s
  | .linkAckTimeout port => Sys2Proof.Machine.execLinkAckTimeout port s
  | .portTrainingDone port lanes polarity reversed => Sys2Proof.Machine.execPortTrainingDone port lanes polarity reversed s
  | .frameSeqTimeout src chan cls => Sys2Proof.Machine.execFrameSeqTimeout src chan cls s
  | .channelHelloTimeout chan => Sys2Proof.Machine.execChannelHelloTimeout chan s
  | .d2dLinkDown link => Sys2Proof.Machine.execD2dLinkDown link s
  | .d2dLinkDegraded link => Sys2Proof.Machine.execD2dLinkDegraded link s
  | .hubLinkDown die => Sys2Proof.Machine.execHubLinkDown die s
  | .wxpHello p digest sites => Sys2Proof.Machine.execWxpHello p digest sites s
  | .piece p h data => Sys2Proof.Machine.execPiece p h data s
  | .pieceAck p o nak bitmap => Sys2Proof.Machine.execPieceAck p o nak bitmap s
  | .ledgerReq p => Sys2Proof.Machine.execLedgerReq p s
  | .fetch p entries => Sys2Proof.Machine.execFetch p entries s
  | .applied p digest attempt => Sys2Proof.Machine.execApplied p digest attempt s
  | .join p digest => Sys2Proof.Machine.execJoin p digest s
  | .heartbeat p => Sys2Proof.Machine.execHeartbeat p s
  | .status p => Sys2Proof.Machine.execStatus p s
  | .pacedSend site => Sys2Proof.Machine.execPacedSend site s
  | .pieceResendTimeout site o => Sys2Proof.Machine.execPieceResendTimeout site o s
  | .pieceAckTimer site o => Sys2Proof.Machine.execPieceAckTimer site o s
  | .heartbeatTimer site => Sys2Proof.Machine.execHeartbeatTimer site s
  | .partnerSilent site => Sys2Proof.Machine.execPartnerSilent site s
  | .fetchTimeout bind => Sys2Proof.Machine.execFetchTimeout bind s
  | .joinResend bind => Sys2Proof.Machine.execJoinResend bind s
  | .farPortControlFrame port k => Sys2Proof.Machine.execFarPortControlFrame port k s
  | .ptpEventMessage port correction locked => Sys2Proof.Machine.execPtpEventMessage port correction locked s
  | .memPatrolRead addr r => Sys2Proof.Machine.execMemPatrolRead addr r s
  | .memDeviceFailed u => Sys2Proof.Machine.execMemDeviceFailed u s
  | .auditBandRun tile agree => Sys2Proof.Machine.execAuditBandRun tile agree s
  | .pairTimeout tile number => Sys2Proof.Machine.execPairTimeout tile number s
  | .columnTest tile => Sys2Proof.Machine.execColumnTest tile s
  | .columnTestDone tile failed => Sys2Proof.Machine.execColumnTestDone tile failed s
  | .launch ring => Sys2Proof.Machine.execLaunch ring s
  | .nop ring => Sys2Proof.Machine.execNop ring s
  | .create ring => Sys2Proof.Machine.execCreate ring s
  | .enable ring => Sys2Proof.Machine.execEnable ring s
  | .disable ring => Sys2Proof.Machine.execDisable ring s
  | .destroy ring => Sys2Proof.Machine.execDestroy ring s
  | .cast ring => Sys2Proof.Machine.execCast ring s
  | .functionStartDone kind index => Sys2Proof.Machine.execFunctionStartDone kind index s
  | .startAbort kind index => Sys2Proof.Machine.execStartAbort kind index s
  | .functionStopDone kind index => Sys2Proof.Machine.execFunctionStopDone kind index s
  | .ringCommandTake => Sys2Proof.Machine.execRingCommandTake s
  | .completionPost ring => Sys2Proof.Machine.execCompletionPost ring s
  | .functionEventPost => Sys2Proof.Machine.execFunctionEventPost s
  | .interruptModerationTimeout ring => Sys2Proof.Machine.execInterruptModerationTimeout ring s
  | .ringEnable ring => Sys2Proof.Machine.execRingEnable ring s
  | .ringDisable ring => Sys2Proof.Machine.execRingDisable ring s
  | .cmdTailDoorbell ring v => Sys2Proof.Machine.execCmdTailDoorbell ring v s
  | .cplHeadDoorbell ring v => Sys2Proof.Machine.execCplHeadDoorbell ring v s
  | .hubEvtStatusWrite v => Sys2Proof.Machine.execHubEvtStatusWrite v s
  | .hubEvtCtrlRead => Sys2Proof.Machine.execHubEvtCtrlRead s
  | .hubRwlRefusedRead => Sys2Proof.Machine.execHubRwlRefusedRead s
  | .registerWrite off width v => Sys2Proof.Machine.execRegisterWrite off width v s
  | .tsqCtxSel v => Sys2Proof.Machine.execTsqCtxSel v s
  | .gauSel v => Sys2Proof.Machine.execGauSel v s
  | .upuBindSel v => Sys2Proof.Machine.execUpuBindSel v s
  | .colStepSel v => Sys2Proof.Machine.execColStepSel v s
  | .fabChanSel v => Sys2Proof.Machine.execFabChanSel v s
  | .whdRoundSel v => Sys2Proof.Machine.execWhdRoundSel v s
  | .cisMouldSel v => Sys2Proof.Machine.execCisMouldSel v s
  | .obsSampleSel v => Sys2Proof.Machine.execObsSampleSel v s
  | .clearHistory entry => Sys2Proof.Machine.execClearHistory entry s
  | .gauRungSet v => Sys2Proof.Machine.execGauRungSet v s
  | .rasPartReset part => Sys2Proof.Machine.execRasPartReset part s
  | .rasTestStart v => Sys2Proof.Machine.execRasTestStart v s
  | .rasLogTailWrite v => Sys2Proof.Machine.execRasLogTailWrite v s
  | .fabPortRetrain port => Sys2Proof.Machine.execFabPortRetrain port s
  | .fabPortDisable port v => Sys2Proof.Machine.execFabPortDisable port v s
  | .pwrRegionStop region v => Sys2Proof.Machine.execPwrRegionStop region v s
  | .pwrRegionCgate region mask => Sys2Proof.Machine.execPwrRegionCgate region mask s
  | .pwrInputRead => Sys2Proof.Machine.execPwrInputRead s
  | .tbsAdj v => Sys2Proof.Machine.execTbsAdj v s
  | .obsMarkTrigger mask => Sys2Proof.Machine.execObsMarkTrigger mask s
  | .hostMark v => Sys2Proof.Machine.execHostMark v s
  | .traceArm session => Sys2Proof.Machine.execTraceArm session s
  | .linkedTrigger session source => Sys2Proof.Machine.execLinkedTrigger session source s
  | .traceExport session => Sys2Proof.Machine.execTraceExport session s
  | .samplePeriodEnd session => Sys2Proof.Machine.execSamplePeriodEnd session s
  | .fwUpdate => Sys2Proof.Machine.execFwUpdate s
  | .cfgWrite => Sys2Proof.Machine.execCfgWrite s
  | .cfgErase => Sys2Proof.Machine.execCfgErase s
  | .debugUnlock => Sys2Proof.Machine.execDebugUnlock s
  | .raiseFloor => Sys2Proof.Machine.execRaiseFloor s
  | .rekey => Sys2Proof.Machine.execRekey s
  | .factoryRestore => Sys2Proof.Machine.execFactoryRestore s
  | .secOpComplete => Sys2Proof.Machine.execSecOpComplete s
  | .mouldRead => Sys2Proof.Machine.execMouldRead s
  | .mouldWrite => Sys2Proof.Machine.execMouldWrite s
  | .mouldDelete => Sys2Proof.Machine.execMouldDelete s
  | .cisOpComplete => Sys2Proof.Machine.execCisOpComplete s
  | .mouldCommit mould => Sys2Proof.Machine.execMouldCommit mould s
  | .cisPatrol sb r => Sys2Proof.Machine.execCisPatrol sb r s
  | .cisRelocate sb => Sys2Proof.Machine.execCisRelocate sb s
  | .cisWearLevel => Sys2Proof.Machine.execCisWearLevel s
  | .cisBlockRetired sb channel => Sys2Proof.Machine.execCisBlockRetired sb channel s
  | .cisChannelLost channel => Sys2Proof.Machine.execCisChannelLost channel s
  | .powerGood => Sys2Proof.Machine.execPowerGood s
  | .identityKeyDerived => Sys2Proof.Machine.execIdentityKeyDerived s
  | .perstNAssert long => Sys2Proof.Machine.execPerstNAssert long s
  | .perstNDeassert => Sys2Proof.Machine.execPerstNDeassert s
  | .hostLinkTrained width speed => Sys2Proof.Machine.execHostLinkTrained width speed s
  | .hostLinkDown => Sys2Proof.Machine.execHostLinkDown s
  | .hostLinkDegraded width speed => Sys2Proof.Machine.execHostLinkDegraded width speed s
  | .hdmRead addr => Sys2Proof.Machine.execHdmRead addr s
  | .hdmWrite addr data poison cached => Sys2Proof.Machine.execHdmWrite addr data poison cached s
  | .cxlItemReceive st item => Sys2Proof.Machine.execCxlItemReceive st item s
  | .keyProg st d slot => Sys2Proof.Machine.execKeyProg st d slot s
  | .kSetGo st d => Sys2Proof.Machine.execKSetGo st d s
  | .ideKeySwitch st => Sys2Proof.Machine.execIdeKeySwitch st s
  | .getVersion q => Sys2Proof.Machine.execGetVersion q s
  | .getCapabilities q => Sys2Proof.Machine.execGetCapabilities q s
  | .negotiateAlgorithms q version supported => Sys2Proof.Machine.execNegotiateAlgorithms q version supported s
  | .getDigests q => Sys2Proof.Machine.execGetDigests q s
  | .getCertificate q slot offset len => Sys2Proof.Machine.execGetCertificate q slot offset len s
  | .challenge q slot nonce => Sys2Proof.Machine.execChallenge q slot nonce s
  | .getMeasurements q index signed nonce => Sys2Proof.Machine.execGetMeasurements q index signed nonce s
  | .keyExchange q session ok => Sys2Proof.Machine.execKeyExchange q session ok s
  | .finish q session ok => Sys2Proof.Machine.execFinish q session ok s
  | .spdmHeartbeat q session => Sys2Proof.Machine.execSpdmHeartbeat q session s
  | .keyUpdate q session => Sys2Proof.Machine.execKeyUpdate q session s
  | .endSession q session => Sys2Proof.Machine.execEndSession q session s
  | .setCertificate q slot chain => Sys2Proof.Machine.execSetCertificate q slot chain s
  | .inputBandChange mv => Sys2Proof.Machine.execInputBandChange mv s
  | .powerFail mv => Sys2Proof.Machine.execPowerFail mv s
  | .overVoltageStop mv => Sys2Proof.Machine.execOverVoltageStop mv s
  | .thermtrip => Sys2Proof.Machine.execThermtrip s
  | .capTick power => Sys2Proof.Machine.execCapTick power s
  | .capUnmet => Sys2Proof.Machine.execCapUnmet s
  | .thermalTick region tj => Sys2Proof.Machine.execThermalTick region tj s
  | .railStep region => Sys2Proof.Machine.execRailStep region s
  | .refLost => Sys2Proof.Machine.execRefLost s
  | .refReturn => Sys2Proof.Machine.execRefReturn s
  | .presenceAssert => Sys2Proof.Machine.execPresenceAssert s
  | .presenceWindowExpire => Sys2Proof.Machine.execPresenceWindowExpire s
  | .sealBroken => Sys2Proof.Machine.execSealBroken s
  | .bootOrderComplete order => Sys2Proof.Machine.execBootOrderComplete order s
  | .partitionResetEnd part => Sys2Proof.Machine.execPartitionResetEnd part s
  | .holdUpEnd => Sys2Proof.Machine.execHoldUpEnd s
  | .mouldEraseDone mould => Sys2Proof.Machine.execMouldEraseDone mould s
  | .tbsSlewDone => Sys2Proof.Machine.execTbsSlewDone s
  | .presenceDeassert => Sys2Proof.Machine.execPresenceDeassert s
  | .farPortLinkChange port up => Sys2Proof.Machine.execFarPortLinkChange port up s
  | .debugAccess r => Sys2Proof.Machine.execDebugAccess r s
  | .debugHalt low => Sys2Proof.Machine.execDebugHalt low s
  | .dynamicAddressAssignment addr => Sys2Proof.Machine.execDynamicAddressAssignment addr s
  | .cxlCacheMemEnable cache mem dec => Sys2Proof.Machine.execCxlCacheMemEnable cache mem dec s

end Sys2Proof.Machine
end

