-- ==== Sys2Proof/Machine/Step.lean ====
section
/-!
DEFINITION. The step of the block: it runs the command at the front of the queue.
-/
namespace Sys2Proof.Machine

/-- One step: take the front command and run it on the state with the queue's rest. With an empty queue one nanosecond
passes (log 2). -/
def step (s : State) : Host.Outcome State Fault Refusal :=
  match s.pending with
  | [] => .next s.tick
  | c :: rest => exec c { s with pending := rest }

/-- No row of the opcode table gives bits, so no word spells a command. -/
def State.withFetchWord (s : State) (_nbits _w : Nat) : State := s

end Sys2Proof.Machine
end

