-- ==== Sys2Proof/Safety.lean ====
section
/-!
DEFINITION. The terms in which claims speak: the pieces of the state that a frame names, what it is that an
instruction issues and completes, and the soundness of a state that every step keeps.
-/
namespace Sys2Proof.Machine

/-! ## Frames -/

/-- The pieces of the state beside the register file and the queue of commands. -/
inductive Comp where
  | memory | poison
  | threads | turn | launches | caches | queues | gates | gauges
  | hub | coding | sampling | trace | memUnits | snoop
  | fabric | collect | update | wellhead
  | cistern | cisternRun | fuses | security | power | link
  | ras | errorLog | messages | free
  deriving DecidableEq, Repr

/-- A piece of the state is the same in two states. Memory is compared byte by byte. -/
def Comp.same (c : Comp) (s u : State) : Prop :=
  match c with
  | .memory => ∀ a, Memory.read a u.mem = Memory.read a s.mem
  | .poison => u.poison = s.poison
  | .threads => u.tsq.threads = s.tsq.threads
  | .turn => u.tsq.turns = s.tsq.turns
  | .launches => u.tsq.launches = s.tsq.launches ∧ u.tsq.answers = s.tsq.answers ∧ u.tsq.arrivals = s.tsq.arrivals ∧
      u.tsq.fetching = s.tsq.fetching
  | .caches => u.tsq.caches = s.tsq.caches
  | .queues => u.tsq.cmds = s.tsq.cmds ∧ u.tsq.blockedCmd = s.tsq.blockedCmd ∧ u.tsq.nextCmd = s.tsq.nextCmd ∧
      u.tsq.l1Next = s.tsq.l1Next ∧ u.tsq.pairNext = s.tsq.pairNext ∧ u.tsq.early = s.tsq.early
  | .gates => u.tsq.gates = s.tsq.gates ∧ u.tsq.flags = s.tsq.flags ∧ u.tsq.rungs = s.tsq.rungs
  | .gauges => u.tsq.gauges = s.tsq.gauges ∧ u.tsq.clearing = s.tsq.clearing
  | .hub => u.hub = s.hub
  | .coding => u.slots = s.slots
  | .sampling => u.obs.samplers = s.obs.samplers
  | .trace => u.obs.bufs = s.obs.bufs ∧ u.obs.linked = s.obs.linked
  | .memUnits => u.tiers.failed = s.tiers.failed ∧ u.tiers.rowErrors = s.tiers.rowErrors ∧ u.tiers.spared = s.tiers.spared
  | .snoop => u.tiers.snoop = s.tiers.snoop
  | .fabric => u.fabric = s.fabric
  | .collect => u.collect = s.collect
  | .update => u.update = s.update
  | .wellhead => u.wellhead = s.wellhead
  | .cistern => u.cistern = s.cistern
  | .cisternRun => u.cis = s.cis
  | .fuses => u.fuses = s.fuses
  | .security => u.security = s.security
  | .power => u.power = s.power
  | .link => u.link = s.link
  | .ras => u.ras = s.ras
  | .errorLog => u.rasLog = s.rasLog ∧ u.rasSeq = s.rasSeq
  | .messages => u.msixOut = s.msixOut
  | .free => u.freeCount = s.freeCount

/-- A set of register fields: one field of one entry, a field of every entry, a whole entry, a whole table. -/
inductive Reg where
  | one (f : Fld) (i : Nat)
  | col (f : Fld)
  | entry (t : Tab) (i : Nat)
  | table (t : Tab)
  deriving DecidableEq, Repr

/-- Does a set hold the field at a key? -/
def Reg.has (r : Reg) (k : RegKey) : Prop :=
  match r with
  | .one f i => k = ⟨f.tab, i, f.lo⟩
  | .col f => k.tab = f.tab ∧ k.lo = f.lo
  | .entry t i => k.tab = t ∧ k.i = i
  | .table t => k.tab = t

/-- From `s` to `u` only the pieces `cs` and the register fields `rs` change; the queue does not. -/
def State.Only (cs : List Comp) (rs : List Reg) (s u : State) : Prop :=
  u.pending = s.pending ∧ (∀ c, c ∉ cs → c.same s u) ∧
  ∀ k : RegKey, (∀ r ∈ rs, ¬ r.has k) → look k u.regs = look k s.regs

/-! ## Sound states -/

/-- What every command keeps: memory is in its canonical form; poisoned lines are listed once each, in rising order; the
register file lists each field once, only fields of its tables, with values of their widths; and a raise of the SVN floor that
runs was admitted above the floor (15, R497). -/
structure State.Sound (s : State) : Prop where
  memory : Memory.wf s.mem = true
  poison : s.poison.Pairwise (· < ·)
  listed : (s.regs.map Prod.fst).Nodup
  fields : ∀ e ∈ s.regs, ∃ f ∈ Tab.fields e.1.tab, f.lo = e.1.lo ∧ e.2 < 2 ^ f.len
  floor : ∀ o, s.security.op = some o → o.op = opRaiseFloor → o.reason = none → s.fuses.svnFloor ≤ o.arg

/-! ## Instructions of a thread -/

/-- Slot `t` holds thread `th`, which issues an instruction of `size` bytes: it is READY and does not wait for the hub's
answer, the sequencer of its tile has come to it (02, R47), its fetch lies in open space, aligned and free of poison, its predicate passes, and its level suffices (02, R46; 12,
R372, R375, R384). -/
def State.Issues (s : State) (t : ThreadRef) (th : Thread) (size : Nat) (pe pn : Bool) (pi : BitVec 3) (level : Nat) : Prop :=
  s.thread? t = some th ∧ th.status = .ready ∧ th.asking = none ∧ s.hasTurn t = true ∧
  s.rangeOpen t.tile.toNat th.pc.toNat size = true ∧ th.pc.toNat % 8 = 0 ∧ s.poisoned th.pc.toNat size = false ∧
  (pe = true → (th.pred pi ^^ pn) = true) ∧ level ≤ s.levelOf th.ctxIx

/-- The counters that every fetch and every scalar access may move (18, R558): the instructions of the tile and the bytes
read of each space. -/
def readCounters (t : ThreadRef) : List Reg :=
  [.one TileCnt.INSNS t.tile.toNat, .col DieCnt.HBM_READ_BYTES, .one ModuleCnt.LPDDR_READ_BYTES 0,
   .one ModuleCnt.CXL_RX_BYTES 0]

/-- The counters of bytes written. -/
def writeCounters : List Reg :=
  [.col DieCnt.HBM_WRITE_BYTES, .one ModuleCnt.LPDDR_WRITE_BYTES 0, .one ModuleCnt.CXL_TX_BYTES 0]

/-- Every other slot holds what it held. -/
def State.othersKeep (s : State) (t : ThreadRef) (u : State) : Prop := ∀ t', t' ≠ t → u.thread? t' = s.thread? t'

/-- The instruction completes and leaves `th` in its slot. Nothing else changes but the place of the
tile's sequencer, counters, the counts of sampling sessions, and the list of lines that host caches may hold (14, R451). -/
def State.Leaves (s : State) (c : Instr) (t : ThreadRef) (th : Thread) : Prop :=
  ∃ u, exec c s = .next u ∧ u.thread? t = some th ∧ s.othersKeep t u ∧
    State.Only [.threads, .turn, .sampling, .snoop] (readCounters t) s u

/-- A scalar access of `n` bytes at an address, aligned to `n`, lies in space that is open to the thread's tile (02, R584; 12,
R391 to R393). -/
def State.Opens (s : State) (t : ThreadRef) (a n : Nat) : Prop := s.rangeOpen t.tile.toNat a n = true ∧ a % n = 0

/-- The instruction completes, leaves `th` in its slot and stores the number `v` in the `n` bytes at `a`. Every other byte
reads as before, and so does every poison bit. -/
def State.Stores (s : State) (c : Instr) (t : ThreadRef) (th : Thread) (a n v : Nat) : Prop :=
  ∃ u, exec c s = .next u ∧ u.thread? t = some th ∧ s.othersKeep t u ∧
    (∀ i, i < n → Memory.read (a + i) u.mem = BitVec.ofNat 8 (v / 256 ^ i)) ∧
    (∀ x, x < a ∨ a + n ≤ x → Memory.read x u.mem = Memory.read x s.mem) ∧
    (∀ l, l ∈ u.poison ↔ l ∈ s.poison) ∧
    State.Only [.threads, .turn, .sampling, .snoop, .memory, .poison] (readCounters t ++ writeCounters) s u

/-! ## Engine instructions -/

/-- The bits of word 1 that an operation reserves (12, R395 to R410). -/
def EngOp.reservedBits (op : EngOp) : Word :=
  match op with
  | .mma => mmaReserved
  | .tload => BitVec.twoPow 64 3 ||| bitsFrom 6
  | .vact | .vactb | .vew => vectorReserved
  | .rnormF | .rnormB | .rsmaxF | .rsmaxB | .rmerge | .rstat => rowReserved
  | .cmove => bitsFrom 1
  | .uprefetch => bitsFrom 0
  | .uapply => bitsFrom 5
  | .tmove => bitsFrom 6
  | .creduce => bitsFrom 7
  | .tbuild => bitsFrom 8
  | .csend | .crecv | .ucast => bitsFrom 13
  | .cshift => bitsFrom 18
  | .cgather => bitsFrom 28

/-- A descriptor operand that takes further registers leaves room for them below d15 (12, R377). -/
def EngOp.registersFit (op : EngOp) (e : FormE) : Prop :=
  match op with
  | .mma => e.w1.getLsbD 10 = true → e.da.toNat + 1 < 16 ∧ e.db.toNat + 1 < 16 ∧ e.dc.toNat + 1 < 16
  | .vact => gatedAct (e.w1.toNat / 16 % 16) = true → e.dc.toNat + 1 < 16
  | .vactb => gatedAct (e.w1.toNat / 16 % 16) = true → e.da.toNat + 1 < 16 ∧ e.dc.toNat + 1 < 16
  | .rnormB => e.w1.getLsbD 7 = true → e.dc.toNat + (if e.w1.getLsbD 4 then 1 else 2) < 16
  | .rsmaxB => e.w1.getLsbD 9 = true → e.db.toNat + 1 < 16
  | .cgather => e.w1.toNat / 2 ^ 26 % 4 = 3 → e.dc.toNat + 1 < 16
  | _ => True

/-- What an operation's operands are checked for at issue: the fault, or none (12, R376, R383). -/
def EngOp.operandFault (op : EngOp) : State → EngCmd → Option IssueFault :=
  match op with
  | .mma => mmaCheck | .tbuild => tbuildCheck | .tload => tloadCheck | .vact => vactCheck | .vactb => vactbCheck
  | .vew => vewCheck | .rnormF => rnormFCheck | .rnormB => rnormBCheck | .rsmaxF => rsmaxFCheck | .rsmaxB => rsmaxBCheck
  | .rmerge => rmergeCheck | .rstat => rstatCheck | .cmove => cmoveCheck | .tmove => tmoveCheck | .cgather => cgatherCheck
  | .creduce => creduceCheck | .cshift => cshiftCheck | .csend => csendCheck | .crecv => crecvCheck | .uapply => uapplyCheck
  | .uprefetch => fun _ _ => none | .ucast => ucastCheck

/-- The level that an operation needs (12, R384). -/
def EngOp.needs (op : EngOp) : Nat := if op = .ucast then 1 else 0

/-! ## Frames of other members -/

/-- A frame of an operation, from the member of its channel that it names, stands first of its flow among the frames that the
fabric has delivered (08, R258; 09, R302). -/
def State.Arrives (s : State) (op : Nat) (f : Frame) : Prop := f.op = op ∧ s.frontFrame f = true ∧ s.knownSender f = true

/-- A sound packet of site `x`, for the round engine binding `i`, arrives at a far port that is ON with its link up (10, R338,
R343). -/
def State.Hears (s : State) (p : WxpHeader) (i x : Nat) : Prop :=
  p.port < 2 ∧ s.isOn .farPort p.port = true ∧ s.rbit WhdPort.LINK_UP p.port = true ∧ s.partnerBy p.addr.toNat = some x ∧
  p.sound = true ∧ p.reserved = false ∧ p.srcSite = x ∧ s.jobBinding p.job.toNat x = some i

/-! ## What each command may change -/

/-- The pieces of the state and the tables of the register file that a command may change. -/
structure Footprint where
  comps : List Comp
  tabs : List Tab
  deriving DecidableEq, Repr

def Footprint.join (l : List Footprint) : Footprint := ⟨l.flatMap (·.comps), l.flatMap (·.tabs)⟩

/-- Every piece but the queue of commands. -/
def Footprint.anything : Footprint := ⟨[.memory, .poison, .threads, .turn, .launches, .caches, .queues, .gates, .gauges,
  .hub, .coding, .sampling, .trace, .memUnits, .snoop, .fabric, .collect, .update, .wellhead, .cistern, .cisternRun, .fuses,
  .security, .power, .link, .ras, .errorLog, .messages, .free], [.hubRwlRefused, .hubIdent, .hubD2d, .ctx, .ctxSel, .gauSel,
  .gauge, .gauRung, .census, .censusSum, .tsqSplit, .bindSel, .bind, .upuLend, .upuAudit, .upuStatus, .chan, .colStep,
  .fabArb, .fabId, .fabRoute, .fabPort, .whdPort, .round, .partner, .memDev, .scrub, .tmvStatus, .part, .rasLog, .rasTest,
  .hubLink, .ring, .evtStatus, .evtCtrl, .secBoot, .secState, .secOp, .cisStatus, .cisCtrl, .cisWear, .mould, .pwrRegion,
  .pwrCap, .pwrStatus, .pwrInput, .tbsStatus, .tileCnt, .regionCnt, .dieCnt, .moduleCnt, .sample, .trace, .evtEnable,
  .obsMark, .secFwBuild, .secOpAddr, .secOpLen, .secOpArg, .cisWritten, .cisNand, .cisOp, .cisOpAddr, .cisOpLen, .cisOpArg,
  .tbsTime, .colSel, .chanSel, .roundSel, .mouldSel, .sampleSel, .msix, .msixPba]⟩

/-- An error record with its event line and its trace record (18). -/
def Footprint.logging : Footprint := ⟨[.trace, .errorLog, .messages], [.rasLog, .evtStatus, .dieCnt, .trace, .msixPba]⟩

/-- A function on its way to another state, and the commands that wait for it (14). -/
def Footprint.ending : Footprint := ⟨[.hub], [.ctx, .bind, .chan, .whdPort, .round, .part, .ring, .sample, .trace]⟩

/-- Stores, the counters of bytes, and the lines that host caches may hold. -/
def Footprint.writing : Footprint := ⟨[.memory, .poison, .sampling, .snoop], [.dieCnt, .moduleCnt]⟩

/-- Reads that counters count. -/
def Footprint.reading : Footprint := ⟨[.sampling, .snoop], [.dieCnt, .moduleCnt]⟩

/-- Frames on their way out (09). -/
def Footprint.sending : Footprint := ⟨[.fabric, .collect], [.chan]⟩

/-- An event line and its message (14). -/
def Footprint.signalling : Footprint := ⟨[.messages], [.evtStatus, .msixPba]⟩

/-- The footprint of a command: whatever it does, it changes nothing else. -/
def footprint (c : Instr) : Footprint :=
  match c with
  | .iadd .. | .ilogic .. | .ishift .. | .icmp .. | .imovi .. | .plogic .. | .f32 .. | .f64 .. | .fcvt .. | .movs ..
    | .br .. | .jmp .. | .call .. | .exit .. | .sgate .. | .ld .. | .fence .. | .dload .. | .dsetf .. | .dgetf ..
    | .dcopy .. | .twait .. | .tset .. | .tget .. | .mma .. | .tbuild .. | .tload .. | .vact .. | .vactb .. | .vew ..
    | .rnormF .. | .rnormB .. | .rsmaxF .. | .rsmaxB .. | .rmerge .. | .rstat .. | .cmove .. | .tmove .. | .cgather ..
    | .creduce .. | .cshift .. | .csend .. | .crecv .. | .uapply .. | .uprefetch .. | .ucast .. | .gread .. | .grung ..
    | .xstat .. | .fwcall .. => Footprint.join [.logging, .ending, .reading, .sending, ⟨[.threads, .turn, .queues, .gates],
    [.tileCnt]⟩]
  | .tspawn .. => Footprint.join [.logging, .ending, .reading, .sending, ⟨[.threads, .turn, .launches, .queues, .gates],
    [.tileCnt]⟩]
  | .st .. | .aadd .. | .amin .. | .amax .. | .aswap .. | .acas .. | .dsave .. => Footprint.join [.logging, .ending,
    .writing, .sending, ⟨[.threads, .turn, .queues, .gates], [.tileCnt]⟩]
  | .tpost .. => Footprint.join [.logging, .ending, .reading, .sending, ⟨[.threads, .turn, .queues, .gates], [.fabPort,
    .tileCnt]⟩]
  | .sysrd .. => Footprint.join [.logging, .ending, .reading, .sending, ⟨[.threads, .turn, .queues, .gates, .free],
    [.tileCnt]⟩]
  | .syswr .. | .hubEvtStatusWrite .. | .registerWrite .. | .tsqCtxSel .. | .gauSel .. | .upuBindSel .. | .colStepSel ..
    | .fabChanSel .. | .whdRoundSel .. | .cisMouldSel .. | .obsSampleSel .. | .gauRungSet .. | .rasPartReset ..
    | .rasTestStart .. | .rasLogTailWrite .. | .pwrRegionStop .. | .pwrRegionCgate .. | .tbsAdj .. | .powerGood ..
    | .perstNAssert .. | .powerFail .. | .overVoltageStop .. | .thermtrip .. | .bootOrderComplete .. | .holdUpEnd ..
    => .anything
  | .queueAccept .. => ⟨[.threads, .queues], []⟩
  | .engineCommandStart .. => Footprint.join [.logging, .ending, .writing, .sending, ⟨[.threads, .caches, .queues, .gates,
    .update, .free], [.fabPort, .tileCnt]⟩]
  | .engineCommandComplete .. => Footprint.join [.logging, .ending, .writing, .sending, ⟨[.threads, .queues, .gates,
    .gauges, .coding, .update, .ras, .free], [.census, .censusSum, .fabPort, .tmvStatus, .tileCnt, .regionCnt]⟩]
  | .handshakeTimeout .. => Footprint.join [.logging, .ending, .sending, ⟨[.threads, .queues, .gates, .sampling, .update,
    .ras], [.pwrRegion]⟩]
  | .launchAdmit .. => Footprint.join [.logging, .ending, .sending, ⟨[.threads, .launches, .queues, .gates], []⟩]
  | .launchTileArrival .. | .contextCacheFill .. => ⟨[.threads, .launches, .caches], []⟩
  | .stepGateDecide .. => Footprint.join [.logging, .ending, .writing, .sending, ⟨[.threads, .queues, .gates, .gauges,
    .update, .wellhead, .ras], [.gauge, .colStep, .fabPort, .tileCnt]⟩]
  | .stateFetch .. => Footprint.join [.reading, ⟨[.update], []⟩]
  | .updateRuleRun .. => Footprint.join [.logging, .ending, .writing, .sending, ⟨[.threads, .queues, .gates, .update,
    .wellhead, .ras, .free], [.tileCnt]⟩]
  | .shardCommit .. => Footprint.join [.logging, .ending, .writing, .sending, ⟨[.threads, .queues, .gates, .gauges, .update,
    .wellhead, .ras], [.census, .censusSum, .fabPort, .tileCnt, .regionCnt]⟩]
  | .masterCorrectionCommit .. => Footprint.join [.logging, .ending, .writing, .sending, ⟨[.threads, .queues, .gates,
    .gauges, .update, .wellhead, .ras], [.regionCnt]⟩]
  | .driftAudit .. => Footprint.join [.logging, .writing, ⟨[.update], [.upuAudit]⟩]
  | .rootJobStart .. => ⟨[.update], []⟩
  | .rootJobDone .. => Footprint.join [.logging, ⟨[.update], [.bind]⟩]
  | .castComplete .. => Footprint.join [.logging, .writing, ⟨[.queues, .hub, .update, .wellhead, .cistern, .cisternRun],
    [.cisStatus, .mould]⟩]
  | .sumpWrite .. => Footprint.join [.logging, ⟨[.collect, .update], []⟩]
  | .gatherServe .. => Footprint.join [.logging, .reading, .sending, ⟨[.threads], [.fabPort, .tileCnt]⟩]
  | .contributionLineGrant .. | .contribution .. => Footprint.join [.logging, .writing, .sending, ⟨[.threads, .gates],
    [.fabPort, .part, .tileCnt]⟩]
  | .reductionDeadline .. => Footprint.join [.logging, .writing, ⟨[.gates, .collect], [.chan, .part]⟩]
  | .reductionAbandon .. => Footprint.join [.logging, .writing, ⟨[.gates, .collect], [.chan]⟩]
  | .leaseTimeout .. => Footprint.join [.logging, ⟨[.collect], []⟩]
  | .contribUnaccepted .. => Footprint.join [.logging, ⟨[.gates, .collect], []⟩]
  | .gatherTimeout .. => Footprint.join [.writing, ⟨[.collect], []⟩]
  | .gatherReq .. | .leaseRelease .. | .grant .. | .tokenPost .. | .gateFlags .. | .bulk .. | .linkBlockReceive ..
    => Footprint.join [.logging, .sending, ⟨[.threads, .sampling], [.fabPort, .tileCnt]⟩]
  | .gatherData .. => Footprint.join [.logging, .writing, .sending, ⟨[.threads, .gauges], [.fabPort, .tileCnt, .regionCnt]⟩]
  | .shift .. | .send .. => Footprint.join [.logging, .writing, .sending, ⟨[.threads], [.fabPort, .tileCnt]⟩]
  | .hello .. => Footprint.join [.logging, .ending, .sending, ⟨[.threads, .sampling], [.fabPort, .evtCtrl, .tileCnt]⟩]
  | .reject .. => ⟨[.fabric], [.chan]⟩
  | .digest .. => Footprint.join [.logging, .sending, ⟨[.threads, .sampling, .ras], [.census, .censusSum, .fabPort, .part,
    .tileCnt]⟩]
  | .c0Admit .. => Footprint.join [.logging, .sending, ⟨[.threads], [.fabPort]⟩]
  | .flitTransmit .. => ⟨[.sampling, .fabric], [.fabPort]⟩
  | .linkAckTimeout .. | .fabPortRetrain .. | .fabPortDisable .. => Footprint.join [.logging, ⟨[.fabric], [.chan,
    .fabPort]⟩]
  | .portTrainingDone .. => Footprint.join [.logging, ⟨[.fabric], [.fabPort]⟩]
  | .frameSeqTimeout .. => Footprint.join [.logging, ⟨[.fabric], [.chan]⟩]
  | .channelHelloTimeout .. => Footprint.join [.logging, .ending, ⟨[], [.evtCtrl]⟩]
  | .d2dLinkDown .. | .d2dLinkDegraded .. => Footprint.join [.logging, ⟨[], [.hubD2d]⟩]
  | .hubLinkDown .. => Footprint.join [.logging, .ending, .sending, ⟨[.threads, .queues, .gates, .ras], [.hubD2d]⟩]
  | .wxpHello .. | .piece .. | .join .. => Footprint.join [.logging, .ending, .writing, .sending, ⟨[.wellhead], [.partner]⟩]
  | .pieceAck .. | .heartbeat .. | .status .. | .farPortControlFrame .. => ⟨[.wellhead], [.whdPort, .partner, .moduleCnt]⟩
  | .ledgerReq .. | .fetch .. => Footprint.join [.logging, ⟨[.wellhead], [.whdPort, .partner, .moduleCnt]⟩]
  | .applied .. => Footprint.join [.logging, .ending, .sending, ⟨[.wellhead], [.partner, .moduleCnt]⟩]
  | .pacedSend .. => Footprint.join [.logging, .ending, .sending, ⟨[.sampling, .wellhead], [.partner, .moduleCnt]⟩]
  | .pieceResendTimeout .. => Footprint.join [.logging, ⟨[.update, .wellhead], []⟩]
  | .pieceAckTimer .. | .heartbeatTimer .. | .joinResend .. => ⟨[.wellhead], []⟩
  | .partnerSilent .. => Footprint.join [.logging, .ending, .writing, .sending, ⟨[.update, .wellhead], [.partner]⟩]
  | .fetchTimeout .. => Footprint.join [.logging, .ending, .sending, ⟨[.wellhead], []⟩]
  | .ptpEventMessage .. => Footprint.join [.logging, ⟨[.wellhead, .power], [.tbsStatus, .tbsTime]⟩]
  | .memPatrolRead .. => Footprint.join [.logging, ⟨[.memory, .poison, .memUnits, .cistern, .free], [.memDev]⟩]
  | .memDeviceFailed .. => Footprint.join [.logging, ⟨[.memUnits], [.memDev]⟩]
  | .auditBandRun .. => Footprint.join [.logging, ⟨[.ras, .free], [.census, .censusSum, .part, .tileCnt]⟩]
  | .pairTimeout .. => Footprint.join [.logging, ⟨[.ras], [.census, .censusSum, .part]⟩]
  | .columnTest .. => ⟨[.ras], [.rasTest]⟩
  | .columnTestDone .. => Footprint.join [.logging, ⟨[.cistern, .ras], [.census, .censusSum, .rasTest]⟩]
  | .launch .. => ⟨[.launches, .hub], [.ring]⟩
  | .nop .. | .create .. => ⟨[.hub], [.ring]⟩
  | .enable .. => Footprint.join [.logging, .ending, .reading, .sending, ⟨[.threads, .wellhead], [.fabPort, .tileCnt]⟩]
  | .disable .. => Footprint.join [.logging, .ending, .sending, ⟨[.threads, .queues, .gates, .update, .cistern, .ras],
    [.gauge, .census, .censusSum, .tsqSplit, .evtCtrl]⟩]
  | .destroy .. => Footprint.join [.ending, ⟨[.fabric, .update], []⟩]
  | .cast .. => ⟨[.hub, .update], [.ring]⟩
  | .functionStartDone .. => Footprint.join [.logging, .ending, .writing, ⟨[.gates, .gauges, .update, .wellhead], [.gauge,
    .tsqSplit, .evtCtrl, .regionCnt]⟩]
  | .startAbort .. => Footprint.join [.logging, .ending, .writing, .sending, ⟨[.threads, .queues, .gates, .gauges, .update,
    .wellhead], [.gauge, .tsqSplit, .evtCtrl, .regionCnt]⟩]
  | .functionStopDone .. => Footprint.join [.logging, .ending, .reading, .sending, ⟨[.threads, .queues, .gates, .update,
    .wellhead, .cistern, .ras], [.gauge, .census, .censusSum, .tsqSplit, .fabPort, .partner, .evtCtrl, .tileCnt]⟩]
  | .ringCommandTake .. => Footprint.join [.reading, ⟨[.hub], [.ring]⟩]
  | .completionPost .. | .functionEventPost .. => Footprint.join [.writing, ⟨[.hub, .messages], [.ring, .msixPba]⟩]
  | .interruptModerationTimeout .. => ⟨[.hub, .messages], [.msixPba]⟩
  | .ringEnable .. | .ringDisable .. => Footprint.join [.logging, .ending, .reading, .sending, ⟨[.threads, .queues, .gates,
    .update, .wellhead, .cistern, .ras], [.gauge, .census, .censusSum, .tsqSplit, .fabPort, .evtCtrl, .tileCnt]⟩]
  | .cmdTailDoorbell .. | .cplHeadDoorbell .. => Footprint.join [.logging, ⟨[], [.ring]⟩]
  | .hubEvtCtrlRead .. => ⟨[.hub, .link, .free], [.evtCtrl]⟩
  | .hubRwlRefusedRead .. => ⟨[.hub, .link, .free], [.hubRwlRefused]⟩
  | .clearHistory .. => ⟨[.gauges], [.gauge]⟩
  | .pwrInputRead .. => ⟨[.hub, .link, .free], [.pwrInput]⟩
  | .obsMarkTrigger .. | .linkedTrigger .. => .logging
  | .hostMark .. => ⟨[.trace], [.dieCnt, .trace]⟩
  | .traceArm .. => ⟨[.trace], [.trace]⟩
  | .traceExport .. => Footprint.join [.logging, .writing]
  | .samplePeriodEnd .. => Footprint.join [.writing, ⟨[], [.sample]⟩]
  | .fwUpdate .. => Footprint.join [.logging, .reading, ⟨[.cistern, .security], []⟩]
  | .cfgWrite .. => Footprint.join [.reading, ⟨[.cistern, .security], []⟩]
  | .cfgErase .. | .identityKeyDerived .. => ⟨[.cistern, .security], []⟩
  | .debugUnlock .. => Footprint.join [.logging, ⟨[.security], [.secState]⟩]
  | .raiseFloor .. => ⟨[.fuses, .security], []⟩
  | .rekey .. => Footprint.join [.logging, ⟨[.cistern, .fuses, .security], []⟩]
  | .factoryRestore .. => Footprint.join [.logging, ⟨[.queues, .hub, .update, .cistern, .cisternRun, .security], [.mould]⟩]
  | .secOpComplete .. => Footprint.join [.signalling, ⟨[.security], [.hubLink, .secBoot, .secOp]⟩]
  | .mouldRead .. => Footprint.join [.writing, ⟨[.cistern, .cisternRun], [.mould]⟩]
  | .mouldWrite .. => Footprint.join [.logging, .reading, ⟨[.queues, .hub, .update, .cistern, .cisternRun], [.cisStatus,
    .mould]⟩]
  | .mouldDelete .. => ⟨[.cistern, .cisternRun], [.mould]⟩
  | .cisOpComplete .. => Footprint.join [.signalling, ⟨[.cisternRun], [.cisOp]⟩]
  | .mouldCommit .. => ⟨[.queues, .hub, .update, .cistern, .cisternRun], [.mould]⟩
  | .cisPatrol .. => Footprint.join [.logging, ⟨[.queues, .hub, .update, .cistern, .cisternRun, .free], [.cisStatus,
    .mould]⟩]
  | .cisRelocate .. | .cisBlockRetired .. | .cisChannelLost .. | .mouldEraseDone .. => Footprint.join [.logging, ⟨[.queues,
    .hub, .update, .cistern, .cisternRun], [.cisStatus, .mould]⟩]
  | .cisWearLevel .. => ⟨[.cistern], []⟩
  | .perstNDeassert .. => ⟨[.power], []⟩
  | .hostLinkTrained .. => Footprint.join [.signalling, ⟨[], [.hubLink]⟩]
  | .hostLinkDown .. | .hostLinkDegraded .. | .cxlItemReceive .. => Footprint.join [.logging, ⟨[.link], [.hubLink]⟩]
  | .hdmRead .. => Footprint.join [.reading, ⟨[.link], []⟩]
  | .hdmWrite .. => .writing
  | .keyProg .. => Footprint.join [.signalling, ⟨[.security, .link], [.hubLink]⟩]
  | .kSetGo .. | .ideKeySwitch .. | .cxlCacheMemEnable .. => Footprint.join [.signalling, ⟨[.link], [.hubLink]⟩]
  | .getVersion .. | .getCapabilities .. | .negotiateAlgorithms .. | .getDigests .. | .getCertificate .. | .challenge ..
    | .getMeasurements .. | .keyExchange .. | .finish .. | .spdmHeartbeat .. | .keyUpdate .. | .endSession ..
    | .presenceDeassert .. | .debugAccess .. | .debugHalt .. | .dynamicAddressAssignment .. => ⟨[.security], []⟩
  | .setCertificate .. => Footprint.join [.logging, ⟨[.cistern, .security], []⟩]
  | .inputBandChange .. => Footprint.join [.logging, ⟨[], [.pwrStatus, .pwrInput]⟩]
  | .capTick .. => Footprint.join [.signalling, ⟨[.sampling, .power], [.pwrStatus, .pwrInput, .moduleCnt]⟩]
  | .capUnmet .. => Footprint.join [.logging, ⟨[], [.pwrStatus]⟩]
  | .thermalTick .. => Footprint.join [.logging, ⟨[.power], [.pwrRegion, .pwrStatus]⟩]
  | .railStep .. => ⟨[.power], [.pwrRegion]⟩
  | .refLost .. => Footprint.join [.logging, ⟨[], [.tbsStatus]⟩]
  | .refReturn .. | .tbsSlewDone .. => Footprint.join [.signalling, ⟨[], [.tbsStatus]⟩]
  | .presenceAssert .. => ⟨[.security], [.secState]⟩
  | .presenceWindowExpire .. => ⟨[], [.secState]⟩
  | .sealBroken .. => Footprint.join [.logging, ⟨[.fuses], []⟩]
  | .partitionResetEnd .. => Footprint.join [.logging, .ending, .sending, ⟨[.memory, .poison, .threads, .launches, .queues,
    .coding, .sampling, .update, .wellhead, .cistern, .ras], [.census, .censusSum, .upuAudit, .fabPort, .partner, .evtCtrl,
    .pwrRegion, .tileCnt]⟩]
  | .farPortLinkChange .. => ⟨[], [.whdPort]⟩

end Sys2Proof.Machine
end

