-- ==== Sys2Proof/Certificates/Slice0/Obligations.lean ====
section
/-!
DEFINITION. The statements about the model, from the numbered rules of the spec.
-/

open Sys2Proof Sys2Proof.Machine

/-! ## Scalar instructions of a thread (12) -/

/-- 12, R385: what IADD, ILOGIC, ISHIFT, ICMP, IMOVI and PLOGIC compute, for every function code of the table and every register
that their fields name in the thread's files (R376). -/
def Obligations.IntegerInstructionsCompute : Prop :=
  ∀ (s : State) (t : ThreadRef) (th : Thread) (f : FormS), s.Issues t th 8 f.pe f.pn f.pi 0 →
    let a := th.reg f.src1
    let imm : Word := f.imm.signExtend 64
    let b := if f.fn.getLsbD 3 then imm else th.reg f.src2
    let fn := f.fn.toNat % 8
    let n := b.toNat % 64
    let x := th.pred (f.src1.truncate 3)
    let y := th.pred (f.src2.truncate 3)
    (∀ v, (fn = 0 ∧ v = a + b) ∨ (fn = 1 ∧ v = a - b) ∨ (fn = 2 ∧ v = a * b) ∨
        (fn = 3 ∧ v = BitVec.ofInt 64 (a.toInt * b.toInt / 2 ^ 64)) ∨
        (fn = 4 ∧ v = BitVec.ofNat 64 (a.toNat * b.toNat / 2 ^ 64)) →
      s.Leaves (.iadd t f) t ((th.setReg f.dst v).advance 8)) ∧
    (∀ v, (fn = 0 ∧ v = a &&& b) ∨ (fn = 1 ∧ v = a ||| b) ∨ (fn = 2 ∧ v = a ^^^ b) ∨ (fn = 3 ∧ v = a &&& ~~~b) →
      s.Leaves (.ilogic t f) t ((th.setReg f.dst v).advance 8)) ∧
    (∀ v, (fn = 0 ∧ v = a <<< n) ∨ (fn = 1 ∧ v = a >>> n) ∨ (fn = 2 ∧ v = a.sshiftRight n) ∨ (fn = 3 ∧ v = a.rotateLeft n) →
      s.Leaves (.ishift t f) t ((th.setReg f.dst v).advance 8)) ∧
    (∀ v : Bool, (fn = 0 ∧ (v = true ↔ a = b)) ∨ (fn = 1 ∧ (v = true ↔ a ≠ b)) ∨
        (fn = 2 ∧ (v = true ↔ a.toInt < b.toInt)) ∨ (fn = 3 ∧ (v = true ↔ b.toInt ≤ a.toInt)) ∨
        (fn = 4 ∧ (v = true ↔ a.toNat < b.toNat)) ∨ (fn = 5 ∧ (v = true ↔ b.toNat ≤ a.toNat)) → f.dst.toNat < 8 →
      s.Leaves (.icmp t f) t ((th.setPred (f.dst.truncate 3) v).advance 8)) ∧
    (∀ v : Word, (fn = 0 ∧ v = imm) ∨ (fn = 1 ∧ v = f.imm ++ (th.reg f.dst).truncate 32) →
      s.Leaves (.imovi t f) t ((th.setReg f.dst v).advance 8)) ∧
    (∀ v, (fn = 0 ∧ v = (x && y)) ∨ (fn = 1 ∧ v = (x || y)) ∨ (fn = 2 ∧ v = (x ^^ y)) ∨ (fn = 3 ∧ v = !x) ∨
        (fn = 4 ∧ v = a.getLsbD (f.imm.toNat % 64)) →
      f.dst.toNat < 8 → (fn < 4 → f.src1.toNat < 8) → (fn < 3 → f.src2.toNat < 8) →
      s.Leaves (.plogic t f) t ((th.setPred (f.dst.truncate 3) v).advance 8))

/-- 12, R386: each floating-point scalar result is the exact result of its operation on the operands' values, rounded to
the format of the result. -/
def Obligations.FloatInstructionsRoundOnce : Prop :=
  ∀ (s : State) (t : ThreadRef) (th : Thread) (f : FormS), s.Issues t th 8 f.pe f.pn f.pi 0 →
    let a := (th.reg f.src1).toNat
    let b := (if f.fn.getLsbD 3 then (f.imm.signExtend 64 : Word) else th.reg f.src2).toNat
    let fn := f.fn.toNat % 8
    let exact (x y v : Val) := (fn = 0 ∧ v = x.add y) ∨ (fn = 1 ∧ v = x.sub y) ∨ (fn = 2 ∧ v = x.mul y) ∨ (fn = 3 ∧ v = x.div y) ∨
      (fn = 4 ∧ v = x.max y) ∨ (fn = 5 ∧ v = x.min y) ∨ (fn = 6 ∧ v = x.sqrt)
    (∀ v, exact (ofF32 a) (ofF32 b) v → s.Leaves (.f32 t f) t ((th.setReg f.dst (BitVec.ofNat 64 (toF32 v))).advance 8)) ∧
    (∀ v, exact (ofF64 a) (ofF64 b) v → s.Leaves (.f64 t f) t ((th.setReg f.dst (BitVec.ofNat 64 (toF64 v))).advance 8)) ∧
    (∀ v : Word, (f.fn = 0 ∧ v = BitVec.ofNat 64 (toF64 (ofF32 a))) ∨ (f.fn = 1 ∧ v = BitVec.ofNat 64 (toF32 (ofF64 a))) ∨
        (f.fn = 2 ∧ v = toInt64 (ofF32 a)) ∨ (f.fn = 3 ∧ v = BitVec.ofNat 64 (toF32 (Val.ofRat (th.reg f.src1).toInt))) ∨
        (f.fn = 4 ∧ v = toInt64 (ofF64 a)) ∨ (f.fn = 5 ∧ v = BitVec.ofNat 64 (toF64 (Val.ofRat (th.reg f.src1).toInt))) →
      s.Leaves (.fcvt t f) t ((th.setReg f.dst v).advance 8))

/-- 12, R387, R388 and 02, R55: MOVS reads every special register at every level; it writes OPID at every level, STEP and
ATTEMPT at level 1. Branches and calls go to their targets. -/
def Obligations.SpecialRegistersAndBranches : Prop :=
  ∀ (s : State) (t : ThreadRef) (th : Thread) (f : FormS), s.Issues t th 8 f.pe f.pn f.pi 0 →
    let a := th.reg f.src1
    let n := f.imm.toNat % 4
    let target : Word := th.pc + 8 * f.imm.signExtend 64
    (∀ v : Word, f.fn = 0 → (n = 0 ∧ v = th.opid.zeroExtend 64) ∨ (n = 1 ∧ v = th.ctx.zeroExtend 64) ∨ (n = 2 ∧ v = th.step) ∨
        (n = 3 ∧ v = th.attempt) →
      s.Leaves (.movs t f) t ((th.setReg f.dst v).advance 8)) ∧
    (∀ th' : Thread, f.fn = 1 → (n = 0 ∧ th' = { th with opid := a.truncate 32 }) ∨
        (n = 2 ∧ 1 ≤ s.levelOf th.ctxIx ∧ th' = { th with step := a }) ∨
        (n = 3 ∧ 1 ≤ s.levelOf th.ctxIx ∧ th' = { th with attempt := a }) →
      s.Leaves (.movs t f) t (th'.advance 8)) ∧
    s.Leaves (.br t f) t { th with pc := target } ∧
    (a.toNat % 8 = 0 → s.Leaves (.jmp t f) t { th with pc := a }) ∧
    s.Leaves (.call t f) t { th.setReg f.dst (th.pc + 8) with pc := target }

/-- 12, R375: an instruction whose predicate test fails does nothing but go on, even when its level exceeds the thread's and
its operands would fault; R384 puts the firmware call at level 2. -/
def Obligations.FailedPredicateDoesNothing : Prop :=
  ∀ (s : State) (t : ThreadRef) (th : Thread) (f : FormS) (e : FormE),
    (s.Issues t th 8 false f.pn f.pi 0 → f.pe = true → (th.pred f.pi ^^ f.pn) = false →
      (∀ c ∈ [Instr.br t f, .jmp t f, .call t f, .exit t f, .tspawn t f, .sgate t f, .aadd t f, .acas t f, .tpost t f,
        .grung t f, .sysrd t f, .syswr t f, .fwcall t f], s.Leaves c t (th.advance 8)) ∧
      (f.dst.toNat < 16 → ∀ c ∈ [Instr.dload t f, .tset t f], s.Leaves c t (th.advance 8))) ∧
    (s.Issues t th 16 false e.pn e.pi 0 → e.pe = true → (th.pred e.pi ^^ e.pn) = false → e.rsv = 0 → e.w1 = 0 →
      ∀ c ∈ [Instr.mma t e, .tbuild t e, .tload t e, .vew t e, .cmove t e, .csend t e, .uapply t e, .ucast t e],
        s.Leaves c t (th.advance 16))

/-! ## Memory, descriptor and token instructions (12) -/

/-- 12, R391, R392 and R393: a load reads the bytes at g[SRC1] + IMM and extends them as FN[2] says; DLOAD reads a descriptor,
whose reserved bits stay 0 (R380; 00, R10); FENCE only goes on. -/
def Obligations.LoadsReadMemory : Prop :=
  ∀ (s : State) (t : ThreadRef) (th : Thread) (f : FormS), s.Issues t th 8 f.pe f.pn f.pi 0 →
    let a := (th.reg f.src1 + f.imm.signExtend 64).toNat
    let n := 2 ^ (f.fn.toNat % 4)
    let v := s.peekNat a n
    (f.fn.toNat < 8 → s.Opens t a n → s.poisoned a n = false →
      s.Leaves (.ld t f) t ((th.setReg f.dst
        (if f.fn.getLsbD 2 then BitVec.ofInt 64 (if v < 2 ^ (8 * n - 1) then (v : Int) else (v : Int) - 2 ^ (8 * n))
          else BitVec.ofNat 64 v)).advance 8)) ∧
    (f.fn.toNat < 4 → s.Leaves (.fence t f) t (th.advance 8)) ∧
    (f.dst.toNat < 16 → s.Opens t a 32 → s.poisoned a 32 = false →
      ∃ d : Desc, s.Leaves (.dload t f) t ((th.setDesc (f.dst.truncate 4) d).advance 8) ∧
        ∀ i, i < 256 → d.getLsbD i = (decide (i ∉ [62, 63, 78, 79]) && (s.peekNat a 32).testBit i))

/-- 12, R391 and R393: a store writes the low bytes of g[SRC2], DSAVE a whole descriptor, at g[SRC1] + IMM and nowhere
else. Memory in its canonical form, on a device that has not failed. -/
def Obligations.StoresWriteMemory : Prop :=
  ∀ (s : State) (t : ThreadRef) (th : Thread) (f : FormS), s.Issues t th 8 f.pe f.pn f.pi 0 → Memory.wf s.mem = true →
    let a := (th.reg f.src1 + f.imm.signExtend 64).toNat
    let n := 2 ^ (f.fn.toNat % 4)
    (f.fn.toNat < 4 → s.Opens t a n → s.deadLine (a / 64 * 64) = false →
      s.Stores (.st t f) t (th.advance 8) a n (th.reg f.src2).toNat) ∧
    (f.src2.toNat < 16 → s.Opens t a 32 → s.deadLine (a / 64 * 64) = false →
      s.Stores (.dsave t f) t (th.advance 8) a 32 (th.desc (f.src2.truncate 4)).toNat)

/-- 12, R392 (ATOM): each operation writes the old word into g[DST] and leaves its result in memory; ACAS stores only when
the old word equals what g[DST] held. -/
def Obligations.AtomicsReplaceWord : Prop :=
  ∀ (s : State) (t : ThreadRef) (th : Thread) (f : FormS), s.Issues t th 8 f.pe f.pn f.pi 0 → Memory.wf s.mem = true →
    let a := (th.reg f.src1).toNat
    let old : Word := BitVec.ofNat 64 (s.peekNat a 8)
    let x := th.reg f.src2
    let th' := (th.setReg f.dst old).advance 8
    s.Opens t a 8 → s.poisoned a 8 = false → s.deadLine (a / 64 * 64) = false →
      s.Stores (.aadd t f) t th' a 8 (old + x).toNat ∧
      s.Stores (.amin t f) t th' a 8 (if x.toInt < old.toInt then x else old).toNat ∧
      s.Stores (.amax t f) t th' a 8 (if old.toInt < x.toInt then x else old).toNat ∧
      s.Stores (.aswap t f) t th' a 8 x.toNat ∧
      (old = th.reg f.dst → s.Stores (.acas t f) t th' a 8 x.toNat) ∧
      (old ≠ th.reg f.dst → s.Leaves (.acas t f) t th')

/-- 12, R393 and R380: DSETF writes one field of a descriptor, cut to its width, and leaves every bit outside the field;
DGETF reads one field, zero-extended; DCOPY copies a descriptor. Group 1 leaves its two reserved bits 0. -/
def Obligations.DescriptorFieldsMove : Prop :=
  ∀ (s : State) (t : ThreadRef) (th : Thread) (f : FormS), s.Issues t th 8 f.pe f.pn f.pi 0 →
    let dst := f.dst.truncate 4
    let src := f.src1.truncate 4
    let v := (th.reg f.src1 + f.imm.signExtend 64).toNat
    let fields := [(0, 48), (48, 16), (64, 14), (80, 24), (104, 24), (128, 24), (152, 24), (176, 24), (200, 24), (224, 32)]
    (∀ lo len, fields[f.fn.toNat]? = some (lo, len) →
      (f.dst.toNat < 16 → ∃ d : Desc, s.Leaves (.dsetf t f) t ((th.setDesc dst d).advance 8) ∧
        (∀ i, ¬ (lo ≤ i ∧ i < lo + len) → d.getLsbD i = (th.desc dst).getLsbD i) ∧
        (∀ i, i < len → d.getLsbD (lo + i) = (v.testBit i && decide (f.fn ≠ 1 ∨ i < 14)))) ∧
      (f.src1.toNat < 16 → s.Leaves (.dgetf t f) t ((th.setReg f.dst (BitVec.ofNat 64 ((th.desc src).toNat / 2 ^ lo % 2 ^ len))).advance 8))) ∧
    (f.dst.toNat < 16 → f.src1.toNat < 16 → s.Leaves (.dcopy t f) t ((th.setDesc dst (th.desc src)).advance 8))

/-- 12, R394 and 02, R73 and R74: TSET, TGET and TWAIT on a counter of the thread's own; TWAIT goes on at once when its counter
has reached the value, and waits otherwise. A counter has reached a value when their difference modulo 2^32 is below 2^31. A
post to a slot of the same tile raises that slot's counter when the slot's context is the poster's, and is dropped and counted
otherwise. -/
def Obligations.TokensCountAndPost : Prop :=
  ∀ (s : State) (t : ThreadRef) (th : Thread) (f : FormS), s.Issues t th 8 f.pe f.pn f.pi 0 →
    let k := f.dst.truncate 4
    let a := th.reg f.src1
    let b := if f.fn.getLsbD 3 then (f.imm.signExtend 64 : Word) else th.reg f.src2
    let v : Half := b.truncate 32
    let to_ : ThreadRef := ⟨a.extractLsb' 0 10, a.extractLsb' 16 11⟩
    let by_ : Half := (th.reg f.src2).truncate 32
    (f.dst.toNat < 16 → s.Leaves (.tset t f) t ((th.setToken k (a.truncate 32)).advance 8)) ∧
    (f.src1.toNat < 16 →
      s.Leaves (.tget t f) t ((th.setReg f.dst ((th.token (f.src1.truncate 4)).zeroExtend 64)).advance 8)) ∧
    (f.fn.toNat % 8 = 0 → f.dst.toNat < 16 → (th.token k - v).toNat < 2 ^ 31 → s.Leaves (.twait t f) t (th.advance 8)) ∧
    (f.fn.toNat % 8 = 0 → f.dst.toNat < 16 → 2 ^ 31 ≤ (th.token k - v).toNat →
      s.Leaves (.twait t f) t { th.advance 8 with status := .waitTok k v }) ∧
    (to_.tile = t.tile → to_ ≠ t → ∀ w, s.thread? to_ = some w → w.ctx = th.ctx →
      ∃ u, exec (.tpost t f) s = .next u ∧ u.thread? t = some (th.advance 8) ∧
        u.thread? to_ = some (w.addToken (f.imm.truncate 4) by_) ∧ (∀ x, x ≠ t → x ≠ to_ → u.thread? x = s.thread? x) ∧
        State.Only [.threads, .turn, .sampling, .snoop] (readCounters t) s u) ∧
    (to_.tile = t.tile → to_ ≠ t → (∀ w, s.thread? to_ = some w → w.ctx ≠ th.ctx) →
      ∃ u, exec (.tpost t f) s = .next u ∧ u.thread? t = some (th.advance 8) ∧ s.othersKeep t u ∧
        u.rget TileCnt.POST_DROPPED t.tile.toNat = (s.rget TileCnt.POST_DROPPED t.tile.toNat + 1) % 2 ^ 64 ∧
        State.Only [.threads, .turn, .sampling, .snoop] (.one TileCnt.POST_DROPPED t.tile.toNat :: readCounters t) s u)

/-- 12, R411 and R412: GREAD reads a field of a gauge entry of the thread's context, GRUNG its rung, and XSTAT the round
engine binding that is ON for it, or all ones when there is none. -/
def Obligations.GaugeAndExchangeReads : Prop :=
  ∀ (s : State) (t : ThreadRef) (th : Thread) (f : FormS), s.Issues t th 8 f.pe f.pn f.pi 0 →
    let c := th.ctx.toNat % 65536
    let i := (f.imm.signExtend 64 : Word).toNat
    let fields := [Gau.LAST_OBSERVED, Gau.LAST_ZEROS, Gau.LAST_UNDER, Gau.LAST_SATS, Gau.LAST_NONFINITE, Gau.LAST_AMAX,
      Gau.LAST_ATTEMPT, Gau.TRIP_RUN]
    (∀ fld, fields[f.fn.toNat]? = some fld → i < s.rget Ctx.GAUGE_COUNT c →
      s.Leaves (.gread t f) t ((th.setReg f.dst (BitVec.ofNat 64 (s.rget fld (s.rget Ctx.GAUGE_BASE c + i)))).advance 8)) ∧
    s.Leaves (.grung t f) t ((th.setReg f.dst (BitVec.ofNat 64 (s.rungOf c).rung)).advance 8) ∧
    (∀ n r, n < 64 → (∀ m, m < 64 → ((s.isAllocated .round m = true ∧ s.isOn .round m = true ∧ s.rget Round.CONTEXT m = c) ↔ m = n)) →
      (f.fn = 0 ∧ r = s.rget Round.ROUND n) ∨ (f.fn = 1 ∧ r = s.rget Round.APPLIED n) ∨ (f.fn = 2 ∧ r = s.rget Round.STATE n) →
      s.Leaves (.xstat t f) t ((th.setReg f.dst (BitVec.ofNat 64 r)).advance 8)) ∧
    ((∀ m, m < 64 → ¬ (s.isAllocated .round m = true ∧ s.isOn .round m = true ∧ s.rget Round.CONTEXT m = c)) → f.fn.toNat ≤ 2 →
      s.Leaves (.xstat t f) t ((th.setReg f.dst (BitVec.allOnes 64)).advance 8))

/-! ## Ends, launches, gates and faults of threads (02, 12) -/

/-- 12, R388, R389 and 02, R48: EXIT discards the thread's commands that have not started; its slot is FREE at once when none
has started, and the thread is ENDED until they complete otherwise. A context leaves the gate that has begun with its last thread that has not
ended (01, R17). TSPAWN reads the launch descriptor at g[SRC1] and hands it
to the hub, which takes it with what the named context is at that moment (R51); its thread goes on when the hub has answered
into g[DST]. -/
def Obligations.ExitAndSpawn : Prop :=
  ∀ (s : State) (t : ThreadRef) (th : Thread) (f : FormS), s.Issues t th 8 f.pe f.pn f.pi 0 →
    let a := (th.reg f.src1).toNat
    (∃ u, exec (.exit t f) s = .next u ∧
      (∀ c, c ∈ u.tsq.cmds ↔ c ∈ s.tsq.cmds ∧ (c.thread = t → c.started = true)) ∧
      ((∀ c ∈ s.tsq.cmds, c.thread = t → c.started = false) → u.thread? t = none) ∧
      ((∃ c ∈ s.tsq.cmds, c.thread = t ∧ c.started = true) →
        u.thread? t = some { th with status := .ended, asking := none }) ∧
      (∀ p, (look p u.tsq.gates).map Gate.contexts = (look p s.tsq.gates).map fun g =>
        if ∃ e ∈ u.tsq.threads, e.2.ctxIx = th.ctxIx ∧ e.2.status ≠ .ended then g.contexts
        else g.contexts.filter fun x => x.1 ≠ th.ctxIx) ∧
      s.othersKeep t u ∧ State.Only [.threads, .turn, .queues, .gates, .sampling, .snoop] (readCounters t) s u) ∧
    (s.rangeOpen t.tile.toNat a 48 = true → a % 16 = 0 → s.poisoned a 48 = false →
      ∃ u r, exec (.tspawn t f) s = .next u ∧ u.thread? t = some { th.advance 8 with asking := some f.dst } ∧
        u.tsq.launches = s.tsq.launches ++ [r] ∧ r.thread = some (t, th.ctx) ∧ r.ctx.toNat = s.peekNat a 4 ∧
        r.first = s.peekNat (a + 4) 2 ∧ r.count = s.peekNat (a + 6) 2 ∧ r.threads = s.peekNat (a + 8) 2 ∧
        r.entry.toNat = s.peekNat (a + 16) 8 ∧ r.arg0.toNat = s.peekNat (a + 24) 8 ∧ r.arg1.toNat = s.peekNat (a + 32) 8 ∧
        (∀ c, s.resolve .context r.ctx.toNat = some c → r.refusal = if s.isOn .context c = true then none else some 0x17) ∧
        (s.resolve .context r.ctx.toNat = none → r.refusal = some 0x10) ∧
        s.othersKeep t u ∧ State.Only [.threads, .turn, .launches, .sampling, .snoop] (readCounters t) s u)

/-- 12, R390 and 01, R17: SGATE puts its thread in WAITING with its two flags. The partition's gate begins unless it has
begun: the contexts that take part are those ON in the partition with a thread that is not ENDED. -/
def Obligations.SgateBeginsGate : Prop :=
  ∀ (s : State) (t : ThreadRef) (th : Thread) (f : FormS), s.Issues t th 8 f.pe f.pn f.pi 0 →
    let v := th.reg f.src1
    let p := s.rget Ctx.PARTITION th.ctxIx
    ∃ u, exec (.sgate t f) s = .next u ∧
      u.thread? t = some { th.advance 8 with status := .waitGate f.dst (v.getLsbD 0) (v.getLsbD 1) } ∧
      (∀ g, look p s.tsq.gates = some g → look p u.tsq.gates = some g) ∧
      (look p s.tsq.gates = none → ∃ g, look p u.tsq.gates = some g ∧
        ∀ c b, (c, b) ∈ g.contexts ↔ ((∃ e ∈ u.tsq.threads, e.2.status ≠ .ended ∧ e.2.ctxIx = c) ∧ s.isOn .context c = true ∧
          s.rget Ctx.PARTITION c = p ∧ b = s.rbit Ctx.GATE_POLICY c)) ∧
      (∀ q, q ≠ p → look q u.tsq.gates = look q s.tsq.gates) ∧
      s.othersKeep t u ∧ State.Only [.threads, .turn, .gates, .sampling, .snoop] (readCounters t) s u

/-- 12, R413 and R447 of 14: SYSRD at level 1 reads a register as it is stored, a data window's word of the snapshot that it
shows (02, R62), and 0 at a reserved offset; SYSWR ignores a write to a reserved offset. The tables named report what units
hold or count, so that no claim is made of them here. -/
def Obligations.SystemReadsRegisters : Prop :=
  ∀ (s : State) (t : ThreadRef) (th : Thread) (f : FormS), s.Issues t th 8 f.pe f.pn f.pi 1 →
    let off := (th.reg f.src1 + f.imm.signExtend 64).toNat
    off < 0x4000000 → off % 8 = 0 → ¬ (0x800000 ≤ off ∧ off < 0x1000000) →
    (∀ tab i w, placeOf off = .reg tab i w → tab ∉ [Tab.ctx, .gauRung, .censusSum, .upuStatus, .tmvStatus, .cisStatus, .cisWear,
        .cisWritten, .cisNand, .pwrRegion, .pwrStatus, .tbsStatus, .secState, .tileCnt, .dieCnt, .moduleCnt,
        .tsqSplit, .memDev, .census] →
      s.Leaves (.sysrd t f) t ((th.setReg f.dst (BitVec.ofNat 64 (s.entry tab i / 2 ^ (64 * w) % 2 ^ 64))).advance 8)) ∧
    (∀ tab w n, placeOf off = .window tab w → look tab s.hub.snapshots = some n →
      s.Leaves (.sysrd t f) t ((th.setReg f.dst (BitVec.ofNat 64 (n / 2 ^ (64 * w) % 2 ^ 64))).advance 8)) ∧
    (placeOf off = .empty → s.Leaves (.sysrd t f) t ((th.setReg f.dst 0).advance 8) ∧
      s.Leaves (.syswr t f) t (th.advance 8))

/-- 12, R414 and 02, R60: each instruction fault ends the thread's context: it stops on its way to FAULT with END_REASON
0x1D, all its threads end, and a record of the fault's type and reason is written while the log has room. FWCALL, which needs
level 2, always faults so, since a context's level is 0 or 1. Memory does not change. -/
def Obligations.InstructionFaultEndsContext : Prop :=
  ∀ (s : State) (t : ThreadRef) (th : Thread) (f : FormS), s.Issues t th 8 f.pe f.pn f.pi 0 →
    s.isOn .context th.ctxIx = true → s.isEnding .context th.ctxIx = false →
    ((s.rget RasLog.HEAD + 65536 - s.rget RasLog.TAIL) % 65536 < 1022) →
    let a := (th.reg f.src1 + f.imm.signExtend 64).toNat
    let n := 2 ^ (f.fn.toNat % 4)
    ∀ (i : Instr) (type reason : Nat),
      (i = .iadd t f ∧ 5 ≤ f.fn.toNat % 8 ∧ type = 0x10 ∧ reason = 0x1D) ∨
      ((i = .icmp t f ∨ i = .plogic t f) ∧ 8 ≤ f.dst.toNat ∧ type = 0x10 ∧ reason = 0x1D) ∨
      ((i = .dload t f ∨ i = .dsetf t f ∨ i = .dcopy t f ∨ i = .tset t f ∨ i = .twait t f) ∧ 16 ≤ f.dst.toNat ∧ type = 0x10 ∧
        reason = 0x1D) ∨
      (i = .fwcall t f ∧ s.levelOf th.ctxIx < 2 ∧ type = 0x11 ∧ reason = 0x02) ∨
      (i = .movs t f ∧ f.fn = 1 ∧ f.imm.toNat % 4 = 1 ∧ type = 0x11 ∧ reason = 0x02) ∨
      ((i = .sysrd t f ∨ i = .syswr t f) ∧ s.levelOf th.ctxIx = 0 ∧ type = 0x11 ∧ reason = 0x02) ∨
      (i = .ld t f ∧ f.fn.toNat < 8 ∧ s.rangeOpen t.tile.toNat a n = false ∧ type = 0x12 ∧ reason = 0x62) ∨
      (i = .st t f ∧ f.fn.toNat < 4 ∧ s.rangeOpen t.tile.toNat a n = true ∧ a % n ≠ 0 ∧ type = 0x13 ∧ reason = 0x1D) ∨
      (i = .jmp t f ∧ (th.reg f.src1).toNat % 8 ≠ 0 ∧ type = 0x13 ∧ reason = 0x1D) ∨
      (i = .gread t f ∧ f.fn.toNat ≤ 7 ∧ s.rget Ctx.GAUGE_COUNT th.ctxIx ≤ (f.imm.signExtend 64 : Word).toNat ∧
        type = 0x14 ∧ reason = 0x1D) →
      ∃ u, exec i s = .next u ∧ u.fstate .context th.ctxIx = 3 ∧ u.rget Ctx.END_REASON th.ctxIx = 0x1D ∧
        u.rget Ctx.FAULT_OPID th.ctxIx = th.opid.toNat ∧ u.rget Ctx.FAULT_TILE th.ctxIx = t.tile.toNat ∧
        u.rget Ctx.FAULT_SLOT th.ctxIx = t.slot.toNat ∧
        (∀ t' w, u.thread? t' = some w → w.ctxIx = th.ctxIx → w.status = .ended) ∧
        (∃ k r, look k u.rasLog = some r ∧ r.type = type ∧ r.reason = reason ∧ r.context = th.ctx.toNat ∧ r.opid = th.opid.toNat) ∧
        (∀ x, Memory.read x u.mem = Memory.read x s.mem) ∧ u.poison = s.poison

/-! ## Engine commands (02, 12, 13) -/

/-- 12, R377 and R379: an engine instruction (MMA, TBUILD, TLOAD, VACT, VACTB, VEW, RNORM and RSMAX forward and backward, RMERGE,
RSTAT, CMOVE, TMOVE, CGATHER, CREDUCE, CSHIFT, CSEND, CRECV, UAPPLY, UPREFETCH and UCAST) takes its operands at issue and puts a command into its engine's queue, and its
thread goes on; a full queue leaves the thread BLOCKED with the command. In half B of a pair the descriptors and the record's
address are taken at their mirrors (13, R425). -/
def Obligations.EngineInstructionsQueue : Prop :=
  (∀ x : Engine, x.depth = if x = .row then 8 else if x = .collective then 32 else 16) ∧
  ∀ (s : State) (t : ThreadRef) (th : Thread) (e : FormE) (op : EngOp) (i : Instr),
    (op, i) ∈ [(EngOp.mma, Instr.mma t e), (.tbuild, .tbuild t e), (.tload, .tload t e), (.vact, .vact t e), (.vactb, .vactb t e),
      (.vew, .vew t e), (.rnormF, .rnormF t e), (.rnormB, .rnormB t e), (.rsmaxF, .rsmaxF t e), (.rsmaxB, .rsmaxB t e),
      (.rmerge, .rmerge t e), (.rstat, .rstat t e), (.cmove, .cmove t e), (.tmove, .tmove t e), (.cgather, .cgather t e),
      (.creduce, .creduce t e), (.cshift, .cshift t e), (.csend, .csend t e), (.crecv, .crecv t e), (.uapply, .uapply t e),
      (.uprefetch, .uprefetch t e), (.ucast, .ucast t e)] →
    s.Issues t th 16 e.pe e.pn e.pi op.needs →
    e.rsv = 0 → e.w1 &&& op.reservedBits = 0 → op.registersFit e →
    let m := s.isMirror t th.ctxIx
    let desc := fun r : BitVec 4 => if m then mirrorDesc (th.desc r) else th.desc r
    let rec_ := if m then mirrorAddr (th.reg e.sa).toNat else (th.reg e.sa).toNat
    (e.sae = true → s.backed rec_ = true ∧ s.backed (rec_ + 15) = true ∧ s.reserved rec_ = false ∧
      s.reserved (rec_ + 15) = false ∧ rec_ % 16 = 0) →
    op.operandFault s (commandOf s t th e op) = none →
    let took := fun q : EngCmd => q.op = op ∧ q.thread = t ∧ q.ctx = th.ctx ∧ q.opid = th.opid ∧ q.step = th.step ∧
      q.attempt = th.attempt ∧ q.issued = s.now ∧ q.rung = (s.rungOf th.ctxIx).rung ∧ q.da = desc e.da ∧ q.db = desc e.db ∧ q.dc = desc e.dc ∧
      q.dd = desc e.dd ∧ q.gs = th.reg e.gs ∧ q.gt = th.reg e.gt ∧ q.w1 = e.w1 ∧ q.started = false ∧
      q.wait = (if e.we then some (e.wk, (th.reg e.wv).truncate 32) else none) ∧
      q.signal = (if e.se then some e.sk else none) ∧ q.record = (if e.sae then some rec_ else none)
    ((s.tsq.cmds.filter fun c => c.thread.tile = t.tile ∧ c.op.engine = op.engine).length < op.engine.depth →
      ∃ u q, exec i s = .next u ∧ u.thread? t = some (th.advance 16) ∧ u.tsq.cmds = s.tsq.cmds ++ [q] ∧ took q ∧
        s.othersKeep t u ∧ State.Only [.threads, .turn, .queues, .sampling, .snoop] (readCounters t) s u) ∧
    (op.engine.depth ≤ (s.tsq.cmds.filter fun c => c.thread.tile = t.tile ∧ c.op.engine = op.engine).length →
      ∃ u q, exec i s = .next u ∧ u.thread? t = some { th.advance 16 with status := .blocked } ∧
        look t u.tsq.blockedCmd = some q ∧ took q ∧ u.tsq.cmds = s.tsq.cmds ∧
        s.othersKeep t u ∧ State.Only [.threads, .turn, .queues, .sampling, .snoop] (readCounters t) s u)

/-- 02, R46, R64 and R71, 07, R237, 11, R368, and 12, R379: a queue with room accepts the command of a BLOCKED thread, which
becomes READY; a full one does not. An engine starts a command whose counter has reached its value once every earlier command
of its thread to that engine has started; among a tier mover's commands, those of its priority. A command of the tile, the
cluster or the tier mover is then marked, its tile's cache has used its context's entry, and nothing else of it changes; a
hint move waits while demand chunks have their turn, and a matrix command while its array is borrowed, which its tile's LEND_WAIT
counts. A UAPPLY on a binding that is ON waits for its gate in the update units, and a CRECV on a channel that is ON for its sender; on one
that is not it ends with 0x24. A command whose counter has not reached its value stays. -/
def Obligations.EngineCommandsStart : Prop :=
  (∀ (s : State) (t : ThreadRef) (th : Thread) (c : EngCmd), look t s.tsq.blockedCmd = some c → s.thread? t = some th →
    (s.queueRoom t.tile c.op.engine = true → ∃ u q, exec (.queueAccept t) s = .next u ∧
      u.thread? t = some { th with status := .ready } ∧ look t u.tsq.blockedCmd = none ∧ u.tsq.cmds = s.tsq.cmds ++ [q] ∧
      q.id = c.id ∧ q.op = c.op ∧ q.da = c.da ∧ q.db = c.db ∧ q.dc = c.dc ∧ q.dd = c.dd ∧ q.w1 = c.w1 ∧
      s.othersKeep t u ∧ State.Only [.threads, .queues] [] s u) ∧
    (s.queueRoom t.tile c.op.engine = false → exec (.queueAccept t) s = .next s)) ∧
  ∀ (s : State) (c : EngCmd) (xs ys : List EngCmd), s.tsq.cmds = xs ++ c :: ys → c.started = false →
    (∀ d ∈ xs ++ ys, d.id ≠ c.id) → let die := c.thread.tile.toNat / 256
    let hint := c.op = .tmove ∧ c.w1.getLsbD 5 = true
    ((∀ d ∈ xs, d.thread = c.thread → d.op.engine = c.op.engine → (c.op = .tmove → d.prio = c.prio) → d.started = true) →
      (∀ k v, c.wait = some (k, v) → ∃ th, s.thread? c.thread = some th ∧ (th.token k - v).toNat < 2 ^ 31) →
      (c.mirror = true ∨ c.op.engine ∉ [Engine.collective, .update] → (hint → s.hintTurn die = true) →
        (c.op.engine = .matrix → s.lent c.thread.tile.toNat = false) →
        ∃ u, exec (.engineCommandStart c.id) s = .next u ∧ u.tsq.cmds = xs ++ { c with started := true } :: ys ∧
          (¬ hint → u.update = s.update) ∧ (hint → u.update = { s.update with chunks := put die 0 s.update.chunks }) ∧
          (∀ t, (∀ x, x ∈ lookD t [] u.tsq.caches ↔ x ∈ lookD t [] s.tsq.caches) ∧
            (c.ctxIx ∈ lookD t [] s.tsq.caches → t = c.thread.tile.toNat → (lookD t [] u.tsq.caches).getLast? = some c.ctxIx)) ∧
          State.Only [.queues, .caches, .update, .trace, .errorLog, .messages] [.table .rasLog, .table .evtStatus, .table .msixPba, .table .trace,
            .col DieCnt.TRACE_RECORDS] s u) ∧
      (hint → s.hintTurn die = false → exec (.engineCommandStart c.id) s = .next s) ∧
      (c.op.engine = .matrix → s.lent c.thread.tile.toNat = true → ∃ u, exec (.engineCommandStart c.id) s = .next u ∧
        State.Only [.sampling, .free] [.one TileCnt.LEND_WAIT c.thread.tile.toNat] s u) ∧
      (∀ b, c.mirror = false → c.op = .uapply → s.resolve .binding (c.gs.toNat % 2 ^ 32) = some b → s.isOn .binding b = true →
        s.rget Ctx.ATTEMPT c.ctxIx ≤ c.attempt.toNat →
        ∃ u a, exec (.engineCommandStart c.id) s = .next u ∧ u.tsq.cmds = xs ++ { c with started := true } :: ys ∧
          u.update.applies = s.update.applies ++ [a] ∧ a.cmd = c.id ∧ a.bind = b ∧ a.attempt = c.attempt.toNat ∧ a.passed = false ∧
            a.failed = false) ∧
      (∀ ch, c.mirror = false → c.op = .crecv → s.transferTurn c = true → s.resolve .channel (c.gs.toNat % 2 ^ 32) = some ch →
        ∃ u, exec (.engineCommandStart c.id) s = .next u ∧ u.tsq.cmds = xs ++ { c with started := true } :: ys ∧
          (s.isOn .channel ch = true → u.collect.landings = s.collect.landings ++ [⟨c.id, ch, c.w1.toNat % 2 ^ 13, false⟩]) ∧
          (s.isOn .channel ch = false → look c.id u.tsq.early = some 0x24))) ∧
    ((∃ d ∈ xs, d.thread = c.thread ∧ d.op.engine = c.op.engine ∧ (c.op = .tmove → d.prio = c.prio) ∧ d.started = false) →
      exec (.engineCommandStart c.id) s = .next s) ∧
    (∀ k v th, c.wait = some (k, v) → s.thread? c.thread = some th → 2 ^ 31 ≤ (th.token k - v).toNat →
      exec (.engineCommandStart c.id) s = .next s)

/-- 02, R72 and 12, R378: a started command of the tile, the cluster or the tier mover, a table load apart, completes,
whatever the checks on its products find: it leaves its queue, its signal counter rises by 1, and its record of 16 bytes lies at the address taken at issue: REASON is 0
unless it is a TBUILD or a TMOVE, and the last six bytes are 0. The slot of a thread that has ended is FREE with its last started command (R48). Its coded
inputs lie where the thread's spaces allow (R383). No command, launch, gate, fabric, collective or system state changes, nor any of
the update units' but the count of a tier mover's demand chunks (11, R368; log 124). -/
def Obligations.LocalCommandsComplete : Prop :=
  ∀ (s : State) (c : EngCmd) (found : ProductCheck), s.tsq.cmds.find? (fun d => d.id == c.id) = some c → c.started = true →
    c.op.engine ∉ [Engine.collective, .update] → c.op ≠ .tload → c.mirror = false → c.pairNo = none → look c.id s.tsq.early = none →
    s.inputReason c = none →
    ∃ u, exec (.engineCommandComplete c.id found) s = .next u ∧
      (∀ d, d ∈ u.tsq.cmds ↔ d ∈ s.tsq.cmds ∧ d.id ≠ c.id) ∧
      (∀ th, s.thread? c.thread = some th → th.status ≠ .ended →
        (∀ k, th.ctx = c.ctx → c.signal = some k → u.thread? c.thread = some (th.addToken k 1)) ∧
        (th.ctx ≠ c.ctx ∨ c.signal = none → u.thread? c.thread = some th)) ∧
      (∀ th, s.thread? c.thread = some th → th.status = .ended →
        (∀ d ∈ s.tsq.cmds, d.thread = c.thread → d.started = true → d.id = c.id) → u.thread? c.thread = none) ∧
      s.othersKeep c.thread u ∧
      (∀ a, c.record = some a → Memory.wf s.mem = true → a % 16 = 0 → s.deadLine (a / 64 * 64) = false →
        (c.op ≠ .tbuild → c.op ≠ .tmove → Memory.read (a + 8) u.mem = 0) ∧
        ∀ i, 10 ≤ i → i < 16 → Memory.read (a + i) u.mem = 0) ∧
      (∃ m, u.update = { s.update with chunks := m }) ∧ (c.op ≠ .tmove ∨ c.w1.getLsbD 5 = true → u.update = s.update) ∧
      State.Only [.memory, .poison, .threads, .queues, .gauges, .update, .sampling, .trace, .snoop, .ras, .errorLog, .messages, .free]
        [.table .tileCnt, .table .dieCnt, .table .moduleCnt, .table .regionCnt, .table .part, .table .tmvStatus,
          .table .census, .table .censusSum, .table .rasLog, .table .evtStatus, .table .msixPba, .table .trace] s u

/-- 12, R395, R401 and R403; 03, R92; 04, R131 and R138: what a command leaves in memory as it completes. The byte form of CMOVE
copies bytes with their poison. VEW writes the sum, the difference or the product of two plain FP32 tensors, each element rounded
once, or their maximum or minimum. MMA on two plain BF16 tensors, drained to a plain FP32 tensor, writes for each element the
sum of its products, with one rounding for each held block of 32. Every store has its supply, and no memory
device has failed. -/
def Obligations.EngineCommandsCompute : Prop :=
  ∀ (s : State) (c : EngCmd), s.tsq.cmds.find? (fun d => d.id == c.id) = some c → c.started = true → c.mirror = false →
    c.pairNo = none → look c.id s.tsq.early = none → c.record = none → Memory.wf s.mem = true → (∀ x, s.deadLine x = false) →
    let a := resolved c.da c.rung
    let b := resolved c.db c.rung
    let y := resolved c.dc c.rung
    let plain := fun (o : Operand) (fmt : Nat) => o.fmt = fmt ∧ o.scl = 0 ∧ o.coded = false ∧ o.cen = false ∧
      (o.ext1 + 31) / 32 * fmtBits fmt ≤ o.pitch0
    let place := fun (o : Operand) (n r q : Nat) =>
      o.base + 128 * o.pitch0 * (r / 32) + 1024 * n * (q / 32) + 32 * n * (r % 32) + n * (q % 32)
    let x32 := fun (o : Operand) (r q : Nat) => ofF32 (s.peekNat (place o 4 r q) 4)
    let x16 := fun (o : Operand) (r q : Nat) => codeValue fmtBF16 (s.peekNat (place o 2 r q) 2)
    let leaves := fun (v : Nat → Nat → Val) => ∃ u, exec (.engineCommandComplete c.id .agree) s = .next u ∧
      ∀ r < y.ext0, ∀ q < y.ext1, u.peekNat (place y 4 r q) 4 = toF32 (v r q)
    (c.op = .cmove → c.w1.getLsbD 0 = true → let n := c.gt.toNat
      n % 64 = 0 → a.base % 64 = 0 → y.base % 64 = 0 → ∃ u, exec (.engineCommandComplete c.id .agree) s = .next u ∧
        (∀ i < n, Memory.read (y.base + i) u.mem = Memory.read (a.base + i) s.mem) ∧
        (∀ x, x < y.base ∨ y.base + n ≤ x → Memory.read x u.mem = Memory.read x s.mem) ∧
        ∀ i < n / 64, y.base / 64 + i ∈ u.poison ↔ a.base / 64 + i ∈ s.poison) ∧
    (plain y fmtFP32 →
      (∀ f : Val → Val → Val, c.op = .vew → c.w1.toNat % 16 = 0 → plain a fmtFP32 → plain b fmtFP32 →
        a.ext0 = y.ext0 → a.ext1 = y.ext1 → b.ext0 = y.ext0 → b.ext1 = y.ext1 → let code := c.w1.toNat / 16 % 16
        (code = 0 ∧ f = fun x z => rn (x.add z)) ∨ (code = 1 ∧ f = fun x z => rn (x.sub z)) ∨
          (code = 2 ∧ f = fun x z => rn (x.mul z)) ∨ (code = 3 ∧ f = Val.max) ∨ (code = 4 ∧ f = Val.min) →
        leaves fun r q => f (x32 a r q) (x32 b r q)) ∧
      (c.op = .mma → c.w1.toNat % 4096 = 128 → plain a fmtBF16 → plain b fmtBF16 →
        a.ext0 = y.ext0 → b.ext1 = y.ext1 → a.ext1 = b.ext0 →
        leaves fun r q => plusZero ((List.range ((a.ext1 + 31) / 32)).foldl
          (fun t n => rn (t.add (blockSum 32 a.ext1 n fun i => (x16 a r i).mul (x16 b i q)))) (.zero false))))


/-! ## Launches (02, 12) -/

/-- 02, R49 and R51 and 12, R389: a launch whose descriptor is sound, whose context was ON when it reached the hub, whose tiles lie in regions of the
context's partition, are live, are no audit tiles, have enough FREE slots and can pin the context's entry is admitted whole:
each tile is promised slots that hold no thread, and whoever asked is told reason 0. Outside pair mode; a thread launches its
own context. -/
def Obligations.LaunchAdmittedWhole : Prop :=
  ∀ (s : State) (r : LaunchReq) (rest : List LaunchReq) (c : Nat), s.tsq.launches = r :: rest →
    (∀ b ∈ slice r.bytes 10 6 ++ slice r.bytes 40 8, b = 0) → 1 ≤ r.count → r.first + r.count ≤ 1024 →
    1 ≤ r.threads → r.threads ≤ 2048 → r.entry.toNat % 8 = 0 →
    r.refusal = none → c = r.ctx.toNat % 65536 → s.paired c = false →
    (∀ t ctx, r.thread = some (t, ctx) → r.ctx = ctx) →
    (∀ i < r.count, (s.rget Part.REGIONS (s.rget Ctx.PARTITION c)).testBit ((r.first + i) / 32) = true ∧
      s.tileLive (r.first + i) = true ∧ s.role (r.first + i) ≠ 3 ∧
      r.threads ≤ ((List.range 2048).filter fun k => k ∉ s.takenSlots (r.first + i)).length ∧
      (c ∈ s.pinnedAt (r.first + i) ∨ (s.pinnedAt (r.first + i)).length < 16)) →
    ∃ u as, exec .launchAdmit s = .next u ∧ u.tsq.launches = rest ∧ u.tsq.arrivals = s.tsq.arrivals ++ as ∧
      as.map Arrival.tile = (List.range r.count).map (r.first + ·) ∧
      (∀ a ∈ as, a.g1 = a.tile ∧ a.ctx = r.ctx ∧ a.entry = r.entry ∧ a.arg0 = r.arg0 ∧ a.arg1 = r.arg1 ∧
        a.slots.length = r.threads ∧ a.slots.Nodup ∧ ∀ k ∈ a.slots, k < 2048 ∧ k ∉ s.takenSlots a.tile) ∧
      (∀ t ctx th dst, r.thread = some (t, ctx) → s.thread? t = some th → th.ctx = ctx → th.asking = some dst →
        u.thread? t = some { th.setReg dst 0 with asking := none }) ∧
      (∀ id x, r.thread = none → r.cmd = some id → s.hub.taken.find? (fun x => x.id == id) = some x →
        u.hub.completions = s.hub.completions ++ [⟨x.ring, x.tag, 0, 0⟩])

/-- 02, R49, R50 and 12, R389: a launch that fails a check is refused whole with the reason of the first check that it fails.
The launch of a ring command; what its context was when it reached the hub decides the checks of its context (R51). -/
def Obligations.LaunchRefusedWhole : Prop :=
  ∀ (s : State) (r : LaunchReq) (rest : List LaunchReq) (id : Nat) (x : Taken) (reason : Nat), s.tsq.launches = r :: rest →
    r.thread = none → r.cmd = some id → s.hub.taken.find? (fun x => x.id == id) = some x →
    let t := fun i => r.first + i
    let sound := 1 ≤ r.count ∧ r.first + r.count ≤ 1024 ∧ 1 ≤ r.threads ∧ r.threads ≤ 2048 ∧ r.entry.toNat % 8 = 0 ∧
      ∀ b ∈ slice r.bytes 10 6 ++ slice r.bytes 40 8, b = 0
    let p := fun c => s.rget Ctx.PARTITION c
    let inPart := fun c => ∀ i < r.count, (s.rget Part.REGIONS (p c)).testBit (t i / 32) = true
    (¬ sound ∧ reason = 0x11) ∨
    (sound ∧ r.refusal = some reason) ∨
    (sound ∧ r.refusal = none ∧ ∃ c, c = r.ctx.toNat % 65536 ∧
      ((¬ inPart c ∧ reason = 0x15) ∨
       (inPart c ∧ s.paired c = false ∧ reason = 0x16 ∧
         ∃ i < r.count, s.tileLive (t i) = false ∨ s.role (t i) = 3 ∨
           ((List.range 2048).filter fun k => k ∉ s.takenSlots (t i)).length < r.threads) ∨
       (inPart c ∧ s.paired c = false ∧ reason = 0x19 ∧
         (∀ i < r.count, s.tileLive (t i) = true ∧ s.role (t i) ≠ 3 ∧
           r.threads ≤ ((List.range 2048).filter fun k => k ∉ s.takenSlots (t i)).length) ∧
         ∃ i < r.count, c ∉ s.pinnedAt (t i) ∧ 16 ≤ (s.pinnedAt (t i)).length))) →
    ∃ u, exec .launchAdmit s = .next u ∧ u.tsq.launches = rest ∧ u.tsq.arrivals = s.tsq.arrivals ∧
      u.hub.completions = s.hub.completions ++ [⟨x.ring, x.tag, 0, reason⟩] ∧ u.tsq.threads = s.tsq.threads

/-- 02, R51, R52 and R64: at a tile whose context cache holds the entry, and else once the entry has come, the launch's
threads are READY in their slots at its entry point, with their indices, the tile and the two arguments in g0 to g3, every
other register 0, and the context's step count and attempt. -/
def Obligations.ThreadsStartOnArrival : Prop :=
  ∀ (s : State) (tile c : Nat) (a : Arrival), tile < 1024 → a.tile = tile → a.slots.Nodup → (∀ k ∈ a.slots, k < 2048) →
    s.resolve .context a.ctx.toNat = some c → s.isOn .context c = true →
    let starts := fun u : State =>
      (∀ i k, a.slots[i]? = some k → ∃ th, u.thread? ⟨BitVec.ofNat 10 tile, BitVec.ofNat 11 k⟩ = some th ∧ th.status = .ready ∧
        th.asking = none ∧ th.pc = a.entry ∧ th.reg 0 = BitVec.ofNat 64 i ∧ th.reg 1 = BitVec.ofNat 64 a.g1 ∧
        th.reg 2 = a.arg0 ∧ th.reg 3 = a.arg1 ∧ (∀ j : BitVec 5, 4 ≤ j.toNat → th.reg j = 0) ∧ (∀ j, th.desc j = 0) ∧
        (∀ j, th.pred j = false) ∧ (∀ j, th.token j = 0) ∧ th.opid = 0 ∧ th.ctx = a.ctx ∧
        th.step = BitVec.ofNat 64 (s.rget Ctx.STEP c) ∧ th.attempt = BitVec.ofNat 64 (s.rget Ctx.ATTEMPT c)) ∧
      ∀ t : ThreadRef, (t.tile.toNat ≠ tile ∨ t.slot.toNat ∉ a.slots) → u.thread? t = s.thread? t
    (s.tsq.arrivals.find? (fun a => a.tile == tile) = some a →
      (c ∈ lookD tile [] s.tsq.caches → ∃ u, exec (.launchTileArrival tile) s = .next u ∧ starts u ∧
        u.tsq.arrivals = s.tsq.arrivals.erase a ∧ c ∈ lookD tile [] u.tsq.caches ∧ State.Only [.threads, .launches, .caches] [] s u) ∧
      (c ∉ lookD tile [] s.tsq.caches → ∃ u, exec (.launchTileArrival tile) s = .next u ∧
        u.tsq.arrivals = s.tsq.arrivals.erase a ∧ u.tsq.fetching = s.tsq.fetching ++ [a] ∧ State.Only [.launches] [] s u)) ∧
    (s.tsq.fetching.find? (fun a => a.tile == tile) = some a →
      ∃ u, exec (.contextCacheFill tile) s = .next u ∧ starts u ∧ u.tsq.fetching = s.tsq.fetching.erase a ∧
        c ∈ lookD tile [] u.tsq.caches ∧ State.Only [.threads, .launches, .caches] [] s u)

/-! ## Step gates and updates (01, 07, 10) -/

/-- 01, R17 and R18 and 12, R390: a gate is decided when every thread of every context that takes part waits in SGATE and
nothing of the attempt is open. Its context's attempt rises by 1, and its step count too when no flag of the gate is set; a
context that does not end at a failed gate gets its threads back with the outcome in their registers, and one whose policy
was HALT as the gate began ends with 0x1E (02, R61). The gate of one context,
without joined channels and without a round engine binding. -/
def Obligations.StepGateMovesCounters : Prop :=
  ∀ (s : State) (p c : Nat) (g : Gate), look p s.tsq.gates = some g → s.gateParts g = [c] → s.atGate c = true →
    s.exchanged p = true → s.joined c = [] → s.roundOf c = none →
    let flags := s.ownFlags c
    let passed := flags = (false, false)
    ∃ u, exec (.stepGateDecide p) s = .next u ∧
      u.rget Ctx.ATTEMPT c = (s.rget Ctx.ATTEMPT c + 1) % 2 ^ 64 ∧
      (passed → u.rget Ctx.STEP c = (s.rget Ctx.STEP c + 1) % 2 ^ 64) ∧
      (¬ passed → u.rget Ctx.STEP c = s.rget Ctx.STEP c) ∧
      (passed ∨ (flags.2 = false ∧ lookD c false g.contexts = false) →
        ∀ t th dst n q, s.thread? t = some th → th.ctxIx = c → th.status = .waitGate dst n q →
          u.thread? t = some { th.setReg dst (if flags = (false, false) then 1 else 0) with
            status := .ready, step := BitVec.ofNat 64 (u.rget Ctx.STEP c), attempt := BitVec.ofNat 64 (u.rget Ctx.ATTEMPT c) }) ∧
      (¬ passed → flags.2 = false → lookD c false g.contexts = true → s.isEnding .context c = false →
        u.fstate .context c = 3 ∧ u.rget Ctx.END_REASON c = 0x1E)

/-- 07, R226 to R228, and 11, R368: a reduced gradient that an update wants enters its region's sump, rounded to FP32, when it
fits, and waits otherwise; one that no update wants any more is discarded. A shard with a gradient there is staged in state
SRAM, and the units hold at most 4 MiB of staged state where the shard itself fits; the first prefetched shard of a region is
staged when room is free and its die's tier mover turns to its hints. Gradients of a channel that codes its results are decoded
on the way (log 117). -/
def Obligations.GradientsParkAndStage : Prop :=
  ∀ (s : State),
    (∀ region r, s.collect.results.find? (fun r => r.toSump && s.shardRegion r.bind r.shard == region) = some r →
      s.gradWanted r.bind r.shard r.step r.attempt = true →
      (s.sumpUsed region + 4 * s.places r.bind ≤ sumpBytes →
        ∃ u g, exec (.sumpWrite region) s = .next u ∧ u.update.sump = s.update.sump ++ [g] ∧ g.bind = r.bind ∧ g.shard = r.shard ∧
          g.step = r.step ∧ g.attempt = r.attempt ∧ u.collect.results = s.collect.results.erase r ∧
          (s.rbit Chan.CODE_EN r.chan = false → g.data = r.values.map (fun v => toF32 v.1) ∧
            (g.poison = true ↔ ∃ v ∈ r.values, v.2 = true) ∧ State.Only [.collect, .update] [] s u) ∧
          State.Only ([.collect, .update] ++ Footprint.logging.comps) (Footprint.logging.tabs.map .table) s u) ∧
      (sumpBytes < s.sumpUsed region + 4 * s.places r.bind → exec (.sumpWrite region) s = .next s)) ∧
    (∀ region r, s.collect.results.find? (fun r => r.toSump && s.shardRegion r.bind r.shard == region) = some r →
      s.gradWanted r.bind r.shard r.step r.attempt = false → ∃ u, exec (.sumpWrite region) s = .next u ∧
        u.collect.results = s.collect.results.erase r ∧ State.Only [.collect] [] s u) ∧
    (∀ b j, s.isOn .binding b = true → s.ownsShard b j = true → s.isStaged b j = false →
      (s.parked b j = true ∨ ((s.update.wanted.find? fun e => s.shardRegion e.1 e.2 == s.shardRegion b j) = some (b, j) ∧
        stagedBytes s (s.shardRegion b j) s.update.staged + s.stageBytes b ≤ 2 ^ 22 ∧
        s.hintTurn (s.shardRegion b j / 8) = true)) →
      ∃ u, exec (.stateFetch b j) s = .next u ∧ u.isStaged b j = true ∧ (b, j) ∉ u.update.wanted ∧
        (s.stageBytes b ≤ 2 ^ 22 → stagedBytes u (u.shardRegion b j) u.update.staged ≤ 2 ^ 22) ∧
        u.update.sump = s.update.sump ∧
        State.Only [.update, .sampling, .snoop] [.table .dieCnt, .table .moduleCnt] s u)

/-- 07, R230, R239 and R241: after a passing gate a rule runs on a staged shard with a parked gradient. Its new state waits for
its commit, and a new master value of ELEM is the one of the rule's formula, each operation rounded; a NaN or an infinity from
finite inputs holds the shard instead, is counted with its shard and step, and gives its UAPPLY code 0x49. ORTHO and KRON count the waves of the arrays that they
borrow (R237; 01, R32). No cut of a round engine binding is under way. -/
def Obligations.UpdateRuleRuns : Prop :=
  ∀ (s : State) (b j : Nat) (a : UApply) (g : Grad), s.isOn .binding b = true → s.ownsShard b j = true →
    (∀ i r, (i, r) ∈ s.wellhead.runs → r.cutting = none) →
    s.dueApply b j = some a → s.gradFor a j = some g → s.isStaged b j = true →
    (∀ r ∈ s.update.ready, ¬ (r.bind = b ∧ r.shard = j)) → s.correctionFirst b j a.step = false →
    s.commitPoison b j g = false → let t := s.withBinds a.binds
    t.rootsReady b j (a.step + 1) = true →
    let out := t.ruleOut a j g
    (¬ (out.2 = true ∧ out.1.finite = false) → ∃ u n, exec (.updateRuleRun b j) s = .next u ∧
      u.update.ready = s.update.ready ++ [n] ∧ n.bind = b ∧ n.shard = j ∧ n.step = a.step ∧
      n.master = out.1.master.map (fun row => row.map toF32) ∧
      n.writes = s.paramWrites b (s.masterBase b j) 4 n.master ++ out.1.writes ∧ (s.rget Bind.RULE b = 0 → State.Only [.update] [] s u) ∧
      State.Only [.update, .sampling, .free] [.col TileCnt.WAVES, .col TileCnt.STALL_WAVES] s u) ∧
    (out.2 = true → out.1.finite = false → ∃ u, exec (.updateRuleRun b j) s = .next u ∧ u.update.ready = s.update.ready ∧
      u.rget Bind.HELD_COUNT b = min (s.rget Bind.HELD_COUNT b + 1) (2 ^ 32 - 1) ∧
      u.rget Bind.LAST_HELD_SHARD b = j % 2 ^ 32 ∧ u.rget Bind.LAST_HELD_STEP b = a.step % 2 ^ 64 ∧
      u.update.applies = s.update.applies.map fun x => if x.cmd = a.cmd then { x with shards := x.shards.map fun y =>
        if y.shard = j ∧ y.done = none then { y with done := some 0x49 } else y } else x) ∧
    (t.rget Bind.RULE b = 0 →
      let box := t.shardBox b j
      let h := t.hyper b a.lr
      let fmt := if t.rbit Bind.MOM_FMT b then fmtBF16 else fmtFP32
      let old := fun k r c => codeValue fmt (((t.readParams b j (t.momentBase b j k) (t.momentWidth b)).getD r []).getD c 0)
      let one := Val.fin 1
      ∀ r c, r < box.rows → c < box.cols →
        let w := ofF32 (((t.readParams b j (t.masterBase b j) 4).getD r []).getD c 0)
        let z := ofF32 (g.data.getD (r * box.cols + c) 0)
        let m := rn ((rn (h.beta1.mul (old 0 r c))).add (rn ((rn (one.sub h.beta1)).mul z)))
        let v := rn ((rn (h.beta2.mul (old 1 r c))).add (rn ((rn ((rn (one.sub h.beta2)).mul z)).mul z)))
        let bc1 := rn (rn64 (one.sub (powCr h.beta1 (a.step + 1))))
        let bc2 := rn (rn64 (one.sub (powCr h.beta2 (a.step + 1))))
        let x := rn ((rn (m.div bc1)).div (rn ((sqrtRn (rn (v.div bc2))).add h.eps)))
        (out.1.master.getD r []).getD c (.zero false) = rn (w.sub (rn (h.lr.mul (rn (x.add (rn (h.wd.mul w))))))))

/-- 07, R239 and R240, and 10, R331: a commit writes a shard's new master and other state and its new working slot and
publishes the next generation in a slot other than the newest, and its region counts it (18, R558); the shard's UAPPLY is then done with code 0. A correction of
the outer step is a commit of its own, with the sum of the master and the correction. No cut is under way. In pair mode half
A's update unit forms the CRC-64 of the committed state and keeps it for half B's (13, R427; the number is of log 30). -/
def Obligations.CommitsPublishGenerations : Prop :=
  ∀ (s : State) (b j k : Nat), s.isOn .binding b = true → (∀ i r, (i, r) ∈ s.wellhead.runs → r.cutting = none) →
    s.nextSlot b j = some k → (s.retained b j).slots.length = 4 →
    let published := fun u : State =>
      (u.retained b j).newest = k ∧ (u.retained b j).newestGen = ((s.retained b j).newestGen + 1) % 65536 ∧
      (∀ i, i ≠ k → (u.retained b j).slots.getD i none = (s.retained b j).slots.getD i none) ∧
      u.rget RegionCnt.SHARDS_COMMITTED (s.shardRegion b j) = (s.rget RegionCnt.SHARDS_COMMITTED (s.shardRegion b j) + 1) % 2 ^ 64
    let gen := ((s.retained b j).newestGen + 1) % 65536
    let written := fun (u : State) (rung step : Nat) (writes : List (Nat × List Byte)) (master : List (List Nat)) =>
      ∀ a, Memory.read a u.mem =
        Memory.read a ((s.writeAll writes).writeAll (s.deriveSlot b j k rung gen step (valsOf master)).bytes).mem
    (∀ n, s.update.ready.find? (fun r => r.bind == b && r.shard == j) = some n → s.castHolds b n.step = false →
      s.correctionFirst b j n.step = false →
      ∃ u, exec (.shardCommit b j) s = .next u ∧ published u ∧ written u n.rung (n.step + 1) n.writes n.master ∧
        (s.paired (s.rget Bind.CONTEXT b) = true → s.ras.early = [] → ∃ p ∈ u.ras.digests,
          p.tile = 1024 + s.shardRegion b j ∧ p.number = (b * 2 ^ 32 + j) * 2 ^ 16 + gen ∧
          p.digest = crc64 ((n.writes ++ (s.deriveSlot b j k n.rung gen (n.step + 1) (valsOf n.master)).bytes).flatMap Prod.snd)) ∧
        (∀ r ∈ u.update.ready, ¬ (r.bind = b ∧ r.shard = j)) ∧
        (u.update.applies = s.update.applies.map fun x => if x.cmd = n.apply then { x with shards := x.shards.map fun y =>
          if y.shard = j ∧ y.done = none then { y with done := some 0 } else y } else x) ∧
        (∀ x ∈ u.update.sump, ¬ (x.bind = b ∧ x.shard = j ∧ x.step = n.step ∧ x.attempt = attempt32 n.attempt))) ∧
    (∀ e, s.update.corrections.find? (fun e => e.bind == b && e.shard == j) = some e → e.poison = false →
      s.paramPoison b j (s.masterBase b j) 4 = false → s.castHolds b (e.step - 1) = false →
      (∀ a ∈ s.update.applies, a.bind = b → a.passed = true → a.step < e.step → ∀ x ∈ a.shards, x.shard = j → x.done ≠ none) →
      let old := valsOf (s.readParams b j (s.masterBase b j) 4)
      let sum := codesOf (Mat.map2 (fun x y => rn (x.add y)) old (valsOf e.delta))
      (e.clean = true → Mat.finite old = true →
        Mat.finite (Mat.map2 (fun x y => rn (x.add y)) old (valsOf e.delta)) = true) →
      ∃ u, exec (.masterCorrectionCommit b j) s = .next u ∧ published u ∧
        written u e.rung e.step (s.paramWrites b (s.masterBase b j) 4 sum) sum ∧ u.update.corrections = s.update.corrections.erase e)

/-- 07, R233, R234 and R245: the next root job of a KRON shard starts from the snapshots of its factors once it is due, and
when it finishes its roots are ready to be installed; a drift audit that is due runs once its region's commits are over. -/
def Obligations.RootJobsAndAudits : Prop :=
  ∀ (s : State),
    (∀ b j k, s.isOn .binding b = true → s.rget Bind.RULE b = 2 → s.ownsShard b j = true → look (b, j) s.update.roots = some k →
      k.done = true → 1 + (k.job + 1) * s.rget Bind.ROOT_EVERY b ≤ s.rget Ctx.STEP (s.rget Bind.CONTEXT b) →
      s.dueApply b j = none →
      ∃ u r, exec (.rootJobStart b j) s = .next u ∧ look (b, j) u.update.roots = some r ∧ r.job = k.job + 1 ∧ r.done = false ∧
        r.left = codesOf (invRoot4 (s.factor b j 2) (s.rget Bind.ITERS b) (ofF32 (s.rget Bind.ROOT_EPS b))) ∧
        r.right = codesOf (invRoot4 (s.factor b j 5) (s.rget Bind.ITERS b) (ofF32 (s.rget Bind.ROOT_EPS b))) ∧
        State.Only [.update] [] s u) ∧
    (∀ b j k, look (b, j) s.update.roots = some k → k.done = false →
      ∃ u, exec (.rootJobDone b j) s = .next u ∧ look (b, j) u.update.roots = some { k with done := true } ∧
        (k.held = false → State.Only [.update] [] s u) ∧
        (k.held = true → u.rget Bind.HELD_COUNT b = min (s.rget Bind.HELD_COUNT b + 1) (2 ^ 32 - 1))) ∧
    (∀ g, g ∈ s.update.auditDue →
      (∀ a ∈ s.update.applies, a.passed = true → ∀ x ∈ a.shards, s.shardRegion a.bind x.shard = g → x.done ≠ none) →
      ∃ u, exec (.driftAudit g) s = .next u ∧ u.update.auditDue = s.update.auditDue.erase g ∧ u.update.applies = s.update.applies)

/-- 07, R246 to R250: a cast whose context's commits are settled is written to its memory, records then manifest, and
whoever asked is told reason 0; a cast of a context that is no longer ON ends with reason 0x4D. -/
def Obligations.CastsComplete : Prop :=
  ∀ (s : State) (c step id : Nat) (k : CastJob) (x : Taken), s.castOf c = some k → k.reason = none → k.taken = some step →
    k.read = false → k.ring = some id → k.cmd = none → s.hub.taken.find? (fun x => x.id == id) = some x →
    (s.isOn .context c = true → s.castSettled k step = true → k.sign = false → k.dest = 0 →
      let body := (s.castRecordsOf k step).flatMap Record.bytes ++ s.manifest k step (s.castRecordsOf k step)
      ∃ u, exec (.castComplete c) s = .next u ∧ u.castOf c = none ∧
        u.hub.completions = s.hub.completions ++ [⟨x.ring, x.tag, x.handle, 0⟩] ∧
        (Memory.wf s.mem = true → (∀ i, i < body.length → s.backed (k.addr + i) = true ∧ s.deadLine ((k.addr + i) / 64 * 64) = false) →
          ∀ i v, body[i]? = some v → Memory.read (k.addr + i) u.mem = v)) ∧
    (s.isOn .context c = false → ∃ u, exec (.castComplete c) s = .next u ∧ u.castOf c = none ∧
        u.hub.completions = s.hub.completions ++ [⟨x.ring, x.tag, x.handle, 0x4D⟩] ∧ State.Only [.update, .hub] [] s u)

/-! ## Collective exchange (08, 09, 12) -/

/-- 08, R259 to R261, and 12, R405: a gather request waits at its owner, which answers it once a generation that it may send is
there: the one asked for, or the newest when its step is recent enough. A request that waits for a newer generation holds back no
other one. The answer carries the slot's header and the copies asked for, and a lease is held where one was asked for. A shard that the owner does not
serve and a second copy that its slot lacks are refused with 0x2C, a generation that it does not hold with 0x2B. A channel that
is not ON answers nothing (09, R310). The answer is seen here where requester and owner are one module. -/
def Obligations.GatherRequestsServed : Prop :=
  ∀ (s : State),
    (∀ f, s.Arrives opGatherReq f → ∃ u r, exec (.gatherReq f) s = .next u ∧ u.collect.requests = s.collect.requests ++ [r] ∧
      r.src = f.src ∧ r.chan = f.channel ∧ r.member = f.member ∧ r.shard = f.shard ∧ r.gen = f.gen ∧ r.step = f.step ∧
      (r.explicit = true ↔ leField f.body 0 1 = 1) ∧ r.maxStale = leField f.body 1 1 ∧
      (r.lease = true ↔ leField f.body 2 1 = 1) ∧ r.copy = leField f.body 3 1 ∧ r.tag = leField f.body 4 4 ∧
      u.fabric.delivered = s.fabric.delivered.erase f) ∧
    (∀ chan member shard, s.isOn .channel chan = false → exec (.gatherServe chan member shard) s = .next s) ∧
    (∀ chan member shard, (∀ r ∈ s.collect.requests, r.chan = chan → r.member = member → r.shard = shard → s.gatherWaits r = true) →
      exec (.gatherServe chan member shard) s = .next s) ∧
    (∀ r : GatherReq, let b := s.rget Chan.BINDING r.chan
      let h := readSlotHead (s.peek (s.headAddr b r.shard (s.retained b r.shard).newest) 64)
      s.gatherWaits r = true ↔ s.isOn .binding b = true ∧ s.ownsShard b r.shard = true ∧ r.explicit = false ∧ h.valid = true ∧
        h.gen = (s.retained b r.shard).newestGen ∧ r.maxStale < 255 ∧ h.step + r.maxStale < r.step) ∧
    (∀ chan member shard r, s.isOn .channel chan = true → s.collect.requests.find? (fun r =>
        r.chan == chan && r.member == member && r.shard == shard && !s.gatherWaits r) = some r →
      let b := s.rget Chan.BINDING chan
      let kept := s.retained b shard
      let answers := fun (u : State) (code : Nat) => u.collect.requests = s.collect.requests.erase r ∧
        (r.src = s.rget FabId.MODULE_ID → ∃ g, u.fabric.delivered = s.fabric.delivered ++ [g] ∧ g.op = opGatherData ∧
          g.channel = chan ∧ g.shard = shard ∧ g.status = code ∧ leField g.body 0 4 = r.tag % 2 ^ 32)
      (s.isOn .binding b = false ∨ s.ownsShard b shard = false →
        ∃ u, exec (.gatherServe chan member shard) s = .next u ∧ answers u 0x2C) ∧
      (s.isOn .binding b = true → s.ownsShard b shard = true → r.explicit = true → kept.slotOf r.gen = none →
        ∃ u, exec (.gatherServe chan member shard) s = .next u ∧ answers u 0x2B) ∧
      (∀ k, s.isOn .binding b = true → s.ownsShard b shard = true →
        (if r.explicit then kept.slotOf r.gen = some k else k = kept.newest) →
        let h := readSlotHead (s.peek (s.headAddr b shard k) 64)
        h.valid = true → h.gen = (if r.explicit then r.gen else kept.newestGen) →
        (r.copy.testBit 1 = false ∨ h.dual = true →
          ∃ u, exec (.gatherServe chan member shard) s = .next u ∧ answers u 0 ∧
            (r.src = s.rget FabId.MODULE_ID → ∃ g ∈ u.fabric.delivered, g.op = opGatherData ∧ g.gen = h.gen ∧
              slice g.body 16 64 = s.peek (s.headAddr b shard k) 64 ∧ g.body.drop 80 =
                ((s.askedCopies b shard k h r.copy).flatMap fun o => s.copyPayload b shard chan o).flatMap Prod.fst) ∧
            (r.lease = true → ∃ l ∈ u.collect.leases, l.module_ = r.src ∧ l.ctx = r.ctx ∧ l.bind = b ∧ l.shard = shard ∧
              l.gen = h.gen)) ∧
        (r.copy.testBit 1 = true → h.dual = false →
          ∃ u, exec (.gatherServe chan member shard) s = .next u ∧ answers u 0x2C)))

/-- 12, R405, and 08, R261 to R263 and R276: each shard of a gather gets its status word, in the command's state and in memory:
the refusal's code, 0x2C after ABANDON without an answer, or the generation that came and how old it is. A lease ends when it
is released or when LEASE_TIMEOUT seconds have passed. -/
def Obligations.GatherAnswersRecorded : Prop :=
  ∀ (s : State),
    (∀ c g j, s.tsq.cmds.find? (fun d => d.id == c.id) = some c → look c.id s.collect.gathers = some g → j ∈ c.shards →
      look j g.status = none →
      let word := fun (u : State) (v : Nat) => (∃ g', look c.id u.collect.gathers = some g' ∧ look j g'.status = some v) ∧
        (Memory.wf s.mem = true → (operandOf c.dd).base % 4 = 0 →
          s.deadLine (((operandOf c.dd).base + 4 * (j - c.firstShard)) / 64 * 64) = false →
          u.peekNat ((operandOf c.dd).base + 4 * (j - c.firstShard)) 4 = v)
      (g.issued + 1000000 * s.rget Chan.ABANDON g.chan ≤ s.now →
        ∃ u, exec (.gatherTimeout c.id j) s = .next u ∧ word u (0x2C * 2 ^ 24)) ∧
      (∀ f, s.Arrives opGatherData f → leField f.body 0 4 = c.id → f.channel = g.chan → f.shard = j →
        (f.status ≠ 0 → ∃ u, exec (.gatherData f) s = .next u ∧ word u (f.status % 256 * 2 ^ 24)) ∧
        (f.status = 0 → ∃ u g', exec (.gatherData f) s = .next u ∧ look c.id u.collect.gathers = some g' ∧
          look j g'.status = some (f.gen % 65536 + min (c.step.toNat - (readSlotHead (slice f.body 16 64)).step) 255 * 2 ^ 16)))) ∧
    (∀ f, s.Arrives opLeaseRelease f → ∃ u, exec (.leaseRelease f) s = .next u ∧
      ∀ l, l ∈ u.collect.leases ↔ l ∈ s.collect.leases ∧ ¬ (l.module_ = f.src ∧ l.chan = f.channel ∧
        ∃ e ∈ pieces 12 f.body, leField e 0 4 = l.shard ∧ leField e 4 2 = l.gen ∧ leField e 8 4 = l.ctx)) ∧
    (∀ chan member shard gen l, s.collect.leases.find? (fun l =>
        l.chan == chan && (s.members chan)[member]? == some l.module_ && l.shard == shard && l.gen == gen) = some l →
      l.since + 1000000000 * s.rget Chan.LEASE_TIMEOUT chan ≤ s.now →
      ∃ u, exec (.leaseTimeout chan member shard gen) s = .next u ∧ u.collect.leases = s.collect.leases.erase l)

/-- 08, R265 to R268 and R272: the first contribution to a reduction opens it with exact sums of its elements; a second one of
the same member is a duplicate and is counted for the context of the channel's binding (R281). One that needs accumulator lines
which are all in use, or whose segment 0 waits for lines, waits until lines are free, and is then taken in as if it came anew; one
for a shard that this module does not serve is refused. What waits and needs no lines of its own any more follows
(`takeLined`). -/
def Obligations.ContributionsAdded : Prop :=
  ∀ (s : State) (f : Frame),
    let opens := fun (t : State) (f : Frame) => ∃ r, t.collect.reds = s.collect.reds ++ [r] ∧ r.chan = f.channel ∧
      r.bind = s.rget Chan.BINDING f.channel ∧ r.shard = f.shard ∧ r.step = f.step ∧ r.attempt = f.attempt ∧
      r.op = leField f.body 0 1 % 4 ∧ r.t0 = s.now ∧ r.record = none ∧ (r.toSump = true ↔ leField f.body 0 1 / 4 % 2 = 1) ∧
      r.segs = [⟨0, (s.contribElems f).map (fun e => Acc.empty.add (leField f.body 0 1 % 4) e.1 e.2), [f.member], none⟩]
    let stays := fun (f : Frame) => s.judge f = .opens ∧ 1 < (s.members f.channel).length ∧ 0 < s.rget Chan.DEADLINE f.channel
    (∀ t : State, t.collect.waitLine = [] → t.takeLined = t) ∧
    (s.Arrives opContribution f →
      (s.servesShard f = false → ∃ u, exec (.contribution f) s = .next u ∧ u.collect.reds = s.collect.reds ∧
        u.collect.waitLine = s.collect.waitLine ∧ u.fabric.delivered = s.fabric.delivered.erase f) ∧
      (s.servesShard f = true → waitsBehind s.collect.waitLine f = false → s.hasLines f = true →
        (stays f → ∃ t : State, exec (.contribution f) s = .next t.takeLined ∧ t.collect.waitLine = s.collect.waitLine ∧ opens t f) ∧
        (s.judge f = .duplicate →
          let c := s.rget Bind.CONTEXT (s.rget Chan.BINDING f.channel)
          let old := lookD c (List.replicate 10 0) s.collect.counts
          ∃ t : State, exec (.contribution f) s = .next t.takeLined ∧ t.collect.waitLine = s.collect.waitLine ∧
            t.collect.reds = s.collect.reds ∧
            t.collect.counts = put c (old.set cntDuplicates (old.getD cntDuplicates 0 + 1)) s.collect.counts)) ∧
      (s.servesShard f = true → (waitsBehind s.collect.waitLine f = true ∨ s.hasLines f = false) →
        ∃ u, exec (.contribution f) s = .next u ∧
          u.collect.waitLine = s.collect.waitLine ++ [(s.shardDie (s.rget Chan.BINDING f.channel) f.shard, s.now, f)] ∧
          u.collect.reds = s.collect.reds ∧ u.fabric.delivered = s.fabric.delivered.erase f)) ∧
    (∀ die e, s.nextWaiting die [] s.collect.waitLine = some e →
      ∃ t : State, exec (.contributionLineGrant die) s = .next t.takeLined ∧ t.collect.waitLine = s.collect.waitLine.erase e ∧
        (s.servesShard e.2.2 = false → t.collect.reds = s.collect.reds) ∧
        (s.servesShard e.2.2 = true → stays e.2.2 → opens t e.2.2))

/-- 08, R268, R269 and R276: after its deadline a reduction with a quorum closes, and its result, that of its accumulators where
no carried contribution joins them, waits for the sump or its command; one that stays open for ABANDON is lost, with a record and a set non-finite flag; and a contribution that no owner
accepts within ABANDON ends with code 0x2D and sets its context's non-finite flag. -/
def Obligations.ReductionsEnd : Prop :=
  ∀ (s : State),
    (∀ chan shard r g, s.collect.reds.filter (fun r => r.chan == chan && r.shard == shard) = [r] → r.record = none →
      r.segs = [g] → g.index = 0 → g.closed = none → segmentCount (s.shardElems r.bind r.shard) = 1 →
      s.rget Chan.LATENESS chan ≠ lateWait → r.t0 + 1000 * s.rget Chan.DEADLINE chan ≤ s.now →
      (s.rget Chan.QUORUM chan ≤ g.fresh.length →
        ∃ u v, exec (.reductionDeadline chan shard) s = .next u ∧ u.collect.results = s.collect.results ++ [v] ∧
          v.chan = chan ∧ v.shard = shard ∧ v.step = r.step ∧ v.attempt = r.attempt ∧ v.toSump = r.toSump ∧ v.lost = false ∧
          ((∀ y ∈ s.collect.carries, ¬ (y.chan = chan ∧ y.shard = shard)) → v.values = g.accs.map fun a =>
            (a.result r.op g.fresh.length,
              a.poison || (s.rbit Part.POISON_ON_DETECT (s.partOf (s.rget Bind.CONTEXT r.bind)) && a.torn))) ∧
          (∀ x ∈ u.collect.reds, ¬ (x.chan = chan ∧ x.shard = shard)) ∧
          ∃ d ∈ u.collect.closed, d.chan = chan ∧ d.shard = shard ∧ d.step = r.step ∧ d.attempt = r.attempt ∧ d.members = g.fresh) ∧
      (g.fresh.length < s.rget Chan.QUORUM chan → g.fresh.length < (s.members chan).length →
        exec (.reductionDeadline chan shard) s = .next s)) ∧
    (∀ chan shard r, s.collect.reds.filter (fun r => r.chan == chan && r.shard == shard) = [r] →
      r.t0 + 1000000 * s.rget Chan.ABANDON chan ≤ s.now →
      ∃ u, exec (.reductionAbandon chan shard) s = .next u ∧ (∀ x ∈ u.collect.reds, ¬ (x.chan = chan ∧ x.shard = shard)) ∧
        (notPast (s.rget Ctx.ATTEMPT (s.rget Bind.CONTEXT r.bind)) r.attempt = true →
          (u.attemptFlags (s.rget Bind.CONTEXT r.bind) r.attempt).1 = true)) ∧
    (∀ id shard e, look id s.collect.contribs = some e → 0 < lookD shard 0 e.left →
      e.issued + 1000000 * s.rget Chan.ABANDON e.chan ≤ s.now →
      ∃ u e', exec (.contribUnaccepted id shard) s = .next u ∧ look id u.collect.contribs = some e' ∧ lookD shard 0 e'.left = 0 ∧
        look shard e'.codes = some 0x2D ∧
        (notPast (s.rget Ctx.ATTEMPT e.ctx) e.attempt = true → (u.attemptFlags e.ctx e.attempt).1 = true))

/-- 08, R277 and R279: a CSHIFT buffer goes to the command that waits for one of that member, a CSEND transfer to the CRECV
that does; the command is then done, and knows whether poison came with the buffer and whether the buffer fits its
destination. A transfer from a member for which no
command waits stays. -/
def Obligations.TransfersLand : Prop :=
  ∀ (s : State) (f : Frame) (c : Instr) (op : Nat) (shift : Bool),
    (c = .shift f ∧ op = opShift ∧ shift = true) ∨ (c = .send f ∧ op = opSend ∧ shift = false) → s.Arrives op f →
    (∀ l, s.collect.landings.find? (fun l => l.chan == f.channel && l.member == f.member && l.shift == shift) = some l →
      ∃ u, exec c s = .next u ∧ u.collect.landings = s.collect.landings.erase l ∧
        look l.cmd u.collect.landed = some (bodyPoison f 0 f.body.length, s.fits l.cmd f) ∧
        u.fabric.delivered = s.fabric.delivered.erase f) ∧
    ((∀ l ∈ s.collect.landings, ¬ (l.chan = f.channel ∧ l.member = f.member ∧ l.shift = shift)) → exec c s = .next s)

/-- 02, R74; 08, R275; 09, R290, R294, R308 and R309; 13, R427: what a member's frames of the small operations do. A token post
raises the counter of a slot whose context it names, and one that names another is counted as dropped; gate flags wait for their gate; a digest that equals its twin's clears it;
a bulk frame is taken in; a grant opens its window again; a HELLO with a new epoch begins the channel's flows with its member
anew; a REJECT is counted in its channel. -/
def Obligations.MemberFramesTaken : Prop :=
  ∀ (s : State) (f : Frame), s.frontFrame f = true →
    (f.op = opTokenPost →
      let t : ThreadRef := ⟨BitVec.ofNat 10 (leField f.body 0 2), BitVec.ofNat 11 (leField f.body 2 2)⟩
      (∀ th, s.thread? t = some th → th.ctx = BitVec.ofNat 32 (leField f.body 12 4) →
        ∃ u, exec (.tokenPost f) s = .next u ∧
          u.thread? t = some (th.addToken (BitVec.ofNat 4 (leField f.body 4 1)) (BitVec.ofNat 32 (leField f.body 8 4)))) ∧
      ((∀ th, s.thread? t = some th → th.ctx ≠ BitVec.ofNat 32 (leField f.body 12 4)) →
        ∃ u, exec (.tokenPost f) s = .next u ∧ u.tsq = s.tsq ∧
          u.rget TileCnt.POST_DROPPED t.tile.toNat = (s.rget TileCnt.POST_DROPPED t.tile.toNat + 1) % 2 ^ TileCnt.POST_DROPPED.len)) ∧
    (s.Arrives opGateFlags f →
      let c := s.rget Chan.CONTEXT f.channel
      s.rget Ctx.STEP c ≤ f.step → notPast (s.rget Ctx.ATTEMPT c) f.attempt = true →
      ∃ u, exec (.gateFlags f) s = .next u ∧
        (⟨f.channel, f.member, f.step, f.attempt, (leField f.body 0 1).testBit 0, (leField f.body 0 1).testBit 1⟩ : GateFlag) ∈
          u.collect.flags) ∧
    (∀ p, f.op = opDigest → s.ras.digests.find? (fun p => p.tile == leField f.body 8 2 && p.number == leField f.body 12 8) = some p →
      p.digest = leField f.body 0 8 → ∃ u, exec (.digest f) s = .next u ∧ u.ras.digests = s.ras.digests.erase p ∧
        u.ras.tileStrikes = s.ras.tileStrikes) ∧
    (f.op = opBulk → ∃ u, exec (.bulk f) s = .next u ∧ u.fabric.delivered = s.fabric.delivered.erase f) ∧
    (∀ w, f.op = opGrant → (∀ x ∈ s.fabric.windowed, ¬ (x.1.dest = f.src ∧ opClass x.1.op = leField f.body 0 1)) →
      let key : FlowKey := ⟨f.src, 0, leField f.body 0 1⟩
      (lookD key [] s.fabric.windows).find? (fun w => w.flits == leField f.body 1 2 &&
        (leField f.body 0 1 != 1 || w.cmd == some (leField f.body 4 4, f.shard))) = some w →
      f.cls ≠ 1 → f.cls ≠ 2 →
      ∃ u, exec (.grant f) s = .next u ∧ lookD key [] u.fabric.windows = (lookD key [] s.fabric.windows).erase w) ∧
    (f.op = opHello → (s.fstate .channel f.channel = 1 ∨ s.fstate .channel f.channel = 2) → f.src ∈ s.otherMembers f.channel →
      look (f.channel, f.src) s.fabric.peerEpoch ≠ some f.srcEpoch →
      ∃ u, exec (.hello f) s = .next u ∧ look (f.channel, f.src) u.fabric.peerEpoch = some f.srcEpoch ∧
        (f.channel, f.src) ∈ u.fabric.hellos ∧ u.isOn .channel f.channel =
          (s.isOn .channel f.channel || (decide (∀ m ∈ s.otherMembers f.channel, m = f.src ∨ (f.channel, m) ∈ s.fabric.hellos) &&
            decide ((Kind.channel, f.channel) ∉ s.hub.aborting)))) ∧
    (f.op = opReject → ∃ u, exec (.reject f) s = .next u ∧
      u.rget Chan.REJECTS f.channel = min (s.rget Chan.REJECTS f.channel + 1) (2 ^ Chan.REJECTS.len - 1) ∧
      u.rget Chan.LAST_ERROR f.channel = f.status % 2 ^ Chan.LAST_ERROR.len ∧
      u.fabric.delivered = s.fabric.delivered.erase f ∧
      State.Only [.fabric] [.one Chan.REJECTS f.channel, .one Chan.LAST_ERROR f.channel] s u)

/-! ## Ports, links and channels (01, 09) -/

/-- 09, R288, R291 to R293, R295 and R312: at a flit boundary a port with room in its retry buffer sends the flit that is next by
class, C0 before all others, against a credit of its class, and counts it, a forwarded one apart (R315); with nothing to send it
sends a filler, so that its acknowledgements, NAKs and credits leave; a full retry buffer stops it. The fifth flit completes a
block, whose link word carries the acknowledgement and the NAK that wait. A C0 source's frame that waits is admitted for a token
of its bucket. -/
def Obligations.FlitsAndFramesLeave : Prop :=
  ∀ (s : State),
    (∀ n, n < 32 → s.portUp n = true → (s.port n).retry.length < 256 →
      let p := s.port n
      let sends := fun (u : State) (q : PortFlit) =>
        (p.forming.length < 4 → (u.port n).forming = p.forming ++ [q] ∧ (u.port n).retry = p.retry) ∧
        (p.forming.length = 4 → (u.port n).forming = [] ∧ ∃ b, (u.port n).retry = p.retry ++ [b] ∧ b.flits = p.forming ++ [q] ∧
          b.seq = p.txSeq ∧ b.ack = p.rxLast ∧ b.nak = p.nak ∧ b.creditCount = min 511 (p.owed.getD b.creditClass 0) ∧
          b.resends = 0) ∧
        (∀ m, m ≠ n → u.port m = s.port m)
      (∀ c turn used size q, s.nextClass p = some (c, turn, used, size) → p.queue.find? (fun q => q.flit.cls == c) = some q →
        ((∃ x ∈ p.queue, x.flit.cls = 0) → 0 < p.credits.getD 0 0 → c = 0) ∧ 0 < p.credits.getD c 0 ∧
        ∃ u, exec (.flitTransmit n) s = .next u ∧ sends u q ∧ (u.port n).queue = p.queue.erase q ∧
          (u.port n).credits = p.credits.set c (p.credits.getD c 0 - 1) ∧
          u.rget FabPort.TX_FLITS n = min (s.rget FabPort.TX_FLITS n + 1) (2 ^ 64 - 1) ∧
          u.rget FabPort.FORWARDED n = (if q.out.isNone then min (s.rget FabPort.FORWARDED n + 1) (2 ^ FabPort.FORWARDED.len - 1)
            else s.rget FabPort.FORWARDED n) ∧
          State.Only [.fabric, .sampling] [.one FabPort.TX_FLITS n, .one FabPort.FORWARDED n] s u) ∧
      (s.nextClass p = none → ∃ u q, exec (.flitTransmit n) s = .next u ∧ sends u q ∧ q.flit.idle = true ∧
        (u.port n).queue = p.queue ∧ (u.port n).credits = p.credits ∧ State.Only [.fabric] [] s u)) ∧
    (∀ n, 256 ≤ (s.port n).retry.length → exec (.flitTransmit n) s = .next s) ∧
    (∀ src f rest, (s.policer src).waiting = f :: rest →
      (0 < (s.policer src).level s.now → ∃ u, exec (.c0Admit src) s = .next u ∧ (u.policer src).waiting = rest ∧
        (u.policer src).tokens = (s.policer src).level s.now - 1 ∧
        (f.1.dest = s.rget FabId.MODULE_ID → ∃ g, u.fabric.delivered = s.fabric.delivered ++ [g] ∧
          g.op = f.1.op ∧ g.body = f.1.body ∧ g.channel = f.1.channel)) ∧
      ((s.policer src).level s.now = 0 → exec (.c0Admit src) s = .next s))

/-- 09, R288, R312 and R313: a block whose flits' checks pass and that is the next in order is taken, ends the retry of the blocks
that it acknowledges and returns credits, and with its NAK bit has the others sent again; a broken one is answered with a NAK, and
any other is discarded. Without an acknowledgement for 2 µs every block is sent again; the fourth such wait, and the eighth
time that one block is sent again, retrain the port. Blocks of fillers. -/
def Obligations.LinkBlocksAcknowledged : Prop :=
  ∀ (s : State) (n : Nat), n < 32 → s.portUp n = true →
    let p := s.port n
    let again := fun l : List SentBlock => l.map fun e => { e with resends := e.resends + 1 }
    (∀ k : LinkBlock, let b := readBlock k
      (b.intact = true → b.seq = (p.rxLast + 1) % 4096 → (∀ f ∈ b.flits, f.idle = true) →
        let left := p.retry.dropWhile (fun e => ackCovers b.ack e.seq)
        (b.nak = true → ∀ e ∈ left, e.resends < 7) →
        ∃ u, exec (.linkBlockReceive n k) s = .next u ∧ (u.port n).rxLast = b.seq ∧ (u.port n).nak = false ∧
          (u.port n).retry = (if b.nak then again left else left) ∧
          (u.port n).credits = p.credits.set b.creditClass (p.credits.getD b.creditClass 0 + b.creditCount) ∧
          u.rget FabPort.CORRECTED n = min (s.rget FabPort.CORRECTED n + k.corrected) (2 ^ 64 - 1)) ∧
      (b.intact = false → ∃ u, exec (.linkBlockReceive n k) s = .next u ∧ u.port n = { p with nak := true } ∧
        u.rget FabPort.UNCORRECTABLE n = min (s.rget FabPort.UNCORRECTABLE n + k.uncorrectable) (2 ^ 64 - 1)) ∧
      (b.intact = true → b.seq ≠ (p.rxLast + 1) % 4096 → ∃ u, exec (.linkBlockReceive n k) s = .next u ∧ u.port n = p)) ∧
    (p.retry ≠ [] → p.lastAck + 2000 ≤ s.now →
      (p.ackWaits < 3 → (∀ e ∈ p.retry, e.resends < 7) → ∃ u, exec (.linkAckTimeout n) s = .next u ∧
        u.port n = { p with ackWaits := p.ackWaits + 1, retry := again p.retry, lastAck := s.now } ∧
        u.rget FabPort.RESENT n = min (s.rget FabPort.RESENT n + p.retry.length) (2 ^ 64 - 1) ∧
        State.Only [.fabric] [.one FabPort.RESENT n] s u) ∧
      (3 ≤ p.ackWaits ∨ (∃ e ∈ p.retry, 7 ≤ e.resends) → ∃ u, exec (.linkAckTimeout n) s = .next u ∧
        u.rget FabPort.STATE n = 1 ∧ u.rget FabPort.RETRAINS n = min (s.rget FabPort.RETRAINS n + 1) (2 ^ 32 - 1)))

/-- 09, R311, R314 and R315: training, after a retrain or for the first time after a module reset, ends at the width that the good lanes give, UP, or DOWN with none; a retrain puts a port
in service back to training; DISABLE takes it out of service, and back. -/
def Obligations.PortsTrain : Prop :=
  ∀ (s : State) (n : Nat), n < 32 →
    (∀ (lanes pol : BitVec 4) (rev : Bool), (s.rget FabPort.STATE n = 1 ∨ (s.rget FabPort.STATE n = 0 ∧ look n s.fabric.ports = none)) →
      let good := lanes.toNat &&& (15 - s.rget FabPort.LANE_FORCE n)
      let w := if good = 15 then 4 else if good % 4 = 3 ∨ good / 4 = 3 then 2 else if good = 0 then 0 else 1
      ∃ u, exec (.portTrainingDone n lanes pol rev) s = .next u ∧ u.rget FabPort.WIDTH n = w ∧ u.rget FabPort.LANES_OK n = good ∧
        u.rget FabPort.STATE n = (if w = 0 then 0 else 2) ∧ (u.rbit FabPort.REVERSED n = rev) ∧
        u.rget FabPort.POLARITY n = pol.toNat) ∧
    (s.barOpen = true → s.rbit SecBoot.READY = true →
      (s.rget FabPort.STATE n ≠ 3 → s.rget FabPort.STATE n ≠ 1 → ∃ u, exec (.fabPortRetrain n) s = .next u ∧
        u.rget FabPort.STATE n = 1 ∧ u.rget FabPort.RETRAINS n = min (s.rget FabPort.RETRAINS n + 1) (2 ^ 32 - 1) ∧
        u.rbit FabPort.CHANGED n = true) ∧
      (s.rbit FabPort.DISABLE n = false → ∃ u, exec (.fabPortDisable n true) s = .next u ∧ u.rget FabPort.STATE n = 3 ∧
        u.rbit FabPort.DISABLE n = true) ∧
      (s.rbit FabPort.DISABLE n = true → ∃ u, exec (.fabPortDisable n false) s = .next u ∧ u.rget FabPort.STATE n = 1 ∧
        u.rbit FabPort.DISABLE n = false))

/-- 09, R302, R305 and R307; 01, R42 to R44: a frame missing for 100 µs is skipped and counted, its code is the channel's last
error, and the frame held behind it is delivered; a channel that lacks a HELLO 10 s after its enable is in FAULT with reason 0x25. A neighbour link that goes
down reads 0 and its detour bit is set; one that loses half its width reads 1; with its hub link down a die is retired, and
every context of a partition with a region there is on its way to FAULT with reason 0x1F. -/
def Obligations.LossesAreNoticed : Prop :=
  ∀ (s : State),
    (∀ src chan cls r f at_, look ⟨src, chan, cls⟩ s.fabric.rx = some r → r.held = [(at_, f)] → f.seq ≠ r.next → f.seq < 2 ^ 32 →
      r.next < 2 ^ 32 → at_ + 100000 ≤ s.now →
      ∃ u r', exec (.frameSeqTimeout src chan cls) s = .next u ∧ look ⟨src, chan, cls⟩ u.fabric.rx = some r' ∧
        r'.next = (f.seq + 1) % 2 ^ 32 ∧ r'.held = [] ∧ u.fabric.delivered = s.fabric.delivered ++ [f] ∧
        u.rget Chan.SEQ_GAPS chan = min (s.rget Chan.SEQ_GAPS chan + 1) (2 ^ Chan.SEQ_GAPS.len - 1) ∧
        u.rget Chan.LAST_ERROR chan = 0x26) ∧
    (∀ chan, s.fstate .channel chan = 1 → s.allHeard chan = false → lookD chan 0 s.fabric.started + 10000000000 ≤ s.now →
      ∃ u, exec (.channelHelloTimeout chan) s = .next u ∧ u.fstate .channel chan = 4 ∧ u.rget Chan.END_REASON chan = 0x25 ∧
        u.rget Chan.LAST_ERROR chan = 0x25) ∧
    (∀ (i : Nat) (f : Fld),
      [HubD2d.LINK_01, HubD2d.LINK_12, HubD2d.LINK_23, HubD2d.LINK_30, HubD2d.HUB_0, HubD2d.HUB_1, HubD2d.HUB_2, HubD2d.HUB_3][i]? =
        some f →
      (i < 4 → s.rget f ≠ 0 → ∃ u, exec (.d2dLinkDown i) s = .next u ∧ u.rget f = 0 ∧ u.rbit HubD2d.CHANGED = true ∧
        u.rget HubD2d.DETOUR = (s.rget HubD2d.DETOUR ||| 2 ^ i) % 16) ∧
      (s.rget f = 2 → ∃ u, exec (.d2dLinkDegraded i) s = .next u ∧ u.rget f = 1 ∧ u.rbit HubD2d.CHANGED = true) ∧
      (∀ die, i = 4 + die → (s.rget HubD2d.DIE_RETIRED).testBit die = false → ∃ u, exec (.hubLinkDown die) s = .next u ∧
        u.rget f = 0 ∧ (u.rget HubD2d.DIE_RETIRED).testBit die = true ∧ u.rbit HubD2d.CHANGED = true ∧
        ∀ c, (Kind.context, c) ∈ s.hub.allocated → s.isOn .context c = true → s.isEnding .context c = false →
          (∃ g ∈ s.partRegions (s.rget Ctx.PARTITION c), g / 8 = die) →
          u.fstate .context c = 3 ∧ u.rget Ctx.END_REASON c = 0x1F))

/-! ## The wellhead's packets (10) -/

/-- 10, R338, R342 and R343: a sound packet tells when its partner was heard, gives a round-trip sample, and brings a partner
that is not REFUSED UP; bytes are counted at its arrival. A packet that is not sound, or has a reserved bit set (00, R10), is counted as bad, one
from an unknown address as dropped. -/
def Obligations.PartnersHeard : Prop :=
  ∀ (s : State) (p : WxpHeader),
    (∀ i x, s.Hears p i x → ∃ u, exec (.heartbeat p) s = .next u ∧
      (u.peer x).heard = s.now ∧ (u.peer x).echo = some (p.txTime, s.now) ∧ (u.peer x).seq = (s.peer x).seq ∧
      u.rget Partner.PSTATE x = (if s.rget Partner.PSTATE x = 3 then 3 else 1) ∧
      u.rget ModuleCnt.WXP_RX_BYTES = (s.rget ModuleCnt.WXP_RX_BYTES + p.bytes) % 2 ^ 64 ∧
      (p.echoTime = 0 → (u.peer x).rtt = (s.peer x).rtt) ∧
      (p.echoTime ≠ 0 → let r : Rat := ((s.now - p.echoTime - p.echoHold : Nat) : Rat) / 1000
        ((s.peer x).rtt = none → (u.peer x).rtt = some (r, r / 2)) ∧
        (∀ srtt var, (s.peer x).rtt = some (srtt, var) →
          (u.peer x).rtt = some (7 / 8 * srtt + 1 / 8 * r, 3 / 4 * var + 1 / 4 * |srtt - r|))) ∧
      u.wellhead.queue = s.wellhead.queue ∧ u.wellhead.runs = s.wellhead.runs) ∧
    (p.port < 2 → s.isOn .farPort p.port = true → s.rbit WhdPort.LINK_UP p.port = true →
      (∀ x, s.partnerBy p.addr.toNat = some x → (p.sound = false ∨ p.reserved = true ∨ p.srcSite ≠ x) → ∃ u, exec (.heartbeat p) s = .next u ∧
        u.rget Partner.BAD_PACKETS x = min (s.rget Partner.BAD_PACKETS x + 1) (2 ^ Partner.BAD_PACKETS.len - 1) ∧
        u.wellhead = s.wellhead) ∧
      (s.partnerBy p.addr.toNat = none → ∃ u, exec (.heartbeat p) s = .next u ∧
        u.rget WhdPort.RX_DROPPED p.port = min (s.rget WhdPort.RX_DROPPED p.port + 1) (2 ^ WhdPort.RX_DROPPED.len - 1) ∧
        u.wellhead = s.wellhead))

/-- 10, R334, R338, R344 and R346: a HELLO or a JOIN with another configuration is refused with STATUS 0x55, and its partner is
REFUSED, with no fragment, ledger or seed on its way to it any more; a JOIN that cannot be served now is answered with 0x59, and its joiner asks again after 1 s; an APPLIED whose digest is
not this module's own puts its binding on its way to FAULT. -/
def Obligations.ConfigurationsCompared : Prop :=
  ∀ (s : State) (p : WxpHeader) (i x : Nat) (digest : Word), s.Hears p i x →
    let refuses := fun (u : State) (reason : Nat) => ∃ l q, u.wellhead.queue = l ++ [q] ∧ q.bind = i ∧ q.site = x ∧
      q.type = typeStatus ∧ q.reason = reason
    let silences := fun u : State => u.rget Partner.PSTATE x = 3 ∧ refuses u 0x55 ∧
      ∀ o ∈ u.wellhead.outgoing, o.site = x → kindSeed < o.key.kind
    (∀ sites, digest.toNat = s.configDigest i → ∃ u, exec (.wxpHello p digest sites) s = .next u ∧ u.rget Partner.PSTATE x = 1 ∧
      u.wellhead.queue = s.wellhead.queue) ∧
    (∀ sites, digest.toNat ≠ s.configDigest i → ∃ u, exec (.wxpHello p digest sites) s = .next u ∧ silences u) ∧
    (digest.toNat ≠ s.configDigest i → ∃ u, exec (.join p digest) s = .next u ∧ silences u) ∧
    (digest.toNat = s.configDigest i → s.isOn .round i = false → ∃ u, exec (.join p digest) s = .next u ∧ refuses u 0x59) ∧
    (digest.toNat = s.configDigest i → s.isOn .round i = true → s.rget Partner.PSTATE x ≠ 3 →
      (∀ o ∈ s.wellhead.outgoing, ¬ (o.bind = i ∧ o.site = x ∧ o.key.kind = kindSeed)) →
      ∃ u, exec (.join p digest) s = .next u ∧ x ∈ (u.run i).seeding ∧ u.isOn .round i = true) ∧
    (p.reason = 0x59 → s.fstate .round i = 1 → s.rbit Round.JOINER i = true → x = s.rget Round.SEED_SITE i →
      ∃ u, exec (.status p) s = .next u ∧ (u.run i).joinAt = s.now + 1000000000) ∧
    (∀ d attempt, s.rget Partner.PSTATE x ≠ 3 → s.isOn .round i = true → look p.round (s.run i).applied = some d →
      (d = digest.toNat → ∃ u, exec (.applied p digest attempt) s = .next u ∧ u.fstate .round i = 2) ∧
      (d ≠ digest.toNat → ∃ u, exec (.applied p digest attempt) s = .next u ∧ u.fstate .round i = 3 ∧
        u.rget Round.END_REASON i = 0x56 ∧ u.isEnding .round i = true))

/-- 10, R341: a piece joins its object, and one that is here already counts as a duplicate; an object whose pieces are all here
and whose digest is wrong is refused with NAK. An acknowledgement of every piece ends an object's sending, NAK starts it again,
and any other adds the pieces that it names. -/
def Obligations.PiecesAssemble : Prop :=
  ∀ (s : State) (p : WxpHeader) (i x : Nat), s.Hears p i x → s.rget Partner.PSTATE x ≠ 3 →
    (∀ h data a, h.kind ≤ kindLedger → s.isOn .round i = true → h.piece < a.pieces →
      s.wellhead.assemblies.find? (fun a => a.matching i x ⟨h.kind, h.origin, p.round, h.tensor, h.shard⟩ h.digest.toNat) = some a →
      (a.done = true ∨ (look h.piece a.got).isSome = true → ∃ u, exec (.piece p h data) s = .next u ∧
        u.rget Partner.DUPLICATES x = min (s.rget Partner.DUPLICATES x + 1) (2 ^ Partner.DUPLICATES.len - 1) ∧
        u.wellhead.assemblies = s.wellhead.assemblies) ∧
      (a.done = false → look h.piece a.got = none → (put h.piece data a.got).length < a.pieces → a.fresh < 15 →
        ∃ u, exec (.piece p h data) s = .next u ∧ { a with got := put h.piece data a.got, fresh := a.fresh + 1, due := some s.now } ∈
          u.wellhead.assemblies ∧ u.wellhead.queue = s.wellhead.queue) ∧
      (a.done = false → look h.piece a.got = none → (put h.piece data a.got).length = a.pieces →
        objectDigest h.kind ((List.range a.pieces).flatMap fun n => lookD n [] (put h.piece data a.got)) ≠ a.digest →
        ∃ u q, exec (.piece p h data) s = .next u ∧ (∀ b ∈ u.wellhead.assemblies, b.matching i x a.key a.digest = false) ∧
          u.wellhead.queue = s.wellhead.queue ++ [q] ∧ q.type = typePieceAck ∧ q.payload.getD 2 0 = 1)) ∧
    (∀ o nak bitmap q,
      s.wellhead.outgoing.find? (fun q => q.bind == i && q.site == x && q.key == o && q.queued) = some q → 0 < q.pieces →
      (nak = true → ∃ u, exec (.pieceAck p o nak bitmap) s = .next u ∧ { q with acked := [] } ∈ u.wellhead.outgoing) ∧
      (nak = false → (∀ n < q.pieces, bitmap.getD n false = true ∨ n ∈ q.acked) → ∃ u, exec (.pieceAck p o nak bitmap) s = .next u ∧
        u.wellhead.outgoing.length + s.wellhead.outgoing.count q = s.wellhead.outgoing.length) ∧
      (nak = false → (∃ n < q.pieces, bitmap.getD n false = false ∧ n ∉ q.acked) →
        ∃ u r, exec (.pieceAck p o nak bitmap) s = .next u ∧ r ∈ u.wellhead.outgoing ∧ r.key = q.key ∧ r.site = q.site ∧
          ∀ n, n ∈ r.acked ↔ n < q.pieces ∧ (bitmap.getD n false = true ∨ n ∈ q.acked)))

/-- 10, R333, R340 and R344: a ledger request is answered with the ledger of its round and a fetch with the fragments that it
names, as objects on their way to the site that asked, unless they are on their way already. -/
def Obligations.ObjectsAnswered : Prop :=
  ∀ (s : State) (p : WxpHeader) (i x : Nat), s.Hears p i x → s.rget Partner.PSTATE x ≠ 3 → s.isOn .round i = true →
    (∀ l, s.ledgerOf i p.round = some l → s.objectFits i l.body.length = true →
      ∃ u, exec (.ledgerReq p) s = .next u ∧ ∃ o ∈ u.wellhead.outgoing, o.bind = i ∧ o.site = x ∧ o.digest = l.digest ∧
        o.key = ⟨kindLedger, s.rget Round.SELF_SITE i, p.round, 0, 0⟩) ∧
    (∀ e f, s.fragment? i p.round e.origin e.tensor e.shard = some f → s.objectFits i f.body.length = true →
      ∃ u, exec (.fetch p [e]) s = .next u ∧ ∃ o ∈ u.wellhead.outgoing, o.bind = i ∧ o.site = x ∧ o.digest = f.digest ∧
        o.key = ⟨kindFragment, e.origin, p.round, e.tensor, e.shard⟩)

/-- 10, R341, R343, R345 and R346: the wellhead's timers. An acknowledgement goes out 2 ms after an object's last change, a
heartbeat after 100 ms, overdue pieces after the object's timeout, which doubles up to 60 s, a FETCH again after 8 of them and a
JOIN again after one; a partner that is silent for 30 s is SILENT; and a packet leaves at its partner's turn when the partner's bucket holds its
bytes, with the tag that its port's VLAN gives. -/
def Obligations.WellheadTimers : Prop :=
  ∀ (s : State) (x : Nat),
    (∀ o a t, s.wellhead.assemblies.find? (fun a => a.site == x && a.key == o && a.due.isSome) = some a → a.due = some t →
      t + 2000000 ≤ s.now → ∃ u q, exec (.pieceAckTimer x o) s = .next u ∧ u.wellhead.queue = s.wellhead.queue ++ [q] ∧
        q.type = typePieceAck ∧ q.site = x ∧ { a with due := none, fresh := 0 } ∈ u.wellhead.assemblies) ∧
    (∀ i, s.bindingTo x = some i →
      (max (s.peer x).heard (s.peer x).beat + 100000000 ≤ s.now → ∃ u q, exec (.heartbeatTimer x) s = .next u ∧
        u.wellhead.queue = s.wellhead.queue ++ [q] ∧ q.type = typeHeartbeat ∧ q.site = x ∧ q.payload = [] ∧
        (u.peer x).beat = s.now) ∧
      (s.rget Partner.PSTATE x ≤ 1 → (s.peer x).heard + 30000000000 ≤ s.now →
        ∃ u, exec (.partnerSilent x) s = .next u ∧ u.rget Partner.PSTATE x = 2 ∧
          (s.wellhead.runs = [] → ∀ o ∈ u.wellhead.outgoing, o.site ≠ x))) ∧
    (∀ k o, s.wellhead.outgoing.find? (fun o => o.site == x && o.key == k && o.queued && !(s.duePieces o).isEmpty) = some o →
      k.kind ≠ kindCast → k.kind ≠ kindManifest →
      ∃ u, exec (.pieceResendTimeout x k) s = .next u ∧
        { o with rto := some (if 60000000 < 2 * s.objectRto o then 60000000 else 2 * s.objectRto o) } ∈ u.wellhead.outgoing ∧
        u.wellhead.queue = s.wellhead.queue ++ (s.duePieces o).map (fun n => o.packet n true)) ∧
    (∀ i since n l, (s.run i).fetch = some (since, n) → s.ledgerOf i (nextRound (s.rget Round.APPLIED i)) = some l → l.bind = i →
      s.isOn .round i = true → (∀ y ∈ s.partners i, since + 8 * usToNs (s.rtoOf y) ≤ s.now) → since ≤ s.now →
      (n < 16 → ∃ u, exec (.fetchTimeout i) s = .next u ∧ (u.run i).fetch = some (s.now, n + 1)) ∧
      (16 ≤ n → ∃ u, exec (.fetchTimeout i) s = .next u ∧ u.fstate .round i = 3 ∧ u.rget Round.END_REASON i = 0x5E)) ∧
    (∀ i, s.isAllocated .round i = true → s.fstate .round i = 1 → s.rbit Round.JOINER i = true → (s.run i).seeds = [] →
      (∀ a ∈ s.wellhead.assemblies, ¬ (a.bind = i ∧ a.key.kind = kindSeed)) → (s.run i).joinAt ≤ s.now →
      ∃ u q, exec (.joinResend i) s = .next u ∧ u.wellhead.queue = s.wellhead.queue ++ [q] ∧ q.type = typeJoin ∧
        q.site = s.rget Round.SEED_SITE i ∧ (u.run i).joinAt = s.now + usToNs (s.rtoOf (s.rget Round.SEED_SITE i))) ∧
    (∀ q, s.wellhead.queue.find? (fun q => q.site == x) = some q → (s.fstate .round q.bind = 1 ∨ s.fstate .round q.bind = 2) →
      s.pieceLive q = true → s.rbit Partner.VALID x = true → s.isOn .farPort (s.rget Partner.FAR_PORT x) = true →
      s.rbit WhdPort.LINK_UP (s.rget Partner.FAR_PORT x) = true →
      let n := 64 + q.payload.length + s.ipHead x
      n ≤ s.mtuTo x →
      (8000 * n ≤ s.paceTokens x → s.siteTurn x = true → ∃ u, exec (.pacedSend x) s = .next u ∧ u.wellhead.queue = s.wellhead.queue.erase q ∧
        u.wellhead.farOut = s.wellhead.farOut ++ [.wxp (s.rget Partner.FAR_PORT x) (s.vlanTag (s.rget Partner.FAR_PORT x)) (s.rget Partner.ADDRESS x)
          (s.rget Partner.UDP_PORT x) (s.packetBytes q)] ∧
        (u.peer x).tokens = s.paceTokens x - 8000 * n ∧ (u.peer x).seq = ((s.peer x).seq + 1) % 2 ^ 32 ∧
        u.rget ModuleCnt.WXP_TX_BYTES = (s.rget ModuleCnt.WXP_TX_BYTES + n) % 2 ^ 64) ∧
      (s.paceTokens x < 8000 * n ∨ s.siteTurn x = false → exec (.pacedSend x) s = .next s))

/-- 10, R316, R317, R338 and R349: a far port that is ON with its link up answers neighbour resolution and echo and counts what it
drops, a packet of a reserved TYPE as bad; LINK_UP follows the link; with PTP_EN set the port time-stamps the event message,
sends a delay request, and tells whether its clock is locked. -/
def Obligations.FarPortFramesAnswered : Prop :=
  ∀ (s : State) (n : Nat), n < 2 →
    (∀ up, ∃ u, exec (.farPortLinkChange n up) s = .next u ∧ u.rbit WhdPort.LINK_UP n = up ∧
      State.Only [] [.one WhdPort.LINK_UP n] s u) ∧
    (s.isOn .farPort n = true → s.rbit WhdPort.LINK_UP n = true →
      (∀ k g, (k = .neighbourRequest ∧ g = FarPacket.neighbourReply n (s.vlanTag n)) ∨
          (k = .echoRequest ∧ g = FarPacket.echoReply n (s.vlanTag n)) →
        ∃ u, exec (.farPortControlFrame n k) s = .next u ∧ u.wellhead.farOut = s.wellhead.farOut ++ [g] ∧
          State.Only [.wellhead] [] s u) ∧
      (∀ k ∈ [FarFrame.fragment, .badChecksum, .unknownPort], ∃ u, exec (.farPortControlFrame n k) s = .next u ∧
        u.rget WhdPort.RX_DROPPED n = min (s.rget WhdPort.RX_DROPPED n + 1) (2 ^ WhdPort.RX_DROPPED.len - 1) ∧
        State.Only [] [.one WhdPort.RX_DROPPED n] s u) ∧
      (∀ addr bytes x, s.partnerBy (BitVec.toNat addr) = some x →
        ∃ u, exec (.farPortControlFrame n (.reservedType addr bytes)) s = .next u ∧
          u.rget Partner.BAD_PACKETS x = min (s.rget Partner.BAD_PACKETS x + 1) (2 ^ Partner.BAD_PACKETS.len - 1) ∧
          u.rget ModuleCnt.WXP_RX_BYTES = (s.rget ModuleCnt.WXP_RX_BYTES + bytes) % 2 ^ 64 ∧ u.wellhead = s.wellhead) ∧
      exec (.farPortControlFrame n .other) s = .next s) ∧
    (∀ c locked, s.isOn .farPort n = true → s.rbit WhdPort.PTP_EN n = true →
      ∃ u, exec (.ptpEventMessage n c locked) s = .next u ∧ u.rbit TbsStatus.PTP_LOCKED = locked ∧
        look n u.wellhead.ptpStamps = some s.now ∧
        u.wellhead.farOut = s.wellhead.farOut ++ [.delayRequest n (s.vlanTag n) s.now])

/-! ## Memory tiers, checks and resets (11, 13) -/

/-- 11, R354, R356 and R358 to R364: what a read of a line by the patrol, or by an agent (log 122), makes of wrong bytes. One is
corrected and counted, and its row is repaired at its fourth correction of a pass, its device DEGRADED when no spare is left; with
two the line is poisoned in place; of three or more only the line itself may change. A patrol pass that ends forgets the
corrections. The lines of a device that fails read as poisoned from then on, and its STATE is FAILED. -/
def Obligations.MemoryPatrolsAndFailures : Prop :=
  ∀ (s : State),
    (∀ addr demand d, memDevOf addr = some d → (demand = true ∨ s.rget Scrub.PERIOD_H (scrubOf d) ≠ 0) →
      s.deadLine (lineOf addr * 64) = false →
      let a := lineOf addr * 64
      let key := (d, Config.memRow a)
      let bank := Config.rowBank (Config.memRow a)
      let errors := lookD key 0 s.tiers.rowErrors
      let once := fun u : State => u.rget MemDev.CORRECTED d = min (s.rget MemDev.CORRECTED d + 1) (2 ^ 64 - 1)
      (s.lastLine a = true → demand = false → ∃ u, exec (.memPatrolRead addr ⟨demand, .wrong 0⟩) s = .next u ∧
        u.rget MemDev.PATROLS d = (s.rget MemDev.PATROLS d + 1) % 2 ^ 32 ∧ (∀ e ∈ u.tiers.rowErrors, e.1.1 ≠ d) ∧
        State.Only [.memUnits] [.one MemDev.PATROLS d] s u) ∧
      ((s.lastLine a = false ∨ demand = true) →
        exec (.memPatrolRead addr ⟨demand, .wrong 0⟩) s = .next s ∧
        (errors < 3 ∨ s.rbit Scrub.REPAIR_EN (scrubOf d) = false → ∃ u, exec (.memPatrolRead addr ⟨demand, .wrong 1⟩) s = .next u ∧
          once u ∧ look key u.tiers.rowErrors = some (errors + 1) ∧ u.tiers.spared = s.tiers.spared ∧
          State.Only [.memUnits] [.one MemDev.CORRECTED d] s u) ∧
        (3 ≤ errors → s.rbit Scrub.REPAIR_EN (scrubOf d) = true → ∃ u, exec (.memPatrolRead addr ⟨demand, .wrong 1⟩) s = .next u ∧
          once u ∧ look key u.tiers.rowErrors = none ∧
          (s.sparesUsed d bank < Config.spareRows d bank → u.rget MemDev.SPARED d = min (s.rget MemDev.SPARED d + 1) 65535 ∧
            u.tiers.spared = s.tiers.spared ++ [key] ∧ key ∈ u.cistern.rows ∧
            (s.rget MemDev.STATE d = 0 → Config.spareRows d bank ≤ u.sparesUsed d bank → u.rget MemDev.STATE d = 1)) ∧
          (Config.spareRows d bank ≤ s.sparesUsed d bank → u.tiers.spared = s.tiers.spared ∧ u.rget MemDev.STATE d ≠ 0)) ∧
        (∃ u, exec (.memPatrolRead addr ⟨demand, .wrong 2⟩) s = .next u ∧
          (∀ l, l ∈ u.poison ↔ l ∈ s.poison ∨ l = lineOf addr) ∧ u.mem = s.mem ∧ u.rget MemDev.LAST_ADDR d = a % 2 ^ 48 ∧
          u.rget MemDev.UNCORRECTABLE d = min (s.rget MemDev.UNCORRECTABLE d + 1) (2 ^ 64 - 1)) ∧
        (∀ n, 2 < n → Memory.wf s.mem = true → ∃ u, exec (.memPatrolRead addr ⟨demand, .wrong n⟩) s = .next u ∧
          (∀ l, l ≠ lineOf addr → (l ∈ u.poison ↔ l ∈ s.poison)) ∧
          ∀ b, lineOf b ≠ lineOf addr → Memory.read b u.mem = Memory.read b s.mem) ∧
        (16 ≤ d → ∃ u, exec (.memPatrolRead addr ⟨demand, .linkCorrected⟩) s = .next u ∧
          u.rget MemDev.LINK_CORRECTED d = min (s.rget MemDev.LINK_CORRECTED d + 1) (2 ^ MemDev.LINK_CORRECTED.len - 1) ∧
          State.Only [] [.one MemDev.LINK_CORRECTED d] s u))) ∧
    (∀ n d, unitDevice n = some d → n ∉ s.tiers.failed → ∃ u, exec (.memDeviceFailed n) s = .next u ∧
      u.rget MemDev.STATE d = 2 ∧ (s.rget MemDev.STATE d ≠ 2 → u.rbit MemDev.CHANGED d = true) ∧ u.mem = s.mem ∧
      (∀ a, u.deadLine a = true ↔ s.deadLine a = true ∨ match n with
        | .stack k => spaceOf a = .hbm ∧ stackOf a = k
        | .pseudoChannel k p => spaceOf a = .hbm ∧ stackOf a = k ∧ pseudoOf a = p
        | .lpddr k => spaceOf a = .lpddr ∧ lpddrOf a = k))

/-- 13, R417, R419, R422, R423, R427, R441 and R442: a matrix command whose coded inputs lie in place (R383) and whose residues
differ, or at L2 whose checksums do,
counts as a detection; an error in the block sums of one data column strikes that column, and syndromes of which the first
is zero strike the tile (the faults themselves are the model's input, log 111). An audit that disagrees counts as a detection and strikes both tiles; the digest of
half B that does not come in 100 µs is given up, counted, and strikes both halves. A column test runs on a tile that is in no
partition that is not OFF, and clears strikes or bypasses the columns that fail, which a tile that still presents 56 columns
survives. -/
def Obligations.ChecksAndColumnTests : Prop :=
  ∀ (s : State),
    (∀ (c : EngCmd) (found : ProductCheck), s.tsq.cmds.find? (fun d => d.id == c.id) = some c → c.started = true →
      c.op = .mma → c.mirror = false → c.pairNo = none → look c.id s.tsq.early = none →
      s.inputReason c = none →
      let p := s.partOf c.ctxIx
      let t := c.thread.tile.toNat
      let W := s.rget Census.W t
      let m := 2 ^ 61 - 1
      ∃ u, exec (.engineCommandComplete c.id found) s = .next u ∧
        (found = .agree → u.rget Part.DETECTIONS p = s.rget Part.DETECTIONS p ∧ u.ras.tileStrikes = s.ras.tileStrikes ∧
          u.ras.colStrikes = s.ras.colStrikes) ∧
        (∀ j, found = .residue j → j < s.rget Census.W t →
          u.rget Part.DETECTIONS p = min (s.rget Part.DETECTIONS p + 1) (2 ^ 32 - 1) ∧ u.ras.tileStrikes = s.ras.tileStrikes ∧
          u.ras.colStrikes = s.ras.colStrikes) ∧
        (∀ errors row, found = .checksum errors row → c.check = 2 →
          let σ := fun q : Nat => (errors.map fun e : Nat × Int =>
            if e.1 + 4 < W then -(((e.1 + 1) ^ q % m : Nat) * e.2) else if e.1 + 4 = W + q then e.2 else 0).sum % (m : Int)
          4 ≤ W → row = true ∧ sliced (resolved c.da c.rung).fmt = false ∨ σ 1 ≠ 0 → σ 0 = 0 →
          u.rget Part.DETECTIONS p = min (s.rget Part.DETECTIONS p + 1) (2 ^ 32 - 1) ∧
          lookD t 0 u.ras.tileStrikes = lookD t 0 s.ras.tileStrikes + 1 ∧ u.ras.colStrikes = s.ras.colStrikes) ∧
        (∀ j (δ : Int) row, found = .checksum [(j, δ)] row → c.check = 2 → δ % (m : Int) ≠ 0 → j + 4 < W →
          u.rget Part.DETECTIONS p = min (s.rget Part.DETECTIONS p + 1) (2 ^ 32 - 1) ∧
          lookD (t, s.physicalColumn t j) 0 u.ras.colStrikes = lookD (t, s.physicalColumn t j) 0 s.ras.colStrikes + 1 ∧
          u.ras.tileStrikes = s.ras.tileStrikes)) ∧
    (∀ tile a agree, s.ras.audits.find? (fun a => a.by_ == tile) = some a → s.inPhase (tile / 32) = false →
      let p := s.partOf (a.ctx % 65536)
      ∃ u, exec (.auditBandRun tile agree) s = .next u ∧ u.ras.audits = s.ras.audits.erase a ∧
        u.rget Part.AUDITS_RUN p = min (s.rget Part.AUDITS_RUN p + 1) (2 ^ 32 - 1) ∧
        (agree = true → u.rget Part.DETECTIONS p = s.rget Part.DETECTIONS p ∧ u.ras.tileStrikes = s.ras.tileStrikes) ∧
        (agree = false → u.rget Part.DETECTIONS p = min (s.rget Part.DETECTIONS p + 1) (2 ^ 32 - 1) ∧
          (a.tile ≠ a.by_ → ∀ t ∈ [a.tile, a.by_], lookD t 0 u.ras.tileStrikes = lookD t 0 s.ras.tileStrikes + 1))) ∧
    (∀ tile number d, s.ras.digests.find? (fun p => p.tile == tile && p.number == number) = some d → d.at_ + 100000 ≤ s.now →
      let p := s.partOf (d.ctx % 65536)
      ∃ u, exec (.pairTimeout tile number) s = .next u ∧ u.ras.digests = s.ras.digests.erase d ∧
        u.rget Part.DETECTIONS p = min (s.rget Part.DETECTIONS p + 1) (2 ^ 32 - 1) ∧
        (tile < 1024 → ∀ t ∈ [tile, mirrorTile tile], lookD t 0 u.ras.tileStrikes = lookD t 0 s.ras.tileStrikes + 1)) ∧
    (∀ tile, tile ∈ s.ras.testsDue → s.ras.testing = none → s.partOfRegion (tile / 32) = none →
      s.booted 7 = true ∨ (∀ t ∈ s.ras.testsDue, tile % 32 ≤ t % 32) →
      ∃ u, exec (.columnTest tile) s = .next u ∧ u.ras.testing = some tile ∧ u.rbit RasTest.BUSY = true ∧
        tile ∉ u.ras.testsDue ∧ State.Only [.ras] [.one RasTest.BUSY 0] s u) ∧
    (∀ tile, s.ras.testing = some tile → s.partOfRegion (tile / 32) = none →
      (∃ u, exec (.columnTestDone tile 0) s = .next u ∧ u.ras.testing = none ∧ u.rbit RasTest.BUSY = false ∧
        u.rbit RasTest.FAILED = false ∧ look tile u.ras.tileStrikes = none ∧
        ∀ f ∈ [Census.BYPASS, Census.W, Census.RETIRED], u.rget f tile = s.rget f tile) ∧
      (∀ n, n < 64 → s.rget Census.BYPASS tile = 0 → ∃ u, exec (.columnTestDone tile (BitVec.twoPow 64 n)) s = .next u ∧
        u.ras.testing = none ∧ u.rbit RasTest.BUSY = false ∧ u.rbit RasTest.FAILED = true ∧
        u.rget Census.BYPASS tile = 2 ^ n ∧ u.rget Census.W tile = 63 ∧ u.rget Census.RETIRED tile = s.rget Census.RETIRED tile ∧
        u.rget Census.GROWN tile = min (s.rget Census.GROWN tile + 1) 255))

/-- 13, R435, R436, R440 and R442; 01, R33: a partition reset ends what the contexts of the partition run and puts them on their
way to FAULT, and its end puts the partition into FAULT with every region reset; a handshake that times out stops its region and
resets the partition that has it.
The host starts a column test, and moves the tail of the error ring up to its head. -/
def Obligations.ResetsContain : Prop :=
  ∀ (s : State),
    (s.barOpen = true → s.rbit SecBoot.READY = true →
      (∀ p, p < 32 → s.fstate .partition p ∈ [1, 2, 3] → s.resetting p = false → s.now < 2 ^ 64 →
        ∃ u, exec (.rasPartReset p) s = .next u ∧ u.fstate .partition p = 3 ∧ u.rget Part.END_REASON p = 0x1C ∧
          u.rget Part.LAST_RESET p = s.now ∧ u.rget Part.RESETS p = min (s.rget Part.RESETS p + 1) (2 ^ 32 - 1) ∧
          u.resetting p = true ∧
          ∀ c ∈ s.partContexts p, (s.isOn .context c = true → s.isEnding .context c = false →
              u.fstate .context c = 3 ∧ u.rget Ctx.END_REASON c = 0x1C ∧ u.isEnding .context c = true) ∧
            (∀ t th, u.thread? t = some th → th.ctxIx ≠ c) ∧ ∀ e ∈ u.tsq.cmds, e.ctxIx ≠ c) ∧
      (∀ p, p < 32 → s.fstate .partition p ∈ [0, 4] → ∃ u, exec (.rasPartReset p) s = .next u ∧
        u.rget HubRwlRefused.LAST_REFUSED = 0x36 ∧ State.Only [] [.one HubRwlRefused.LAST_REFUSED 0] s u) ∧
      (∀ v : Word, v.toNat.testBit 10 = true → s.rbit RasTest.BUSY = false → s.rget RasTest.TILE < 1024 →
        s.partOfRegion (v.toNat % 1024 / 32) = none →
        ∃ u, exec (.rasTestStart v) s = .next u ∧ u.ras.testing = some (v.toNat % 1024) ∧ u.rbit RasTest.BUSY = true) ∧
      (∀ v : BitVec 16, let tail := s.rget RasLog.TAIL
        tail < 65536 → (v.toNat + 65536 - tail) % 65536 ≤ (s.rget RasLog.HEAD + 65536 - tail) % 65536 →
        ∃ u, exec (.rasLogTailWrite v) s = .next u ∧ u.rget RasLog.TAIL = v.toNat ∧ State.Only [] [.one RasLog.TAIL 0] s u)) ∧
    (∀ p died, look p s.ras.resets = some died → ∃ u, exec (.partitionResetEnd p) s = .next u ∧
      u.fstate .partition p = 4 ∧ u.rget Part.END_REASON p = (if died then 0x1F else 0x1C) ∧ u.resetting p = false ∧
      ∀ g ∈ s.partRegions p, ∀ a, spaceOf a = .pool g → Memory.read a u.mem = 0 ∧ lineOf a ∉ u.poison) ∧
    (∀ g unit, g < 32 → s.rbit PwrRegion.STOPPED g = false → s.partOfRegion g = none → s.now < 2 ^ 64 →
      ∃ u, exec (.handshakeTimeout g unit) s = .next u ∧ u.rbit PwrRegion.STOPPED g = true ∧ u.rget PwrRegion.STOP_TIME g = s.now) ∧
    (∀ g unit p, g < 32 → s.partOfRegion g = some p → ∃ u, exec (.handshakeTimeout g unit) s = .next u ∧
      u.rbit PwrRegion.STOPPED g = true ∧ u.resetting p = true ∧
      u.rget Part.RESETS p = min (s.rget Part.RESETS p + 1) (2 ^ 32 - 1))

/-! ## Command rings and functions (14) -/

/-- 14, R463, R464, R472 and R476; 02, R66 to R69: what the hub does with the next command of a ring, whose entry is sound and
whose ring has the level that the command needs. A NOP completes; a LAUNCH goes to the hub's checks with what its context is
now (R51); CREATE takes the index
asked for, or the lowest that is free; ENABLE, DISABLE and DESTROY complete or wait by the state of their function; a CAST waits
for the next passing gate of its context. -/
def Obligations.RingCommandsRun : Prop :=
  ∀ (s : State) (r : Nat) (x : Taken), s.nextCommand = some x → x.ring = r → (∀ y ∈ s.hub.taken, y.id = x.id → y = x) →
    x.bad = false → x.flags < 2 →
    let answers := fun (u : State) (h code : Nat) => u.hub.completions = s.hub.completions ++ [⟨x.ring, x.tag, h, code⟩] ∧
      ∀ y ∈ u.hub.taken, y.id ≠ x.id
    let waits := fun (u : State) (k : Kind) (i : Nat) (e : Bool) => u.hub.completions = s.hub.completions ∧
      u.hub.waiters = s.hub.waiters ++ [⟨k, i, some x.id, e⟩]
    let zero := fun n => ∀ b ∈ x.body.drop n, b = 0
    (x.op = opNop → x.handle = 0 → zero 0 → ∃ u, exec (.nop r) s = .next u ∧ answers u 0 0 ∧ State.Only [.hub] [] s u) ∧
    (x.op = opNop → x.handle ≠ 0 → ∃ u, exec (.nop r) s = .next u ∧ answers u x.handle 0x04 ∧ u.rget Ring.LAST_REASON r = 0x04 ∧
      u.rget Ring.BAD_ENTRIES r = min (s.rget Ring.BAD_ENTRIES r + 1) (2 ^ 32 - 1)) ∧
    (x.op = opLaunch → x.handle = 0 → s.launchLevel x ≤ s.ringLevel r → ∃ u, exec (.launch r) s = .next u ∧
      (∃ q, u.tsq.launches = s.tsq.launches ++ [{ launchOf none (some x.id) x.body with refusal := q }] ∧
        let ctx := leField x.body 0 4
        (s.resolve .context ctx = none → q = some 0x10) ∧
        ∀ c, s.resolve .context ctx = some c → q = if s.isOn .context c then none else some 0x17) ∧
      State.Only [.hub, .launches] [] s u) ∧
    (∀ k, x.op = opCreate → leField x.body 0 1 = k.code → k.created = true → zero 3 → let n := leField x.body 1 2
      (n ≠ 0xFFFF → n < k.size → s.isAllocated k n = false → ∃ u, exec (.create r) s = .next u ∧ answers u (s.handle k n) 0 ∧
        u.hub.allocated = s.hub.allocated ++ [(k, n)]) ∧
      (n ≠ 0xFFFF → n < k.size → s.isAllocated k n = true → ∃ u, exec (.create r) s = .next u ∧ answers u x.handle 0x05 ∧
        u.hub.allocated = s.hub.allocated) ∧
      (∀ i < k.size, n = 0xFFFF → s.isAllocated k i = false → (∀ j < i, s.isAllocated k j = true) →
        ∃ u, exec (.create r) s = .next u ∧ answers u (s.handle k i) 0 ∧ u.hub.allocated = s.hub.allocated ++ [(k, i)])) ∧
    (∀ k i, s.resolve k x.handle = some i → k ≠ .ring → k.ctlLevel ≤ s.ringLevel r → s.objectLevel k i ≤ s.ringLevel r → zero 0 →
      (x.op = opEnable →
        (s.fstate k i = 0 → s.checkEnable k i (s.ringLevel r) = none → ∃ u, exec (.enable r) s = .next u ∧ u.fstate k i = 1 ∧
          waits u k i true) ∧
        (∀ code, s.fstate k i = 0 → s.checkEnable k i (s.ringLevel r) = some code → ∃ u, exec (.enable r) s = .next u ∧
          answers u x.handle code ∧
          (k = .channel → 0x21 ≤ code → code ≤ 0x23 → u.rget Chan.LAST_ERROR i = code) ∧
          State.Only [.hub] (if k = .channel then [.one Chan.LAST_ERROR i] else []) s u) ∧
        (s.fstate k i = 2 → ∃ u, exec (.enable r) s = .next u ∧ answers u x.handle 0 ∧ State.Only [.hub] [] s u) ∧
        (s.fstate k i = 3 → ∃ u, exec (.enable r) s = .next u ∧ answers u x.handle 1 ∧ u.rbit k.pendFld i = true) ∧
        (s.fstate k i = 4 → ∃ u, exec (.enable r) s = .next u ∧ answers u x.handle 5 ∧ State.Only [.hub] [] s u)) ∧
      (x.op = opDisable →
        (k = .partition → s.partContexts i ≠ [] → ∃ u, exec (.disable r) s = .next u ∧ answers u x.handle 0x35 ∧
          State.Only [.hub] [] s u) ∧
        ((k = .partition → s.partContexts i = []) →
          (s.fstate k i = 0 → ∃ u, exec (.disable r) s = .next u ∧ answers u x.handle 0 ∧ State.Only [.hub] [] s u) ∧
          (s.fstate k i = 2 → ∃ u, exec (.disable r) s = .next u ∧ u.fstate k i = 3 ∧ (k ≠ .context → waits u k i false)) ∧
          (s.fstate k i = 4 → ∃ u, exec (.disable r) s = .next u ∧ u.fstate k i = 0 ∧ answers u x.handle 0))) ∧
      (x.op = opDestroy → k.created = true →
        (s.fstate k i = 0 → s.named k i = false → ∃ u, exec (.destroy r) s = .next u ∧ answers u x.handle 0 ∧
          (k, i) ∉ u.hub.allocated ∧
          u.handle k i = k.code * 2 ^ 28 + (x.handle / 65536 % 4096 + 1) % 4096 * 65536 + i) ∧
        (s.fstate k i ≠ 0 ∨ s.named k i = true → ∃ u, exec (.destroy r) s = .next u ∧
          answers u x.handle (if k = .context then 0x1A else 0x09) ∧ State.Only [.hub] [] s u))) ∧
    (∀ c, x.op = opCast → s.resolve .context x.handle = some c → 1 ≤ s.ringLevel r → zero 16 → leField x.body 0 2 < 1024 →
      leField x.body 2 1 < 4 → leField x.body 3 1 < 2 → leField x.body 4 4 = 0 →
      s.castTarget (leField x.body 2 1) (leField x.body 8 8) = true →
      (s.castRefusal c (leField x.body 0 2) = none → ∃ u k, exec (.cast r) s = .next u ∧ u.update.casts = s.update.casts ++ [k] ∧
        k.ctx = c ∧ k.content = (if leField x.body 2 1 = 3 then 0x3FF else leField x.body 0 2) ∧ k.dest = leField x.body 2 1 ∧ k.addr = leField x.body 8 8 ∧
        k.sign = decide (leField x.body 3 1 = 1) ∧ k.ring = some x.id ∧ k.cmd = none ∧ k.taken = none ∧
        u.hub.completions = s.hub.completions) ∧
      (∀ code, s.castRefusal c (leField x.body 0 2) = some code → ∃ u, exec (.cast r) s = .next u ∧ answers u x.handle code ∧
        State.Only [.hub] [] s u))

/-- 14, R460 to R473: the life of a ring and of its functions. Doorbells move the tail and the head within what the rings
hold; commands are taken in turn; work that ends brings its function ON, OFF or to FAULT; completions and function events are
written as entries of 16 bytes with the PHASE of their pass, and a message goes out as the moderation asks. -/
def Obligations.RingsAndFunctionsMove : Prop :=
  ∀ (s : State),
    (∀ code i k, fnOf code i = some (k, i) →
      (s.fstate k i = 1 → s.abortAsked k i = false → s.startReady k i = true →
        ∃ u, exec (.functionStartDone code i) s = .next u ∧ u.fstate k i = 2 ∧ ∀ w ∈ u.hub.waiters, ¬ (w.kind = k ∧ w.index = i)) ∧
      (s.fstate k i = 1 → s.abortAsked k i = true →
        ∃ u, exec (.startAbort code i) s = .next u ∧ u.fstate k i = 3 ∧ u.abortAsked k i = false) ∧
      (s.fstate k i = 3 → s.stopReady k i = true →
        (s.isEnding k i = true → ∃ u, exec (.functionStopDone code i) s = .next u ∧ u.fstate k i = 4 ∧ u.isEnding k i = false) ∧
        (s.isEnding k i = false → look (k, i) s.hub.latched = none →
          ∃ u, exec (.functionStopDone code i) s = .next u ∧ u.fstate k i = 0))) ∧
    (∀ n, s.nextRing = some n → s.linkUp = true →
      let a := hostBase + s.rget Ring.CMD_BASE n + 64 * (s.rget Ring.CMD_HEAD n % 2 ^ s.rget Ring.CMD_LOG2 n)
      s.poisoned a 64 = false → leField (s.peek a 64) 0 1 < 7 → ∃ u, exec .ringCommandTake s = .next u ∧
        u.hub.taken = s.hub.taken ++ [entryOfBytes s.hub.nextTaken n (s.peek a 64)] ∧ u.hub.completions = s.hub.completions ∧
        u.rget Ring.CMD_HEAD n = (s.rget Ring.CMD_HEAD n + 1) % 2 ^ 32 ∧ u.hub.lastRing = n) ∧
    (∀ n c, s.hub.completions.find? (fun c => c.ring == n) = some c → s.cplRoom n = true → s.linkUp = true →
      Memory.wf s.mem = true → let tail := s.rget Ring.CPL_TAIL n
      ∃ u, exec (.completionPost n) s = .next u ∧ u.hub.completions = s.hub.completions.erase c ∧
        u.rget Ring.CPL_TAIL n = (tail + 1) % 2 ^ 32 ∧
        u.peek (hostBase + s.rget Ring.CPL_BASE n + 16 * (tail % 2 ^ s.rget Ring.CPL_LOG2 n)) 16 =
          toBytes 4 c.tag ++ toBytes 4 c.handle ++ [BitVec.ofNat 8 c.reason, 0, 0,
            if tail / 2 ^ s.rget Ring.CPL_LOG2 n % 2 = 0 then 1 else 0] ++ toBytes 2 n ++ [0, 0]) ∧
    (∀ e rest, s.hub.events = e :: rest → let n := s.rget EvtCtrl.RING
      s.rbit EvtCtrl.EN = true → s.isOn .ring n = true → s.cplRoom n = true → s.linkUp = true → Memory.wf s.mem = true →
      let tail := s.rget Ring.CPL_TAIL n
      ∃ u, exec .functionEventPost s = .next u ∧ u.hub.events = rest ∧ u.rget Ring.CPL_TAIL n = (tail + 1) % 2 ^ 32 ∧
        u.peek (hostBase + s.rget Ring.CPL_BASE n + 16 * (tail % 2 ^ s.rget Ring.CPL_LOG2 n)) 16 =
          toBytes 4 0xFFFFFFFF ++ toBytes 4 e.handle ++ [BitVec.ofNat 8 e.reason, 1, BitVec.ofNat 8 e.state,
            if tail / 2 ^ s.rget Ring.CPL_LOG2 n % 2 = 0 then 1 else 0] ++ [0xFF, 0xFF, 0, 0]) ∧
    (∀ n m t, look n s.hub.unsignalled = some (m, t) → s.rbit Ring.IRQ_EN n = true → t + 1000 * s.rget Ring.MOD_TIME n ≤ s.now →
      let v := s.rget Ring.VECTOR n
      ∃ u, exec (.interruptModerationTimeout n) s = .next u ∧ look n u.hub.unsignalled = none ∧
        (s.rbit Msix.MASK v = false → u.msixOut = s.msixOut ++ [⟨v, s.rget Msix.ADDRESS v, s.rget Msix.DATA v⟩]) ∧
        (s.rbit Msix.MASK v = true → u.rbit MsixPba.PENDING v = true ∧ u.msixOut = s.msixOut)) ∧
    (s.barOpen = true → ∀ n, n < 128 →
      (s.rbit SecBoot.READY = false → ∃ u, exec (.ringEnable n) s = .next u ∧ u.rget Ring.LAST_REASON n = 0x0A ∧
        State.Only [] [.one Ring.LAST_REASON n] s u) ∧
      (s.rbit SecBoot.READY = true →
        (s.fstate .ring n = 0 → s.checkRing n = none → ∃ u, exec (.ringEnable n) s = .next u ∧ u.fstate .ring n = 1) ∧
        (∀ code, s.fstate .ring n = 0 → s.checkRing n = some code → code ≠ 0 → ∃ u, exec (.ringEnable n) s = .next u ∧
          u.rget Ring.LAST_REASON n = code % 256 ∧ u.fstate .ring n = 0) ∧
        (s.fstate .ring n = 2 → ∃ u, exec (.ringDisable n) s = .next u ∧ u.fstate .ring n = 3) ∧
        (∀ v : Half, let n' := s.rget Ring.CMD_HEAD n
          (ahead v.toNat n' ≤ 2 ^ s.rget Ring.CMD_LOG2 n → ∃ u, exec (.cmdTailDoorbell n v) s = .next u ∧
            u.rget Ring.CMD_TAIL n = v.toNat ∧ State.Only [] [.one Ring.CMD_TAIL n] s u) ∧
          (2 ^ s.rget Ring.CMD_LOG2 n < ahead v.toNat n' → ∃ u, exec (.cmdTailDoorbell n v) s = .next u ∧
            u.rget Ring.CMD_TAIL n = s.rget Ring.CMD_TAIL n ∧ u.rget Ring.LAST_REASON n = 0x0D ∧
            u.rget Ring.BAD_ENTRIES n = min (s.rget Ring.BAD_ENTRIES n + 1) (2 ^ 32 - 1))) ∧
        (∀ v : Half, let old := s.rget Ring.CPL_HEAD n
          ahead v.toNat old ≤ ahead (s.rget Ring.CPL_TAIL n) old → ∃ u, exec (.cplHeadDoorbell n v) s = .next u ∧
            u.rget Ring.CPL_HEAD n = v.toNat ∧ State.Only [] [.one Ring.CPL_HEAD n] s u)))

/-! ## Registers and sessions (00, 02, 03, 13, 14, 17, 18) -/

/-- 00, R10, R11 and R583; 02, R62 and R63; 12, R413: a write of a word by the host, and by SYSWR at level 1, gives each field
of the word what its access code says; a write that would change an RWL field of a function that is not OFF is counted, and one
to the window of an object that does not exist is refused. The writes of a selector take a snapshot; the reads that clear answer
first. The tables named act beyond their fields. -/
def Obligations.RegistersTakeWrites : Prop :=
  ∀ (s : State),
    let acts := [Tab.ctxSel, .gauSel, .bindSel, .colSel, .chanSel, .roundSel, .mouldSel, .sampleSel, .gauge, .gauRung, .part, .rasTest,
      .evtStatus, .evtEnable, .msix, .cisOp, .secOp, .trace, .fabPort, .fabId, .ring, .pwrRegion, .tbsStatus]
    let lies := fun (off : Nat) (t : Tab) (i w : Nat) => placeOf off = .reg t i w ∨
      (placeOf off = .window t w ∧ ∃ f g n, selector t = some (f, g, n) ∧ s.rget f = i ∧ i < n ∧
        ∀ k, windowKind t = some k → s.isAllocated k i = true)
    let taken := fun (u : State) (t : Tab) (i w v : Nat) =>
      ∀ f ∈ t.fields, 64 * w ≤ f.lo → f.lo + f.len ≤ 64 * w + 64 → f ∉ [RasLog.TAIL, Sample.TAIL] →
        let x := v / 2 ^ (f.lo - 64 * w) % 2 ^ f.len
        match f.acc with
        | .rw => u.rget f i = x
        | .rwl => u.rget f i = if s.ownerOff t i = true then x else s.rget f i
        | .rw1c => s.rget f i < 2 ^ f.len → u.rget f i = s.rget f i - (s.rget f i &&& x)
        | .ro | .wo => u.rget f i = s.rget f i
    (s.barOpen = true → s.rbit SecBoot.READY = true →
      (∀ off t i w (v : Word), off % 8 = 0 → off < 0x4000000 → lies off t i w → t ∉ acts → t ≠ .hubRwlRefused →
        ∃ u, exec (.registerWrite off 8 v) s = .next u ∧ taken u t i w v.toNat ∧
          State.Only [.hub] [.table t, .one HubRwlRefused.COUNT 0] s u ∧
          ((∃ f ∈ t.fields, f.acc = .rwl ∧ 64 * w ≤ f.lo ∧ f.lo + f.len ≤ 64 * w + 64 ∧ s.rget f i < 2 ^ f.len ∧
              v.toNat / 2 ^ (f.lo - 64 * w) % 2 ^ f.len ≠ s.rget f i) → s.ownerOff t i = false →
            u.rget HubRwlRefused.COUNT = min (s.rget HubRwlRefused.COUNT + 1) (2 ^ 32 - 1))) ∧
      (∀ off t w f g n k (v : Word), off % 8 = 0 → off < 0x4000000 → placeOf off = .window t w → selector t = some (f, g, n) →
        windowKind t = some k → s.rget f < n → s.isAllocated k (s.rget f) = false →
        ∃ u, exec (.registerWrite off 8 v) s = .next u ∧ u.rget HubRwlRefused.LAST_REFUSED = 0x10 ∧
          State.Only [] [.one HubRwlRefused.LAST_REFUSED 0] s u) ∧
      (∀ (v : Word) c f t, (c, f, t) ∈ [(Instr.tsqCtxSel v, CtxSel.INDEX, Tab.ctx), (.gauSel v, GauSel.INDEX, .gauge),
          (.upuBindSel v, BindSel.INDEX, .bind), (.colStepSel v, ColSel.INDEX, .colStep), (.fabChanSel v, ChanSel.INDEX, .chan),
          (.whdRoundSel v, RoundSel.INDEX, .round), (.cisMouldSel v, MouldSel.INDEX, .mould), (.obsSampleSel v, SampleSel.INDEX, .sample)] →
        ∃ u n, exec c s = .next u ∧ u.rget f = v.toNat % 2 ^ f.len ∧ (∃ g, selector t = some (f, g, n)) ∧
          look t u.hub.snapshots = some (if u.rget f < n then s.image t (u.rget f) else 0) ∧ State.Only [.hub] [.one f 0] s u)) ∧
    (s.barOpen = true → ∀ c off fs, (c, off, fs) ∈ [(Instr.hubEvtCtrlRead, 0x510, [EvtCtrl.DROPPED]),
        (.hubRwlRefusedRead, 0x8, [HubRwlRefused.COUNT, HubRwlRefused.LAST_REFUSED]), (.pwrInputRead, 0x500000, [PwrInput.PEAK])] →
      ∃ u, exec c s = .next u ∧ u.link.answer = some (toBytes 8 (s.barWord off).1, false) ∧ (∀ f ∈ fs, u.rget f = 0) ∧
        State.Only [.link] (fs.map fun f => .one f 0) s u) ∧
    (∀ (t : ThreadRef) (th : Thread) (f : FormS), s.Issues t th 8 f.pe f.pn f.pi 1 →
      let off := (th.reg f.src1 + f.imm.signExtend 64).toNat
      off < 0x4000000 → off % 8 = 0 → ¬ (0x800000 ≤ off ∧ off < 0x1000000) → ∀ tab i w, lies off tab i w →
      tab ∉ acts ++ [Tab.hubRwlRefused, .tileCnt, .dieCnt, .moduleCnt] →
      ∃ u, exec (.syswr t f) s = .next u ∧ u.thread? t = some (th.advance 8) ∧ taken u tab i w (th.reg f.src2).toNat ∧
        s.othersKeep t u)

/-- 03, R116 and R120; 14, R469; 17, R541, R542 and R553; 18, R561 to R570: writes that act. Event bits are cleared; a history
is cleared at once while its context is OFF, and at its next gate otherwise, and a rung is set likewise; a region of no
partition loses its supply, and its clusters theirs; the time base takes a correction. The host, or a linked session, triggers a
session that is ARMED; a session is armed again, and exports its records; a sampling period ends with its record. -/
def Obligations.ServicesAct : Prop :=
  ∀ (s : State),
    let fired := fun (u : State) (d : Nat) => u.rget Trace.TRIGGER_TIME d = s.now % 2 ^ 64 ∧ u.rbit Evt.OBSERVE = true ∧
      (s.rget Trace.POST_FILL d = 0 → u.rget Trace.CAPTURE d = 3) ∧ (4 ≤ s.rget Trace.POST_FILL d → u.rget Trace.CAPTURE d = 2)
    (s.barOpen = true → s.rbit SecBoot.READY = true →
      (∀ v : Word, (∀ f ∈ Tab.evtStatus.fields, s.rget f < 2) → ∃ u, exec (.hubEvtStatusWrite v) s = .next u ∧
        ∀ f ∈ Tab.evtStatus.fields, u.rbit f = (s.rbit f && !v.toNat.testBit f.lo)) ∧
      (∀ e, e < 16384 → ∃ u, exec (.clearHistory e) s = .next u ∧
        (s.ownerOff .gauge e = true → u.rget Gau.HIST_COUNT e = 0 ∧ u.rget Gau.HIST_NEXT e = 0 ∧ u.rget Gau.HISTORY e = 0) ∧
        (s.ownerOff .gauge e = false → e ∈ u.tsq.clearing ∧ State.Only [.gauges] [] s u)) ∧
      (∀ c r (v : Word), c < 65536 → r < 4 → s.rget GauRung.INDEX < 65536 → v.toNat = c + 65536 * r + 2 ^ 18 →
        (s.fstate .context c = 0 → ∃ u, exec (.gauRungSet v) s = .next u ∧ (u.rungOf c).rung = r ∧ (u.rungOf c).pending = none) ∧
        (s.fstate .context c ≠ 0 → s.rget Ctx.LADDER_LO c ≤ r → r ≤ s.rget Ctx.LADDER_HI c →
          ∃ u, exec (.gauRungSet v) s = .next u ∧ (u.rungOf c).rung = (s.rungOf c).rung ∧ (u.rungOf c).pending = some r) ∧
        (s.fstate .context c ≠ 0 → (r < s.rget Ctx.LADDER_LO c ∨ s.rget Ctx.LADDER_HI c < r) →
          ∃ u, exec (.gauRungSet v) s = .next u ∧ u.rget HubRwlRefused.LAST_REFUSED = 0x11 ∧
            State.Only [] [.one HubRwlRefused.LAST_REFUSED 0] s u)) ∧
      (∀ g, g < 32 → s.partOfRegion g = none →
        (s.rbit PwrRegion.STOP g = false → ∃ u, exec (.pwrRegionStop g true) s = .next u ∧ u.rbit PwrRegion.STOP g = true ∧
          u.rget PwrRegion.VAPPLIED g = 0 ∧ (s.rbit PwrRegion.STOPPED g = false → u.rbit PwrRegion.STOPPED g = true ∧
            u.rget PwrRegion.STOP_TIME g = s.now % 2 ^ 64) ∧
          ∀ a, spaceOf a = .pool g → Memory.read a u.mem = 0 ∧ lineOf a ∉ u.poison) ∧
        (s.rbit PwrRegion.STOP g = true → ∃ u, exec (.pwrRegionStop g false) s = .next u ∧ u.rbit PwrRegion.STOP g = false ∧
          u.rbit PwrRegion.STOPPED g = false) ∧
        (∀ mask : Byte, ∃ u, exec (.pwrRegionCgate g mask) s = .next u ∧ u.rget PwrRegion.CGATE g = mask.toNat ∧
          ∀ c < 8, mask.getLsbD c ≠ (s.rget PwrRegion.CGATE g).testBit c → ∀ a, spaceOf a = .side (8 * g + c) →
            Memory.read a u.mem = 0 ∧ lineOf a ∉ u.poison)) ∧
      (∀ v : Word, s.rbit WhdPort.PTP_EN 0 = false → s.rbit WhdPort.PTP_EN 1 = false → let p := s.power.pending + v.toInt
        ((s.rbit TbsStatus.STEP_FWD = false ∨ p ≤ 1000000) → ∃ u, exec (.tbsAdj v) s = .next u ∧ u.power.pending = p ∧
          u.now = s.now) ∧
        (s.rbit TbsStatus.STEP_FWD = true → 1000000 < p → ∃ u, exec (.tbsAdj v) s = .next u ∧ u.power.pending = 0 ∧
          u.now = (s.now + p.toNat) % 2 ^ 64)) ∧
      (∀ d, d < 4 → s.isOn .trace d = true →
        (s.rget Trace.CAPTURE d = 1 → (s.rget Trace.TRIG_SRC d).testBit 0 = true →
          ∃ u, exec (.obsMarkTrigger (BitVec.twoPow 4 d)) s = .next u ∧ fired u d) ∧
        (s.rget Trace.CAPTURE d ∈ [3, 5] → ∃ u, exec (.traceArm d) s = .next u ∧ u.rget Trace.CAPTURE d = 1 ∧
          (u.traceBuf d).recs = []) ∧
        (s.rget Trace.CAPTURE d ∈ [2, 4] → ∃ u, exec (.traceArm d) s = .next u ∧ u.rget Trace.LAST_ERROR d = 0x75 ∧
          State.Only [] [.one Trace.LAST_ERROR d] s u)) ∧
      (∀ v : Half, s.isOn .trace 0 = true → s.rget Trace.CAPTURE 0 = 1 → ∃ u, exec (.hostMark v) s = .next u ∧
        (u.traceBuf 0).recs.getLast? = some ⟨0x14, 0, 0xFFFF, 0, s.now, 0, v.toNat, 0⟩ ∧
        (u.traceBuf 0).written = (s.traceBuf 0).written + 1)) ∧
    (∀ d src, d < 4 → (d, src) ∈ s.obs.linked → s.isOn .trace d = true → (s.rget Trace.TRIG_SRC d).testBit 4 = true →
      s.rget Trace.CAPTURE d = 1 → ∃ u, exec (.linkedTrigger d src) s = .next u ∧ fired u d) ∧
    (∀ d r, d < 4 → s.isOn .trace d = true → let b := s.traceBuf d
      let a := s.rget Trace.EXP_BASE d + 32 * (s.rget Trace.EXP_HEAD d % 2 ^ s.rget Trace.EXP_LOG2 d)
      b.exported < b.written → b.recs.length ≤ b.written → b.written ≤ b.exported + b.recs.length → b.recs[b.exported + b.recs.length - b.written]? = some r →
      (s.rget Trace.EXP_HEAD d + 2 ^ 32 - s.rget Trace.EXP_TAIL d) % 2 ^ 32 < 2 ^ s.rget Trace.EXP_LOG2 d →
      (s.ringReach (s.rget Trace.EXP_BASE d) = false → s.rbit Trace.EXPORT_MODE d = true → ∃ u, exec (.traceExport d) s = .next u ∧
        u.rget Trace.LAST_ERROR d = 0x74 ∧ (u.traceBuf d).exported = b.exported) ∧
      (s.ringReach (s.rget Trace.EXP_BASE d) = true → (s.rbit Trace.EXPORT_MODE d = true ∨ s.rget Trace.CAPTURE d = 3) →
        Memory.wf s.mem = true → (∀ x, a ≤ x → x < a + 32 → s.deadLine x = false) →
        ∃ u, exec (.traceExport d) s = .next u ∧ (u.traceBuf d).exported = b.exported + 1 ∧
          u.rget Trace.EXP_HEAD d = (s.rget Trace.EXP_HEAD d + 1) % 2 ^ 32 ∧
          u.peek a 32 = toBytes 1 r.kind ++ toBytes 1 r.flags ++ toBytes 2 r.loc ++ toBytes 4 r.ctx ++ toBytes 8 r.time ++
            toBytes 4 r.opid ++ toBytes 4 r.a ++ toBytes 8 r.b ∧
          (s.rbit Trace.EXPORT_MODE d = false →
            u.rget Trace.CAPTURE d = if b.exported + 1 = b.written then 5 else 4))) ∧
    (∀ i m, look i s.obs.samplers = some m → m.endTime ≤ s.now → s.isOn .sample i = true → m.counts.length = 6 →
      s.ringReach (s.rget Sample.RING_BASE i) = true → let next := m.endTime + 2 ^ s.rget Sample.PERIOD_LOG2 i * 1000
      let used := (s.rget Sample.HEAD i + 2 ^ 32 - s.rget Sample.TAIL i) % 2 ^ 32
      let a := s.rget Sample.RING_BASE i + 64 * (s.rget Sample.HEAD i % 2 ^ s.rget Sample.RING_LOG2 i)
      (2 ^ s.rget Sample.RING_LOG2 i ≤ used → ∃ u, exec (.samplePeriodEnd i) s = .next u ∧ u.mem = s.mem ∧
        look i u.obs.samplers = some { m with
          periods := m.periods + 1, endTime := next, later := del next m.later
          counts := (m.counts.zip (lookD next (List.replicate 6 0) m.later)).map fun p => p.1 + p.2 } ∧
        u.rget Sample.MERGED i = min (s.rget Sample.MERGED i + 1) (2 ^ Sample.MERGED.len - 1)) ∧
      (used < 2 ^ s.rget Sample.RING_LOG2 i → Memory.wf s.mem = true → (∀ x, a ≤ x → x < a + 64 → s.deadLine x = false) →
        ∃ u m', exec (.samplePeriodEnd i) s = .next u ∧ u.rget Sample.HEAD i = (s.rget Sample.HEAD i + 1) % 2 ^ 32 ∧
          u.peek a 64 = toBytes 8 m.endTime ++ toBytes 4 (s.handle .sample i) ++ toBytes 2 (m.periods + 1) ++
            toBytes 1 ((if 0 < m.periods then 1 else 0) + if m.stopped then 2 else 0) ++ [0] ++ m.counts.flatMap (toBytes 8 ·) ∧
          look i u.obs.samplers = some m' ∧ m'.periods = 0 ∧ m'.endTime = next ∧
          (m.later = [] → (∀ e ∈ sampleEvents s i, e < 0x20) → m'.counts = List.replicate 6 0)))

/-! ## Security operations and the cistern (15, 16) -/

/-- 15, R490 to R497, R501 and R508: what each operation of SEC_OP does and the reason that it gets, in the order of its checks,
while it runs; a completed one clears BUSY, shows its REASON and sets SECURITY. A missing identity key is derived beside the
boot. -/
def Obligations.SecurityOperationsRun : Prop :=
  ∀ (s : State),
    let ends := fun (u : State) (o : OpRun) (r : Nat) => u.security.op = some { o with reason := some r }
    (∀ o, s.security.op = some o → o.reason = none →
      (o.op = 1 →
        (s.hostBytes o.addr o.len = none → ∃ u, exec .fwUpdate s = .next u ∧ ends u o 0x97 ∧ u.cistern = s.cistern) ∧
        (∀ img, s.hostBytes o.addr o.len = some img → ∃ u, exec .fwUpdate s = .next u ∧
          match s.imageFault img with
          | some r => ends u o r ∧ u.cistern = s.cistern
          | none =>
            if imageSvn img < s.highSvn ∧ o.present = false then ends u o 0x03 ∧ u.cistern = s.cistern
            else if s.cisState ≠ 0 then ends u o 0x87 ∧ u.cistern = s.cistern
            else ends u o 0 ∧ u.cistern.image = some img ∧ u.cistern.highSvn = imageSvn img)) ∧
      (o.op = 2 →
        (s.hostBytes o.addr o.len = none → ∃ u, exec .cfgWrite s = .next u ∧ ends u o 0x97 ∧ u.cistern = s.cistern) ∧
        (∀ b, s.hostBytes o.addr o.len = some b → ∃ u, exec .cfgWrite s = .next u ∧
          if cfgSound b = false then ends u o 0x8D ∧ u.cistern = s.cistern
          else if s.cisState ≠ 0 then ends u o 0x8E ∧ u.cistern.cfg = .torn
          else ends u o 0 ∧ u.cistern.cfg = .block b)) ∧
      (o.op = 3 → ∃ u, exec .cfgErase s = .next u ∧
        if s.cisState = 0 then ends u o 0 ∧ u.cistern.cfg = .empty s.cistern.cfg.writes
        else ends u o 0x8E ∧ u.cistern.cfg = .torn) ∧
      (o.op = 4 → ∃ u, exec .debugUnlock s = .next u ∧ ends u o 0 ∧ u.rbit SecState.DEBUG_UNLOCKED = true) ∧
      (o.op = 5 → ∃ u, exec .raiseFloor s = .next u ∧ State.Only [.fuses, .security] [] s u ∧
        if o.arg ≤ 255 then ends u o 0 ∧ u.fuses = { s.fuses with svnFloor := o.arg } else ends u o 0x96 ∧ u.fuses = s.fuses) ∧
      (o.op = 6 → ∃ u, exec .rekey s = .next u ∧
        if s.fuses.epoch < 15 then ends u o 0 ∧ u.fuses = { s.fuses with epoch := s.fuses.epoch + 1 } ∧ u.cistern.cert = none ∧
          u.security.identity = true ∧ (s.cisState = 0 → u.cistern.keyEpoch = some (s.fuses.epoch + 1))
        else ends u o 0x96 ∧ u.fuses = s.fuses ∧ u.cistern = s.cistern) ∧
      (o.op = 7 → ∃ u, exec .factoryRestore s = .next u ∧
        if s.cisState = 0 then ends u o 0 ∧ u.cistern.cert = none ∧ u.cistern.restore = false ∧ u.cistern.cfg = .torn ∧
          u.cis.writes = [] ∧ u.fuses = s.fuses ∧
          ∀ i ∈ s.cistern.used, s.rget Mould.STATE i ∈ [2, 3] → (∀ w ∈ s.cis.writes, w.index ≠ i) → u.rget Mould.STATE i = 4
        else ends u o 0x87 ∧ u.cistern = s.cistern)) ∧
    (∀ o r, s.security.op = some o → o.reason = some r → ∃ u, exec .secOpComplete s = .next u ∧ u.security.op = none ∧
      u.rbit SecOp.BUSY = false ∧ u.rget SecOp.REASON = r % 256 ∧ u.rbit Evt.SECURITY = true ∧
      (s.hostLoad = true → o.op = 1 → r = 0 → u.rbit SecBoot.HOST_LOAD = false ∧ 4 ∈ u.security.orders)) ∧
    (s.power.running = true → s.booted 5 = true → s.security.identity = false → ∃ u, exec .identityKeyDerived s = .next u ∧
      u.security.identity = true ∧ (s.cisState = 0 → u.cistern.keyEpoch = some s.fuses.epoch) ∧
      State.Only [.security, .cistern] [] s u)

/-- 16, R512 to R529: what the operations of CIS_OP do with moulds, how a mould commits and its superblocks are erased, how data
moves between superblocks, and what a lost channel does. -/
def Obligations.CisternKeepsMoulds : Prop :=
  ∀ (s : State),
    let ends := fun (u : State) (o : OpRun) (r : Nat) => u.cis.op = some { o with reason := some r }
    (∀ o, s.cis.op = some o → o.reason = none →
      (o.op = 1 → let a := o.addr
        (s.rget Mould.STATE o.arg = 1 → ∃ u, exec .mouldRead s = .next u ∧ ends u o 0x88 ∧ u.mem = s.mem) ∧
        (s.rget Mould.STATE o.arg ≠ 1 → look o.arg s.cistern.bodies = none →
          ∃ u, exec .mouldRead s = .next u ∧ ends u o 0x8A ∧ u.mem = s.mem) ∧
        (∀ b, s.rget Mould.STATE o.arg ≠ 1 → look o.arg s.cistern.bodies = some b → b.bytes.length ≤ o.len → s.backed a = true →
          s.backed (a + b.bytes.length - 1) = true → (spaceOf a = .host → s.hostUp = true) → Memory.wf s.mem = true →
          (∀ x, a ≤ x → x < a + b.bytes.length → s.deadLine x = false) → a % 64 = 0 →
          ∃ u r, exec .mouldRead s = .next u ∧ ends u o r ∧ r ∈ [0, 0x89] ∧ (b.dirty ≠ [] → r = 0x89) ∧
            u.peek a b.bytes.length = b.bytes)) ∧
      (o.op = 2 → s.cisState = 0 → (∀ w ∈ s.cis.writes, w.owner ≠ .op) → let v := castView (s.peek o.addr o.len)
        let sound := v.whole = true ∧ v.count = v.records.length ∧ v.entries = v.records.map entryOf
        s.backed o.addr = true → s.backed (o.addr + o.len - 1) = true →
        (¬ sound → ∃ u, exec .mouldWrite s = .next u ∧ ends u o 0x8A ∧ u.cistern = s.cistern) ∧
        (sound → ∃ u, exec .mouldWrite s = .next u ∧
          match s.mouldStart o.len with
          | .refused r => ends u o r ∧ u.cistern = s.cistern
          | .waits => u = s
          | .at i => u.rget Mould.STATE i = 1 ∧ u.rget Mould.CONTEXT i = o.arg % 65536 ∧ i ∈ u.cistern.used ∧ u.cis.op = some o ∧
            ∃ w ∈ u.cis.writes, w.index = i ∧ w.owner = .op ∧ w.body.bytes = s.peek o.addr o.len)) ∧
      (o.op = 3 → ∃ u, exec .mouldDelete s = .next u ∧
        if s.rget Mould.STATE o.arg = 1 then ends u o 0x88 ∧ u.cistern = s.cistern
        else if s.rget Mould.STATE o.arg = 2 ∨ s.rget Mould.STATE o.arg = 3 then ends u o 0 ∧ u.rget Mould.STATE o.arg = 4 ∧
          look o.arg u.cistern.bodies = none ∧ ∀ k pos, (s.sb k).use = .mould o.arg pos → (u.sb k).use = .erasing o.arg
        else ends u o 0x8A ∧ u.cistern = s.cistern)) ∧
    (∀ o r, s.cis.op = some o → o.reason = some r → ∃ u, exec .cisOpComplete s = .next u ∧ u.cis.op = none ∧
      u.rbit CisOp.BUSY = false ∧ u.rget CisOp.REASON = r % 256 ∧ u.rbit Evt.CISTERN = true) ∧
    (∀ w, s.cis.writes.find? (fun x => x.index == w.index) = some w → s.rget CisCtrl.KEEP = 0 →
      ∃ u, exec (.mouldCommit w.index) s = .next u ∧ u.cistern.serial = s.cistern.serial + 1 ∧ u.rget Mould.STATE w.index = 2 ∧
        u.rget Mould.SERIAL w.index = (s.cistern.serial + 1) % 2 ^ 64 ∧ u.rget Mould.STEP w.index = w.step % 2 ^ 64 ∧
        u.rget Mould.BYTES w.index = w.body.bytes.length % 2 ^ 64 ∧ u.rget Mould.COMMIT_TIME w.index = s.now % 2 ^ 64 ∧
        look w.index u.cistern.bodies = some w.body ∧ (∀ x ∈ u.cis.writes, x.index ≠ w.index) ∧
        u.cistern.written = s.cistern.written + w.body.bytes.length) ∧
    (∀ i, s.rget Mould.STATE i = 4 → (s.cistern.sbs.map Prod.fst).Nodup → ∃ u, exec (.mouldEraseDone i) s = .next u ∧ u.rget Mould.STATE i = 0 ∧ i ∉ u.cistern.used ∧
      ∀ k, (s.sb k).use = .erasing i → (u.sb k).use = .free ∧ (u.sb k).erases = (s.sb k).erases + 1) ∧
    (∀ k, k < sbCount → s.inUse k = true →
      (s.nextPatrol = some k → ∃ u, exec (.cisPatrol k .clean) s = .next u ∧ k ∈ u.cis.patrolled ∧ (u.sb k).reads = (s.sb k).reads + 2048 ∧
        ((u.sb k).due = true ↔ (s.sb k).due = true ∨ 100000 ≤ (s.sb k).reads + 2048)) ∧
      (∀ r ∈ [FlashRead.weak, .softDecoded, .rebuilt, .lost], s.nextPatrol = some k ∨ s.readsMould k = true → ∃ u, exec (.cisPatrol k r) s = .next u ∧ (u.sb k).due = true) ∧
      (s.nextPatrol ≠ some k → s.readsMould k = true → exec (.cisPatrol k .clean) s = .next s) ∧
      (∀ i pos b, s.nextPatrol = some k ∨ s.readsMould k = true → (s.sb k).use = .mould i pos → look i s.cistern.bodies = some b → ∃ u b', exec (.cisPatrol k .lost) s = .next u ∧
        u.rget Mould.STATE i = 3 ∧ look i u.cistern.bodies = some b' ∧ b'.bytes = b.bytes ∧
        b'.dirty.length = b.dirty.length + 64) ∧
      (s.cis.writes = [] → (∃ j < sbCount, s.sbFree j = true) →
        let moved := fun (u : State) => ∃ q < sbCount, s.sbFree q = true ∧
          (∀ j < sbCount, s.sbFree j = true → (s.sb q).erases ≤ (s.sb j).erases) ∧ (u.sb q).use = (s.sb k).use ∧
          (u.sb k).use = .free ∧ (u.sb k).erases = (s.sb k).erases + 1
        ((s.sb k).due = true → ∃ u, exec (.cisRelocate k) s = .next u ∧ moved u) ∧
        (∀ ch, ch < 16 → k ∉ s.cistern.broken → ∃ u, exec (.cisBlockRetired k ch) s = .next u ∧ moved u ∧
          u.cistern.grown = s.cistern.grown + 1)) ∧
      (∀ a b, k ∉ s.cistern.broken → (∃ j < sbCount, s.sbFree j = true) → a < sbCount → b < sbCount → a ∉ s.cistern.broken →
        b ∉ s.cistern.broken → (s.sb a).erases + 200 < (s.sb b).erases → ∃ u l q, exec .cisWearLevel s = .next u ∧
        l < sbCount ∧ s.inUse l = true ∧ q < sbCount ∧ s.sbFree q = true ∧
        (∀ j < sbCount, j ∉ s.cistern.broken → s.inUse j = true → (s.sb l).erases ≤ (s.sb j).erases) ∧
        (∀ j < sbCount, s.sbFree j = true → (s.sb j).erases ≤ (s.sb q).erases) ∧ (u.sb q).use = (s.sb l).use ∧
        (u.sb l).use = .free ∧ (u.sb l).erases = (s.sb l).erases + 1)) ∧
    (∀ c, (∀ n, c = some n → n < 16) → s.cistern.failed = false → ∃ u, exec (.cisChannelLost c) s = .next u ∧
      u.cisState = 2 ∧ u.cis.writes = [] ∧ u.rbit CisStatus.CHANGED = true ∧
      ∀ o, s.cis.op = some o → o.reason = none → u.cis.op = some { o with reason := some 0x87 })

/-! ## Start, power, time and pins (15, 17, 19) -/

/-- 15, R481 to R490 and R498 to R500; 16, R530; 17, R535 to R554; 19, R574 to R578: the module stops when its supply or its
heat demands it, and everything volatile is lost at once; the hub die writes the torn mark within the hold-up; power starts it
again, and PERST_N resets it; the boot's orders complete, or lead to host-load state. The input bands, the power cap, the
thermal ceilings and the rails move by steps of 5 mV. References, presence, seal and debug requests set what they say. -/
def Obligations.ModuleStartsAndStops : Prop :=
  ∀ (s : State),
    let dark := fun (u : State) => u.tsq = State.reset.tsq ∧ u.hub = State.reset.hub ∧ u.rbit SecBoot.READY = false ∧
      u.linkUp = false ∧ (∀ a, a < hostBase → Memory.read a u.mem = 0) ∧ ∀ l ∈ u.poison, hostBase ≤ l * 64
    (∀ c cause, (c, cause) ∈ [(Instr.powerFail 33999, StopCause.powerFail), (.overVoltageStop 46001, .overVoltage), (.thermtrip, .thermtrip)] →
      s.power.running = true → ∃ u, exec c s = .next u ∧ dark u ∧ u.power.running = false ∧ u.power.holdUp = some cause ∧
        u.now = s.now % 2 ^ 64 ∧ (cause = .thermtrip → u.power.thermtrip = true)) ∧
    (∀ mv, mv < 34000 → s.power.running = false → ∃ u, exec (.powerFail mv) s = .next u ∧
      u.power = { s.power with thermtrip := false } ∧ State.Only [.power] [] s u) ∧
    (∀ cause, s.power.holdUp = some cause → ∃ u, exec .holdUpEnd s = .next u ∧ dark u ∧ u.power.holdUp = none ∧
      (s.cistern.failed = false → ∃ m, u.cistern.torn = some m ∧ m.time = s.now ∧ m.cause = cause)) ∧
    (s.power.running = false → s.power.holdUp = none → s.power.thermtrip = false → ∃ u, exec .powerGood s = .next u ∧ dark u ∧
      u.power.running = true ∧ u.cistern = s.cistern ∧ u.fuses = s.fuses ∧ ∀ n, u.booted n = false) ∧
    (s.power.perst = false → s.power.running = true → ∃ u, exec (.perstNAssert true) s = .next u ∧ dark u ∧ u.power.perst = true ∧
      u.power.running = true ∧ (∀ n, u.booted n = false) ∧
      (s.cistern.failed = false → ∃ m, u.cistern.torn = some m ∧ m.time = s.now ∧ m.cause = .reset)) ∧
    (exec (.perstNAssert false) s = .next s) ∧
    (∃ u, exec .perstNDeassert s = .next u ∧ u.power.perst = false ∧ State.Only [.power] [] s u) ∧
    (∀ n, s.orderReady n = true → n ≠ 4 → ∃ u, exec (.bootOrderComplete n) s = .next u ∧ u.booted n = true ∧
      u.rget SecBoot.STAGE = u.bootStage % 2 ^ SecBoot.STAGE.len ∧ (n = 10 → u.rbit SecBoot.READY = true)) ∧
    (s.orderReady 4 = true → ∃ u, exec (.bootOrderComplete 4) s = .next u ∧ match s.slotFault with
      | none => u.booted 4 = true ∧ u.security.image = s.cistern.image.getD []
      | some r => u.security = s.security ∧ u.rbit SecBoot.HOST_LOAD = true ∧ u.rget SecBoot.LAST_REASON = r % 256) ∧
    (s.power.running = true →
      (∀ mv, 34000 ≤ mv → mv ≤ 46000 → ∃ u, exec (.inputBandChange mv) s = .next u ∧ u.rget PwrInput.VIN = mv ∧
        (u.rbit PwrStatus.LOW_INPUT = true ↔ mv < 36000) ∧ (u.rbit PwrStatus.HIGH_INPUT = true ↔ 44000 < mv)) ∧
      (∀ w, s.rget PwrStatus.VCAP ≤ 760 → 560 ≤ s.rget PwrStatus.VCAP → ∃ u, exec (.capTick w) s = .next u ∧
        u.rget PwrInput.POWER = w % 65536 ∧ let v := s.rget PwrStatus.VCAP
        u.rget PwrStatus.VCAP = (if s.capW < w then max 560 (v - 5) else if 100 * w < 98 * s.capW then min 760 (v + 5) else v) ∧
        (u.rbit PwrStatus.CAP_ACTIVE = true ↔ u.rget PwrStatus.VCAP < 760)) ∧
      (∀ t, s.power.floorAt = some t → s.power.above = true → t + 10000000 ≤ s.now → s.rbit PwrStatus.CAP_UNMET = false →
        ∃ u, exec .capUnmet s = .next u ∧ u.rbit PwrStatus.CAP_UNMET = true ∧ u.rbit PwrStatus.CHANGED = true) ∧
      (∀ g tj, g < 32 → ∃ u, exec (.thermalTick g tj) s = .next u ∧ u.rget PwrRegion.TJ g = min tj 255 ∧
        (s.tjLimit < tj → s.ceilingStood g 100000 = true → u.ceiling g = max 560 (s.ceiling g - 5) ∧
          (s.ceiling g ≤ 760 → u.rbit PwrStatus.THERMAL_ACTIVE = true)) ∧
        (tj + 2 ≤ s.tjLimit → s.ceiling g < 760 → s.ceilingStood g 1000000 = true → u.ceiling g = min 760 (s.ceiling g + 5)) ∧
        (s.tjLimit < tj → s.ceilingStood g 100000 = false → u.ceiling g = s.ceiling g)) ∧
      (∀ g, g < 32 → s.rbit PwrRegion.STOP g = false → look g s.power.lastStep = none → s.rget PwrRegion.VAPPLIED g < 1024 →
        let v := s.rget PwrRegion.VAPPLIED g
        ∃ u, exec (.railStep g) s = .next u ∧
          u.rget PwrRegion.VAPPLIED g = (if v < s.railTarget g then min (s.railTarget g) (v + 5) else max (s.railTarget g) (v - 5)) ∧
          State.Only [.power] [.one PwrRegion.VAPPLIED g] s u) ∧
      (s.rbit TbsStatus.REF_LOST = false → ∃ u, exec .refLost s = .next u ∧ u.rbit TbsStatus.REF_LOST = true ∧
        u.rbit TbsStatus.CHANGED = true) ∧
      (∃ u, exec .refReturn s = .next u ∧ u.rbit TbsStatus.REF_LOST = false) ∧
      (s.booted 2 = true → (∃ u, exec .presenceAssert s = .next u ∧ u.rbit SecState.PRESENCE = true ∧ u.security.present = true) ∧
        (s.fuses.broken = false → ∃ u, exec .sealBroken s = .next u ∧ u.fuses = { s.fuses with broken := true } ∧
          u.rbit Evt.SECURITY = true)) ∧
      (∀ r, (s.fuses.broken = true ∨ (s.rbit SecState.DEBUG_UNLOCKED = true ∧ (∀ d, r ≠ .scan d) ∧ ∀ a, r ≠ .store a)) →
        ∃ u, exec (.debugAccess r) s = .next u ∧ u.security.debug = s.security.debug ++ [r] ∧
          u.security.halted = (if r = .halt then true else if r = .resume then false else s.security.halted) ∧
          State.Only [.security] [] s u) ∧
      (∀ low, ∃ u, exec (.debugHalt low) s = .next u ∧ u.security.dbgLow = low ∧ (s.debugOpen = true → u.security.halted = low) ∧
        State.Only [.security] [] s u) ∧
      (∀ a, ∃ u, exec (.dynamicAddressAssignment a) s = .next u ∧ u.security.i3c = a.toNat ∧ State.Only [.security] [] s u)) ∧
    (s.power.pending = 0 → ∃ u, exec .tbsSlewDone s = .next u ∧ u.rbit TbsStatus.SLEWING = false) ∧
    (s.security.present = true → ∃ u, exec .presenceDeassert s = .next u ∧ u.security.present = false ∧
      u.security.windowEnd = s.now + 30000000000 ∧ u.rget SecState.PRESENCE = s.rget SecState.PRESENCE) ∧
    (s.security.present = false → s.security.windowEnd ≤ s.now → ∃ u, exec .presenceWindowExpire s = .next u ∧
      u.rbit SecState.PRESENCE = false ∧ State.Only [] [.one SecState.PRESENCE 0] s u)

/-! ## The host link and the SPDM responder (14, 15) -/

/-- 14, R446 to R457: the link trains, is lost and degrades, and its key sets with it; the host reads and writes device memory
through a committed decoder, with its poison, and an address that none maps is a fault; key sets are programmed, go, switch
and are freed, and an item that fails its check makes its stream insecure. -/
def Obligations.HostLinkCarries : Prop :=
  ∀ (s : State),
    (∀ width speed, (width = 8 ∨ width = 16) → (speed = 1 ∨ speed = 2) →
      (s.power.running = true → s.booted 1 = true → s.power.perst = false → s.linkUp = false →
        ∃ u, exec (.hostLinkTrained width speed) s = .next u ∧ u.rget HubLink.WIDTH = width ∧ u.rget HubLink.SPEED = speed ∧
          u.linkUp = true ∧ (s.booted 3 = true → u.rget HubLink.RETRAINS = min (s.rget HubLink.RETRAINS + 1) (2 ^ HubLink.RETRAINS.len - 1))) ∧
      (s.linkUp = true → s.rget HubLink.WIDTH ≠ width ∨ s.rget HubLink.SPEED ≠ speed →
        ∃ u, exec (.hostLinkDegraded width speed) s = .next u ∧ u.rget HubLink.WIDTH = width ∧ u.rget HubLink.SPEED = speed ∧
          u.rbit Evt.HOST_LINK = true ∧ u.link.ide = [])) ∧
    (s.linkUp = true → ∃ u, exec .hostLinkDown s = .next u ∧ u.linkUp = false ∧ u.rget HubLink.WIDTH = 0 ∧ u.link.ide = [] ∧
      u.rbit HubLink.IDE_IO = false ∧ u.rbit HubLink.IDE_CM = false) ∧
    (∀ cache mem (d : HdmDecoder), s.barOpen = true → s.link.decoders = [none, none] → d.ways = 1 → 0 < d.size → d.size ≤ hbmBytes →
      ∃ u, exec (.cxlCacheMemEnable cache mem [d]) s = .next u ∧ u.link.decoders = [some d, none] ∧
        u.rbit HubLink.CACHE_EN = cache ∧ u.rbit HubLink.MEM_EN = mem) ∧
    (∀ addr, s.memOpen = true →
      (s.hdmAddress addr = none → exec (.hdmRead addr) s = .fault .unmapped ∧
        ∀ data poison cached, exec (.hdmWrite addr data poison cached) s = .fault .unmapped) ∧
      (∀ a, s.hdmAddress addr = some a →
        (∃ u, exec (.hdmRead addr) s = .next u ∧
          u.link.answer = some (s.peek (64 * (a / 64)) 64, s.poisoned (64 * (a / 64)) 64) ∧ a / 64 ∈ u.tiers.snoop ∧
          u.mem = s.mem ∧ u.poison = s.poison) ∧
        (∀ data poison cached, a % 64 + data.length ≤ 64 → s.deadLine (64 * (a / 64)) = false →
          (∀ x, a ≤ x → x < a + data.length → s.deadLine x = false) → Memory.wf s.mem = true →
          ∃ u, exec (.hdmWrite addr data poison cached) s = .next u ∧ u.peek a data.length = data ∧
            (∀ x, x < a ∨ a + data.length ≤ x → Memory.read x u.mem = Memory.read x s.mem) ∧
            (data ≠ [] → (a / 64 ∈ u.poison ↔ poison = true ∨ (data.length < 64 ∧ a / 64 ∈ s.poison))) ∧
            (cached = true → a / 64 ∈ u.tiers.snoop)))) ∧
    (s.ideKm = true → ∀ i d slot,
      ((s.keys i d).current = some slot → ∃ u r, exec (.keyProg i d slot) s = .next u ∧ u.keys i d = s.keys i d ∧
        u.security.spdm.out = s.security.spdm.out ++ [r] ∧ r.error = some 3) ∧
      ((s.keys i d).current ≠ some slot → (s.keys i d).previous = none → ∃ u r, exec (.keyProg i d slot) s = .next u ∧
        u.keys i d = { s.keys i d with next := some slot } ∧ u.security.spdm.out = s.security.spdm.out ++ [r] ∧ r.error = none) ∧
      ((s.keys i d).next = some slot → ∃ u, exec (.kSetGo i d) s = .next u ∧
        (d = .transmit → u.keys i d = { s.keys i d with waiting := true }) ∧
        (d = .receive → u.keys i d = ⟨some slot, none, (s.keys i d).current, false⟩))) ∧
    (∀ i, (s.keys i .transmit).waiting = true → ∃ u, exec (.ideKeySwitch i) s = .next u ∧
      u.keys i .transmit = ⟨(s.keys i .transmit).next, none, none, false⟩) ∧
    (∀ i (item : IdeItem), s.linkUp = true → (s.keys i .receive).current ≠ none →
      (item.passes = true → item.change = true → ∃ u, exec (.cxlItemReceive i item) s = .next u ∧
        u.keys i .receive = { s.keys i .receive with previous := none }) ∧
      (item.passes = false → (s.keys i .receive).previous = none → ∃ u, exec (.cxlItemReceive i item) s = .next u ∧
        (∀ d, look (i, d) u.link.ide = none) ∧
        u.rget HubLink.IDE_FAILS = min (s.rget HubLink.IDE_FAILS + 1) (2 ^ HubLink.IDE_FAILS.len - 1)))

/-- 15, R501 to R504: what the responder answers to each request that it hears, outside a session or in one that is
established, once the version and the algorithms are agreed. The answers that are signed need the identity key, and are Busy
before. -/
def Obligations.ResponderAnswers : Prop :=
  ∀ (s : State) (q : SpdmRef), s.hears q = true → (q.session = 0 ∨ s.established q.session = true) →
    let tells := fun (u : State) (code : Nat) (error : Option Nat) (bs : List Byte) (sig : Option (List Byte)) =>
      u.security.spdm.out = s.security.spdm.out ++ [⟨q.doe, q.session, code, error, bs, sig⟩]
    let signs := fun (u : State) (code : Nat) (nonce bs : List Byte) =>
      if s.security.identity = true then tells u code none bs (some (Config.sign s.fuses.epoch (nonce ++ bs)))
      else tells u code (some 0x03) [] none
    (∃ u, exec (.getVersion q) s = .next u ∧ tells u 0x84 none [0x12, 0x13] none ∧ u.security.spdm.negotiated = false ∧
      u.security.spdm.sessions = []) ∧
    (∃ u, exec (.getCapabilities q) s = .next u ∧ tells u 0xE1 none [] none) ∧
    (∀ v, (v = 0x12 ∨ v = 0x13) → ∃ u, exec (.negotiateAlgorithms q v true) s = .next u ∧ tells u 0xE3 none [] none ∧
      u.security.spdm.version = some v ∧ u.security.spdm.negotiated = true) ∧
    (∀ v, v ≠ 0x12 → v ≠ 0x13 → ∃ u, exec (.negotiateAlgorithms q v true) s = .next u ∧ tells u 0xE3 (some 0x41) [] none ∧
      u.security.spdm.negotiated = s.security.spdm.negotiated) ∧
    (s.security.spdm.negotiated = true →
      (∃ u n bs, exec (.getDigests q) s = .next u ∧ tells u 0x81 none (BitVec.ofNat 8 n :: bs) none ∧
        n = (if s.fuses.epoch = 0 then 1 else 0) + (if s.cistern.cert.isSome = true then 2 else 0) ∧
        (∀ c, s.fuses.epoch ≠ 0 → s.cistern.cert = some c → bs = sha512 c)) ∧
      (∀ slot offset len, (slot = 0 → s.fuses.epoch ≠ 0) → (slot = 1 → s.cistern.cert = none) →
        ∃ u, exec (.getCertificate q slot offset len) s = .next u ∧ tells u 0x82 (some 0x01) [] none) ∧
      (∀ c offset len, s.cistern.cert = some c → offset < c.length →
        ∃ u, exec (.getCertificate q 1 offset len) s = .next u ∧ tells u 0x82 none ((c.drop offset).take len) none) ∧
      (∀ c nonce, s.cistern.cert = some c → ∃ u, exec (.challenge q 1 nonce) s = .next u ∧ signs u 0x83 nonce (sha512 c)) ∧
      (∀ nonce, (∃ u, exec (.getMeasurements q 0 false nonce) s = .next u ∧ tells u 0xE0 none [5] none) ∧
        (s.hostLoad = false → ∃ u, exec (.getMeasurements q 2 true nonce) s = .next u ∧ signs u 0xE0 nonce (sha512 s.security.image)) ∧
        (s.hostLoad = true → ∃ u, exec (.getMeasurements q 2 true nonce) s = .next u ∧ signs u 0xE0 nonce (sha512 [])) ∧
        ∃ u, exec (.getMeasurements q 6 true nonce) s = .next u ∧ tells u 0xE0 (some 0x01) [] none) ∧
      (∀ n, n ≠ 0 → ∃ u, exec (.keyExchange q n true) s = .next u ∧ signs u 0xE4 [] [] ∧
        (s.security.identity = true → look n u.security.spdm.sessions = some false)) ∧
      (∀ n, s.established n = true →
        (∃ u, exec (.spdmHeartbeat q n) s = .next u ∧ tells u 0xE8 none [] none) ∧
        (∃ u, exec (.keyUpdate q n) s = .next u ∧ tells u 0xE9 none [] none) ∧
        ∃ u, exec (.endSession q n) s = .next u ∧ tells u 0xEC none [] none ∧ look n u.security.spdm.sessions = none) ∧
      (∀ chain, ∃ u, exec (.setCertificate q 1 chain) s = .next u ∧
        if s.rbit SecState.PRESENCE = true ∧ Config.leafHolds chain (Config.identityModulus s.fuses.epoch) = true then
          if s.cisState = 0 then tells u 0xEE none [] none ∧ u.cistern.cert = some chain
          else tells u 0xEE (some 0x05) [] none ∧ u.cistern = s.cistern
        else tells u 0xEE (some 0x01) [] none ∧ u.cistern = s.cistern)) ∧
    (∀ n, look n s.security.spdm.sessions = some false →
      (∃ u, exec (.finish q n true) s = .next u ∧ tells u 0xE5 none [] none ∧ look n u.security.spdm.sessions = some true) ∧
      ∃ u, exec (.finish q n false) s = .next u ∧ tells u 0xE5 (some 0x01) [] none ∧ look n u.security.spdm.sessions = none)

/-! ## The whole block -/

/-- A step runs the command at the front of the queue on the state with the queue's rest. On an empty queue the block is idle:
one nanosecond passes (the model's choice, log 2), which moves the time base of a module that runs (17, R550). -/
def Obligations.StepRunsFrontCommand : Prop :=
  (∀ (s : State) (c : Instr) (rest : List Instr), s.pending = c :: rest → step s = exec c { s with pending := rest }) ∧
  ∀ s : State, s.pending = [] → ∃ u, step s = .next u ∧ u.pending = [] ∧ (s.power.running = false → u = s) ∧
    (s.power.running = true → s.power.pending = 0 → u.now = (s.now + 1) % 2 ^ 64)

/-- Right after reset the queue is empty, the state is sound, no order of the boot has completed (15, R483), every function is
OFF (14, R471) with generation 0 in its handle (02, R66), and no interrupt event is set (14, R469). -/
def Obligations.ResetIsSound : Prop :=
  State.reset.Sound ∧ State.reset.pending = [] ∧ State.reset.rbit SecBoot.READY = false ∧ (∀ n, State.reset.booted n = false) ∧
  (∀ k : Kind, ∀ i < k.size, State.reset.fstate k i = 0 ∧ State.reset.handle k i = k.code * 2 ^ 28 + i) ∧
  State.reset.image .evtStatus 0 = 0

/-- Every step keeps a state sound: memory stays in its canonical form, poisoned lines in rising order, and the register file
keeps each field once, within its width, whatever command runs. -/
def Obligations.StepsKeepSound : Prop := ∀ s u : State, s.Sound → step s = .next u → u.Sound

/-- Every command ends in a next state, but for a host access of device memory at an address that no committed decoder maps,
which is a fault (14, R450). No command changes what lies outside its footprint: not the other pieces of the state, not the
registers of other blocks, and never the queue behind it. -/
def Obligations.CommandsKeepFootprint : Prop :=
  ∀ (c : Instr) (s : State),
    let strays := s.memOpen = true ∧ ∃ addr, s.hdmAddress addr = none ∧
      (c = .hdmRead addr ∨ ∃ data poison cached, c = .hdmWrite addr data poison cached)
    (strays → exec c s = .fault .unmapped) ∧
    (¬ strays → ∃ u, exec c s = .next u ∧ State.Only (footprint c).comps ((footprint c).tabs.map .table) s u)

/-- 15, R497 and R499: fuses burn one way. From a sound state no step lowers the SVN floor or the epoch of the identity key, or
mends the seal. -/
def Obligations.FusesNeverFall : Prop :=
  ∀ s u : State, s.Sound → step s = .next u →
    s.fuses.svnFloor ≤ u.fuses.svnFloor ∧ s.fuses.epoch ≤ u.fuses.epoch ∧ (s.fuses.broken = true → u.fuses.broken = true)
end

