-- ==== Sys2Proof/Decode.lean ====
section
/-!
DEFINITION. The decoder of the opcode table, which gives no row any bits, and the words of a thread's instructions: form S and
form E, the width that bit [63] selects, and the opcode map (12, R372 to R374, R384). The instruction that a thread issues
arrives as a command; what it spells in memory is laid down here and by no step (log 128).
-/
namespace Sys2Proof

/-- The command that a word spells by the table's bits: none, because no row of the table gives bits. -/
def decodeTableWord (_nbits _w : Nat) : Option Instr := none

/-! ## Form S and form E (12, R373, R374) -/

/-- The word of a 64-bit instruction under an opcode. -/
def FormS.word (f : FormS) (opcode : BitVec 7) : Word :=
  (0#1 ++ opcode ++ BitVec.ofBool f.pe ++ BitVec.ofBool f.pn ++ f.pi ++ f.dst ++ f.src1 ++ f.src2 ++ f.fn ++ f.imm :
    BitVec (1 + 7 + 1 + 1 + 3 + 5 + 5 + 5 + 4 + 32)).cast rfl

/-- The fields of a 64-bit instruction. -/
def formS (w : Word) : FormS :=
  ⟨w.getLsbD 55, w.getLsbD 54, w.extractLsb' 51 3, w.extractLsb' 46 5, w.extractLsb' 41 5, w.extractLsb' 36 5,
    w.extractLsb' 32 4, w.extractLsb' 0 32⟩

/-- Word 0 of a 128-bit instruction under an opcode. -/
def FormE.word (e : FormE) (opcode : BitVec 7) : Word :=
  (1#1 ++ opcode ++ BitVec.ofBool e.pe ++ BitVec.ofBool e.pn ++ e.pi ++ e.da ++ e.db ++ e.dc ++ e.dd ++ BitVec.ofBool e.we ++
    e.wk ++ e.wv ++ BitVec.ofBool e.se ++ e.sk ++ e.gs ++ e.gt ++ e.sa ++ BitVec.ofBool e.sae ++ e.rsv :
    BitVec (1 + 7 + 1 + 1 + 3 + 4 + 4 + 4 + 4 + 1 + 4 + 5 + 1 + 4 + 5 + 5 + 5 + 1 + 4)).cast rfl

/-- The fields of a 128-bit instruction: word 0 below its opcode, and word 1. -/
def formE (w w1 : Word) : FormE :=
  ⟨w.getLsbD 55, w.getLsbD 54, w.extractLsb' 51 3, w.extractLsb' 47 4, w.extractLsb' 43 4, w.extractLsb' 39 4,
    w.extractLsb' 35 4, w.getLsbD 34, w.extractLsb' 30 4, w.extractLsb' 25 5, w.getLsbD 24, w.extractLsb' 20 4,
    w.extractLsb' 15 5, w.extractLsb' 10 5, w.extractLsb' 5 5, w.getLsbD 4, w.extractLsb' 0 4, w1⟩

/-- The bytes of the instruction that begins with a word: bit [63] selects the width (12, R372). -/
def insnBytes (w : Word) : Nat := if w.getLsbD 63 then 16 else 8

/-! ## The opcode map (12, R384) -/

/-- The 64-bit instruction of an opcode; FN tells the atomics apart (12, R392). A reserved opcode, and one whose form is E, names
none. -/
def insnS (t : ThreadRef) (opcode : Nat) (f : FormS) : Option Instr :=
  match opcode with
  | 0x00 => some (.iadd t f) | 0x01 => some (.ilogic t f) | 0x02 => some (.ishift t f)
  | 0x03 => some (.icmp t f) | 0x04 => some (.imovi t f) | 0x05 => some (.f32 t f) | 0x06 => some (.f64 t f)
  | 0x07 => some (.fcvt t f) | 0x08 => some (.plogic t f) | 0x09 => some (.movs t f) | 0x10 => some (.br t f)
  | 0x11 => some (.jmp t f) | 0x12 => some (.call t f) | 0x13 => some (.exit t f) | 0x14 => some (.tspawn t f)
  | 0x15 => some (.sgate t f) | 0x18 => some (.ld t f) | 0x19 => some (.st t f) | 0x1A => some (.fence t f)
  | 0x1B => match f.fn.toNat with
    | 0 => some (.aadd t f) | 1 => some (.amin t f) | 2 => some (.amax t f) | 3 => some (.aswap t f)
    | 4 => some (.acas t f) | _ => none
  | 0x20 => some (.dload t f) | 0x21 => some (.dsave t f) | 0x22 => some (.dsetf t f)
  | 0x23 => some (.dgetf t f) | 0x24 => some (.dcopy t f) | 0x28 => some (.twait t f)
  | 0x29 => some (.tpost t f) | 0x2A => some (.tset t f) | 0x2B => some (.tget t f) | 0x70 => some (.gread t f)
  | 0x71 => some (.grung t f) | 0x74 => some (.xstat t f) | 0x78 => some (.sysrd t f)
  | 0x79 => some (.syswr t f) | 0x7C => some (.fwcall t f)
  | _ => none

/-- The 128-bit instruction of an opcode. -/
def insnE (t : ThreadRef) (opcode : Nat) (e : FormE) : Option Instr :=
  match opcode with
  | 0x30 => some (.mma t e) | 0x31 => some (.tbuild t e) | 0x32 => some (.tload t e) | 0x40 => some (.vact t e)
  | 0x41 => some (.vactb t e) | 0x42 => some (.vew t e) | 0x48 => some (.rnormF t e) | 0x49 => some (.rnormB t e)
  | 0x4A => some (.rsmaxF t e) | 0x4B => some (.rsmaxB t e) | 0x4C => some (.rmerge t e) | 0x4D => some (.rstat t e)
  | 0x50 => some (.cmove t e) | 0x51 => some (.tmove t e) | 0x52 => some (.cgather t e) | 0x58 => some (.creduce t e)
  | 0x59 => some (.cshift t e) | 0x60 => some (.csend t e) | 0x61 => some (.crecv t e) | 0x68 => some (.uapply t e)
  | 0x69 => some (.uprefetch t e) | 0x6A => some (.ucast t e)
  | _ => none

/-- The instruction of a thread that two consecutive words spell; none is an undefined instruction. -/
def insnOf (t : ThreadRef) (w w1 : Word) : Option Instr :=
  if w.getLsbD 63 then insnE t (w.extractLsb' 56 7).toNat (formE w w1) else insnS t (w.extractLsb' 56 7).toNat (formS w)

/-- The words of a thread's instruction; the other commands have none. -/
def Instr.words : Instr → List Word
  | .iadd _ f => [f.word 0x00] | .ilogic _ f => [f.word 0x01] | .ishift _ f => [f.word 0x02]
  | .icmp _ f => [f.word 0x03] | .imovi _ f => [f.word 0x04] | .f32 _ f => [f.word 0x05] | .f64 _ f => [f.word 0x06]
  | .fcvt _ f => [f.word 0x07] | .plogic _ f => [f.word 0x08] | .movs _ f => [f.word 0x09] | .br _ f => [f.word 0x10]
  | .jmp _ f => [f.word 0x11] | .call _ f => [f.word 0x12] | .exit _ f => [f.word 0x13] | .tspawn _ f => [f.word 0x14]
  | .sgate _ f => [f.word 0x15] | .ld _ f => [f.word 0x18] | .st _ f => [f.word 0x19] | .fence _ f => [f.word 0x1A]
  | .dload _ f => [f.word 0x20] | .dsave _ f => [f.word 0x21] | .dsetf _ f => [f.word 0x22]
  | .dgetf _ f => [f.word 0x23] | .dcopy _ f => [f.word 0x24] | .twait _ f => [f.word 0x28]
  | .tpost _ f => [f.word 0x29] | .tset _ f => [f.word 0x2A] | .tget _ f => [f.word 0x2B] | .gread _ f => [f.word 0x70]
  | .grung _ f => [f.word 0x71] | .xstat _ f => [f.word 0x74] | .sysrd _ f => [f.word 0x78]
  | .syswr _ f => [f.word 0x79] | .fwcall _ f => [f.word 0x7C] | .aadd _ f => [f.word 0x1B]
  | .amin _ f => [f.word 0x1B] | .amax _ f => [f.word 0x1B] | .aswap _ f => [f.word 0x1B] | .acas _ f => [f.word 0x1B]
  | .mma _ e => [e.word 0x30, e.w1] | .tbuild _ e => [e.word 0x31, e.w1] | .tload _ e => [e.word 0x32, e.w1]
  | .vact _ e => [e.word 0x40, e.w1] | .vactb _ e => [e.word 0x41, e.w1] | .vew _ e => [e.word 0x42, e.w1]
  | .rnormF _ e => [e.word 0x48, e.w1] | .rnormB _ e => [e.word 0x49, e.w1] | .rsmaxF _ e => [e.word 0x4A, e.w1]
  | .rsmaxB _ e => [e.word 0x4B, e.w1] | .rmerge _ e => [e.word 0x4C, e.w1] | .rstat _ e => [e.word 0x4D, e.w1]
  | .cmove _ e => [e.word 0x50, e.w1] | .tmove _ e => [e.word 0x51, e.w1] | .cgather _ e => [e.word 0x52, e.w1]
  | .creduce _ e => [e.word 0x58, e.w1] | .cshift _ e => [e.word 0x59, e.w1] | .csend _ e => [e.word 0x60, e.w1]
  | .crecv _ e => [e.word 0x61, e.w1] | .uapply _ e => [e.word 0x68, e.w1] | .uprefetch _ e => [e.word 0x69, e.w1]
  | .ucast _ e => [e.word 0x6A, e.w1]
  | _ => []

end Sys2Proof
end

