-- ==== Sys2Proof/Laws/Map.lean ====
section
/-!
SUPPORT. Laws of finite maps: what a key reads after a write or a removal, of itself and of another key.
-/
namespace Sys2Proof.Machine

variable {κ α : Type} [DecidableEq κ]

@[simp] theorem look_nil (k : κ) : look k ([] : Map κ α) = none := rfl

@[simp] theorem look_put_self (k : κ) (v : α) (m : Map κ α) : look k (put k v m) = some v := by
  induction m with
  | nil => simp [put, look]
  | cons e m ih =>
    by_cases h : e.1 = k
    · simp [put, look, h]
    · simp [put, look, h, ih]

theorem look_put_ne {j k : κ} (h : j ≠ k) (v : α) (m : Map κ α) : look j (put k v m) = look j m := by
  induction m with
  | nil => simp [put, look, Ne.symm h]
  | cons e m ih =>
    by_cases hk : e.1 = k
    · simp [put, look, hk, Ne.symm h]
    · by_cases hj : e.1 = j <;> simp [put, look, hk, hj, ih, h]

theorem look_put (j k : κ) (v : α) (m : Map κ α) : look j (put k v m) = if j = k then some v else look j m := by
  by_cases h : j = k
  · subst h; simp
  · simp [h, look_put_ne h]

@[simp] theorem look_del_self (k : κ) (m : Map κ α) : look k (del k m) = none := by
  induction m with
  | nil => rfl
  | cons e m ih =>
    by_cases h : e.1 = k
    · simpa [del, h] using ih
    · simpa [del, look, h] using ih

theorem look_del_ne {j k : κ} (h : j ≠ k) (m : Map κ α) : look j (del k m) = look j m := by
  induction m with
  | nil => rfl
  | cons e m ih =>
    by_cases hk : e.1 = k
    · simpa [del, look, hk, Ne.symm h] using ih
    · by_cases hj : e.1 = j
      · simp [del, look, hj, h]
      · simpa [del, look, hk, hj] using ih

/-- Dropping entries by their keys leaves what the other keys read. -/
theorem look_filter {p : κ × α → Bool} {k : κ} (h : ∀ v, p (k, v) = true) (m : Map κ α) : look k (m.filter p) = look k m := by
  induction m with
  | nil => rfl
  | cons e m ih =>
    obtain ⟨j, v⟩ := e
    by_cases hk : j = k
    · subst hk; simp [h, look]
    · by_cases hp : p (j, v) <;> simp [hp, look, hk, ih]

@[simp] theorem lookD_put_self (k : κ) (d v : α) (m : Map κ α) : lookD k d (put k v m) = v := by simp [lookD]

theorem lookD_put_ne {j k : κ} (h : j ≠ k) (d v : α) (m : Map κ α) : lookD j d (put k v m) = lookD j d m := by
  simp [lookD, look_put_ne h]

theorem lookD_put (j k : κ) (d v : α) (m : Map κ α) : lookD j d (put k v m) = if j = k then v else lookD j d m := by
  by_cases h : j = k
  · subst h; simp
  · simp [h, lookD_put_ne h]

theorem mem_put {k : κ} {v : α} {m : Map κ α} {e : κ × α} (h : e ∈ put k v m) : e = (k, v) ∨ e ∈ m := by
  induction m with
  | nil => simpa [put] using h
  | cons d m ih =>
    by_cases hk : d.1 = k
    · simp only [put, hk, if_true] at h
      rcases List.mem_cons.mp h with h | h
      · exact .inl h
      · exact .inr (List.mem_cons_of_mem _ h)
    · simp only [put, hk, if_false] at h
      rcases List.mem_cons.mp h with h | h
      · exact .inr (h ▸ List.mem_cons_self)
      · rcases ih h with h | h
        · exact .inl h
        · exact .inr (List.mem_cons_of_mem _ h)

/-- A map that lists its keys once goes on doing so. -/
theorem put_nodup {m : Map κ α} (h : (m.map Prod.fst).Nodup) (k : κ) (v : α) : ((put k v m).map Prod.fst).Nodup := by
  induction m with
  | nil => simp [put]
  | cons d m ih =>
    rw [List.map_cons, List.nodup_cons] at h
    by_cases hk : d.1 = k
    · simp only [put, hk, if_true, List.map_cons, List.nodup_cons]
      exact ⟨hk ▸ h.1, h.2⟩
    · simp only [put, hk, if_false, List.map_cons, List.nodup_cons]
      refine ⟨fun hm => ?_, ih h.2⟩
      obtain ⟨e, he, heq⟩ := List.mem_map.mp hm
      rcases mem_put he with rfl | he
      · exact hk heq.symm
      · exact h.1 (List.mem_map.mpr ⟨e, he, heq⟩)

/-- What a key reads is the value of an entry of the map. -/
theorem mem_of_look {k : κ} {v : α} {m : Map κ α} (h : look k m = some v) : (k, v) ∈ m := by
  induction m with
  | nil => simp at h
  | cons e m ih =>
    obtain ⟨j, w⟩ := e
    by_cases hk : j = k
    · subst hk; simp [look] at h; simp [h]
    · simp [look, hk] at h; exact List.mem_cons_of_mem _ (ih h)

end Sys2Proof.Machine
end

