-- ==== Sys2Proof/Laws/Memory.lean ====
section
/-!
SUPPORT. Laws of the device memory: what a byte reads after a write, and that every operation keeps the canonical form.
-/
namespace Sys2Proof.Machine

/-! ## The canonical form -/

/-- The canonical form as a pairwise order with no blank entry. -/
theorem Memory.wf_iff (m : List Host.Cell) :
    Memory.wf m = true ↔ m.Pairwise (fun x y => x.1 < y.1) ∧ ∀ c ∈ m, c.2 ≠ Memory.blank := by
  induction m with
  | nil => simp [Memory.wf]
  | cons c m ih =>
    cases m with
    | nil => simp [Memory.wf]
    | cons d m =>
      simp only [Memory.wf, Bool.and_eq_true, decide_eq_true_eq, ih, List.pairwise_cons, List.mem_cons]
      constructor
      · rintro ⟨⟨hb, hlt⟩, ⟨hd, hp⟩, hn⟩
        refine ⟨⟨?_, hd, hp⟩, ?_⟩
        · rintro e (rfl | he)
          · exact hlt
          · exact lt_trans hlt (hd e he)
        · rintro e (rfl | he)
          · exact hb
          · exact hn e he
      · rintro ⟨⟨hc, hd, hp⟩, hn⟩
        exact ⟨⟨hn c (.inl rfl), hc d (.inl rfl)⟩, ⟨hd, hp⟩, fun e he => hn e (.inr he)⟩

/-- An address below every listed one is not listed. -/
theorem Memory.read_below {m : List Host.Cell} {a : Nat} (h : ∀ c ∈ m, a < c.1) : Memory.read a m = Memory.blank := by
  induction m with
  | nil => rfl
  | cons c m ih =>
    have : c.1 ≠ a := by have := h c (by simp); omega
    simp only [Memory.read, this, if_false]
    exact ih fun e he => h e (by simp [he])

/-- Every entry written or kept by a write is the written one or was there. -/
theorem Memory.mem_write {a : Nat} {v : Byte} {m : List Host.Cell} {c : Host.Cell} (h : c ∈ Memory.write a v m) :
    c ∈ m ∨ c = (a, v) ∧ v ≠ Memory.blank := by
  induction m with
  | nil =>
    by_cases hv : v = Memory.blank
    · simp [Memory.write, hv] at h
    · simp [Memory.write, hv] at h; exact .inr ⟨h, hv⟩
  | cons d m ih =>
    by_cases hv : v = Memory.blank
    · simp only [Memory.write, hv, if_true] at h
      split at h
      · exact .inl h
      · split at h
        · exact .inl (by simp [h])
        · rcases List.mem_cons.mp h with rfl | h
          · exact .inl (by simp)
          · rcases ih (by simpa [hv] using h) with h | h
            · exact .inl (by simp [h])
            · exact absurd hv h.2
    · simp only [Memory.write, hv, if_false] at h
      split at h
      · rcases List.mem_cons.mp h with rfl | h
        · exact .inr ⟨rfl, hv⟩
        · exact .inl h
      · split at h
        · rcases List.mem_cons.mp h with rfl | h
          · exact .inr ⟨rfl, hv⟩
          · exact .inl (by simp [h])
        · rcases List.mem_cons.mp h with rfl | h
          · exact .inl (by simp)
          · rcases ih h with h | h
            · exact .inl (by simp [h])
            · exact .inr h

/-- A write keeps the canonical form. -/
theorem Memory.write_wf {m : List Host.Cell} (h : Memory.wf m = true) (a : Nat) (v : Byte) :
    Memory.wf (Memory.write a v m) = true := by
  rw [Memory.wf_iff] at *
  obtain ⟨hp, hn⟩ := h
  refine ⟨?_, fun c hc => ?_⟩
  · induction m with
    | nil => by_cases hv : v = Memory.blank <;> simp [Memory.write, hv]
    | cons d m ih =>
      have hp' := hp
      rw [List.pairwise_cons] at hp
      simp only [Memory.write]
      split
      · rename_i hlt
        split
        · exact hp'
        · refine List.Pairwise.cons ?_ hp'
          intro e he
          rcases List.mem_cons.mp he with rfl | he
          · exact hlt
          · exact lt_trans hlt (hp.1 e he)
      · split
        · rename_i heq
          split
          · exact hp.2
          · refine List.Pairwise.cons ?_ hp.2
            intro e he
            have := hp.1 e he
            simp only [heq]; exact this
        · rename_i h1 h2
          refine List.Pairwise.cons ?_ (ih hp.2 fun e he => hn e (by simp [he]))
          intro e he
          rcases Memory.mem_write he with h | ⟨rfl, -⟩
          · exact hp.1 e h
          · simp only; omega
  · rcases Memory.mem_write hc with h | ⟨rfl, h⟩
    · exact hn c h
    · exact h

/-- Dropping entries keeps the canonical form. -/
theorem Memory.filter_wf {m : List Host.Cell} (h : Memory.wf m = true) (p : Host.Cell → Bool) :
    Memory.wf (m.filter p) = true := by
  rw [Memory.wf_iff] at *
  exact ⟨h.1.filter _, fun c hc => h.2 c (List.mem_of_mem_filter hc)⟩

theorem Memory.clear_wf {m : List Host.Cell} (h : Memory.wf m = true) (lo hi : Nat) : Memory.wf (Memory.clear lo hi m) = true :=
  Memory.filter_wf h _

theorem Memory.writes_wf {m : List Host.Cell} (h : Memory.wf m = true) (a : Nat) (bs : List Byte) :
    Memory.wf (Memory.writes a bs m) = true := by
  induction bs generalizing a m with
  | nil => exact h
  | cons b bs ih => exact ih (Memory.write_wf h a b) (a + 1)

/-! ## Reading after writing -/

/-- Another address reads what it read. -/
theorem Memory.read_write_ne {a c : Nat} (h : c ≠ a) (v : Byte) (m : List Host.Cell) :
    Memory.read c (Memory.write a v m) = Memory.read c m := by
  induction m with
  | nil => by_cases hv : v = Memory.blank <;> simp [Memory.write, Memory.read, hv, Ne.symm h]
  | cons d m ih =>
    obtain ⟨x, b⟩ := d
    simp only [Memory.write]
    by_cases hv : v = Memory.blank <;> simp only [hv, if_true, if_false]
    · split
      · rfl
      · split
        · rename_i hx; subst hx; simp [Memory.read, Ne.symm h]
        · rw [hv] at ih; simp only [Memory.read, ih]
    · split
      · simp [Memory.read, Ne.symm h]
      · split
        · rename_i hx; subst hx; simp [Memory.read, Ne.symm h]
        · simp only [Memory.read, ih]

/-- The address written reads the byte written. -/
theorem Memory.read_write_self {m : List Host.Cell} (h : Memory.wf m = true) (a : Nat) (v : Byte) :
    Memory.read a (Memory.write a v m) = v := by
  rw [Memory.wf_iff] at h
  obtain ⟨hp, -⟩ := h
  induction m with
  | nil => by_cases hv : v = Memory.blank <;> simp [Memory.write, Memory.read, hv]
  | cons d m ih =>
    obtain ⟨x, b⟩ := d
    rw [List.pairwise_cons] at hp
    simp only [Memory.write]
    split
    · rename_i hlt
      split
      · rename_i hv
        rw [hv]
        refine Memory.read_below fun c hc => ?_
        rcases List.mem_cons.mp hc with rfl | hc
        · exact hlt
        · exact lt_trans hlt (hp.1 c hc)
      · simp [Memory.read]
    · split
      · rename_i heq
        subst heq
        split
        · rename_i hv
          rw [hv]
          exact Memory.read_below hp.1
        · simp [Memory.read]
      · rename_i h1 h2
        simp only [Memory.read, Ne.symm h2, if_false]
        exact ih hp.2

/-- A cleared range reads blank, and every other address what it read. -/
theorem Memory.read_clear (a lo hi : Nat) (m : List Host.Cell) :
    Memory.read a (Memory.clear lo hi m) = if lo ≤ a ∧ a < hi then Memory.blank else Memory.read a m := by
  induction m with
  | nil => simp [Memory.clear, Memory.read]
  | cons d m ih =>
    obtain ⟨x, b⟩ := d
    unfold Memory.clear at *
    by_cases hx : x < lo ∨ hi ≤ x
    · rw [List.filter_cons_of_pos (by simpa using hx)]
      by_cases hax : x = a
      · subst hax
        have : ¬(lo ≤ x ∧ x < hi) := by omega
        simp [Memory.read, this]
      · simp only [Memory.read, hax, if_false, ih]
    · rw [List.filter_cons_of_neg (by simpa using hx), ih]
      by_cases hax : x = a
      · subst hax
        have : lo ≤ x ∧ x < hi := by omega
        simp [this]
      · simp only [Memory.read, hax, if_false]

/-- Bytes written one by one at distinct offsets: an address outside them reads what it read. -/
theorem Memory.read_foldl_ne {α : Type} {a : Nat} (ad : α → Nat) (v : α → Byte) (w : List α) (h : ∀ e ∈ w, ad e ≠ a)
    (m : List Host.Cell) : Memory.read a (w.foldl (fun m e => Memory.write (ad e) (v e) m) m) = Memory.read a m := by
  induction w generalizing m with
  | nil => rfl
  | cons e w ih =>
    simp only [List.foldl_cons]
    rw [ih (fun x hx => h x (by simp [hx])), Memory.read_write_ne (Ne.symm (h e (by simp)))]

theorem Memory.foldl_wf {α : Type} (ad : α → Nat) (v : α → Byte) (w : List α) {m : List Host.Cell} (h : Memory.wf m = true) :
    Memory.wf (w.foldl (fun m e => Memory.write (ad e) (v e) m) m) = true := by
  induction w generalizing m with
  | nil => exact h
  | cons e w ih => exact ih (Memory.write_wf h _ _)

/-! ## Poison -/

theorem mem_addLine {l x : Nat} {ps : List Nat} : x ∈ addLine l ps ↔ x = l ∨ x ∈ ps := by
  induction ps with
  | nil => simp [addLine]
  | cons p ps ih =>
    simp only [addLine]
    split
    · simp
    · split
      · rename_i h; subst h; simp
      · simp [ih]; tauto

theorem addLine_sorted {l : Nat} {ps : List Nat} (h : ps.Pairwise (· < ·)) : (addLine l ps).Pairwise (· < ·) := by
  induction ps with
  | nil => simp [addLine]
  | cons p ps ih =>
    have h' := h
    rw [List.pairwise_cons] at h
    simp only [addLine]
    split
    · rename_i hlt
      refine List.Pairwise.cons ?_ h'
      intro e he
      rcases List.mem_cons.mp he with rfl | he
      · exact hlt
      · exact lt_trans hlt (h.1 e he)
    · split
      · exact h'
      · refine List.Pairwise.cons ?_ (ih h.2)
        intro e he
        rcases mem_addLine.mp he with rfl | he
        · omega
        · exact h.1 e he

theorem mem_markLine {l x : Nat} {p : Bool} {ps : List Nat} : x ∈ markLine l p ps ↔ if x = l then p = true else x ∈ ps := by
  unfold markLine
  split
  · rename_i hp
    rw [mem_addLine, hp]
    by_cases h : x = l <;> simp [h]
  · rename_i hp
    rw [List.mem_filter]
    by_cases h : x = l <;> simp [h, hp]

theorem markLine_sorted {l : Nat} {p : Bool} {ps : List Nat} (h : ps.Pairwise (· < ·)) : (markLine l p ps).Pairwise (· < ·) := by
  unfold markLine
  split
  · exact addLine_sorted h
  · exact h.filter _

end Sys2Proof.Machine
end

