-- ==== Sys2Proof/Laws/State.lean ====
section
/-!
SUPPORT. What each basic update of the state leaves and what it writes, one lemma per field, so that no proof unfolds a
record update.
-/
namespace Sys2Proof.Machine

/-! ## rput -/

@[simp] theorem State.rput_pending (s : State) (f : Fld) (i v : Nat) : (s.rput f i v).pending = s.pending := rfl
@[simp] theorem State.rput_mem (s : State) (f : Fld) (i v : Nat) : (s.rput f i v).mem = s.mem := rfl
@[simp] theorem State.rput_poison (s : State) (f : Fld) (i v : Nat) : (s.rput f i v).poison = s.poison := rfl
@[simp] theorem State.rput_tsq (s : State) (f : Fld) (i v : Nat) : (s.rput f i v).tsq = s.tsq := rfl
@[simp] theorem State.rput_hub (s : State) (f : Fld) (i v : Nat) : (s.rput f i v).hub = s.hub := rfl
@[simp] theorem State.rput_slots (s : State) (f : Fld) (i v : Nat) : (s.rput f i v).slots = s.slots := rfl
@[simp] theorem State.rput_obs (s : State) (f : Fld) (i v : Nat) : (s.rput f i v).obs = s.obs := rfl
@[simp] theorem State.rput_tiers (s : State) (f : Fld) (i v : Nat) : (s.rput f i v).tiers = s.tiers := rfl
@[simp] theorem State.rput_fabric (s : State) (f : Fld) (i v : Nat) : (s.rput f i v).fabric = s.fabric := rfl
@[simp] theorem State.rput_collect (s : State) (f : Fld) (i v : Nat) : (s.rput f i v).collect = s.collect := rfl
@[simp] theorem State.rput_update (s : State) (f : Fld) (i v : Nat) : (s.rput f i v).update = s.update := rfl
@[simp] theorem State.rput_wellhead (s : State) (f : Fld) (i v : Nat) : (s.rput f i v).wellhead = s.wellhead := rfl
@[simp] theorem State.rput_cistern (s : State) (f : Fld) (i v : Nat) : (s.rput f i v).cistern = s.cistern := rfl
@[simp] theorem State.rput_cis (s : State) (f : Fld) (i v : Nat) : (s.rput f i v).cis = s.cis := rfl
@[simp] theorem State.rput_fuses (s : State) (f : Fld) (i v : Nat) : (s.rput f i v).fuses = s.fuses := rfl
@[simp] theorem State.rput_security (s : State) (f : Fld) (i v : Nat) : (s.rput f i v).security = s.security := rfl
@[simp] theorem State.rput_power (s : State) (f : Fld) (i v : Nat) : (s.rput f i v).power = s.power := rfl
@[simp] theorem State.rput_link (s : State) (f : Fld) (i v : Nat) : (s.rput f i v).link = s.link := rfl
@[simp] theorem State.rput_ras (s : State) (f : Fld) (i v : Nat) : (s.rput f i v).ras = s.ras := rfl
@[simp] theorem State.rput_rasLog (s : State) (f : Fld) (i v : Nat) : (s.rput f i v).rasLog = s.rasLog := rfl
@[simp] theorem State.rput_rasSeq (s : State) (f : Fld) (i v : Nat) : (s.rput f i v).rasSeq = s.rasSeq := rfl
@[simp] theorem State.rput_msixOut (s : State) (f : Fld) (i v : Nat) : (s.rput f i v).msixOut = s.msixOut := rfl
@[simp] theorem State.rput_freeCount (s : State) (f : Fld) (i v : Nat) : (s.rput f i v).freeCount = s.freeCount := rfl
@[simp] theorem State.rput_regs (s : State) (f : Fld) (i v : Nat) : (s.rput f i v).regs = put ⟨f.tab, i, f.lo⟩ (v % 2 ^ f.len) s.regs := rfl

/-! ## rreset -/

@[simp] theorem State.rreset_pending (s : State) (t : Tab) (i : Nat) : (s.rreset t i).pending = s.pending := rfl
@[simp] theorem State.rreset_mem (s : State) (t : Tab) (i : Nat) : (s.rreset t i).mem = s.mem := rfl
@[simp] theorem State.rreset_poison (s : State) (t : Tab) (i : Nat) : (s.rreset t i).poison = s.poison := rfl
@[simp] theorem State.rreset_tsq (s : State) (t : Tab) (i : Nat) : (s.rreset t i).tsq = s.tsq := rfl
@[simp] theorem State.rreset_hub (s : State) (t : Tab) (i : Nat) : (s.rreset t i).hub = s.hub := rfl
@[simp] theorem State.rreset_slots (s : State) (t : Tab) (i : Nat) : (s.rreset t i).slots = s.slots := rfl
@[simp] theorem State.rreset_obs (s : State) (t : Tab) (i : Nat) : (s.rreset t i).obs = s.obs := rfl
@[simp] theorem State.rreset_tiers (s : State) (t : Tab) (i : Nat) : (s.rreset t i).tiers = s.tiers := rfl
@[simp] theorem State.rreset_fabric (s : State) (t : Tab) (i : Nat) : (s.rreset t i).fabric = s.fabric := rfl
@[simp] theorem State.rreset_collect (s : State) (t : Tab) (i : Nat) : (s.rreset t i).collect = s.collect := rfl
@[simp] theorem State.rreset_update (s : State) (t : Tab) (i : Nat) : (s.rreset t i).update = s.update := rfl
@[simp] theorem State.rreset_wellhead (s : State) (t : Tab) (i : Nat) : (s.rreset t i).wellhead = s.wellhead := rfl
@[simp] theorem State.rreset_cistern (s : State) (t : Tab) (i : Nat) : (s.rreset t i).cistern = s.cistern := rfl
@[simp] theorem State.rreset_cis (s : State) (t : Tab) (i : Nat) : (s.rreset t i).cis = s.cis := rfl
@[simp] theorem State.rreset_fuses (s : State) (t : Tab) (i : Nat) : (s.rreset t i).fuses = s.fuses := rfl
@[simp] theorem State.rreset_security (s : State) (t : Tab) (i : Nat) : (s.rreset t i).security = s.security := rfl
@[simp] theorem State.rreset_power (s : State) (t : Tab) (i : Nat) : (s.rreset t i).power = s.power := rfl
@[simp] theorem State.rreset_link (s : State) (t : Tab) (i : Nat) : (s.rreset t i).link = s.link := rfl
@[simp] theorem State.rreset_ras (s : State) (t : Tab) (i : Nat) : (s.rreset t i).ras = s.ras := rfl
@[simp] theorem State.rreset_rasLog (s : State) (t : Tab) (i : Nat) : (s.rreset t i).rasLog = s.rasLog := rfl
@[simp] theorem State.rreset_rasSeq (s : State) (t : Tab) (i : Nat) : (s.rreset t i).rasSeq = s.rasSeq := rfl
@[simp] theorem State.rreset_msixOut (s : State) (t : Tab) (i : Nat) : (s.rreset t i).msixOut = s.msixOut := rfl
@[simp] theorem State.rreset_freeCount (s : State) (t : Tab) (i : Nat) : (s.rreset t i).freeCount = s.freeCount := rfl
@[simp] theorem State.rreset_regs (s : State) (t : Tab) (i : Nat) : (s.rreset t i).regs = s.regs.filter fun e => decide (¬(e.1.tab = t ∧ e.1.i = i)) := rfl

/-! ## setTraceBuf -/

@[simp] theorem State.setTraceBuf_pending (s : State) (d : Nat) (b : TraceBuf) : (s.setTraceBuf d b).pending = s.pending := rfl
@[simp] theorem State.setTraceBuf_mem (s : State) (d : Nat) (b : TraceBuf) : (s.setTraceBuf d b).mem = s.mem := rfl
@[simp] theorem State.setTraceBuf_poison (s : State) (d : Nat) (b : TraceBuf) : (s.setTraceBuf d b).poison = s.poison := rfl
@[simp] theorem State.setTraceBuf_regs (s : State) (d : Nat) (b : TraceBuf) : (s.setTraceBuf d b).regs = s.regs := rfl
@[simp] theorem State.setTraceBuf_tsq (s : State) (d : Nat) (b : TraceBuf) : (s.setTraceBuf d b).tsq = s.tsq := rfl
@[simp] theorem State.setTraceBuf_hub (s : State) (d : Nat) (b : TraceBuf) : (s.setTraceBuf d b).hub = s.hub := rfl
@[simp] theorem State.setTraceBuf_slots (s : State) (d : Nat) (b : TraceBuf) : (s.setTraceBuf d b).slots = s.slots := rfl
@[simp] theorem State.setTraceBuf_tiers (s : State) (d : Nat) (b : TraceBuf) : (s.setTraceBuf d b).tiers = s.tiers := rfl
@[simp] theorem State.setTraceBuf_fabric (s : State) (d : Nat) (b : TraceBuf) : (s.setTraceBuf d b).fabric = s.fabric := rfl
@[simp] theorem State.setTraceBuf_collect (s : State) (d : Nat) (b : TraceBuf) : (s.setTraceBuf d b).collect = s.collect := rfl
@[simp] theorem State.setTraceBuf_update (s : State) (d : Nat) (b : TraceBuf) : (s.setTraceBuf d b).update = s.update := rfl
@[simp] theorem State.setTraceBuf_wellhead (s : State) (d : Nat) (b : TraceBuf) : (s.setTraceBuf d b).wellhead = s.wellhead := rfl
@[simp] theorem State.setTraceBuf_cistern (s : State) (d : Nat) (b : TraceBuf) : (s.setTraceBuf d b).cistern = s.cistern := rfl
@[simp] theorem State.setTraceBuf_cis (s : State) (d : Nat) (b : TraceBuf) : (s.setTraceBuf d b).cis = s.cis := rfl
@[simp] theorem State.setTraceBuf_fuses (s : State) (d : Nat) (b : TraceBuf) : (s.setTraceBuf d b).fuses = s.fuses := rfl
@[simp] theorem State.setTraceBuf_security (s : State) (d : Nat) (b : TraceBuf) : (s.setTraceBuf d b).security = s.security := rfl
@[simp] theorem State.setTraceBuf_power (s : State) (d : Nat) (b : TraceBuf) : (s.setTraceBuf d b).power = s.power := rfl
@[simp] theorem State.setTraceBuf_link (s : State) (d : Nat) (b : TraceBuf) : (s.setTraceBuf d b).link = s.link := rfl
@[simp] theorem State.setTraceBuf_ras (s : State) (d : Nat) (b : TraceBuf) : (s.setTraceBuf d b).ras = s.ras := rfl
@[simp] theorem State.setTraceBuf_rasLog (s : State) (d : Nat) (b : TraceBuf) : (s.setTraceBuf d b).rasLog = s.rasLog := rfl
@[simp] theorem State.setTraceBuf_rasSeq (s : State) (d : Nat) (b : TraceBuf) : (s.setTraceBuf d b).rasSeq = s.rasSeq := rfl
@[simp] theorem State.setTraceBuf_msixOut (s : State) (d : Nat) (b : TraceBuf) : (s.setTraceBuf d b).msixOut = s.msixOut := rfl
@[simp] theorem State.setTraceBuf_freeCount (s : State) (d : Nat) (b : TraceBuf) : (s.setTraceBuf d b).freeCount = s.freeCount := rfl
@[simp] theorem State.setTraceBuf_rget (s : State) (d : Nat) (b : TraceBuf) (g : Fld) (n : Nat) : (s.setTraceBuf d b).rget g n = s.rget g n := rfl
@[simp] theorem State.setTraceBuf_obs (s : State) (d : Nat) (b : TraceBuf) : (s.setTraceBuf d b).obs = { s.obs with bufs := put d b s.obs.bufs } := rfl

/-! ## wipe -/

@[simp] theorem State.wipe_pending (s : State) (lo hi : Nat) : (s.wipe lo hi).pending = s.pending := rfl
@[simp] theorem State.wipe_regs (s : State) (lo hi : Nat) : (s.wipe lo hi).regs = s.regs := rfl
@[simp] theorem State.wipe_tsq (s : State) (lo hi : Nat) : (s.wipe lo hi).tsq = s.tsq := rfl
@[simp] theorem State.wipe_hub (s : State) (lo hi : Nat) : (s.wipe lo hi).hub = s.hub := rfl
@[simp] theorem State.wipe_slots (s : State) (lo hi : Nat) : (s.wipe lo hi).slots = s.slots := rfl
@[simp] theorem State.wipe_obs (s : State) (lo hi : Nat) : (s.wipe lo hi).obs = s.obs := rfl
@[simp] theorem State.wipe_tiers (s : State) (lo hi : Nat) : (s.wipe lo hi).tiers = s.tiers := rfl
@[simp] theorem State.wipe_fabric (s : State) (lo hi : Nat) : (s.wipe lo hi).fabric = s.fabric := rfl
@[simp] theorem State.wipe_collect (s : State) (lo hi : Nat) : (s.wipe lo hi).collect = s.collect := rfl
@[simp] theorem State.wipe_update (s : State) (lo hi : Nat) : (s.wipe lo hi).update = s.update := rfl
@[simp] theorem State.wipe_wellhead (s : State) (lo hi : Nat) : (s.wipe lo hi).wellhead = s.wellhead := rfl
@[simp] theorem State.wipe_cistern (s : State) (lo hi : Nat) : (s.wipe lo hi).cistern = s.cistern := rfl
@[simp] theorem State.wipe_cis (s : State) (lo hi : Nat) : (s.wipe lo hi).cis = s.cis := rfl
@[simp] theorem State.wipe_fuses (s : State) (lo hi : Nat) : (s.wipe lo hi).fuses = s.fuses := rfl
@[simp] theorem State.wipe_security (s : State) (lo hi : Nat) : (s.wipe lo hi).security = s.security := rfl
@[simp] theorem State.wipe_power (s : State) (lo hi : Nat) : (s.wipe lo hi).power = s.power := rfl
@[simp] theorem State.wipe_link (s : State) (lo hi : Nat) : (s.wipe lo hi).link = s.link := rfl
@[simp] theorem State.wipe_ras (s : State) (lo hi : Nat) : (s.wipe lo hi).ras = s.ras := rfl
@[simp] theorem State.wipe_rasLog (s : State) (lo hi : Nat) : (s.wipe lo hi).rasLog = s.rasLog := rfl
@[simp] theorem State.wipe_rasSeq (s : State) (lo hi : Nat) : (s.wipe lo hi).rasSeq = s.rasSeq := rfl
@[simp] theorem State.wipe_msixOut (s : State) (lo hi : Nat) : (s.wipe lo hi).msixOut = s.msixOut := rfl
@[simp] theorem State.wipe_freeCount (s : State) (lo hi : Nat) : (s.wipe lo hi).freeCount = s.freeCount := rfl
@[simp] theorem State.wipe_rget (s : State) (lo hi : Nat) (g : Fld) (n : Nat) : (s.wipe lo hi).rget g n = s.rget g n := rfl
@[simp] theorem State.wipe_mem (s : State) (lo hi : Nat) : (s.wipe lo hi).mem = Memory.clear lo hi s.mem := rfl

/-! ## setThread -/

@[simp] theorem State.setThread_pending (s : State) (t : ThreadRef) (th : Thread) : (s.setThread t th).pending = s.pending := rfl
@[simp] theorem State.setThread_mem (s : State) (t : ThreadRef) (th : Thread) : (s.setThread t th).mem = s.mem := rfl
@[simp] theorem State.setThread_poison (s : State) (t : ThreadRef) (th : Thread) : (s.setThread t th).poison = s.poison := rfl
@[simp] theorem State.setThread_regs (s : State) (t : ThreadRef) (th : Thread) : (s.setThread t th).regs = s.regs := rfl
@[simp] theorem State.setThread_hub (s : State) (t : ThreadRef) (th : Thread) : (s.setThread t th).hub = s.hub := rfl
@[simp] theorem State.setThread_slots (s : State) (t : ThreadRef) (th : Thread) : (s.setThread t th).slots = s.slots := rfl
@[simp] theorem State.setThread_obs (s : State) (t : ThreadRef) (th : Thread) : (s.setThread t th).obs = s.obs := rfl
@[simp] theorem State.setThread_tiers (s : State) (t : ThreadRef) (th : Thread) : (s.setThread t th).tiers = s.tiers := rfl
@[simp] theorem State.setThread_fabric (s : State) (t : ThreadRef) (th : Thread) : (s.setThread t th).fabric = s.fabric := rfl
@[simp] theorem State.setThread_collect (s : State) (t : ThreadRef) (th : Thread) : (s.setThread t th).collect = s.collect := rfl
@[simp] theorem State.setThread_update (s : State) (t : ThreadRef) (th : Thread) : (s.setThread t th).update = s.update := rfl
@[simp] theorem State.setThread_wellhead (s : State) (t : ThreadRef) (th : Thread) : (s.setThread t th).wellhead = s.wellhead := rfl
@[simp] theorem State.setThread_cistern (s : State) (t : ThreadRef) (th : Thread) : (s.setThread t th).cistern = s.cistern := rfl
@[simp] theorem State.setThread_cis (s : State) (t : ThreadRef) (th : Thread) : (s.setThread t th).cis = s.cis := rfl
@[simp] theorem State.setThread_fuses (s : State) (t : ThreadRef) (th : Thread) : (s.setThread t th).fuses = s.fuses := rfl
@[simp] theorem State.setThread_security (s : State) (t : ThreadRef) (th : Thread) : (s.setThread t th).security = s.security := rfl
@[simp] theorem State.setThread_power (s : State) (t : ThreadRef) (th : Thread) : (s.setThread t th).power = s.power := rfl
@[simp] theorem State.setThread_link (s : State) (t : ThreadRef) (th : Thread) : (s.setThread t th).link = s.link := rfl
@[simp] theorem State.setThread_ras (s : State) (t : ThreadRef) (th : Thread) : (s.setThread t th).ras = s.ras := rfl
@[simp] theorem State.setThread_rasLog (s : State) (t : ThreadRef) (th : Thread) : (s.setThread t th).rasLog = s.rasLog := rfl
@[simp] theorem State.setThread_rasSeq (s : State) (t : ThreadRef) (th : Thread) : (s.setThread t th).rasSeq = s.rasSeq := rfl
@[simp] theorem State.setThread_msixOut (s : State) (t : ThreadRef) (th : Thread) : (s.setThread t th).msixOut = s.msixOut := rfl
@[simp] theorem State.setThread_freeCount (s : State) (t : ThreadRef) (th : Thread) : (s.setThread t th).freeCount = s.freeCount := rfl
@[simp] theorem State.setThread_rget (s : State) (t : ThreadRef) (th : Thread) (g : Fld) (n : Nat) : (s.setThread t th).rget g n = s.rget g n := rfl
@[simp] theorem State.setThread_tsq (s : State) (t : ThreadRef) (th : Thread) : (s.setThread t th).tsq = { s.tsq with threads := put t th s.tsq.threads } := rfl

/-! ## freeSlot -/

@[simp] theorem State.freeSlot_pending (s : State) (t : ThreadRef) : (s.freeSlot t).pending = s.pending := rfl
@[simp] theorem State.freeSlot_mem (s : State) (t : ThreadRef) : (s.freeSlot t).mem = s.mem := rfl
@[simp] theorem State.freeSlot_poison (s : State) (t : ThreadRef) : (s.freeSlot t).poison = s.poison := rfl
@[simp] theorem State.freeSlot_regs (s : State) (t : ThreadRef) : (s.freeSlot t).regs = s.regs := rfl
@[simp] theorem State.freeSlot_hub (s : State) (t : ThreadRef) : (s.freeSlot t).hub = s.hub := rfl
@[simp] theorem State.freeSlot_slots (s : State) (t : ThreadRef) : (s.freeSlot t).slots = s.slots := rfl
@[simp] theorem State.freeSlot_obs (s : State) (t : ThreadRef) : (s.freeSlot t).obs = s.obs := rfl
@[simp] theorem State.freeSlot_tiers (s : State) (t : ThreadRef) : (s.freeSlot t).tiers = s.tiers := rfl
@[simp] theorem State.freeSlot_fabric (s : State) (t : ThreadRef) : (s.freeSlot t).fabric = s.fabric := rfl
@[simp] theorem State.freeSlot_collect (s : State) (t : ThreadRef) : (s.freeSlot t).collect = s.collect := rfl
@[simp] theorem State.freeSlot_update (s : State) (t : ThreadRef) : (s.freeSlot t).update = s.update := rfl
@[simp] theorem State.freeSlot_wellhead (s : State) (t : ThreadRef) : (s.freeSlot t).wellhead = s.wellhead := rfl
@[simp] theorem State.freeSlot_cistern (s : State) (t : ThreadRef) : (s.freeSlot t).cistern = s.cistern := rfl
@[simp] theorem State.freeSlot_cis (s : State) (t : ThreadRef) : (s.freeSlot t).cis = s.cis := rfl
@[simp] theorem State.freeSlot_fuses (s : State) (t : ThreadRef) : (s.freeSlot t).fuses = s.fuses := rfl
@[simp] theorem State.freeSlot_security (s : State) (t : ThreadRef) : (s.freeSlot t).security = s.security := rfl
@[simp] theorem State.freeSlot_power (s : State) (t : ThreadRef) : (s.freeSlot t).power = s.power := rfl
@[simp] theorem State.freeSlot_link (s : State) (t : ThreadRef) : (s.freeSlot t).link = s.link := rfl
@[simp] theorem State.freeSlot_ras (s : State) (t : ThreadRef) : (s.freeSlot t).ras = s.ras := rfl
@[simp] theorem State.freeSlot_rasLog (s : State) (t : ThreadRef) : (s.freeSlot t).rasLog = s.rasLog := rfl
@[simp] theorem State.freeSlot_rasSeq (s : State) (t : ThreadRef) : (s.freeSlot t).rasSeq = s.rasSeq := rfl
@[simp] theorem State.freeSlot_msixOut (s : State) (t : ThreadRef) : (s.freeSlot t).msixOut = s.msixOut := rfl
@[simp] theorem State.freeSlot_freeCount (s : State) (t : ThreadRef) : (s.freeSlot t).freeCount = s.freeCount := rfl
@[simp] theorem State.freeSlot_rget (s : State) (t : ThreadRef) (g : Fld) (n : Nat) : (s.freeSlot t).rget g n = s.rget g n := rfl
@[simp] theorem State.freeSlot_tsq (s : State) (t : ThreadRef) : (s.freeSlot t).tsq = { s.tsq with threads := del t s.tsq.threads } := rfl

/-! ## withBinds -/

@[simp] theorem State.withBinds_pending (s : State) (binds : Regs) : (s.withBinds binds).pending = s.pending := rfl
@[simp] theorem State.withBinds_mem (s : State) (binds : Regs) : (s.withBinds binds).mem = s.mem := rfl
@[simp] theorem State.withBinds_poison (s : State) (binds : Regs) : (s.withBinds binds).poison = s.poison := rfl
@[simp] theorem State.withBinds_tsq (s : State) (binds : Regs) : (s.withBinds binds).tsq = s.tsq := rfl
@[simp] theorem State.withBinds_hub (s : State) (binds : Regs) : (s.withBinds binds).hub = s.hub := rfl
@[simp] theorem State.withBinds_slots (s : State) (binds : Regs) : (s.withBinds binds).slots = s.slots := rfl
@[simp] theorem State.withBinds_obs (s : State) (binds : Regs) : (s.withBinds binds).obs = s.obs := rfl
@[simp] theorem State.withBinds_tiers (s : State) (binds : Regs) : (s.withBinds binds).tiers = s.tiers := rfl
@[simp] theorem State.withBinds_fabric (s : State) (binds : Regs) : (s.withBinds binds).fabric = s.fabric := rfl
@[simp] theorem State.withBinds_collect (s : State) (binds : Regs) : (s.withBinds binds).collect = s.collect := rfl
@[simp] theorem State.withBinds_update (s : State) (binds : Regs) : (s.withBinds binds).update = s.update := rfl
@[simp] theorem State.withBinds_wellhead (s : State) (binds : Regs) : (s.withBinds binds).wellhead = s.wellhead := rfl
@[simp] theorem State.withBinds_cistern (s : State) (binds : Regs) : (s.withBinds binds).cistern = s.cistern := rfl
@[simp] theorem State.withBinds_cis (s : State) (binds : Regs) : (s.withBinds binds).cis = s.cis := rfl
@[simp] theorem State.withBinds_fuses (s : State) (binds : Regs) : (s.withBinds binds).fuses = s.fuses := rfl
@[simp] theorem State.withBinds_security (s : State) (binds : Regs) : (s.withBinds binds).security = s.security := rfl
@[simp] theorem State.withBinds_power (s : State) (binds : Regs) : (s.withBinds binds).power = s.power := rfl
@[simp] theorem State.withBinds_link (s : State) (binds : Regs) : (s.withBinds binds).link = s.link := rfl
@[simp] theorem State.withBinds_ras (s : State) (binds : Regs) : (s.withBinds binds).ras = s.ras := rfl
@[simp] theorem State.withBinds_rasLog (s : State) (binds : Regs) : (s.withBinds binds).rasLog = s.rasLog := rfl
@[simp] theorem State.withBinds_rasSeq (s : State) (binds : Regs) : (s.withBinds binds).rasSeq = s.rasSeq := rfl
@[simp] theorem State.withBinds_msixOut (s : State) (binds : Regs) : (s.withBinds binds).msixOut = s.msixOut := rfl
@[simp] theorem State.withBinds_freeCount (s : State) (binds : Regs) : (s.withBinds binds).freeCount = s.freeCount := rfl

/-! ## setRetained -/

@[simp] theorem State.setRetained_pending (s : State) (b j : Nat) (r : Retained) : (s.setRetained b j r).pending = s.pending := rfl
@[simp] theorem State.setRetained_mem (s : State) (b j : Nat) (r : Retained) : (s.setRetained b j r).mem = s.mem := rfl
@[simp] theorem State.setRetained_poison (s : State) (b j : Nat) (r : Retained) : (s.setRetained b j r).poison = s.poison := rfl
@[simp] theorem State.setRetained_regs (s : State) (b j : Nat) (r : Retained) : (s.setRetained b j r).regs = s.regs := rfl
@[simp] theorem State.setRetained_tsq (s : State) (b j : Nat) (r : Retained) : (s.setRetained b j r).tsq = s.tsq := rfl
@[simp] theorem State.setRetained_hub (s : State) (b j : Nat) (r : Retained) : (s.setRetained b j r).hub = s.hub := rfl
@[simp] theorem State.setRetained_slots (s : State) (b j : Nat) (r : Retained) : (s.setRetained b j r).slots = s.slots := rfl
@[simp] theorem State.setRetained_obs (s : State) (b j : Nat) (r : Retained) : (s.setRetained b j r).obs = s.obs := rfl
@[simp] theorem State.setRetained_tiers (s : State) (b j : Nat) (r : Retained) : (s.setRetained b j r).tiers = s.tiers := rfl
@[simp] theorem State.setRetained_fabric (s : State) (b j : Nat) (r : Retained) : (s.setRetained b j r).fabric = s.fabric := rfl
@[simp] theorem State.setRetained_collect (s : State) (b j : Nat) (r : Retained) : (s.setRetained b j r).collect = s.collect := rfl
@[simp] theorem State.setRetained_wellhead (s : State) (b j : Nat) (r : Retained) : (s.setRetained b j r).wellhead = s.wellhead := rfl
@[simp] theorem State.setRetained_cistern (s : State) (b j : Nat) (r : Retained) : (s.setRetained b j r).cistern = s.cistern := rfl
@[simp] theorem State.setRetained_cis (s : State) (b j : Nat) (r : Retained) : (s.setRetained b j r).cis = s.cis := rfl
@[simp] theorem State.setRetained_fuses (s : State) (b j : Nat) (r : Retained) : (s.setRetained b j r).fuses = s.fuses := rfl
@[simp] theorem State.setRetained_security (s : State) (b j : Nat) (r : Retained) : (s.setRetained b j r).security = s.security := rfl
@[simp] theorem State.setRetained_power (s : State) (b j : Nat) (r : Retained) : (s.setRetained b j r).power = s.power := rfl
@[simp] theorem State.setRetained_link (s : State) (b j : Nat) (r : Retained) : (s.setRetained b j r).link = s.link := rfl
@[simp] theorem State.setRetained_ras (s : State) (b j : Nat) (r : Retained) : (s.setRetained b j r).ras = s.ras := rfl
@[simp] theorem State.setRetained_rasLog (s : State) (b j : Nat) (r : Retained) : (s.setRetained b j r).rasLog = s.rasLog := rfl
@[simp] theorem State.setRetained_rasSeq (s : State) (b j : Nat) (r : Retained) : (s.setRetained b j r).rasSeq = s.rasSeq := rfl
@[simp] theorem State.setRetained_msixOut (s : State) (b j : Nat) (r : Retained) : (s.setRetained b j r).msixOut = s.msixOut := rfl
@[simp] theorem State.setRetained_freeCount (s : State) (b j : Nat) (r : Retained) : (s.setRetained b j r).freeCount = s.freeCount := rfl
@[simp] theorem State.setRetained_rget (s : State) (b j : Nat) (r : Retained) (g : Fld) (n : Nat) : (s.setRetained b j r).rget g n = s.rget g n := rfl
@[simp] theorem State.setRetained_update (s : State) (b j : Nat) (r : Retained) : (s.setRetained b j r).update = { s.update with retained := put (b, j) r s.update.retained } := rfl

/-! ## setPort -/

@[simp] theorem State.setPort_pending (s : State) (p : Nat) (v : PortState) : (s.setPort p v).pending = s.pending := rfl
@[simp] theorem State.setPort_mem (s : State) (p : Nat) (v : PortState) : (s.setPort p v).mem = s.mem := rfl
@[simp] theorem State.setPort_poison (s : State) (p : Nat) (v : PortState) : (s.setPort p v).poison = s.poison := rfl
@[simp] theorem State.setPort_regs (s : State) (p : Nat) (v : PortState) : (s.setPort p v).regs = s.regs := rfl
@[simp] theorem State.setPort_tsq (s : State) (p : Nat) (v : PortState) : (s.setPort p v).tsq = s.tsq := rfl
@[simp] theorem State.setPort_hub (s : State) (p : Nat) (v : PortState) : (s.setPort p v).hub = s.hub := rfl
@[simp] theorem State.setPort_slots (s : State) (p : Nat) (v : PortState) : (s.setPort p v).slots = s.slots := rfl
@[simp] theorem State.setPort_obs (s : State) (p : Nat) (v : PortState) : (s.setPort p v).obs = s.obs := rfl
@[simp] theorem State.setPort_tiers (s : State) (p : Nat) (v : PortState) : (s.setPort p v).tiers = s.tiers := rfl
@[simp] theorem State.setPort_collect (s : State) (p : Nat) (v : PortState) : (s.setPort p v).collect = s.collect := rfl
@[simp] theorem State.setPort_update (s : State) (p : Nat) (v : PortState) : (s.setPort p v).update = s.update := rfl
@[simp] theorem State.setPort_wellhead (s : State) (p : Nat) (v : PortState) : (s.setPort p v).wellhead = s.wellhead := rfl
@[simp] theorem State.setPort_cistern (s : State) (p : Nat) (v : PortState) : (s.setPort p v).cistern = s.cistern := rfl
@[simp] theorem State.setPort_cis (s : State) (p : Nat) (v : PortState) : (s.setPort p v).cis = s.cis := rfl
@[simp] theorem State.setPort_fuses (s : State) (p : Nat) (v : PortState) : (s.setPort p v).fuses = s.fuses := rfl
@[simp] theorem State.setPort_security (s : State) (p : Nat) (v : PortState) : (s.setPort p v).security = s.security := rfl
@[simp] theorem State.setPort_power (s : State) (p : Nat) (v : PortState) : (s.setPort p v).power = s.power := rfl
@[simp] theorem State.setPort_link (s : State) (p : Nat) (v : PortState) : (s.setPort p v).link = s.link := rfl
@[simp] theorem State.setPort_ras (s : State) (p : Nat) (v : PortState) : (s.setPort p v).ras = s.ras := rfl
@[simp] theorem State.setPort_rasLog (s : State) (p : Nat) (v : PortState) : (s.setPort p v).rasLog = s.rasLog := rfl
@[simp] theorem State.setPort_rasSeq (s : State) (p : Nat) (v : PortState) : (s.setPort p v).rasSeq = s.rasSeq := rfl
@[simp] theorem State.setPort_msixOut (s : State) (p : Nat) (v : PortState) : (s.setPort p v).msixOut = s.msixOut := rfl
@[simp] theorem State.setPort_freeCount (s : State) (p : Nat) (v : PortState) : (s.setPort p v).freeCount = s.freeCount := rfl
@[simp] theorem State.setPort_rget (s : State) (p : Nat) (v : PortState) (g : Fld) (n : Nat) : (s.setPort p v).rget g n = s.rget g n := rfl
@[simp] theorem State.setPort_fabric (s : State) (p : Nat) (v : PortState) : (s.setPort p v).fabric = { s.fabric with ports := put p v s.fabric.ports } := rfl

/-! ## setPolicer -/

@[simp] theorem State.setPolicer_pending (s : State) (src : Nat) (p : Policer) : (s.setPolicer src p).pending = s.pending := rfl
@[simp] theorem State.setPolicer_mem (s : State) (src : Nat) (p : Policer) : (s.setPolicer src p).mem = s.mem := rfl
@[simp] theorem State.setPolicer_poison (s : State) (src : Nat) (p : Policer) : (s.setPolicer src p).poison = s.poison := rfl
@[simp] theorem State.setPolicer_regs (s : State) (src : Nat) (p : Policer) : (s.setPolicer src p).regs = s.regs := rfl
@[simp] theorem State.setPolicer_tsq (s : State) (src : Nat) (p : Policer) : (s.setPolicer src p).tsq = s.tsq := rfl
@[simp] theorem State.setPolicer_hub (s : State) (src : Nat) (p : Policer) : (s.setPolicer src p).hub = s.hub := rfl
@[simp] theorem State.setPolicer_slots (s : State) (src : Nat) (p : Policer) : (s.setPolicer src p).slots = s.slots := rfl
@[simp] theorem State.setPolicer_obs (s : State) (src : Nat) (p : Policer) : (s.setPolicer src p).obs = s.obs := rfl
@[simp] theorem State.setPolicer_tiers (s : State) (src : Nat) (p : Policer) : (s.setPolicer src p).tiers = s.tiers := rfl
@[simp] theorem State.setPolicer_collect (s : State) (src : Nat) (p : Policer) : (s.setPolicer src p).collect = s.collect := rfl
@[simp] theorem State.setPolicer_update (s : State) (src : Nat) (p : Policer) : (s.setPolicer src p).update = s.update := rfl
@[simp] theorem State.setPolicer_wellhead (s : State) (src : Nat) (p : Policer) : (s.setPolicer src p).wellhead = s.wellhead := rfl
@[simp] theorem State.setPolicer_cistern (s : State) (src : Nat) (p : Policer) : (s.setPolicer src p).cistern = s.cistern := rfl
@[simp] theorem State.setPolicer_cis (s : State) (src : Nat) (p : Policer) : (s.setPolicer src p).cis = s.cis := rfl
@[simp] theorem State.setPolicer_fuses (s : State) (src : Nat) (p : Policer) : (s.setPolicer src p).fuses = s.fuses := rfl
@[simp] theorem State.setPolicer_security (s : State) (src : Nat) (p : Policer) : (s.setPolicer src p).security = s.security := rfl
@[simp] theorem State.setPolicer_power (s : State) (src : Nat) (p : Policer) : (s.setPolicer src p).power = s.power := rfl
@[simp] theorem State.setPolicer_link (s : State) (src : Nat) (p : Policer) : (s.setPolicer src p).link = s.link := rfl
@[simp] theorem State.setPolicer_ras (s : State) (src : Nat) (p : Policer) : (s.setPolicer src p).ras = s.ras := rfl
@[simp] theorem State.setPolicer_rasLog (s : State) (src : Nat) (p : Policer) : (s.setPolicer src p).rasLog = s.rasLog := rfl
@[simp] theorem State.setPolicer_rasSeq (s : State) (src : Nat) (p : Policer) : (s.setPolicer src p).rasSeq = s.rasSeq := rfl
@[simp] theorem State.setPolicer_msixOut (s : State) (src : Nat) (p : Policer) : (s.setPolicer src p).msixOut = s.msixOut := rfl
@[simp] theorem State.setPolicer_freeCount (s : State) (src : Nat) (p : Policer) : (s.setPolicer src p).freeCount = s.freeCount := rfl
@[simp] theorem State.setPolicer_rget (s : State) (src : Nat) (p : Policer) (g : Fld) (n : Nat) : (s.setPolicer src p).rget g n = s.rget g n := rfl
@[simp] theorem State.setPolicer_fabric (s : State) (src : Nat) (p : Policer) : (s.setPolicer src p).fabric = { s.fabric with sources := put src p s.fabric.sources } := rfl

/-! ## loadSlot -/

@[simp] theorem State.loadSlot_pending (s : State) (u : Nat × Nat) (slot : Nat) (t : Table) : (s.loadSlot u slot t).pending = s.pending := rfl
@[simp] theorem State.loadSlot_mem (s : State) (u : Nat × Nat) (slot : Nat) (t : Table) : (s.loadSlot u slot t).mem = s.mem := rfl
@[simp] theorem State.loadSlot_poison (s : State) (u : Nat × Nat) (slot : Nat) (t : Table) : (s.loadSlot u slot t).poison = s.poison := rfl
@[simp] theorem State.loadSlot_regs (s : State) (u : Nat × Nat) (slot : Nat) (t : Table) : (s.loadSlot u slot t).regs = s.regs := rfl
@[simp] theorem State.loadSlot_tsq (s : State) (u : Nat × Nat) (slot : Nat) (t : Table) : (s.loadSlot u slot t).tsq = s.tsq := rfl
@[simp] theorem State.loadSlot_hub (s : State) (u : Nat × Nat) (slot : Nat) (t : Table) : (s.loadSlot u slot t).hub = s.hub := rfl
@[simp] theorem State.loadSlot_obs (s : State) (u : Nat × Nat) (slot : Nat) (t : Table) : (s.loadSlot u slot t).obs = s.obs := rfl
@[simp] theorem State.loadSlot_tiers (s : State) (u : Nat × Nat) (slot : Nat) (t : Table) : (s.loadSlot u slot t).tiers = s.tiers := rfl
@[simp] theorem State.loadSlot_fabric (s : State) (u : Nat × Nat) (slot : Nat) (t : Table) : (s.loadSlot u slot t).fabric = s.fabric := rfl
@[simp] theorem State.loadSlot_collect (s : State) (u : Nat × Nat) (slot : Nat) (t : Table) : (s.loadSlot u slot t).collect = s.collect := rfl
@[simp] theorem State.loadSlot_update (s : State) (u : Nat × Nat) (slot : Nat) (t : Table) : (s.loadSlot u slot t).update = s.update := rfl
@[simp] theorem State.loadSlot_wellhead (s : State) (u : Nat × Nat) (slot : Nat) (t : Table) : (s.loadSlot u slot t).wellhead = s.wellhead := rfl
@[simp] theorem State.loadSlot_cistern (s : State) (u : Nat × Nat) (slot : Nat) (t : Table) : (s.loadSlot u slot t).cistern = s.cistern := rfl
@[simp] theorem State.loadSlot_cis (s : State) (u : Nat × Nat) (slot : Nat) (t : Table) : (s.loadSlot u slot t).cis = s.cis := rfl
@[simp] theorem State.loadSlot_fuses (s : State) (u : Nat × Nat) (slot : Nat) (t : Table) : (s.loadSlot u slot t).fuses = s.fuses := rfl
@[simp] theorem State.loadSlot_security (s : State) (u : Nat × Nat) (slot : Nat) (t : Table) : (s.loadSlot u slot t).security = s.security := rfl
@[simp] theorem State.loadSlot_power (s : State) (u : Nat × Nat) (slot : Nat) (t : Table) : (s.loadSlot u slot t).power = s.power := rfl
@[simp] theorem State.loadSlot_link (s : State) (u : Nat × Nat) (slot : Nat) (t : Table) : (s.loadSlot u slot t).link = s.link := rfl
@[simp] theorem State.loadSlot_ras (s : State) (u : Nat × Nat) (slot : Nat) (t : Table) : (s.loadSlot u slot t).ras = s.ras := rfl
@[simp] theorem State.loadSlot_rasLog (s : State) (u : Nat × Nat) (slot : Nat) (t : Table) : (s.loadSlot u slot t).rasLog = s.rasLog := rfl
@[simp] theorem State.loadSlot_rasSeq (s : State) (u : Nat × Nat) (slot : Nat) (t : Table) : (s.loadSlot u slot t).rasSeq = s.rasSeq := rfl
@[simp] theorem State.loadSlot_msixOut (s : State) (u : Nat × Nat) (slot : Nat) (t : Table) : (s.loadSlot u slot t).msixOut = s.msixOut := rfl
@[simp] theorem State.loadSlot_freeCount (s : State) (u : Nat × Nat) (slot : Nat) (t : Table) : (s.loadSlot u slot t).freeCount = s.freeCount := rfl
@[simp] theorem State.loadSlot_rget (s : State) (u : Nat × Nat) (slot : Nat) (t : Table) (g : Fld) (n : Nat) : (s.loadSlot u slot t).rget g n = s.rget g n := rfl
@[simp] theorem State.loadSlot_slots (s : State) (u : Nat × Nat) (slot : Nat) (t : Table) : (s.loadSlot u slot t).slots = put ⟨u.1, u.2, slot⟩ t s.slots := rfl

/-! ## endEarly -/

@[simp] theorem State.endEarly_pending (s : State) (c : EngCmd) (reason : Nat) : (s.endEarly c reason).pending = s.pending := rfl
@[simp] theorem State.endEarly_mem (s : State) (c : EngCmd) (reason : Nat) : (s.endEarly c reason).mem = s.mem := rfl
@[simp] theorem State.endEarly_poison (s : State) (c : EngCmd) (reason : Nat) : (s.endEarly c reason).poison = s.poison := rfl
@[simp] theorem State.endEarly_regs (s : State) (c : EngCmd) (reason : Nat) : (s.endEarly c reason).regs = s.regs := rfl
@[simp] theorem State.endEarly_hub (s : State) (c : EngCmd) (reason : Nat) : (s.endEarly c reason).hub = s.hub := rfl
@[simp] theorem State.endEarly_slots (s : State) (c : EngCmd) (reason : Nat) : (s.endEarly c reason).slots = s.slots := rfl
@[simp] theorem State.endEarly_obs (s : State) (c : EngCmd) (reason : Nat) : (s.endEarly c reason).obs = s.obs := rfl
@[simp] theorem State.endEarly_tiers (s : State) (c : EngCmd) (reason : Nat) : (s.endEarly c reason).tiers = s.tiers := rfl
@[simp] theorem State.endEarly_fabric (s : State) (c : EngCmd) (reason : Nat) : (s.endEarly c reason).fabric = s.fabric := rfl
@[simp] theorem State.endEarly_collect (s : State) (c : EngCmd) (reason : Nat) : (s.endEarly c reason).collect = s.collect := rfl
@[simp] theorem State.endEarly_update (s : State) (c : EngCmd) (reason : Nat) : (s.endEarly c reason).update = s.update := rfl
@[simp] theorem State.endEarly_wellhead (s : State) (c : EngCmd) (reason : Nat) : (s.endEarly c reason).wellhead = s.wellhead := rfl
@[simp] theorem State.endEarly_cistern (s : State) (c : EngCmd) (reason : Nat) : (s.endEarly c reason).cistern = s.cistern := rfl
@[simp] theorem State.endEarly_cis (s : State) (c : EngCmd) (reason : Nat) : (s.endEarly c reason).cis = s.cis := rfl
@[simp] theorem State.endEarly_fuses (s : State) (c : EngCmd) (reason : Nat) : (s.endEarly c reason).fuses = s.fuses := rfl
@[simp] theorem State.endEarly_security (s : State) (c : EngCmd) (reason : Nat) : (s.endEarly c reason).security = s.security := rfl
@[simp] theorem State.endEarly_power (s : State) (c : EngCmd) (reason : Nat) : (s.endEarly c reason).power = s.power := rfl
@[simp] theorem State.endEarly_link (s : State) (c : EngCmd) (reason : Nat) : (s.endEarly c reason).link = s.link := rfl
@[simp] theorem State.endEarly_ras (s : State) (c : EngCmd) (reason : Nat) : (s.endEarly c reason).ras = s.ras := rfl
@[simp] theorem State.endEarly_rasLog (s : State) (c : EngCmd) (reason : Nat) : (s.endEarly c reason).rasLog = s.rasLog := rfl
@[simp] theorem State.endEarly_rasSeq (s : State) (c : EngCmd) (reason : Nat) : (s.endEarly c reason).rasSeq = s.rasSeq := rfl
@[simp] theorem State.endEarly_msixOut (s : State) (c : EngCmd) (reason : Nat) : (s.endEarly c reason).msixOut = s.msixOut := rfl
@[simp] theorem State.endEarly_freeCount (s : State) (c : EngCmd) (reason : Nat) : (s.endEarly c reason).freeCount = s.freeCount := rfl
@[simp] theorem State.endEarly_rget (s : State) (c : EngCmd) (reason : Nat) (g : Fld) (n : Nat) : (s.endEarly c reason).rget g n = s.rget g n := rfl
@[simp] theorem State.endEarly_tsq (s : State) (c : EngCmd) (reason : Nat) : (s.endEarly c reason).tsq = { s.tsq with early := put c.id reason s.tsq.early } := rfl

/-! ## setRed -/

@[simp] theorem State.setRed_pending (s : State) (r r' : Reduction) : (s.setRed r r').pending = s.pending := rfl
@[simp] theorem State.setRed_mem (s : State) (r r' : Reduction) : (s.setRed r r').mem = s.mem := rfl
@[simp] theorem State.setRed_poison (s : State) (r r' : Reduction) : (s.setRed r r').poison = s.poison := rfl
@[simp] theorem State.setRed_regs (s : State) (r r' : Reduction) : (s.setRed r r').regs = s.regs := rfl
@[simp] theorem State.setRed_tsq (s : State) (r r' : Reduction) : (s.setRed r r').tsq = s.tsq := rfl
@[simp] theorem State.setRed_hub (s : State) (r r' : Reduction) : (s.setRed r r').hub = s.hub := rfl
@[simp] theorem State.setRed_slots (s : State) (r r' : Reduction) : (s.setRed r r').slots = s.slots := rfl
@[simp] theorem State.setRed_obs (s : State) (r r' : Reduction) : (s.setRed r r').obs = s.obs := rfl
@[simp] theorem State.setRed_tiers (s : State) (r r' : Reduction) : (s.setRed r r').tiers = s.tiers := rfl
@[simp] theorem State.setRed_fabric (s : State) (r r' : Reduction) : (s.setRed r r').fabric = s.fabric := rfl
@[simp] theorem State.setRed_update (s : State) (r r' : Reduction) : (s.setRed r r').update = s.update := rfl
@[simp] theorem State.setRed_wellhead (s : State) (r r' : Reduction) : (s.setRed r r').wellhead = s.wellhead := rfl
@[simp] theorem State.setRed_cistern (s : State) (r r' : Reduction) : (s.setRed r r').cistern = s.cistern := rfl
@[simp] theorem State.setRed_cis (s : State) (r r' : Reduction) : (s.setRed r r').cis = s.cis := rfl
@[simp] theorem State.setRed_fuses (s : State) (r r' : Reduction) : (s.setRed r r').fuses = s.fuses := rfl
@[simp] theorem State.setRed_security (s : State) (r r' : Reduction) : (s.setRed r r').security = s.security := rfl
@[simp] theorem State.setRed_power (s : State) (r r' : Reduction) : (s.setRed r r').power = s.power := rfl
@[simp] theorem State.setRed_link (s : State) (r r' : Reduction) : (s.setRed r r').link = s.link := rfl
@[simp] theorem State.setRed_ras (s : State) (r r' : Reduction) : (s.setRed r r').ras = s.ras := rfl
@[simp] theorem State.setRed_rasLog (s : State) (r r' : Reduction) : (s.setRed r r').rasLog = s.rasLog := rfl
@[simp] theorem State.setRed_rasSeq (s : State) (r r' : Reduction) : (s.setRed r r').rasSeq = s.rasSeq := rfl
@[simp] theorem State.setRed_msixOut (s : State) (r r' : Reduction) : (s.setRed r r').msixOut = s.msixOut := rfl
@[simp] theorem State.setRed_freeCount (s : State) (r r' : Reduction) : (s.setRed r r').freeCount = s.freeCount := rfl
@[simp] theorem State.setRed_rget (s : State) (r r' : Reduction) (g : Fld) (n : Nat) : (s.setRed r r').rget g n = s.rget g n := rfl

/-! ## addLanding -/

@[simp] theorem State.addLanding_pending (s : State) (l : Landing) : (s.addLanding l).pending = s.pending := rfl
@[simp] theorem State.addLanding_mem (s : State) (l : Landing) : (s.addLanding l).mem = s.mem := rfl
@[simp] theorem State.addLanding_poison (s : State) (l : Landing) : (s.addLanding l).poison = s.poison := rfl
@[simp] theorem State.addLanding_regs (s : State) (l : Landing) : (s.addLanding l).regs = s.regs := rfl
@[simp] theorem State.addLanding_tsq (s : State) (l : Landing) : (s.addLanding l).tsq = s.tsq := rfl
@[simp] theorem State.addLanding_hub (s : State) (l : Landing) : (s.addLanding l).hub = s.hub := rfl
@[simp] theorem State.addLanding_slots (s : State) (l : Landing) : (s.addLanding l).slots = s.slots := rfl
@[simp] theorem State.addLanding_obs (s : State) (l : Landing) : (s.addLanding l).obs = s.obs := rfl
@[simp] theorem State.addLanding_tiers (s : State) (l : Landing) : (s.addLanding l).tiers = s.tiers := rfl
@[simp] theorem State.addLanding_fabric (s : State) (l : Landing) : (s.addLanding l).fabric = s.fabric := rfl
@[simp] theorem State.addLanding_update (s : State) (l : Landing) : (s.addLanding l).update = s.update := rfl
@[simp] theorem State.addLanding_wellhead (s : State) (l : Landing) : (s.addLanding l).wellhead = s.wellhead := rfl
@[simp] theorem State.addLanding_cistern (s : State) (l : Landing) : (s.addLanding l).cistern = s.cistern := rfl
@[simp] theorem State.addLanding_cis (s : State) (l : Landing) : (s.addLanding l).cis = s.cis := rfl
@[simp] theorem State.addLanding_fuses (s : State) (l : Landing) : (s.addLanding l).fuses = s.fuses := rfl
@[simp] theorem State.addLanding_security (s : State) (l : Landing) : (s.addLanding l).security = s.security := rfl
@[simp] theorem State.addLanding_power (s : State) (l : Landing) : (s.addLanding l).power = s.power := rfl
@[simp] theorem State.addLanding_link (s : State) (l : Landing) : (s.addLanding l).link = s.link := rfl
@[simp] theorem State.addLanding_ras (s : State) (l : Landing) : (s.addLanding l).ras = s.ras := rfl
@[simp] theorem State.addLanding_rasLog (s : State) (l : Landing) : (s.addLanding l).rasLog = s.rasLog := rfl
@[simp] theorem State.addLanding_rasSeq (s : State) (l : Landing) : (s.addLanding l).rasSeq = s.rasSeq := rfl
@[simp] theorem State.addLanding_msixOut (s : State) (l : Landing) : (s.addLanding l).msixOut = s.msixOut := rfl
@[simp] theorem State.addLanding_freeCount (s : State) (l : Landing) : (s.addLanding l).freeCount = s.freeCount := rfl
@[simp] theorem State.addLanding_rget (s : State) (l : Landing) (g : Fld) (n : Nat) : (s.addLanding l).rget g n = s.rget g n := rfl
@[simp] theorem State.addLanding_collect (s : State) (l : Landing) : (s.addLanding l).collect = { s.collect with landings := s.collect.landings ++ [l] } := rfl

/-! ## addLaunch -/

@[simp] theorem State.addLaunch_pending (s : State) (r : LaunchReq) : (s.addLaunch r).pending = s.pending := rfl
@[simp] theorem State.addLaunch_mem (s : State) (r : LaunchReq) : (s.addLaunch r).mem = s.mem := rfl
@[simp] theorem State.addLaunch_poison (s : State) (r : LaunchReq) : (s.addLaunch r).poison = s.poison := rfl
@[simp] theorem State.addLaunch_regs (s : State) (r : LaunchReq) : (s.addLaunch r).regs = s.regs := rfl
@[simp] theorem State.addLaunch_hub (s : State) (r : LaunchReq) : (s.addLaunch r).hub = s.hub := rfl
@[simp] theorem State.addLaunch_slots (s : State) (r : LaunchReq) : (s.addLaunch r).slots = s.slots := rfl
@[simp] theorem State.addLaunch_obs (s : State) (r : LaunchReq) : (s.addLaunch r).obs = s.obs := rfl
@[simp] theorem State.addLaunch_tiers (s : State) (r : LaunchReq) : (s.addLaunch r).tiers = s.tiers := rfl
@[simp] theorem State.addLaunch_fabric (s : State) (r : LaunchReq) : (s.addLaunch r).fabric = s.fabric := rfl
@[simp] theorem State.addLaunch_collect (s : State) (r : LaunchReq) : (s.addLaunch r).collect = s.collect := rfl
@[simp] theorem State.addLaunch_update (s : State) (r : LaunchReq) : (s.addLaunch r).update = s.update := rfl
@[simp] theorem State.addLaunch_wellhead (s : State) (r : LaunchReq) : (s.addLaunch r).wellhead = s.wellhead := rfl
@[simp] theorem State.addLaunch_cistern (s : State) (r : LaunchReq) : (s.addLaunch r).cistern = s.cistern := rfl
@[simp] theorem State.addLaunch_cis (s : State) (r : LaunchReq) : (s.addLaunch r).cis = s.cis := rfl
@[simp] theorem State.addLaunch_fuses (s : State) (r : LaunchReq) : (s.addLaunch r).fuses = s.fuses := rfl
@[simp] theorem State.addLaunch_security (s : State) (r : LaunchReq) : (s.addLaunch r).security = s.security := rfl
@[simp] theorem State.addLaunch_power (s : State) (r : LaunchReq) : (s.addLaunch r).power = s.power := rfl
@[simp] theorem State.addLaunch_link (s : State) (r : LaunchReq) : (s.addLaunch r).link = s.link := rfl
@[simp] theorem State.addLaunch_ras (s : State) (r : LaunchReq) : (s.addLaunch r).ras = s.ras := rfl
@[simp] theorem State.addLaunch_rasLog (s : State) (r : LaunchReq) : (s.addLaunch r).rasLog = s.rasLog := rfl
@[simp] theorem State.addLaunch_rasSeq (s : State) (r : LaunchReq) : (s.addLaunch r).rasSeq = s.rasSeq := rfl
@[simp] theorem State.addLaunch_msixOut (s : State) (r : LaunchReq) : (s.addLaunch r).msixOut = s.msixOut := rfl
@[simp] theorem State.addLaunch_freeCount (s : State) (r : LaunchReq) : (s.addLaunch r).freeCount = s.freeCount := rfl
@[simp] theorem State.addLaunch_rget (s : State) (r : LaunchReq) (g : Fld) (n : Nat) : (s.addLaunch r).rget g n = s.rget g n := rfl
@[simp] theorem State.addLaunch_tsq (s : State) (r : LaunchReq) : (s.addLaunch r).tsq =
    { s.tsq with launches := s.tsq.launches ++ [{ r with refusal := s.launchRefusal r.ctx }] } := rfl

/-! ## onWell -/

@[simp] theorem State.onWell_pending (s : State) (f : Wellhead → Wellhead) : (s.onWell f).pending = s.pending := rfl
@[simp] theorem State.onWell_mem (s : State) (f : Wellhead → Wellhead) : (s.onWell f).mem = s.mem := rfl
@[simp] theorem State.onWell_poison (s : State) (f : Wellhead → Wellhead) : (s.onWell f).poison = s.poison := rfl
@[simp] theorem State.onWell_regs (s : State) (f : Wellhead → Wellhead) : (s.onWell f).regs = s.regs := rfl
@[simp] theorem State.onWell_tsq (s : State) (f : Wellhead → Wellhead) : (s.onWell f).tsq = s.tsq := rfl
@[simp] theorem State.onWell_hub (s : State) (f : Wellhead → Wellhead) : (s.onWell f).hub = s.hub := rfl
@[simp] theorem State.onWell_slots (s : State) (f : Wellhead → Wellhead) : (s.onWell f).slots = s.slots := rfl
@[simp] theorem State.onWell_obs (s : State) (f : Wellhead → Wellhead) : (s.onWell f).obs = s.obs := rfl
@[simp] theorem State.onWell_tiers (s : State) (f : Wellhead → Wellhead) : (s.onWell f).tiers = s.tiers := rfl
@[simp] theorem State.onWell_fabric (s : State) (f : Wellhead → Wellhead) : (s.onWell f).fabric = s.fabric := rfl
@[simp] theorem State.onWell_collect (s : State) (f : Wellhead → Wellhead) : (s.onWell f).collect = s.collect := rfl
@[simp] theorem State.onWell_update (s : State) (f : Wellhead → Wellhead) : (s.onWell f).update = s.update := rfl
@[simp] theorem State.onWell_cistern (s : State) (f : Wellhead → Wellhead) : (s.onWell f).cistern = s.cistern := rfl
@[simp] theorem State.onWell_cis (s : State) (f : Wellhead → Wellhead) : (s.onWell f).cis = s.cis := rfl
@[simp] theorem State.onWell_fuses (s : State) (f : Wellhead → Wellhead) : (s.onWell f).fuses = s.fuses := rfl
@[simp] theorem State.onWell_security (s : State) (f : Wellhead → Wellhead) : (s.onWell f).security = s.security := rfl
@[simp] theorem State.onWell_power (s : State) (f : Wellhead → Wellhead) : (s.onWell f).power = s.power := rfl
@[simp] theorem State.onWell_link (s : State) (f : Wellhead → Wellhead) : (s.onWell f).link = s.link := rfl
@[simp] theorem State.onWell_ras (s : State) (f : Wellhead → Wellhead) : (s.onWell f).ras = s.ras := rfl
@[simp] theorem State.onWell_rasLog (s : State) (f : Wellhead → Wellhead) : (s.onWell f).rasLog = s.rasLog := rfl
@[simp] theorem State.onWell_rasSeq (s : State) (f : Wellhead → Wellhead) : (s.onWell f).rasSeq = s.rasSeq := rfl
@[simp] theorem State.onWell_msixOut (s : State) (f : Wellhead → Wellhead) : (s.onWell f).msixOut = s.msixOut := rfl
@[simp] theorem State.onWell_freeCount (s : State) (f : Wellhead → Wellhead) : (s.onWell f).freeCount = s.freeCount := rfl
@[simp] theorem State.onWell_rget (s : State) (f : Wellhead → Wellhead) (g : Fld) (n : Nat) : (s.onWell f).rget g n = s.rget g n := rfl
@[simp] theorem State.onWell_wellhead (s : State) (f : Wellhead → Wellhead) : (s.onWell f).wellhead = f s.wellhead := rfl

/-! ## onCistern -/

@[simp] theorem State.onCistern_pending (s : State) (f : Cistern → Cistern) : (s.onCistern f).pending = s.pending := rfl
@[simp] theorem State.onCistern_mem (s : State) (f : Cistern → Cistern) : (s.onCistern f).mem = s.mem := rfl
@[simp] theorem State.onCistern_poison (s : State) (f : Cistern → Cistern) : (s.onCistern f).poison = s.poison := rfl
@[simp] theorem State.onCistern_regs (s : State) (f : Cistern → Cistern) : (s.onCistern f).regs = s.regs := rfl
@[simp] theorem State.onCistern_tsq (s : State) (f : Cistern → Cistern) : (s.onCistern f).tsq = s.tsq := rfl
@[simp] theorem State.onCistern_hub (s : State) (f : Cistern → Cistern) : (s.onCistern f).hub = s.hub := rfl
@[simp] theorem State.onCistern_slots (s : State) (f : Cistern → Cistern) : (s.onCistern f).slots = s.slots := rfl
@[simp] theorem State.onCistern_obs (s : State) (f : Cistern → Cistern) : (s.onCistern f).obs = s.obs := rfl
@[simp] theorem State.onCistern_tiers (s : State) (f : Cistern → Cistern) : (s.onCistern f).tiers = s.tiers := rfl
@[simp] theorem State.onCistern_fabric (s : State) (f : Cistern → Cistern) : (s.onCistern f).fabric = s.fabric := rfl
@[simp] theorem State.onCistern_collect (s : State) (f : Cistern → Cistern) : (s.onCistern f).collect = s.collect := rfl
@[simp] theorem State.onCistern_update (s : State) (f : Cistern → Cistern) : (s.onCistern f).update = s.update := rfl
@[simp] theorem State.onCistern_wellhead (s : State) (f : Cistern → Cistern) : (s.onCistern f).wellhead = s.wellhead := rfl
@[simp] theorem State.onCistern_cis (s : State) (f : Cistern → Cistern) : (s.onCistern f).cis = s.cis := rfl
@[simp] theorem State.onCistern_fuses (s : State) (f : Cistern → Cistern) : (s.onCistern f).fuses = s.fuses := rfl
@[simp] theorem State.onCistern_security (s : State) (f : Cistern → Cistern) : (s.onCistern f).security = s.security := rfl
@[simp] theorem State.onCistern_power (s : State) (f : Cistern → Cistern) : (s.onCistern f).power = s.power := rfl
@[simp] theorem State.onCistern_link (s : State) (f : Cistern → Cistern) : (s.onCistern f).link = s.link := rfl
@[simp] theorem State.onCistern_ras (s : State) (f : Cistern → Cistern) : (s.onCistern f).ras = s.ras := rfl
@[simp] theorem State.onCistern_rasLog (s : State) (f : Cistern → Cistern) : (s.onCistern f).rasLog = s.rasLog := rfl
@[simp] theorem State.onCistern_rasSeq (s : State) (f : Cistern → Cistern) : (s.onCistern f).rasSeq = s.rasSeq := rfl
@[simp] theorem State.onCistern_msixOut (s : State) (f : Cistern → Cistern) : (s.onCistern f).msixOut = s.msixOut := rfl
@[simp] theorem State.onCistern_freeCount (s : State) (f : Cistern → Cistern) : (s.onCistern f).freeCount = s.freeCount := rfl
@[simp] theorem State.onCistern_rget (s : State) (f : Cistern → Cistern) (g : Fld) (n : Nat) : (s.onCistern f).rget g n = s.rget g n := rfl
@[simp] theorem State.onCistern_cistern (s : State) (f : Cistern → Cistern) : (s.onCistern f).cistern = f s.cistern := rfl

/-! ## onCis -/

@[simp] theorem State.onCis_pending (s : State) (f : CisRun → CisRun) : (s.onCis f).pending = s.pending := rfl
@[simp] theorem State.onCis_mem (s : State) (f : CisRun → CisRun) : (s.onCis f).mem = s.mem := rfl
@[simp] theorem State.onCis_poison (s : State) (f : CisRun → CisRun) : (s.onCis f).poison = s.poison := rfl
@[simp] theorem State.onCis_regs (s : State) (f : CisRun → CisRun) : (s.onCis f).regs = s.regs := rfl
@[simp] theorem State.onCis_tsq (s : State) (f : CisRun → CisRun) : (s.onCis f).tsq = s.tsq := rfl
@[simp] theorem State.onCis_hub (s : State) (f : CisRun → CisRun) : (s.onCis f).hub = s.hub := rfl
@[simp] theorem State.onCis_slots (s : State) (f : CisRun → CisRun) : (s.onCis f).slots = s.slots := rfl
@[simp] theorem State.onCis_obs (s : State) (f : CisRun → CisRun) : (s.onCis f).obs = s.obs := rfl
@[simp] theorem State.onCis_tiers (s : State) (f : CisRun → CisRun) : (s.onCis f).tiers = s.tiers := rfl
@[simp] theorem State.onCis_fabric (s : State) (f : CisRun → CisRun) : (s.onCis f).fabric = s.fabric := rfl
@[simp] theorem State.onCis_collect (s : State) (f : CisRun → CisRun) : (s.onCis f).collect = s.collect := rfl
@[simp] theorem State.onCis_update (s : State) (f : CisRun → CisRun) : (s.onCis f).update = s.update := rfl
@[simp] theorem State.onCis_wellhead (s : State) (f : CisRun → CisRun) : (s.onCis f).wellhead = s.wellhead := rfl
@[simp] theorem State.onCis_cistern (s : State) (f : CisRun → CisRun) : (s.onCis f).cistern = s.cistern := rfl
@[simp] theorem State.onCis_fuses (s : State) (f : CisRun → CisRun) : (s.onCis f).fuses = s.fuses := rfl
@[simp] theorem State.onCis_security (s : State) (f : CisRun → CisRun) : (s.onCis f).security = s.security := rfl
@[simp] theorem State.onCis_power (s : State) (f : CisRun → CisRun) : (s.onCis f).power = s.power := rfl
@[simp] theorem State.onCis_link (s : State) (f : CisRun → CisRun) : (s.onCis f).link = s.link := rfl
@[simp] theorem State.onCis_ras (s : State) (f : CisRun → CisRun) : (s.onCis f).ras = s.ras := rfl
@[simp] theorem State.onCis_rasLog (s : State) (f : CisRun → CisRun) : (s.onCis f).rasLog = s.rasLog := rfl
@[simp] theorem State.onCis_rasSeq (s : State) (f : CisRun → CisRun) : (s.onCis f).rasSeq = s.rasSeq := rfl
@[simp] theorem State.onCis_msixOut (s : State) (f : CisRun → CisRun) : (s.onCis f).msixOut = s.msixOut := rfl
@[simp] theorem State.onCis_freeCount (s : State) (f : CisRun → CisRun) : (s.onCis f).freeCount = s.freeCount := rfl
@[simp] theorem State.onCis_rget (s : State) (f : CisRun → CisRun) (g : Fld) (n : Nat) : (s.onCis f).rget g n = s.rget g n := rfl
@[simp] theorem State.onCis_cis (s : State) (f : CisRun → CisRun) : (s.onCis f).cis = f s.cis := rfl

/-! ## addCast -/

@[simp] theorem State.addCast_pending (s : State) (k : CastJob) : (s.addCast k).pending = s.pending := rfl
@[simp] theorem State.addCast_mem (s : State) (k : CastJob) : (s.addCast k).mem = s.mem := rfl
@[simp] theorem State.addCast_poison (s : State) (k : CastJob) : (s.addCast k).poison = s.poison := rfl
@[simp] theorem State.addCast_regs (s : State) (k : CastJob) : (s.addCast k).regs = s.regs := rfl
@[simp] theorem State.addCast_tsq (s : State) (k : CastJob) : (s.addCast k).tsq = s.tsq := rfl
@[simp] theorem State.addCast_hub (s : State) (k : CastJob) : (s.addCast k).hub = s.hub := rfl
@[simp] theorem State.addCast_slots (s : State) (k : CastJob) : (s.addCast k).slots = s.slots := rfl
@[simp] theorem State.addCast_obs (s : State) (k : CastJob) : (s.addCast k).obs = s.obs := rfl
@[simp] theorem State.addCast_tiers (s : State) (k : CastJob) : (s.addCast k).tiers = s.tiers := rfl
@[simp] theorem State.addCast_fabric (s : State) (k : CastJob) : (s.addCast k).fabric = s.fabric := rfl
@[simp] theorem State.addCast_collect (s : State) (k : CastJob) : (s.addCast k).collect = s.collect := rfl
@[simp] theorem State.addCast_wellhead (s : State) (k : CastJob) : (s.addCast k).wellhead = s.wellhead := rfl
@[simp] theorem State.addCast_cistern (s : State) (k : CastJob) : (s.addCast k).cistern = s.cistern := rfl
@[simp] theorem State.addCast_cis (s : State) (k : CastJob) : (s.addCast k).cis = s.cis := rfl
@[simp] theorem State.addCast_fuses (s : State) (k : CastJob) : (s.addCast k).fuses = s.fuses := rfl
@[simp] theorem State.addCast_security (s : State) (k : CastJob) : (s.addCast k).security = s.security := rfl
@[simp] theorem State.addCast_power (s : State) (k : CastJob) : (s.addCast k).power = s.power := rfl
@[simp] theorem State.addCast_link (s : State) (k : CastJob) : (s.addCast k).link = s.link := rfl
@[simp] theorem State.addCast_ras (s : State) (k : CastJob) : (s.addCast k).ras = s.ras := rfl
@[simp] theorem State.addCast_rasLog (s : State) (k : CastJob) : (s.addCast k).rasLog = s.rasLog := rfl
@[simp] theorem State.addCast_rasSeq (s : State) (k : CastJob) : (s.addCast k).rasSeq = s.rasSeq := rfl
@[simp] theorem State.addCast_msixOut (s : State) (k : CastJob) : (s.addCast k).msixOut = s.msixOut := rfl
@[simp] theorem State.addCast_freeCount (s : State) (k : CastJob) : (s.addCast k).freeCount = s.freeCount := rfl
@[simp] theorem State.addCast_rget (s : State) (k : CastJob) (g : Fld) (n : Nat) : (s.addCast k).rget g n = s.rget g n := rfl
@[simp] theorem State.addCast_update (s : State) (k : CastJob) : (s.addCast k).update = { s.update with casts := s.update.casts ++ [k] } := rfl

/-! ## markStarted -/

@[simp] theorem State.markStarted_pending (s : State) (id : Nat) : (s.markStarted id).pending = s.pending := rfl
@[simp] theorem State.markStarted_mem (s : State) (id : Nat) : (s.markStarted id).mem = s.mem := rfl
@[simp] theorem State.markStarted_poison (s : State) (id : Nat) : (s.markStarted id).poison = s.poison := rfl
@[simp] theorem State.markStarted_regs (s : State) (id : Nat) : (s.markStarted id).regs = s.regs := rfl
@[simp] theorem State.markStarted_hub (s : State) (id : Nat) : (s.markStarted id).hub = s.hub := rfl
@[simp] theorem State.markStarted_slots (s : State) (id : Nat) : (s.markStarted id).slots = s.slots := rfl
@[simp] theorem State.markStarted_obs (s : State) (id : Nat) : (s.markStarted id).obs = s.obs := rfl
@[simp] theorem State.markStarted_tiers (s : State) (id : Nat) : (s.markStarted id).tiers = s.tiers := rfl
@[simp] theorem State.markStarted_fabric (s : State) (id : Nat) : (s.markStarted id).fabric = s.fabric := rfl
@[simp] theorem State.markStarted_collect (s : State) (id : Nat) : (s.markStarted id).collect = s.collect := rfl
@[simp] theorem State.markStarted_update (s : State) (id : Nat) : (s.markStarted id).update = s.update := rfl
@[simp] theorem State.markStarted_wellhead (s : State) (id : Nat) : (s.markStarted id).wellhead = s.wellhead := rfl
@[simp] theorem State.markStarted_cistern (s : State) (id : Nat) : (s.markStarted id).cistern = s.cistern := rfl
@[simp] theorem State.markStarted_cis (s : State) (id : Nat) : (s.markStarted id).cis = s.cis := rfl
@[simp] theorem State.markStarted_fuses (s : State) (id : Nat) : (s.markStarted id).fuses = s.fuses := rfl
@[simp] theorem State.markStarted_security (s : State) (id : Nat) : (s.markStarted id).security = s.security := rfl
@[simp] theorem State.markStarted_power (s : State) (id : Nat) : (s.markStarted id).power = s.power := rfl
@[simp] theorem State.markStarted_link (s : State) (id : Nat) : (s.markStarted id).link = s.link := rfl
@[simp] theorem State.markStarted_ras (s : State) (id : Nat) : (s.markStarted id).ras = s.ras := rfl
@[simp] theorem State.markStarted_rasLog (s : State) (id : Nat) : (s.markStarted id).rasLog = s.rasLog := rfl
@[simp] theorem State.markStarted_rasSeq (s : State) (id : Nat) : (s.markStarted id).rasSeq = s.rasSeq := rfl
@[simp] theorem State.markStarted_msixOut (s : State) (id : Nat) : (s.markStarted id).msixOut = s.msixOut := rfl
@[simp] theorem State.markStarted_freeCount (s : State) (id : Nat) : (s.markStarted id).freeCount = s.freeCount := rfl
@[simp] theorem State.markStarted_rget (s : State) (id : Nat) (g : Fld) (n : Nat) : (s.markStarted id).rget g n = s.rget g n := rfl

/-! ## waitOn -/

@[simp] theorem State.waitOn_pending (s : State) (k : Kind) (i : Nat) (cmd : Option Nat) (enable : Bool) : (s.waitOn k i cmd enable).pending = s.pending := rfl
@[simp] theorem State.waitOn_mem (s : State) (k : Kind) (i : Nat) (cmd : Option Nat) (enable : Bool) : (s.waitOn k i cmd enable).mem = s.mem := rfl
@[simp] theorem State.waitOn_poison (s : State) (k : Kind) (i : Nat) (cmd : Option Nat) (enable : Bool) : (s.waitOn k i cmd enable).poison = s.poison := rfl
@[simp] theorem State.waitOn_regs (s : State) (k : Kind) (i : Nat) (cmd : Option Nat) (enable : Bool) : (s.waitOn k i cmd enable).regs = s.regs := rfl
@[simp] theorem State.waitOn_tsq (s : State) (k : Kind) (i : Nat) (cmd : Option Nat) (enable : Bool) : (s.waitOn k i cmd enable).tsq = s.tsq := rfl
@[simp] theorem State.waitOn_slots (s : State) (k : Kind) (i : Nat) (cmd : Option Nat) (enable : Bool) : (s.waitOn k i cmd enable).slots = s.slots := rfl
@[simp] theorem State.waitOn_obs (s : State) (k : Kind) (i : Nat) (cmd : Option Nat) (enable : Bool) : (s.waitOn k i cmd enable).obs = s.obs := rfl
@[simp] theorem State.waitOn_tiers (s : State) (k : Kind) (i : Nat) (cmd : Option Nat) (enable : Bool) : (s.waitOn k i cmd enable).tiers = s.tiers := rfl
@[simp] theorem State.waitOn_fabric (s : State) (k : Kind) (i : Nat) (cmd : Option Nat) (enable : Bool) : (s.waitOn k i cmd enable).fabric = s.fabric := rfl
@[simp] theorem State.waitOn_collect (s : State) (k : Kind) (i : Nat) (cmd : Option Nat) (enable : Bool) : (s.waitOn k i cmd enable).collect = s.collect := rfl
@[simp] theorem State.waitOn_update (s : State) (k : Kind) (i : Nat) (cmd : Option Nat) (enable : Bool) : (s.waitOn k i cmd enable).update = s.update := rfl
@[simp] theorem State.waitOn_wellhead (s : State) (k : Kind) (i : Nat) (cmd : Option Nat) (enable : Bool) : (s.waitOn k i cmd enable).wellhead = s.wellhead := rfl
@[simp] theorem State.waitOn_cistern (s : State) (k : Kind) (i : Nat) (cmd : Option Nat) (enable : Bool) : (s.waitOn k i cmd enable).cistern = s.cistern := rfl
@[simp] theorem State.waitOn_cis (s : State) (k : Kind) (i : Nat) (cmd : Option Nat) (enable : Bool) : (s.waitOn k i cmd enable).cis = s.cis := rfl
@[simp] theorem State.waitOn_fuses (s : State) (k : Kind) (i : Nat) (cmd : Option Nat) (enable : Bool) : (s.waitOn k i cmd enable).fuses = s.fuses := rfl
@[simp] theorem State.waitOn_security (s : State) (k : Kind) (i : Nat) (cmd : Option Nat) (enable : Bool) : (s.waitOn k i cmd enable).security = s.security := rfl
@[simp] theorem State.waitOn_power (s : State) (k : Kind) (i : Nat) (cmd : Option Nat) (enable : Bool) : (s.waitOn k i cmd enable).power = s.power := rfl
@[simp] theorem State.waitOn_link (s : State) (k : Kind) (i : Nat) (cmd : Option Nat) (enable : Bool) : (s.waitOn k i cmd enable).link = s.link := rfl
@[simp] theorem State.waitOn_ras (s : State) (k : Kind) (i : Nat) (cmd : Option Nat) (enable : Bool) : (s.waitOn k i cmd enable).ras = s.ras := rfl
@[simp] theorem State.waitOn_rasLog (s : State) (k : Kind) (i : Nat) (cmd : Option Nat) (enable : Bool) : (s.waitOn k i cmd enable).rasLog = s.rasLog := rfl
@[simp] theorem State.waitOn_rasSeq (s : State) (k : Kind) (i : Nat) (cmd : Option Nat) (enable : Bool) : (s.waitOn k i cmd enable).rasSeq = s.rasSeq := rfl
@[simp] theorem State.waitOn_msixOut (s : State) (k : Kind) (i : Nat) (cmd : Option Nat) (enable : Bool) : (s.waitOn k i cmd enable).msixOut = s.msixOut := rfl
@[simp] theorem State.waitOn_freeCount (s : State) (k : Kind) (i : Nat) (cmd : Option Nat) (enable : Bool) : (s.waitOn k i cmd enable).freeCount = s.freeCount := rfl
@[simp] theorem State.waitOn_rget (s : State) (k : Kind) (i : Nat) (cmd : Option Nat) (enable : Bool) (g : Fld) (n : Nat) : (s.waitOn k i cmd enable).rget g n = s.rget g n := rfl
@[simp] theorem State.waitOn_hub (s : State) (k : Kind) (i : Nat) (cmd : Option Nat) (enable : Bool) : (s.waitOn k i cmd enable).hub = { s.hub with waiters := s.hub.waiters ++ [⟨k, i, cmd, enable⟩] } := rfl

/-! ## onPower -/

@[simp] theorem State.onPower_pending (s : State) (f : Power → Power) : (s.onPower f).pending = s.pending := rfl
@[simp] theorem State.onPower_mem (s : State) (f : Power → Power) : (s.onPower f).mem = s.mem := rfl
@[simp] theorem State.onPower_poison (s : State) (f : Power → Power) : (s.onPower f).poison = s.poison := rfl
@[simp] theorem State.onPower_regs (s : State) (f : Power → Power) : (s.onPower f).regs = s.regs := rfl
@[simp] theorem State.onPower_tsq (s : State) (f : Power → Power) : (s.onPower f).tsq = s.tsq := rfl
@[simp] theorem State.onPower_hub (s : State) (f : Power → Power) : (s.onPower f).hub = s.hub := rfl
@[simp] theorem State.onPower_slots (s : State) (f : Power → Power) : (s.onPower f).slots = s.slots := rfl
@[simp] theorem State.onPower_obs (s : State) (f : Power → Power) : (s.onPower f).obs = s.obs := rfl
@[simp] theorem State.onPower_tiers (s : State) (f : Power → Power) : (s.onPower f).tiers = s.tiers := rfl
@[simp] theorem State.onPower_fabric (s : State) (f : Power → Power) : (s.onPower f).fabric = s.fabric := rfl
@[simp] theorem State.onPower_collect (s : State) (f : Power → Power) : (s.onPower f).collect = s.collect := rfl
@[simp] theorem State.onPower_update (s : State) (f : Power → Power) : (s.onPower f).update = s.update := rfl
@[simp] theorem State.onPower_wellhead (s : State) (f : Power → Power) : (s.onPower f).wellhead = s.wellhead := rfl
@[simp] theorem State.onPower_cistern (s : State) (f : Power → Power) : (s.onPower f).cistern = s.cistern := rfl
@[simp] theorem State.onPower_cis (s : State) (f : Power → Power) : (s.onPower f).cis = s.cis := rfl
@[simp] theorem State.onPower_fuses (s : State) (f : Power → Power) : (s.onPower f).fuses = s.fuses := rfl
@[simp] theorem State.onPower_security (s : State) (f : Power → Power) : (s.onPower f).security = s.security := rfl
@[simp] theorem State.onPower_link (s : State) (f : Power → Power) : (s.onPower f).link = s.link := rfl
@[simp] theorem State.onPower_ras (s : State) (f : Power → Power) : (s.onPower f).ras = s.ras := rfl
@[simp] theorem State.onPower_rasLog (s : State) (f : Power → Power) : (s.onPower f).rasLog = s.rasLog := rfl
@[simp] theorem State.onPower_rasSeq (s : State) (f : Power → Power) : (s.onPower f).rasSeq = s.rasSeq := rfl
@[simp] theorem State.onPower_msixOut (s : State) (f : Power → Power) : (s.onPower f).msixOut = s.msixOut := rfl
@[simp] theorem State.onPower_freeCount (s : State) (f : Power → Power) : (s.onPower f).freeCount = s.freeCount := rfl
@[simp] theorem State.onPower_rget (s : State) (f : Power → Power) (g : Fld) (n : Nat) : (s.onPower f).rget g n = s.rget g n := rfl
@[simp] theorem State.onPower_power (s : State) (f : Power → Power) : (s.onPower f).power = f s.power := rfl

/-! ## onSec -/

@[simp] theorem State.onSec_pending (s : State) (f : Security → Security) : (s.onSec f).pending = s.pending := rfl
@[simp] theorem State.onSec_mem (s : State) (f : Security → Security) : (s.onSec f).mem = s.mem := rfl
@[simp] theorem State.onSec_poison (s : State) (f : Security → Security) : (s.onSec f).poison = s.poison := rfl
@[simp] theorem State.onSec_regs (s : State) (f : Security → Security) : (s.onSec f).regs = s.regs := rfl
@[simp] theorem State.onSec_tsq (s : State) (f : Security → Security) : (s.onSec f).tsq = s.tsq := rfl
@[simp] theorem State.onSec_hub (s : State) (f : Security → Security) : (s.onSec f).hub = s.hub := rfl
@[simp] theorem State.onSec_slots (s : State) (f : Security → Security) : (s.onSec f).slots = s.slots := rfl
@[simp] theorem State.onSec_obs (s : State) (f : Security → Security) : (s.onSec f).obs = s.obs := rfl
@[simp] theorem State.onSec_tiers (s : State) (f : Security → Security) : (s.onSec f).tiers = s.tiers := rfl
@[simp] theorem State.onSec_fabric (s : State) (f : Security → Security) : (s.onSec f).fabric = s.fabric := rfl
@[simp] theorem State.onSec_collect (s : State) (f : Security → Security) : (s.onSec f).collect = s.collect := rfl
@[simp] theorem State.onSec_update (s : State) (f : Security → Security) : (s.onSec f).update = s.update := rfl
@[simp] theorem State.onSec_wellhead (s : State) (f : Security → Security) : (s.onSec f).wellhead = s.wellhead := rfl
@[simp] theorem State.onSec_cistern (s : State) (f : Security → Security) : (s.onSec f).cistern = s.cistern := rfl
@[simp] theorem State.onSec_cis (s : State) (f : Security → Security) : (s.onSec f).cis = s.cis := rfl
@[simp] theorem State.onSec_fuses (s : State) (f : Security → Security) : (s.onSec f).fuses = s.fuses := rfl
@[simp] theorem State.onSec_power (s : State) (f : Security → Security) : (s.onSec f).power = s.power := rfl
@[simp] theorem State.onSec_link (s : State) (f : Security → Security) : (s.onSec f).link = s.link := rfl
@[simp] theorem State.onSec_ras (s : State) (f : Security → Security) : (s.onSec f).ras = s.ras := rfl
@[simp] theorem State.onSec_rasLog (s : State) (f : Security → Security) : (s.onSec f).rasLog = s.rasLog := rfl
@[simp] theorem State.onSec_rasSeq (s : State) (f : Security → Security) : (s.onSec f).rasSeq = s.rasSeq := rfl
@[simp] theorem State.onSec_msixOut (s : State) (f : Security → Security) : (s.onSec f).msixOut = s.msixOut := rfl
@[simp] theorem State.onSec_freeCount (s : State) (f : Security → Security) : (s.onSec f).freeCount = s.freeCount := rfl
@[simp] theorem State.onSec_rget (s : State) (f : Security → Security) (g : Fld) (n : Nat) : (s.onSec f).rget g n = s.rget g n := rfl
@[simp] theorem State.onSec_security (s : State) (f : Security → Security) : (s.onSec f).security = f s.security := rfl

/-! ## onLink -/

@[simp] theorem State.onLink_pending (s : State) (f : HostLink → HostLink) : (s.onLink f).pending = s.pending := rfl
@[simp] theorem State.onLink_mem (s : State) (f : HostLink → HostLink) : (s.onLink f).mem = s.mem := rfl
@[simp] theorem State.onLink_poison (s : State) (f : HostLink → HostLink) : (s.onLink f).poison = s.poison := rfl
@[simp] theorem State.onLink_regs (s : State) (f : HostLink → HostLink) : (s.onLink f).regs = s.regs := rfl
@[simp] theorem State.onLink_tsq (s : State) (f : HostLink → HostLink) : (s.onLink f).tsq = s.tsq := rfl
@[simp] theorem State.onLink_hub (s : State) (f : HostLink → HostLink) : (s.onLink f).hub = s.hub := rfl
@[simp] theorem State.onLink_slots (s : State) (f : HostLink → HostLink) : (s.onLink f).slots = s.slots := rfl
@[simp] theorem State.onLink_obs (s : State) (f : HostLink → HostLink) : (s.onLink f).obs = s.obs := rfl
@[simp] theorem State.onLink_tiers (s : State) (f : HostLink → HostLink) : (s.onLink f).tiers = s.tiers := rfl
@[simp] theorem State.onLink_fabric (s : State) (f : HostLink → HostLink) : (s.onLink f).fabric = s.fabric := rfl
@[simp] theorem State.onLink_collect (s : State) (f : HostLink → HostLink) : (s.onLink f).collect = s.collect := rfl
@[simp] theorem State.onLink_update (s : State) (f : HostLink → HostLink) : (s.onLink f).update = s.update := rfl
@[simp] theorem State.onLink_wellhead (s : State) (f : HostLink → HostLink) : (s.onLink f).wellhead = s.wellhead := rfl
@[simp] theorem State.onLink_cistern (s : State) (f : HostLink → HostLink) : (s.onLink f).cistern = s.cistern := rfl
@[simp] theorem State.onLink_cis (s : State) (f : HostLink → HostLink) : (s.onLink f).cis = s.cis := rfl
@[simp] theorem State.onLink_fuses (s : State) (f : HostLink → HostLink) : (s.onLink f).fuses = s.fuses := rfl
@[simp] theorem State.onLink_security (s : State) (f : HostLink → HostLink) : (s.onLink f).security = s.security := rfl
@[simp] theorem State.onLink_power (s : State) (f : HostLink → HostLink) : (s.onLink f).power = s.power := rfl
@[simp] theorem State.onLink_ras (s : State) (f : HostLink → HostLink) : (s.onLink f).ras = s.ras := rfl
@[simp] theorem State.onLink_rasLog (s : State) (f : HostLink → HostLink) : (s.onLink f).rasLog = s.rasLog := rfl
@[simp] theorem State.onLink_rasSeq (s : State) (f : HostLink → HostLink) : (s.onLink f).rasSeq = s.rasSeq := rfl
@[simp] theorem State.onLink_msixOut (s : State) (f : HostLink → HostLink) : (s.onLink f).msixOut = s.msixOut := rfl
@[simp] theorem State.onLink_freeCount (s : State) (f : HostLink → HostLink) : (s.onLink f).freeCount = s.freeCount := rfl
@[simp] theorem State.onLink_rget (s : State) (f : HostLink → HostLink) (g : Fld) (n : Nat) : (s.onLink f).rget g n = s.rget g n := rfl
@[simp] theorem State.onLink_link (s : State) (f : HostLink → HostLink) : (s.onLink f).link = f s.link := rfl

/-! ## stopSamples -/

@[simp] theorem State.stopSamples_pending (s : State) (lo cnt : Nat) : (s.stopSamples lo cnt).pending = s.pending := rfl
@[simp] theorem State.stopSamples_mem (s : State) (lo cnt : Nat) : (s.stopSamples lo cnt).mem = s.mem := rfl
@[simp] theorem State.stopSamples_poison (s : State) (lo cnt : Nat) : (s.stopSamples lo cnt).poison = s.poison := rfl
@[simp] theorem State.stopSamples_regs (s : State) (lo cnt : Nat) : (s.stopSamples lo cnt).regs = s.regs := rfl
@[simp] theorem State.stopSamples_tsq (s : State) (lo cnt : Nat) : (s.stopSamples lo cnt).tsq = s.tsq := rfl
@[simp] theorem State.stopSamples_hub (s : State) (lo cnt : Nat) : (s.stopSamples lo cnt).hub = s.hub := rfl
@[simp] theorem State.stopSamples_slots (s : State) (lo cnt : Nat) : (s.stopSamples lo cnt).slots = s.slots := rfl
@[simp] theorem State.stopSamples_tiers (s : State) (lo cnt : Nat) : (s.stopSamples lo cnt).tiers = s.tiers := rfl
@[simp] theorem State.stopSamples_fabric (s : State) (lo cnt : Nat) : (s.stopSamples lo cnt).fabric = s.fabric := rfl
@[simp] theorem State.stopSamples_collect (s : State) (lo cnt : Nat) : (s.stopSamples lo cnt).collect = s.collect := rfl
@[simp] theorem State.stopSamples_update (s : State) (lo cnt : Nat) : (s.stopSamples lo cnt).update = s.update := rfl
@[simp] theorem State.stopSamples_wellhead (s : State) (lo cnt : Nat) : (s.stopSamples lo cnt).wellhead = s.wellhead := rfl
@[simp] theorem State.stopSamples_cistern (s : State) (lo cnt : Nat) : (s.stopSamples lo cnt).cistern = s.cistern := rfl
@[simp] theorem State.stopSamples_cis (s : State) (lo cnt : Nat) : (s.stopSamples lo cnt).cis = s.cis := rfl
@[simp] theorem State.stopSamples_fuses (s : State) (lo cnt : Nat) : (s.stopSamples lo cnt).fuses = s.fuses := rfl
@[simp] theorem State.stopSamples_security (s : State) (lo cnt : Nat) : (s.stopSamples lo cnt).security = s.security := rfl
@[simp] theorem State.stopSamples_power (s : State) (lo cnt : Nat) : (s.stopSamples lo cnt).power = s.power := rfl
@[simp] theorem State.stopSamples_link (s : State) (lo cnt : Nat) : (s.stopSamples lo cnt).link = s.link := rfl
@[simp] theorem State.stopSamples_ras (s : State) (lo cnt : Nat) : (s.stopSamples lo cnt).ras = s.ras := rfl
@[simp] theorem State.stopSamples_rasLog (s : State) (lo cnt : Nat) : (s.stopSamples lo cnt).rasLog = s.rasLog := rfl
@[simp] theorem State.stopSamples_rasSeq (s : State) (lo cnt : Nat) : (s.stopSamples lo cnt).rasSeq = s.rasSeq := rfl
@[simp] theorem State.stopSamples_msixOut (s : State) (lo cnt : Nat) : (s.stopSamples lo cnt).msixOut = s.msixOut := rfl
@[simp] theorem State.stopSamples_freeCount (s : State) (lo cnt : Nat) : (s.stopSamples lo cnt).freeCount = s.freeCount := rfl
@[simp] theorem State.stopSamples_rget (s : State) (lo cnt : Nat) (g : Fld) (n : Nat) : (s.stopSamples lo cnt).rget g n = s.rget g n := rfl

end Sys2Proof.Machine
end

