-- ==== Sys2Proof/Laws/Ops.lean ====
section
/-!
SUPPORT. What the shared operations do: registers read after writes, and the frame of each operation that a thread's
instruction goes through.
-/
namespace Sys2Proof.Machine

/-! ## Registers -/

theorem State.rget_rput_self (s : State) (f : Fld) (i v : Nat) : (s.rput f i v).rget f i = v % 2 ^ f.len := by
  simp [State.rget]

/-- A field with another table, entry or place reads what it read. -/
theorem State.rget_rput_ne {f g : Fld} {i j : Nat} (h : (⟨g.tab, j, g.lo⟩ : RegKey) ≠ ⟨f.tab, i, f.lo⟩) (s : State) (v : Nat) :
    (s.rput f i v).rget g j = s.rget g j := by
  simp [State.rget, lookD_put_ne h]

theorem State.rget_of_look {s u : State} {f : Fld} {i : Nat}
    (h : look ⟨f.tab, i, f.lo⟩ u.regs = look ⟨f.tab, i, f.lo⟩ s.regs) : u.rget f i = s.rget f i := by
  simp [State.rget, lookD, h]

/-! ## Frames compose -/

theorem Comp.same_refl (c : Comp) (s : State) : c.same s s := by cases c <;> simp [Comp.same]

theorem Comp.same_trans {c : Comp} {s u v : State} (h : c.same s u) (g : c.same u v) : c.same s v := by
  cases c <;> simp only [Comp.same] at * <;> first | (intro a; rw [g a, h a]) | simp_all

theorem State.Only.refl (cs : List Comp) (rs : List Reg) (s : State) : State.Only cs rs s s :=
  ⟨rfl, fun c _ => c.same_refl s, fun _ _ => rfl⟩

theorem State.Only.trans {cs : List Comp} {rs : List Reg} {s u v : State} (h : State.Only cs rs s u) (g : State.Only cs rs u v) :
    State.Only cs rs s v :=
  ⟨g.1.trans h.1, fun c hc => Comp.same_trans (h.2.1 c hc) (g.2.1 c hc), fun k hk => (g.2.2 k hk).trans (h.2.2 k hk)⟩

theorem State.Only.mono {cs cs' : List Comp} {rs rs' : List Reg} {s u : State} (h : State.Only cs rs s u)
    (hc : ∀ c ∈ cs, c ∈ cs') (hr : ∀ r ∈ rs, r ∈ rs') : State.Only cs' rs' s u :=
  ⟨h.1, fun c h' => h.2.1 c fun m => h' (hc c m), fun k hk => h.2.2 k fun r m => hk r (hr r m)⟩

theorem State.Only.rget {cs : List Comp} {rs : List Reg} {s u : State} (h : State.Only cs rs s u) {f : Fld} {i : Nat}
    (hk : ∀ r ∈ rs, ¬ r.has ⟨f.tab, i, f.lo⟩) : u.rget f i = s.rget f i := State.rget_of_look (h.2.2 _ hk)

/-! ## The frame of each operation -/

theorem State.rput_only (s : State) (f : Fld) (i v : Nat) : State.Only [] [.one f i] s (s.rput f i v) := by
  refine ⟨rfl, fun c _ => ?_, fun k hk => ?_⟩
  · cases c <;> simp [Comp.same]
  · have : k ≠ ⟨f.tab, i, f.lo⟩ := by simpa [Reg.has] using hk
    simp [look_put_ne this]

theorem State.rput_only_col (s : State) (f : Fld) (i v : Nat) : State.Only [] [.col f] s (s.rput f i v) := by
  refine ⟨rfl, fun c _ => ?_, fun k hk => ?_⟩
  · cases c <;> simp [Comp.same]
  · have : k ≠ ⟨f.tab, i, f.lo⟩ := by rintro rfl; simp [Reg.has] at hk
    simp [look_put_ne this]

theorem State.setThread_only (s : State) (t : ThreadRef) (th : Thread) : State.Only [.threads] [] s (s.setThread t th) := by
  refine ⟨rfl, fun c hc => ?_, fun _ _ => rfl⟩
  cases c <;> simp_all [Comp.same]

theorem State.countEvent_only (s : State) (code lo cnt : Nat) (ctx : Option Half) (opid : Half) (n : Nat) :
    State.Only [.sampling] [] s (s.countEvent code lo cnt ctx opid n) := by
  unfold State.countEvent
  split
  · exact .refl _ _ _
  · refine ⟨rfl, fun c hc => ?_, fun _ _ => rfl⟩
    cases c <;> simp_all [Comp.same]

theorem State.snoopOut_only (s : State) (a n : Nat) : State.Only [.snoop] [] s (s.snoopOut a n) := by
  unfold State.snoopOut
  split
  · exact .refl _ _ _
  · refine ⟨rfl, fun c hc => ?_, fun _ _ => rfl⟩
    cases c <;> simp_all [Comp.same]

/-- Bytes read move the read counters and the sampling counts only. -/
theorem State.countBytes_read_only (s : State) (a n : Nat) :
    State.Only [.sampling] [.col DieCnt.HBM_READ_BYTES, .one ModuleCnt.LPDDR_READ_BYTES 0, .one ModuleCnt.CXL_RX_BYTES 0] s
      (s.countBytes a n false) := by
  unfold State.countBytes
  split
  · exact .trans ((State.rput_only_col _ _ _ _).mono (by simp) (by simp)) ((State.countEvent_only _ _ _ _ _ _ _).mono (by simp) (by simp))
  · exact .trans ((State.rput_only _ _ _ _).mono (by simp) (by simp)) ((State.countEvent_only _ _ _ _ _ _ _).mono (by simp) (by simp))
  · exact (State.rput_only _ _ _ _).mono (by simp) (by simp)
  · exact .refl _ _ _

theorem State.countBytes_write_only (s : State) (a n : Nat) :
    State.Only [.sampling] writeCounters s (s.countBytes a n true) := by
  unfold State.countBytes writeCounters
  split
  · exact .trans ((State.rput_only_col _ _ _ _).mono (by simp) (by simp)) ((State.countEvent_only _ _ _ _ _ _ _).mono (by simp) (by simp))
  · exact .trans ((State.rput_only _ _ _ _).mono (by simp) (by simp)) ((State.countEvent_only _ _ _ _ _ _ _).mono (by simp) (by simp))
  · exact (State.rput_only _ _ _ _).mono (by simp) (by simp)
  · exact .refl _ _ _

/-- A read of device memory. -/
theorem State.touch_only (s : State) (a n : Nat) :
    State.Only [.sampling, .snoop] [.col DieCnt.HBM_READ_BYTES, .one ModuleCnt.LPDDR_READ_BYTES 0, .one ModuleCnt.CXL_RX_BYTES 0] s
      (s.touch a n) :=
  .trans ((State.snoopOut_only _ _ _).mono (by simp) (by simp)) ((State.countBytes_read_only _ _ _).mono (by simp) (by simp))

theorem State.countTile_only (s : State) (f : Fld) (code t : Nat) (ctx : Option Half) (opid : Half) (n : Nat) :
    State.Only [.sampling] [.one f t] s (s.countTile f code t ctx opid n) :=
  .trans ((State.rput_only _ _ _ _).mono (by simp) (by simp)) ((State.countEvent_only _ _ _ _ _ _ _).mono (by simp) (by simp))

/-! ## The slots of threads -/

@[simp] theorem State.thread?_setThread_self (s : State) (t : ThreadRef) (th : Thread) : (s.setThread t th).thread? t = some th := by
  simp [State.thread?]

theorem State.thread?_setThread_ne {t t' : ThreadRef} (h : t' ≠ t) (s : State) (th : Thread) :
    (s.setThread t th).thread? t' = s.thread? t' := by
  simp [State.thread?, look_put_ne h]

theorem State.Only.thread? {cs : List Comp} {rs : List Reg} {s u : State} (h : State.Only cs rs s u) (hc : Comp.threads ∉ cs)
    (t : ThreadRef) : u.thread? t = s.thread? t := by
  have := h.2.1 _ hc
  simp only [Comp.same] at this
  simp [State.thread?, this]

/-! ## Issue -/

/-! A slot that issues passes the turn of its tile (02, R47) and moves nothing else. -/

theorem State.passTurn_only (s : State) (t : ThreadRef) : State.Only [.turn] [] s (s.passTurn t) := by
  refine ⟨rfl, fun c hc => ?_, fun _ _ => rfl⟩
  cases c <;> simp_all [Comp.same, State.passTurn]

@[simp] theorem State.passTurn_rangeOpen (s : State) (t : ThreadRef) (tile a n : Nat) :
    (s.passTurn t).rangeOpen tile a n = s.rangeOpen tile a n := rfl

@[simp] theorem State.passTurn_poisoned (s : State) (t : ThreadRef) (a n : Nat) :
    (s.passTurn t).poisoned a n = s.poisoned a n := rfl

/-- The state in which a thread's instruction acts, once its turn is passed and its fetch is counted. -/
abbrev State.fetched (s : State) (t : ThreadRef) (th : Thread) (size : Nat) : State :=
  ((s.passTurn t).touch th.pc.toNat size).countTile TileCnt.INSNS 0x05 t.tile.toNat (some th.ctx) th.opid 1

theorem State.fetched_only (s : State) (t : ThreadRef) (th : Thread) (size : Nat) :
    State.Only [.turn, .sampling, .snoop] (readCounters t) s (s.fetched t th size) :=
  .trans (.trans ((State.passTurn_only _ _).mono (by simp) (by simp)) ((State.touch_only _ _ _).mono (by simp) (by simp [readCounters])))
    ((State.countTile_only _ _ _ _ _ _ _).mono (by simp) (by simp [readCounters]))

/-- A thread that issues acts on the state after its fetch. -/
theorem State.issue_of_issues {s : State} {t : ThreadRef} {th : Thread} {size : Nat} {pe pn : Bool} {pi : BitVec 3} {level : Nat}
    (h : s.Issues t th size pe pn pi level) (body : Thread → State → State) :
    s.issue t size pe pn pi true level body = body th (s.fetched t th size) := by
  obtain ⟨h1, h2, h3, ht, h4, h5, h6, h7, h8⟩ := h
  have hl : (s.fetched t th size).levelOf th.ctxIx = s.levelOf th.ctxIx :=
    (s.fetched_only t th size).rget (by simp [readCounters, Reg.has, Ctx.PRIV, TileCnt.INSNS, DieCnt.HBM_READ_BYTES,
      ModuleCnt.LPDDR_READ_BYTES, ModuleCnt.CXL_RX_BYTES])
  have hp : (pe && !(th.pred pi ^^ pn)) = false := by
    cases pe with
    | false => rfl
    | true => simp [h7 rfl]
  unfold State.issue
  simp only [h1, Thread.canIssue, h2, h3, ht, fetchFault, State.passTurn_rangeOpen, State.passTurn_poisoned, h4, h5, h6, hp]
  simp
  intro hlt
  rw [hl] at hlt
  omega

/-- What a thread's instruction leaves in its slot, from the frame of its own effect. -/
theorem State.Leaves.of {s u : State} {c : Instr} {t : ThreadRef} {th th' : Thread} {size : Nat}
    (h : exec c s = .next u) (ht : u.thread? t = some th') (ho : (s.fetched t th size).othersKeep t u)
    (hu : State.Only [.threads, .turn, .sampling, .snoop] (readCounters t) (s.fetched t th size) u) : s.Leaves c t th' := by
  have hf := s.fetched_only t th size
  refine ⟨u, h, ht, fun t' ne => ?_, (hf.mono (by simp) (by simp)).trans hu⟩
  rw [ho t' ne, hf.thread? (by simp)]

/-- An instruction that only rewrites its thread. -/
theorem State.Leaves.of_setThread {s : State} {c : Instr} {t : ThreadRef} {th th' : Thread} {size : Nat}
    (h : exec c s = .next ((s.fetched t th size).setThread t th')) : s.Leaves c t th' :=
  .of h (by simp) (fun _ ne => State.thread?_setThread_ne ne _ _) ((State.setThread_only _ _ _).mono (by simp) (by simp))

/-- A scalar instruction whose effect only rewrites its thread. -/
theorem State.Leaves.of_scalar {s : State} {t : ThreadRef} {th th' : Thread} {f : FormS} {c : Instr} {d : Bool} {l : Nat}
    {body : Thread → State → State} (hi : s.Issues t th 8 f.pe f.pn f.pi l) (hc : exec c s = scalar t f d l body s) (hd : d = true)
    (hb : body th (s.fetched t th 8) = (s.fetched t th 8).setThread t th') : s.Leaves c t th' := by
  apply State.Leaves.of_setThread (size := 8)
  rw [hc, scalar, hd, State.issue_of_issues hi, hb]

/-- An instruction whose predicate test fails only goes on. -/
theorem State.issue_skip {s : State} {t : ThreadRef} {th : Thread} {size : Nat} {pe pn : Bool} {pi : BitVec 3} {level : Nat}
    (h : s.Issues t th size false pn pi 0) (hp : pe = true) (hq : (th.pred pi ^^ pn) = false) (body : Thread → State → State) :
    s.issue t size pe pn pi true level body = (s.fetched t th size).setThread t (th.advance size) := by
  obtain ⟨h1, h2, h3, ht, h4, h5, h6, h7, h8⟩ := h
  unfold State.issue
  simp only [h1, Thread.canIssue, h2, h3, ht, fetchFault, State.passTurn_rangeOpen, State.passTurn_poisoned, h4, h5, h6, hp, hq]
  simp

/-! ## What a fetch leaves alone -/

/-- A register that is no counter of fetches. -/
theorem State.fetched_rget {s : State} {t : ThreadRef} {th : Thread} {n : Nat} {f : Fld} {i : Nat}
    (h : f.tab ≠ .tileCnt ∧ f.tab ≠ .dieCnt ∧ f.tab ≠ .moduleCnt) : (s.fetched t th n).rget f i = s.rget f i := by
  apply (s.fetched_only t th n).rget
  intro r hr
  fin_cases hr <;> simp only [Reg.has] <;> rintro e
  · exact h.1 (congrArg RegKey.tab e)
  · exact h.2.1 e.1
  · exact h.2.2 (congrArg RegKey.tab e)
  · exact h.2.2 (congrArg RegKey.tab e)

theorem State.fetched_level (s : State) (t : ThreadRef) (th : Thread) (c n : Nat) :
    (s.fetched t th n).levelOf c = s.levelOf c := State.fetched_rget (by decide)

/-- Every piece but the snoop filter and the sampling counts is as before. -/
theorem State.touch_mem (s : State) (a n : Nat) : (s.touch a n).mem = s.mem := by
  simp only [State.touch, State.load, State.countBytes, State.snoopOut]
  split <;> split <;> simp [State.countEvent, State.rwrap] <;> split <;> rfl

theorem State.countTile_mem (s : State) (f : Fld) (code t : Nat) (ctx : Option Half) (opid : Half) (n : Nat) :
    (s.countTile f code t ctx opid n).mem = s.mem := by
  simp only [State.countTile, State.countEvent, State.rwrap]
  split <;> rfl

theorem State.fetched_mem (s : State) (t : ThreadRef) (th : Thread) (n : Nat) : (s.fetched t th n).mem = s.mem := by
  rw [State.fetched, State.countTile_mem, State.touch_mem]
  rfl

theorem State.fetched_poison (s : State) (t : ThreadRef) (th : Thread) (n : Nat) : (s.fetched t th n).poison = s.poison :=
  (s.fetched_only t th n).2.1 .poison (by simp)

theorem State.fetched_failed (s : State) (t : ThreadRef) (th : Thread) (n : Nat) :
    (s.fetched t th n).tiers.failed = s.tiers.failed := ((s.fetched_only t th n).2.1 .memUnits (by simp)).1

theorem State.fetched_peek (s : State) (t : ThreadRef) (th : Thread) (n a k : Nat) : (s.fetched t th n).peek a k = s.peek a k := by
  simp only [State.peek, s.fetched_mem]

theorem State.fetched_backed (s : State) (t : ThreadRef) (th : Thread) (n a : Nat) : (s.fetched t th n).backed a = s.backed a := by
  have h : ∀ f i, f.tab = .pwrRegion → (s.fetched t th n).rget f i = s.rget f i := fun f i e =>
    State.fetched_rget (by rw [e]; decide)
  simp only [State.backed, State.clusterUp, State.regionUp, State.rbit, h _ _ (show PwrRegion.STOP.tab = .pwrRegion from rfl),
    h _ _ (show PwrRegion.CGATE.tab = .pwrRegion from rfl)]

theorem State.fetched_reserved (s : State) (t : ThreadRef) (th : Thread) (n a : Nat) :
    (s.fetched t th n).reserved a = s.reserved a := by
  have h : ∀ f i, f.tab = .upuLend → (s.fetched t th n).rget f i = s.rget f i := fun f i e =>
    State.fetched_rget (by rw [e]; decide)
  have hl : ∀ k, (s.fetched t th n).lendBase k = s.lendBase k := fun k => by simp only [State.lendBase, h _ _ (show UpuLend.LEND.tab = .upuLend from rfl)]
  have hr : ∀ k, (s.fetched t th n).rootBase k = s.rootBase k := fun k => by simp only [State.rootBase, h _ _ (show UpuLend.ROOT_POOL.tab = .upuLend from rfl)]
  unfold State.reserved
  split
  · rw [hl]
  · rw [hr]
  · rfl

theorem State.fetched_rangeOpen (s : State) (t : ThreadRef) (th : Thread) (n tile a k : Nat) :
    (s.fetched t th n).rangeOpen tile a k = s.rangeOpen tile a k := by
  simp only [State.rangeOpen, State.openToThread, s.fetched_backed, s.fetched_reserved]

/-- Lines answer or do not by the failed devices and the supplies of the regions alone. -/
theorem State.deadLine_same {s u : State} (hf : u.tiers.failed = s.tiers.failed)
    (hp : ∀ f i, f.tab = .pwrRegion → u.rget f i = s.rget f i) (a : Nat) : u.deadLine a = s.deadLine a := by
  simp only [State.deadLine, hf, State.clusterUp, State.regionUp, State.rbit,
    hp _ _ (show PwrRegion.STOP.tab = .pwrRegion from rfl), hp _ _ (show PwrRegion.CGATE.tab = .pwrRegion from rfl)]

theorem State.fetched_deadLine (s : State) (t : ThreadRef) (th : Thread) (n a : Nat) :
    (s.fetched t th n).deadLine a = s.deadLine a :=
  State.deadLine_same (s.fetched_failed t th n) (fun f i e => State.fetched_rget (by rw [e]; decide)) a

theorem State.fetched_poisoned (s : State) (t : ThreadRef) (th : Thread) (n a k : Nat) :
    (s.fetched t th n).poisoned a k = s.poisoned a k := by
  simp only [State.poisoned, s.fetched_poison, s.fetched_deadLine]

end Sys2Proof.Machine
end

