-- ==== Sys2Proof/Laws/Access.lean ====
section
/-!
SUPPORT. Reads and writes of device memory: what a store leaves in memory, in the poison bits and elsewhere.
-/
namespace Sys2Proof.Machine

/-! ## Stored bytes -/

/-- Bytes written at distinct offsets read back. -/
theorem Memory.read_foldl_mem {a i : Nat} {b : Byte} {w : List (Nat × Byte)} (hd : (w.map Prod.fst).Nodup) (hm : (i, b) ∈ w)
    {m : List Host.Cell} (h : Memory.wf m = true) :
    Memory.read (a + i) (w.foldl (fun m p => Memory.write (a + p.1) p.2 m) m) = b := by
  induction w generalizing m with
  | nil => simp at hm
  | cons e w ih =>
    rw [List.map_cons, List.nodup_cons] at hd
    simp only [List.foldl_cons]
    rcases List.mem_cons.mp hm with rfl | hm
    · rw [Memory.read_foldl_ne (fun p : Nat × Byte => a + p.1) (fun p => p.2) w ?_, Memory.read_write_self h]
      intro e he
      have : e.1 ≠ i := by
        intro hi
        apply hd.1
        rw [← hi]
        exact List.mem_map.mpr ⟨e, he, rfl⟩
      omega
    · exact ih hd.2 hm (Memory.write_wf h _ _)

theorem zip_range_nodup (bs : List Byte) : (((List.range bs.length).zip bs).map Prod.fst).Nodup := by
  rw [List.map_fst_zip (by simp)]
  exact List.nodup_range

theorem mem_zip_range {bs : List Byte} {i : Nat} (h : i < bs.length) : (i, bs[i]) ∈ (List.range bs.length).zip bs := by
  rw [List.mem_iff_getElem]
  exact ⟨i, by simpa using h, by simp⟩

/-- Every boundary of a space, a stack, a pseudo-channel and a device is a multiple of 64. -/
theorem spaceOf_line (a : Nat) : spaceOf (a / 64 * 64) = spaceOf a := by
  have hm : a / 64 * 64 + a % 64 = a := by omega
  have hl : a % 64 < 64 := by omega
  generalize a / 64 = q at *
  generalize a % 64 = r at *
  subst hm
  unfold spaceOf hbmBytes lpddrBase basinBase poolBase sideBase hostBase basinBytes poolBytes
  have e1 : q * 64 < 0x00C000000000 ↔ q * 64 + r < 0x00C000000000 := by omega
  have e2 : (0x010000000000 ≤ q * 64 ∧ q * 64 < 0x010000000000 + 0x00C000000000) ↔
      (0x010000000000 ≤ q * 64 + r ∧ q * 64 + r < 0x010000000000 + 0x00C000000000) := by omega
  have e3 : (0x0F0000000000 ≤ q * 64 ∧ q * 64 < 0x0F0080000000) ↔
      (0x0F0000000000 ≤ q * 64 + r ∧ q * 64 + r < 0x0F0080000000) := by omega
  have e4 : (0x0F0080000000 ≤ q * 64 ∧ q * 64 < 0x0F00C0000000) ↔
      (0x0F0080000000 ≤ q * 64 + r ∧ q * 64 + r < 0x0F00C0000000) := by omega
  have e5 : (0x0F00C0000000 ≤ q * 64 ∧ q * 64 < 0x0F00C0000000 + 0x8000000) ↔
      (0x0F00C0000000 ≤ q * 64 + r ∧ q * 64 + r < 0x0F00C0000000 + 0x8000000) := by omega
  have e6 : (0x800000000000 ≤ q * 64 ∧ q * 64 < 2 * 0x800000000000) ↔
      (0x800000000000 ≤ q * 64 + r ∧ q * 64 + r < 2 * 0x800000000000) := by omega
  simp only [e1, e2, e3, e4, e5, e6]
  split
  · rfl
  · split
    · rfl
    · split
      · have d : (q * 64 - 0x0F0000000000) / 0x200000 = (q * 64 + r - 0x0F0000000000) / 0x200000 := by omega
        have m : (q * 64 - 0x0F0000000000) % 0x200000 < 0x180000 ↔ (q * 64 + r - 0x0F0000000000) % 0x200000 < 0x180000 := by omega
        simp only [d, m]
      · split
        · have d : (q * 64 - 0x0F0080000000) / 0x2000000 = (q * 64 + r - 0x0F0080000000) / 0x2000000 := by omega
          have m : (q * 64 - 0x0F0080000000) % 0x2000000 < 0x1800000 ↔ (q * 64 + r - 0x0F0080000000) % 0x2000000 < 0x1800000 := by omega
          simp only [d, m]
        · split
          · have d : (q * 64 - 0x0F00C0000000) / 0x80000 = (q * 64 + r - 0x0F00C0000000) / 0x80000 := by omega
            rw [d]
          · rfl

/-- A whole line fails or none of it. -/
theorem State.deadLine_line (s : State) (a : Nat) : s.deadLine (a / 64 * 64) = s.deadLine a := by
  have h1 : stackOf (a / 64 * 64) = stackOf a := by unfold stackOf; omega
  have h2 : pseudoOf (a / 64 * 64) = pseudoOf a := by unfold pseudoOf; omega
  have h3 : lpddrOf (a / 64 * 64) = lpddrOf a := by unfold lpddrOf lpddrBase; omega
  simp only [State.deadLine, spaceOf_line, h1, h2, h3]

/-! ## Store -/

/-- The state in which a store writes, once its bytes are counted. -/
abbrev State.storing (s : State) (a n : Nat) : State := (s.snoopOut a n).countBytes a n true

theorem State.storing_only (s : State) (a n : Nat) : State.Only [.sampling, .snoop] writeCounters s (s.storing a n) :=
  .trans ((State.snoopOut_only _ _ _).mono (by simp) (by simp)) ((State.countBytes_write_only _ _ _).mono (by simp) (by simp))

theorem State.storing_mem (s : State) (a n : Nat) : (s.storing a n).mem = s.mem := by
  simp only [State.storing, State.countBytes, State.snoopOut]
  split <;> split <;> simp [State.countEvent, State.rwrap] <;> split <;> rfl

theorem State.storing_deadLine (s : State) (a n x : Nat) : (s.storing a n).deadLine x = s.deadLine x := by
  refine State.deadLine_same ((s.storing_only a n).2.1 .memUnits (by simp)).1 (fun f i e => (s.storing_only a n).rget ?_) x
  intro r hr
  fin_cases hr <;> simp [Reg.has, e] <;> exact fun h => absurd h (by decide)

/-- A store changes memory, poison, the write counters, the sampling counts and the snoop filter only. -/
theorem State.store_only (s : State) (a : Nat) (bs : List Byte) (mark : Bool) :
    State.Only [.memory, .poison, .sampling, .snoop] writeCounters s (s.store a bs mark) := by
  refine .trans ((s.storing_only a bs.length).mono (by simp) (by simp)) ⟨rfl, fun c hc => ?_, fun k _ => rfl⟩
  cases c <;> simp_all [Comp.same, State.store]

/-- The bytes stored, where the device has not failed. -/
theorem State.store_read_in {s : State} (h : Memory.wf s.mem = true) {a : Nat} {bs : List Byte} (mark : Bool) {i : Nat}
    (hi : i < bs.length) (hd : s.deadLine (a + i) = false) : Memory.read (a + i) (s.store a bs mark).mem = bs[i] := by
  simp only [State.store]
  refine Memory.read_foldl_mem ?_ ?_ (by rw [s.storing_mem]; exact h)
  · exact (zip_range_nodup bs).sublist (List.filter_sublist.map _)
  · rw [List.mem_filter]
    exact ⟨mem_zip_range hi, by simp [s.storing_deadLine, hd]⟩

/-- Every byte outside a store reads as before. -/
theorem State.store_read_out (s : State) {a x : Nat} (bs : List Byte) (mark : Bool) (h : x < a ∨ a + bs.length ≤ x) :
    Memory.read x (s.store a bs mark).mem = Memory.read x s.mem := by
  simp only [State.store]
  rw [Memory.read_foldl_ne (fun p : Nat × Byte => a + p.1) (fun p => p.2), s.storing_mem]
  intro e he
  have : e.1 < bs.length := by
    have := List.of_mem_zip (List.mem_of_mem_filter he)
    simpa using this.1
  omega

/-- A store keeps the canonical form of memory. -/
theorem State.store_wf {s : State} (h : Memory.wf s.mem = true) (a : Nat) (bs : List Byte) (mark : Bool) :
    Memory.wf (s.store a bs mark).mem = true := by
  simp only [State.store]
  exact Memory.foldl_wf (fun p : Nat × Byte => a + p.1) (fun p => p.2) _ (by rw [s.storing_mem]; exact h)

/-- An unmarked store of less than a line leaves every poison bit (11, R357). -/
theorem State.store_poison_part (s : State) (a : Nat) (bs : List Byte) (h : bs.length < 64) (l : Nat) :
    l ∈ (s.store a bs false).poison ↔ l ∈ s.poison := by
  have hp : (s.storing a bs.length).poison = s.poison := (s.storing_only a bs.length).2.1 .poison (by simp)
  have step : ∀ (ls ps : List Nat), (∀ x, x ∈ ps ↔ x ∈ s.poison) →
      (l ∈ ls.foldl (fun ps l => markLine l (poisonAfter a bs.length false l (decide (l ∈ ps))) ps) ps ↔ l ∈ s.poison) := by
    intro ls
    induction ls with
    | nil => intro ps hps; exact hps l
    | cons x ls ih =>
      intro ps hps
      refine ih _ fun y => ?_
      have hn : ¬(a ≤ x * 64 ∧ x * 64 + 64 ≤ a + bs.length) := by omega
      rw [mem_markLine]
      split
      · rename_i e
        subst e
        simp only [poisonAfter, hn, if_false, Bool.or_false, decide_eq_true_eq]
        exact hps y
      · exact hps y
  exact step _ _ (by rw [hp]; simp)

theorem toBytes_length (n v : Nat) : (toBytes n v).length = n := by
  induction n generalizing v with
  | zero => rfl
  | succ n ih => simp [toBytes, ih]

theorem toBytes_getElem (n v i : Nat) (h : i < (toBytes n v).length) : (toBytes n v)[i] = BitVec.ofNat 8 (v / 256 ^ i) := by
  induction n generalizing v i with
  | zero => simp [toBytes] at h
  | succ n ih =>
    cases i with
    | zero => simp [toBytes]
    | succ i =>
      simp only [toBytes, List.getElem_cons_succ]
      rw [ih]
      rw [Nat.div_div_eq_div_mul, pow_succ, mul_comm]

end Sys2Proof.Machine
end

