-- ==== Sys2Proof/Laws/Checks.lean ====
section
/-!
SUPPORT. What the fetch of an instruction leaves alone of everything that the checks of an engine instruction read, so that
those checks answer the same before and after it.
-/
namespace Sys2Proof.Machine

variable (s : State) (t : ThreadRef) (th : Thread) (n : Nat)

theorem State.fetched_hub : (s.fetched t th n).hub = s.hub := (s.fetched_only t th n).2.1 .hub (by simp)
theorem State.fetched_gates : (s.fetched t th n).tsq.gates = s.tsq.gates := ((s.fetched_only t th n).2.1 .gates (by simp)).1
theorem State.fetched_rbit {f : Fld} {i : Nat} (h : f.tab ≠ .tileCnt ∧ f.tab ≠ .dieCnt ∧ f.tab ≠ .moduleCnt) :
    (s.fetched t th n).rbit f i = s.rbit f i := by simp only [State.rbit, State.fetched_rget h]
theorem State.fetched_peekNat (a k : Nat) : (s.fetched t th n).peekNat a k = s.peekNat a k := by
  simp only [State.peekNat, State.fetched_peek]
theorem State.fetched_clusterUp (k : Nat) : (s.fetched t th n).clusterUp k = s.clusterUp k := by
  simp (disch := decide) only [State.clusterUp, State.regionUp, State.fetched_rbit, State.fetched_rget]
theorem State.fetched_rangeBacked (a k : Nat) : (s.fetched t th n).rangeBacked a k = s.rangeBacked a k := by
  simp only [State.rangeBacked, State.fetched_backed, State.fetched_clusterUp]
theorem State.fetched_rangesIn (al l) : rangesIn (s.fetched t th n) al l = rangesIn s al l := by
  simp only [rangesIn, State.rangeUnreserved, State.fetched_reserved]
theorem State.fetched_inputRanges (o : Operand) : inputRanges (s.fetched t th n) o = inputRanges s o := by
  simp only [inputRanges, readRanges, scaleBase, elementEnd, dirEntry, State.fetched_peekNat]
theorem State.fetched_placeFault (k al l) : placeFault (s.fetched t th n) k al l = placeFault s k al l := by
  simp only [placeFault, State.fetched_rangesIn, State.fetched_rangeOpen]
theorem State.fetched_storesFault (c al l) : storesFault (s.fetched t th n) c al l = storesFault s c al l := by
  simp only [storesFault, State.fetched_placeFault]
theorem State.fetched_operandCheck (c : EngCmd) (o : Bool) (al x) : operandCheck (s.fetched t th n) c o al x = operandCheck s c o al x := by
  simp (disch := decide) only [operandCheck, descCheck, State.fetched_rangeBacked, State.fetched_placeFault, State.fetched_inputRanges, State.fetched_rget]
theorem State.fetched_shardBox (b j : Nat) : (s.fetched t th n).shardBox b j = s.shardBox b j := by
  simp (disch := decide) only [State.shardBox, State.gridWidth, State.shardRows, State.shardCols, State.fetched_rget]
theorem State.fetched_resolve (k h) : (s.fetched t th n).resolve k h = s.resolve k h := by
  have : (s.fetched t th n).handle k = s.handle k := by
    funext i; cases k <;> simp (disch := decide) only [State.handle, Kind.handleFld, State.fetched_rget]
  simp only [State.resolve, State.isAllocated, this, State.fetched_hub]
  congr
theorem State.fetched_isOn (k i) : (s.fetched t th n).isOn k i = s.isOn k i := by
  cases k <;> simp (disch := decide) only [State.isOn, State.fstate, Kind.stateFld, State.fetched_rget]
theorem State.fetched_boxes (c) : (s.fetched t th n).cmdBoxes c = s.cmdBoxes c := by
  simp (disch := decide) only [State.cmdBoxes, State.gsBinding, State.fetched_resolve, State.fetched_rget, State.fetched_shardBox]

theorem State.fetched_cmdChannel (c) : (s.fetched t th n).cmdChannel c = s.cmdChannel c := by
  simp only [State.cmdChannel, State.fetched_resolve, State.fetched_isOn]
theorem State.fetched_members (c) : (s.fetched t th n).members c = s.members c := by
  have h : (s.fetched t th n).fabric = s.fabric := (s.fetched_only t th n).2.1 .fabric (by simp)
  simp only [State.members, h]
theorem State.fetched_moverFault (c o a x) : moverFault (s.fetched t th n) c o a x = moverFault s c o a x := by
  simp only [moverFault, State.fetched_operandCheck]
theorem State.fetched_operandFault (c o a x) : Machine.operandFault (s.fetched t th n) c o a x = Machine.operandFault s c o a x := by
  simp only [Machine.operandFault, State.fetched_operandCheck]
theorem State.fetched_bitmapCheck (c a x r k) : bitmapCheck (s.fetched t th n) c a x r k = bitmapCheck s c a x r k := by
  simp only [bitmapCheck, State.fetched_storesFault, State.fetched_rangeBacked]
theorem State.fetched_memberCheck (c f) : memberCheck (s.fetched t th n) c f = memberCheck s c f := by
  simp only [memberCheck, State.liveMembers, State.fetched_cmdChannel, State.fetched_members]
theorem State.fetched_ownerOf (c j) : (s.fetched t th n).ownerOf c j = s.ownerOf c j := by
  simp (disch := decide) only [State.ownerOf, State.shardTotal, State.gridWidth, State.shardRows, State.shardCols, State.fetched_rget, State.fetched_members]
  congr
theorem State.fetched_ownShards (c) : (s.fetched t th n).ownShards c = s.ownShards c := by
  simp (disch := decide) only [State.ownShards, State.fetched_cmdChannel, State.fetched_ownerOf, State.fetched_rget]
theorem EngOp.operandFault_fetched (op : EngOp) (c : EngCmd) : op.operandFault (s.fetched t th n) c = op.operandFault s c := by
  cases op <;> simp (disch := decide) only [EngOp.operandFault, mmaCheck, tbuildCheck, tloadCheck, vactCheck, vactbCheck, vewCheck, rnormFCheck,
    rnormBCheck, rsmaxFCheck, rsmaxBCheck, rmergeCheck, rstatCheck, cmoveCheck, tmoveCheck, cgatherCheck, creduceCheck, cshiftCheck,
    csendCheck, crecvCheck, uapplyCheck, ucastCheck, rangeFault, maskFault, dataWidth, State.lendBase, State.cmdBinding, State.ownsAll,
    State.castTarget, State.gsBinding, 
    State.fetched_moverFault, State.fetched_operandFault, State.fetched_bitmapCheck, State.fetched_memberCheck, State.fetched_ownShards,
    State.fetched_operandCheck, State.fetched_storesFault, State.fetched_rangesIn, State.fetched_rangeBacked, State.fetched_boxes, State.fetched_resolve,
    State.fetched_rget, State.fetched_shardBox, State.fetched_isOn, State.fetched_backed, State.fetched_reserved]
  all_goals congr
end Sys2Proof.Machine
end

