-- ==== Sys2Proof/Laws/Dispatch.lean ====
section
/-!
SUPPORT. What `exec` does with each command: it calls the command's meaning.
-/
namespace Sys2Proof.Machine

@[simp] theorem exec_iadd (t : ThreadRef) (f : FormS) (s : State) : exec (.iadd t f) s = execIadd t f s := rfl
@[simp] theorem exec_ilogic (t : ThreadRef) (f : FormS) (s : State) : exec (.ilogic t f) s = execIlogic t f s := rfl
@[simp] theorem exec_ishift (t : ThreadRef) (f : FormS) (s : State) : exec (.ishift t f) s = execIshift t f s := rfl
@[simp] theorem exec_icmp (t : ThreadRef) (f : FormS) (s : State) : exec (.icmp t f) s = execIcmp t f s := rfl
@[simp] theorem exec_imovi (t : ThreadRef) (f : FormS) (s : State) : exec (.imovi t f) s = execImovi t f s := rfl
@[simp] theorem exec_plogic (t : ThreadRef) (f : FormS) (s : State) : exec (.plogic t f) s = execPlogic t f s := rfl
@[simp] theorem exec_f32 (t : ThreadRef) (f : FormS) (s : State) : exec (.f32 t f) s = execF32 t f s := rfl
@[simp] theorem exec_f64 (t : ThreadRef) (f : FormS) (s : State) : exec (.f64 t f) s = execF64 t f s := rfl
@[simp] theorem exec_fcvt (t : ThreadRef) (f : FormS) (s : State) : exec (.fcvt t f) s = execFcvt t f s := rfl
@[simp] theorem exec_movs (t : ThreadRef) (f : FormS) (s : State) : exec (.movs t f) s = execMovs t f s := rfl
@[simp] theorem exec_br (t : ThreadRef) (f : FormS) (s : State) : exec (.br t f) s = execBr t f s := rfl
@[simp] theorem exec_jmp (t : ThreadRef) (f : FormS) (s : State) : exec (.jmp t f) s = execJmp t f s := rfl
@[simp] theorem exec_call (t : ThreadRef) (f : FormS) (s : State) : exec (.call t f) s = execCall t f s := rfl
@[simp] theorem exec_exit (t : ThreadRef) (f : FormS) (s : State) : exec (.exit t f) s = execExit t f s := rfl
@[simp] theorem exec_tspawn (t : ThreadRef) (f : FormS) (s : State) : exec (.tspawn t f) s = execTspawn t f s := rfl
@[simp] theorem exec_sgate (t : ThreadRef) (f : FormS) (s : State) : exec (.sgate t f) s = execSgate t f s := rfl
@[simp] theorem exec_ld (t : ThreadRef) (f : FormS) (s : State) : exec (.ld t f) s = execLd t f s := rfl
@[simp] theorem exec_st (t : ThreadRef) (f : FormS) (s : State) : exec (.st t f) s = execSt t f s := rfl
@[simp] theorem exec_fence (t : ThreadRef) (f : FormS) (s : State) : exec (.fence t f) s = execFence t f s := rfl
@[simp] theorem exec_aadd (t : ThreadRef) (f : FormS) (s : State) : exec (.aadd t f) s = execAadd t f s := rfl
@[simp] theorem exec_amin (t : ThreadRef) (f : FormS) (s : State) : exec (.amin t f) s = execAmin t f s := rfl
@[simp] theorem exec_amax (t : ThreadRef) (f : FormS) (s : State) : exec (.amax t f) s = execAmax t f s := rfl
@[simp] theorem exec_aswap (t : ThreadRef) (f : FormS) (s : State) : exec (.aswap t f) s = execAswap t f s := rfl
@[simp] theorem exec_acas (t : ThreadRef) (f : FormS) (s : State) : exec (.acas t f) s = execAcas t f s := rfl
@[simp] theorem exec_dload (t : ThreadRef) (f : FormS) (s : State) : exec (.dload t f) s = execDload t f s := rfl
@[simp] theorem exec_dsave (t : ThreadRef) (f : FormS) (s : State) : exec (.dsave t f) s = execDsave t f s := rfl
@[simp] theorem exec_dsetf (t : ThreadRef) (f : FormS) (s : State) : exec (.dsetf t f) s = execDsetf t f s := rfl
@[simp] theorem exec_dgetf (t : ThreadRef) (f : FormS) (s : State) : exec (.dgetf t f) s = execDgetf t f s := rfl
@[simp] theorem exec_dcopy (t : ThreadRef) (f : FormS) (s : State) : exec (.dcopy t f) s = execDcopy t f s := rfl
@[simp] theorem exec_twait (t : ThreadRef) (f : FormS) (s : State) : exec (.twait t f) s = execTwait t f s := rfl
@[simp] theorem exec_tpost (t : ThreadRef) (f : FormS) (s : State) : exec (.tpost t f) s = execTpost t f s := rfl
@[simp] theorem exec_tset (t : ThreadRef) (f : FormS) (s : State) : exec (.tset t f) s = execTset t f s := rfl
@[simp] theorem exec_tget (t : ThreadRef) (f : FormS) (s : State) : exec (.tget t f) s = execTget t f s := rfl
@[simp] theorem exec_mma (t : ThreadRef) (e : FormE) (s : State) : exec (.mma t e) s = execMma t e s := rfl
@[simp] theorem exec_tbuild (t : ThreadRef) (e : FormE) (s : State) : exec (.tbuild t e) s = execTbuild t e s := rfl
@[simp] theorem exec_tload (t : ThreadRef) (e : FormE) (s : State) : exec (.tload t e) s = execTload t e s := rfl
@[simp] theorem exec_vact (t : ThreadRef) (e : FormE) (s : State) : exec (.vact t e) s = execVact t e s := rfl
@[simp] theorem exec_vactb (t : ThreadRef) (e : FormE) (s : State) : exec (.vactb t e) s = execVactb t e s := rfl
@[simp] theorem exec_vew (t : ThreadRef) (e : FormE) (s : State) : exec (.vew t e) s = execVew t e s := rfl
@[simp] theorem exec_rnormF (t : ThreadRef) (e : FormE) (s : State) : exec (.rnormF t e) s = execRnormF t e s := rfl
@[simp] theorem exec_rnormB (t : ThreadRef) (e : FormE) (s : State) : exec (.rnormB t e) s = execRnormB t e s := rfl
@[simp] theorem exec_rsmaxF (t : ThreadRef) (e : FormE) (s : State) : exec (.rsmaxF t e) s = execRsmaxF t e s := rfl
@[simp] theorem exec_rsmaxB (t : ThreadRef) (e : FormE) (s : State) : exec (.rsmaxB t e) s = execRsmaxB t e s := rfl
@[simp] theorem exec_rmerge (t : ThreadRef) (e : FormE) (s : State) : exec (.rmerge t e) s = execRmerge t e s := rfl
@[simp] theorem exec_rstat (t : ThreadRef) (e : FormE) (s : State) : exec (.rstat t e) s = execRstat t e s := rfl
@[simp] theorem exec_cmove (t : ThreadRef) (e : FormE) (s : State) : exec (.cmove t e) s = execCmove t e s := rfl
@[simp] theorem exec_tmove (t : ThreadRef) (e : FormE) (s : State) : exec (.tmove t e) s = execTmove t e s := rfl
@[simp] theorem exec_cgather (t : ThreadRef) (e : FormE) (s : State) : exec (.cgather t e) s = execCgather t e s := rfl
@[simp] theorem exec_creduce (t : ThreadRef) (e : FormE) (s : State) : exec (.creduce t e) s = execCreduce t e s := rfl
@[simp] theorem exec_cshift (t : ThreadRef) (e : FormE) (s : State) : exec (.cshift t e) s = execCshift t e s := rfl
@[simp] theorem exec_csend (t : ThreadRef) (e : FormE) (s : State) : exec (.csend t e) s = execCsend t e s := rfl
@[simp] theorem exec_crecv (t : ThreadRef) (e : FormE) (s : State) : exec (.crecv t e) s = execCrecv t e s := rfl
@[simp] theorem exec_uapply (t : ThreadRef) (e : FormE) (s : State) : exec (.uapply t e) s = execUapply t e s := rfl
@[simp] theorem exec_uprefetch (t : ThreadRef) (e : FormE) (s : State) : exec (.uprefetch t e) s = execUprefetch t e s := rfl
@[simp] theorem exec_ucast (t : ThreadRef) (e : FormE) (s : State) : exec (.ucast t e) s = execUcast t e s := rfl
@[simp] theorem exec_gread (t : ThreadRef) (f : FormS) (s : State) : exec (.gread t f) s = execGread t f s := rfl
@[simp] theorem exec_grung (t : ThreadRef) (f : FormS) (s : State) : exec (.grung t f) s = execGrung t f s := rfl
@[simp] theorem exec_xstat (t : ThreadRef) (f : FormS) (s : State) : exec (.xstat t f) s = execXstat t f s := rfl
@[simp] theorem exec_sysrd (t : ThreadRef) (f : FormS) (s : State) : exec (.sysrd t f) s = execSysrd t f s := rfl
@[simp] theorem exec_syswr (t : ThreadRef) (f : FormS) (s : State) : exec (.syswr t f) s = execSyswr t f s := rfl
@[simp] theorem exec_fwcall (t : ThreadRef) (f : FormS) (s : State) : exec (.fwcall t f) s = execFwcall t f s := rfl
@[simp] theorem exec_queueAccept (t : ThreadRef) (s : State) : exec (.queueAccept t) s = execQueueAccept t s := rfl
@[simp] theorem exec_engineCommandStart (id : Nat) (s : State) : exec (.engineCommandStart id) s = execEngineCommandStart id s := rfl
@[simp] theorem exec_engineCommandComplete (id : Nat) (found : ProductCheck) (s : State) :
    exec (.engineCommandComplete id found) s = execEngineCommandComplete id found s := rfl
@[simp] theorem exec_handshakeTimeout (region unit : Nat) (s : State) : exec (.handshakeTimeout region unit) s = execHandshakeTimeout region unit s := rfl
@[simp] theorem exec_launchAdmit (s : State) : exec .launchAdmit s = execLaunchAdmit s := rfl
@[simp] theorem exec_launchTileArrival (tile : Nat) (s : State) : exec (.launchTileArrival tile) s = execLaunchTileArrival tile s := rfl
@[simp] theorem exec_contextCacheFill (tile : Nat) (s : State) : exec (.contextCacheFill tile) s = execContextCacheFill tile s := rfl
@[simp] theorem exec_stepGateDecide (part : Nat) (s : State) : exec (.stepGateDecide part) s = execStepGateDecide part s := rfl
@[simp] theorem exec_stateFetch (bind shard : Nat) (s : State) : exec (.stateFetch bind shard) s = execStateFetch bind shard s := rfl
@[simp] theorem exec_updateRuleRun (bind shard : Nat) (s : State) : exec (.updateRuleRun bind shard) s = execUpdateRuleRun bind shard s := rfl
@[simp] theorem exec_shardCommit (bind shard : Nat) (s : State) : exec (.shardCommit bind shard) s = execShardCommit bind shard s := rfl
@[simp] theorem exec_masterCorrectionCommit (bind shard : Nat) (s : State) : exec (.masterCorrectionCommit bind shard) s = execMasterCorrectionCommit bind shard s := rfl
@[simp] theorem exec_driftAudit (region : Nat) (s : State) : exec (.driftAudit region) s = execDriftAudit region s := rfl
@[simp] theorem exec_rootJobStart (bind shard : Nat) (s : State) : exec (.rootJobStart bind shard) s = execRootJobStart bind shard s := rfl
@[simp] theorem exec_rootJobDone (bind shard : Nat) (s : State) : exec (.rootJobDone bind shard) s = execRootJobDone bind shard s := rfl
@[simp] theorem exec_castComplete (ctx : Nat) (s : State) : exec (.castComplete ctx) s = execCastComplete ctx s := rfl
@[simp] theorem exec_sumpWrite (region : Nat) (s : State) : exec (.sumpWrite region) s = execSumpWrite region s := rfl
@[simp] theorem exec_gatherServe (chan member shard : Nat) (s : State) : exec (.gatherServe chan member shard) s = execGatherServe chan member shard s := rfl
@[simp] theorem exec_contributionLineGrant (die : Nat) (s : State) : exec (.contributionLineGrant die) s = execContributionLineGrant die s := rfl
@[simp] theorem exec_reductionDeadline (chan shard : Nat) (s : State) : exec (.reductionDeadline chan shard) s = execReductionDeadline chan shard s := rfl
@[simp] theorem exec_reductionAbandon (chan shard : Nat) (s : State) : exec (.reductionAbandon chan shard) s = execReductionAbandon chan shard s := rfl
@[simp] theorem exec_leaseTimeout (chan member shard gen : Nat) (s : State) : exec (.leaseTimeout chan member shard gen) s = execLeaseTimeout chan member shard gen s := rfl
@[simp] theorem exec_contribUnaccepted (id shard : Nat) (s : State) : exec (.contribUnaccepted id shard) s = execContribUnaccepted id shard s := rfl
@[simp] theorem exec_gatherTimeout (id shard : Nat) (s : State) : exec (.gatherTimeout id shard) s = execGatherTimeout id shard s := rfl
@[simp] theorem exec_gatherReq (f : Frame) (s : State) : exec (.gatherReq f) s = execGatherReq f s := rfl
@[simp] theorem exec_gatherData (f : Frame) (s : State) : exec (.gatherData f) s = execGatherData f s := rfl
@[simp] theorem exec_leaseRelease (f : Frame) (s : State) : exec (.leaseRelease f) s = execLeaseRelease f s := rfl
@[simp] theorem exec_contribution (f : Frame) (s : State) : exec (.contribution f) s = execContribution f s := rfl
@[simp] theorem exec_shift (f : Frame) (s : State) : exec (.shift f) s = execShift f s := rfl
@[simp] theorem exec_send (f : Frame) (s : State) : exec (.send f) s = execSend f s := rfl
@[simp] theorem exec_grant (f : Frame) (s : State) : exec (.grant f) s = execGrant f s := rfl
@[simp] theorem exec_hello (f : Frame) (s : State) : exec (.hello f) s = execHello f s := rfl
@[simp] theorem exec_reject (f : Frame) (s : State) : exec (.reject f) s = execReject f s := rfl
@[simp] theorem exec_tokenPost (f : Frame) (s : State) : exec (.tokenPost f) s = execTokenPost f s := rfl
@[simp] theorem exec_gateFlags (f : Frame) (s : State) : exec (.gateFlags f) s = execGateFlags f s := rfl
@[simp] theorem exec_digest (f : Frame) (s : State) : exec (.digest f) s = execDigest f s := rfl
@[simp] theorem exec_bulk (f : Frame) (s : State) : exec (.bulk f) s = execBulk f s := rfl
@[simp] theorem exec_c0Admit (source : Nat) (s : State) : exec (.c0Admit source) s = execC0Admit source s := rfl
@[simp] theorem exec_flitTransmit (port : Nat) (s : State) : exec (.flitTransmit port) s = execFlitTransmit port s := rfl
@[simp] theorem exec_linkBlockReceive (port : Nat) (b : LinkBlock) (s : State) : exec (.linkBlockReceive port b) s = execLinkBlockReceive port b s := rfl
@[simp] theorem exec_linkAckTimeout (port : Nat) (s : State) : exec (.linkAckTimeout port) s = execLinkAckTimeout port s := rfl
@[simp] theorem exec_portTrainingDone (port : Nat) (lanes polarity : BitVec 4) (reversed : Bool) (s : State) : exec (.portTrainingDone port lanes polarity reversed) s = execPortTrainingDone port lanes polarity reversed s := rfl
@[simp] theorem exec_frameSeqTimeout (src chan cls : Nat) (s : State) : exec (.frameSeqTimeout src chan cls) s = execFrameSeqTimeout src chan cls s := rfl
@[simp] theorem exec_channelHelloTimeout (chan : Nat) (s : State) : exec (.channelHelloTimeout chan) s = execChannelHelloTimeout chan s := rfl
@[simp] theorem exec_d2dLinkDown (link : Nat) (s : State) : exec (.d2dLinkDown link) s = execD2dLinkDown link s := rfl
@[simp] theorem exec_d2dLinkDegraded (link : Nat) (s : State) : exec (.d2dLinkDegraded link) s = execD2dLinkDegraded link s := rfl
@[simp] theorem exec_hubLinkDown (die : Nat) (s : State) : exec (.hubLinkDown die) s = execHubLinkDown die s := rfl
@[simp] theorem exec_wxpHello (p : WxpHeader) (digest sites : Word) (s : State) : exec (.wxpHello p digest sites) s = execWxpHello p digest sites s := rfl
@[simp] theorem exec_piece (p : WxpHeader) (h : PieceHeader) (data : List Byte) (s : State) : exec (.piece p h data) s = execPiece p h data s := rfl
@[simp] theorem exec_pieceAck (p : WxpHeader) (o : ObjectKey) (nak : Bool) (bitmap : List Bool) (s : State) : exec (.pieceAck p o nak bitmap) s = execPieceAck p o nak bitmap s := rfl
@[simp] theorem exec_ledgerReq (p : WxpHeader) (s : State) : exec (.ledgerReq p) s = execLedgerReq p s := rfl
@[simp] theorem exec_fetch (p : WxpHeader) (entries : List FragKey) (s : State) : exec (.fetch p entries) s = execFetch p entries s := rfl
@[simp] theorem exec_applied (p : WxpHeader) (digest : Word) (attempt : Nat) (s : State) : exec (.applied p digest attempt) s = execApplied p digest attempt s := rfl
@[simp] theorem exec_join (p : WxpHeader) (digest : Word) (s : State) : exec (.join p digest) s = execJoin p digest s := rfl
@[simp] theorem exec_heartbeat (p : WxpHeader) (s : State) : exec (.heartbeat p) s = execHeartbeat p s := rfl
@[simp] theorem exec_status (p : WxpHeader) (s : State) : exec (.status p) s = execStatus p s := rfl
@[simp] theorem exec_pacedSend (site : Nat) (s : State) : exec (.pacedSend site) s = execPacedSend site s := rfl
@[simp] theorem exec_pieceResendTimeout (site : Nat) (o : ObjectKey) (s : State) : exec (.pieceResendTimeout site o) s = execPieceResendTimeout site o s := rfl
@[simp] theorem exec_pieceAckTimer (site : Nat) (o : ObjectKey) (s : State) : exec (.pieceAckTimer site o) s = execPieceAckTimer site o s := rfl
@[simp] theorem exec_heartbeatTimer (site : Nat) (s : State) : exec (.heartbeatTimer site) s = execHeartbeatTimer site s := rfl
@[simp] theorem exec_partnerSilent (site : Nat) (s : State) : exec (.partnerSilent site) s = execPartnerSilent site s := rfl
@[simp] theorem exec_fetchTimeout (bind : Nat) (s : State) : exec (.fetchTimeout bind) s = execFetchTimeout bind s := rfl
@[simp] theorem exec_joinResend (bind : Nat) (s : State) : exec (.joinResend bind) s = execJoinResend bind s := rfl
@[simp] theorem exec_farPortControlFrame (port : Nat) (k : FarFrame) (s : State) : exec (.farPortControlFrame port k) s = execFarPortControlFrame port k s := rfl
@[simp] theorem exec_ptpEventMessage (port : Nat) (correction : Int) (locked : Bool) (s : State) : exec (.ptpEventMessage port correction locked) s = execPtpEventMessage port correction locked s := rfl
@[simp] theorem exec_memPatrolRead (addr : Nat) (r : LineVisit) (s : State) :
    exec (.memPatrolRead addr r) s = execMemPatrolRead addr r s := rfl
@[simp] theorem exec_memDeviceFailed (u : MemUnit) (s : State) : exec (.memDeviceFailed u) s = execMemDeviceFailed u s := rfl
@[simp] theorem exec_auditBandRun (tile : Nat) (agree : Bool) (s : State) : exec (.auditBandRun tile agree) s = execAuditBandRun tile agree s := rfl
@[simp] theorem exec_pairTimeout (tile number : Nat) (s : State) : exec (.pairTimeout tile number) s = execPairTimeout tile number s := rfl
@[simp] theorem exec_columnTest (tile : Nat) (s : State) : exec (.columnTest tile) s = execColumnTest tile s := rfl
@[simp] theorem exec_columnTestDone (tile : Nat) (failed : Word) (s : State) : exec (.columnTestDone tile failed) s = execColumnTestDone tile failed s := rfl
@[simp] theorem exec_launch (ring : Nat) (s : State) : exec (.launch ring) s = execLaunch ring s := rfl
@[simp] theorem exec_nop (ring : Nat) (s : State) : exec (.nop ring) s = execNop ring s := rfl
@[simp] theorem exec_create (ring : Nat) (s : State) : exec (.create ring) s = execCreate ring s := rfl
@[simp] theorem exec_enable (ring : Nat) (s : State) : exec (.enable ring) s = execEnable ring s := rfl
@[simp] theorem exec_disable (ring : Nat) (s : State) : exec (.disable ring) s = execDisable ring s := rfl
@[simp] theorem exec_destroy (ring : Nat) (s : State) : exec (.destroy ring) s = execDestroy ring s := rfl
@[simp] theorem exec_cast (ring : Nat) (s : State) : exec (.cast ring) s = execCast ring s := rfl
@[simp] theorem exec_functionStartDone (kind index : Nat) (s : State) : exec (.functionStartDone kind index) s = execFunctionStartDone kind index s := rfl
@[simp] theorem exec_startAbort (kind index : Nat) (s : State) : exec (.startAbort kind index) s = execStartAbort kind index s := rfl
@[simp] theorem exec_functionStopDone (kind index : Nat) (s : State) : exec (.functionStopDone kind index) s = execFunctionStopDone kind index s := rfl
@[simp] theorem exec_ringCommandTake (s : State) : exec .ringCommandTake s = execRingCommandTake s := rfl
@[simp] theorem exec_completionPost (ring : Nat) (s : State) : exec (.completionPost ring) s = execCompletionPost ring s := rfl
@[simp] theorem exec_functionEventPost (s : State) : exec .functionEventPost s = execFunctionEventPost s := rfl
@[simp] theorem exec_interruptModerationTimeout (ring : Nat) (s : State) : exec (.interruptModerationTimeout ring) s = execInterruptModerationTimeout ring s := rfl
@[simp] theorem exec_ringEnable (ring : Nat) (s : State) : exec (.ringEnable ring) s = execRingEnable ring s := rfl
@[simp] theorem exec_ringDisable (ring : Nat) (s : State) : exec (.ringDisable ring) s = execRingDisable ring s := rfl
@[simp] theorem exec_cmdTailDoorbell (ring : Nat) (v : Half) (s : State) : exec (.cmdTailDoorbell ring v) s = execCmdTailDoorbell ring v s := rfl
@[simp] theorem exec_cplHeadDoorbell (ring : Nat) (v : Half) (s : State) : exec (.cplHeadDoorbell ring v) s = execCplHeadDoorbell ring v s := rfl
@[simp] theorem exec_hubEvtStatusWrite (v : Word) (s : State) : exec (.hubEvtStatusWrite v) s = execHubEvtStatusWrite v s := rfl
@[simp] theorem exec_hubEvtCtrlRead (s : State) : exec .hubEvtCtrlRead s = execHubEvtCtrlRead s := rfl
@[simp] theorem exec_hubRwlRefusedRead (s : State) : exec .hubRwlRefusedRead s = execHubRwlRefusedRead s := rfl
@[simp] theorem exec_registerWrite (off width : Nat) (v : Word) (s : State) : exec (.registerWrite off width v) s = execRegisterWrite off width v s := rfl
@[simp] theorem exec_tsqCtxSel (v : Word) (s : State) : exec (.tsqCtxSel v) s = execTsqCtxSel v s := rfl
@[simp] theorem exec_gauSel (v : Word) (s : State) : exec (.gauSel v) s = execGauSel v s := rfl
@[simp] theorem exec_upuBindSel (v : Word) (s : State) : exec (.upuBindSel v) s = execUpuBindSel v s := rfl
@[simp] theorem exec_colStepSel (v : Word) (s : State) : exec (.colStepSel v) s = execColStepSel v s := rfl
@[simp] theorem exec_fabChanSel (v : Word) (s : State) : exec (.fabChanSel v) s = execFabChanSel v s := rfl
@[simp] theorem exec_whdRoundSel (v : Word) (s : State) : exec (.whdRoundSel v) s = execWhdRoundSel v s := rfl
@[simp] theorem exec_cisMouldSel (v : Word) (s : State) : exec (.cisMouldSel v) s = execCisMouldSel v s := rfl
@[simp] theorem exec_obsSampleSel (v : Word) (s : State) : exec (.obsSampleSel v) s = execObsSampleSel v s := rfl
@[simp] theorem exec_clearHistory (entry : Nat) (s : State) : exec (.clearHistory entry) s = execClearHistory entry s := rfl
@[simp] theorem exec_gauRungSet (v : Word) (s : State) : exec (.gauRungSet v) s = execGauRungSet v s := rfl
@[simp] theorem exec_rasPartReset (part : Nat) (s : State) : exec (.rasPartReset part) s = execRasPartReset part s := rfl
@[simp] theorem exec_rasTestStart (v : Word) (s : State) : exec (.rasTestStart v) s = execRasTestStart v s := rfl
@[simp] theorem exec_rasLogTailWrite (v : BitVec 16) (s : State) : exec (.rasLogTailWrite v) s = execRasLogTailWrite v s := rfl
@[simp] theorem exec_fabPortRetrain (port : Nat) (s : State) : exec (.fabPortRetrain port) s = execFabPortRetrain port s := rfl
@[simp] theorem exec_fabPortDisable (port : Nat) (v : Bool) (s : State) : exec (.fabPortDisable port v) s = execFabPortDisable port v s := rfl
@[simp] theorem exec_pwrRegionStop (region : Nat) (v : Bool) (s : State) : exec (.pwrRegionStop region v) s = execPwrRegionStop region v s := rfl
@[simp] theorem exec_pwrRegionCgate (region : Nat) (mask : Byte) (s : State) : exec (.pwrRegionCgate region mask) s = execPwrRegionCgate region mask s := rfl
@[simp] theorem exec_pwrInputRead (s : State) : exec .pwrInputRead s = execPwrInputRead s := rfl
@[simp] theorem exec_tbsAdj (v : Word) (s : State) : exec (.tbsAdj v) s = execTbsAdj v s := rfl
@[simp] theorem exec_obsMarkTrigger (mask : BitVec 4) (s : State) : exec (.obsMarkTrigger mask) s = execObsMarkTrigger mask s := rfl
@[simp] theorem exec_hostMark (v : Half) (s : State) : exec (.hostMark v) s = execHostMark v s := rfl
@[simp] theorem exec_traceArm (session : Nat) (s : State) : exec (.traceArm session) s = execTraceArm session s := rfl
@[simp] theorem exec_linkedTrigger (session source : Nat) (s : State) : exec (.linkedTrigger session source) s = execLinkedTrigger session source s := rfl
@[simp] theorem exec_traceExport (session : Nat) (s : State) : exec (.traceExport session) s = execTraceExport session s := rfl
@[simp] theorem exec_samplePeriodEnd (session : Nat) (s : State) : exec (.samplePeriodEnd session) s = execSamplePeriodEnd session s := rfl
@[simp] theorem exec_fwUpdate (s : State) : exec .fwUpdate s = execFwUpdate s := rfl
@[simp] theorem exec_cfgWrite (s : State) : exec .cfgWrite s = execCfgWrite s := rfl
@[simp] theorem exec_cfgErase (s : State) : exec .cfgErase s = execCfgErase s := rfl
@[simp] theorem exec_debugUnlock (s : State) : exec .debugUnlock s = execDebugUnlock s := rfl
@[simp] theorem exec_raiseFloor (s : State) : exec .raiseFloor s = execRaiseFloor s := rfl
@[simp] theorem exec_rekey (s : State) : exec .rekey s = execRekey s := rfl
@[simp] theorem exec_factoryRestore (s : State) : exec .factoryRestore s = execFactoryRestore s := rfl
@[simp] theorem exec_secOpComplete (s : State) : exec .secOpComplete s = execSecOpComplete s := rfl
@[simp] theorem exec_mouldRead (s : State) : exec .mouldRead s = execMouldRead s := rfl
@[simp] theorem exec_mouldWrite (s : State) : exec .mouldWrite s = execMouldWrite s := rfl
@[simp] theorem exec_mouldDelete (s : State) : exec .mouldDelete s = execMouldDelete s := rfl
@[simp] theorem exec_cisOpComplete (s : State) : exec .cisOpComplete s = execCisOpComplete s := rfl
@[simp] theorem exec_mouldCommit (mould : Nat) (s : State) : exec (.mouldCommit mould) s = execMouldCommit mould s := rfl
@[simp] theorem exec_cisPatrol (sb : Nat) (r : FlashRead) (s : State) : exec (.cisPatrol sb r) s = execCisPatrol sb r s := rfl
@[simp] theorem exec_cisRelocate (sb : Nat) (s : State) : exec (.cisRelocate sb) s = execCisRelocate sb s := rfl
@[simp] theorem exec_cisWearLevel (s : State) : exec .cisWearLevel s = execCisWearLevel s := rfl
@[simp] theorem exec_cisBlockRetired (sb channel : Nat) (s : State) : exec (.cisBlockRetired sb channel) s = execCisBlockRetired sb channel s := rfl
@[simp] theorem exec_cisChannelLost (channel : Option Nat) (s : State) : exec (.cisChannelLost channel) s = execCisChannelLost channel s := rfl
@[simp] theorem exec_powerGood (s : State) : exec .powerGood s = execPowerGood s := rfl
@[simp] theorem exec_identityKeyDerived (s : State) : exec .identityKeyDerived s = execIdentityKeyDerived s := rfl
@[simp] theorem exec_perstNAssert (long : Bool) (s : State) : exec (.perstNAssert long) s = execPerstNAssert long s := rfl
@[simp] theorem exec_perstNDeassert (s : State) : exec .perstNDeassert s = execPerstNDeassert s := rfl
@[simp] theorem exec_hostLinkTrained (width speed : Nat) (s : State) : exec (.hostLinkTrained width speed) s = execHostLinkTrained width speed s := rfl
@[simp] theorem exec_hostLinkDown (s : State) : exec .hostLinkDown s = execHostLinkDown s := rfl
@[simp] theorem exec_hostLinkDegraded (width speed : Nat) (s : State) : exec (.hostLinkDegraded width speed) s = execHostLinkDegraded width speed s := rfl
@[simp] theorem exec_hdmRead (addr : Nat) (s : State) : exec (.hdmRead addr) s = execHdmRead addr s := rfl
@[simp] theorem exec_hdmWrite (addr : Nat) (data : List Byte) (poison cached : Bool) (s : State) : exec (.hdmWrite addr data poison cached) s = execHdmWrite addr data poison cached s := rfl
@[simp] theorem exec_cxlItemReceive (st : IdeStream) (item : IdeItem) (s : State) : exec (.cxlItemReceive st item) s = execCxlItemReceive st item s := rfl
@[simp] theorem exec_keyProg (st : IdeStream) (d : IdeDir) (slot : Bool) (s : State) : exec (.keyProg st d slot) s = execKeyProg st d slot s := rfl
@[simp] theorem exec_kSetGo (st : IdeStream) (d : IdeDir) (s : State) : exec (.kSetGo st d) s = execKSetGo st d s := rfl
@[simp] theorem exec_ideKeySwitch (st : IdeStream) (s : State) : exec (.ideKeySwitch st) s = execIdeKeySwitch st s := rfl
@[simp] theorem exec_getVersion (q : SpdmRef) (s : State) : exec (.getVersion q) s = execGetVersion q s := rfl
@[simp] theorem exec_getCapabilities (q : SpdmRef) (s : State) : exec (.getCapabilities q) s = execGetCapabilities q s := rfl
@[simp] theorem exec_negotiateAlgorithms (q : SpdmRef) (version : Nat) (supported : Bool) (s : State) : exec (.negotiateAlgorithms q version supported) s = execNegotiateAlgorithms q version supported s := rfl
@[simp] theorem exec_getDigests (q : SpdmRef) (s : State) : exec (.getDigests q) s = execGetDigests q s := rfl
@[simp] theorem exec_getCertificate (q : SpdmRef) (slot offset len : Nat) (s : State) : exec (.getCertificate q slot offset len) s = execGetCertificate q slot offset len s := rfl
@[simp] theorem exec_challenge (q : SpdmRef) (slot : Nat) (nonce : List Byte) (s : State) : exec (.challenge q slot nonce) s = execChallenge q slot nonce s := rfl
@[simp] theorem exec_getMeasurements (q : SpdmRef) (index : Nat) (signed : Bool) (nonce : List Byte) (s : State) : exec (.getMeasurements q index signed nonce) s = execGetMeasurements q index signed nonce s := rfl
@[simp] theorem exec_keyExchange (q : SpdmRef) (session : Nat) (ok : Bool) (s : State) : exec (.keyExchange q session ok) s = execKeyExchange q session ok s := rfl
@[simp] theorem exec_finish (q : SpdmRef) (session : Nat) (ok : Bool) (s : State) : exec (.finish q session ok) s = execFinish q session ok s := rfl
@[simp] theorem exec_spdmHeartbeat (q : SpdmRef) (session : Nat) (s : State) : exec (.spdmHeartbeat q session) s = execSpdmHeartbeat q session s := rfl
@[simp] theorem exec_keyUpdate (q : SpdmRef) (session : Nat) (s : State) : exec (.keyUpdate q session) s = execKeyUpdate q session s := rfl
@[simp] theorem exec_endSession (q : SpdmRef) (session : Nat) (s : State) : exec (.endSession q session) s = execEndSession q session s := rfl
@[simp] theorem exec_setCertificate (q : SpdmRef) (slot : Nat) (chain : List Byte) (s : State) : exec (.setCertificate q slot chain) s = execSetCertificate q slot chain s := rfl
@[simp] theorem exec_inputBandChange (mv : Nat) (s : State) : exec (.inputBandChange mv) s = execInputBandChange mv s := rfl
@[simp] theorem exec_powerFail (mv : Nat) (s : State) : exec (.powerFail mv) s = execPowerFail mv s := rfl
@[simp] theorem exec_overVoltageStop (mv : Nat) (s : State) : exec (.overVoltageStop mv) s = execOverVoltageStop mv s := rfl
@[simp] theorem exec_thermtrip (s : State) : exec .thermtrip s = execThermtrip s := rfl
@[simp] theorem exec_capTick (power : Nat) (s : State) : exec (.capTick power) s = execCapTick power s := rfl
@[simp] theorem exec_capUnmet (s : State) : exec .capUnmet s = execCapUnmet s := rfl
@[simp] theorem exec_thermalTick (region tj : Nat) (s : State) : exec (.thermalTick region tj) s = execThermalTick region tj s := rfl
@[simp] theorem exec_railStep (region : Nat) (s : State) : exec (.railStep region) s = execRailStep region s := rfl
@[simp] theorem exec_refLost (s : State) : exec .refLost s = execRefLost s := rfl
@[simp] theorem exec_refReturn (s : State) : exec .refReturn s = execRefReturn s := rfl
@[simp] theorem exec_presenceAssert (s : State) : exec .presenceAssert s = execPresenceAssert s := rfl
@[simp] theorem exec_presenceWindowExpire (s : State) : exec .presenceWindowExpire s = execPresenceWindowExpire s := rfl
@[simp] theorem exec_sealBroken (s : State) : exec .sealBroken s = execSealBroken s := rfl
@[simp] theorem exec_bootOrderComplete (order : Nat) (s : State) : exec (.bootOrderComplete order) s = execBootOrderComplete order s := rfl
@[simp] theorem exec_partitionResetEnd (part : Nat) (s : State) : exec (.partitionResetEnd part) s = execPartitionResetEnd part s := rfl
@[simp] theorem exec_holdUpEnd (s : State) : exec .holdUpEnd s = execHoldUpEnd s := rfl
@[simp] theorem exec_mouldEraseDone (mould : Nat) (s : State) : exec (.mouldEraseDone mould) s = execMouldEraseDone mould s := rfl
@[simp] theorem exec_tbsSlewDone (s : State) : exec .tbsSlewDone s = execTbsSlewDone s := rfl
@[simp] theorem exec_presenceDeassert (s : State) : exec .presenceDeassert s = execPresenceDeassert s := rfl
@[simp] theorem exec_farPortLinkChange (port : Nat) (up : Bool) (s : State) : exec (.farPortLinkChange port up) s = execFarPortLinkChange port up s := rfl
@[simp] theorem exec_debugAccess (r : DebugRequest) (s : State) : exec (.debugAccess r) s = execDebugAccess r s := rfl
@[simp] theorem exec_debugHalt (low : Bool) (s : State) : exec (.debugHalt low) s = execDebugHalt low s := rfl
@[simp] theorem exec_dynamicAddressAssignment (addr : BitVec 7) (s : State) : exec (.dynamicAddressAssignment addr) s = execDynamicAddressAssignment addr s := rfl
@[simp] theorem exec_cxlCacheMemEnable (cache mem : Bool) (dec : List HdmDecoder) (s : State) : exec (.cxlCacheMemEnable cache mem dec) s = execCxlCacheMemEnable cache mem dec s := rfl

end Sys2Proof.Machine
end

