-- ==== Sys2Proof/Laws/Encoding.lean ====
section
/-!
SUPPORT. The words of a thread's instructions spell them: what `Instr.words` lays out, `insnOf` reads back.
-/
set_option Elab.async false

namespace Sys2Proof

theorem extract_high {m n : Nat} (x : BitVec m) (y : BitVec n) (k l : Nat) (h : n ≤ k) :
    (x ++ y).extractLsb' k l = x.extractLsb' (k - n) l := by
  apply BitVec.eq_of_getLsbD_eq
  intro i hi
  simp only [BitVec.getLsbD_extractLsb', BitVec.getLsbD_append, hi, decide_true, Bool.true_and]
  rw [if_neg (by omega)]
  congr 1
  omega

theorem extract_low {m n : Nat} (x : BitVec m) (y : BitVec n) (k l : Nat) (h : k + l ≤ n) :
    (x ++ y).extractLsb' k l = y.extractLsb' k l := by
  apply BitVec.eq_of_getLsbD_eq
  intro i hi
  simp only [BitVec.getLsbD_extractLsb', BitVec.getLsbD_append, hi, decide_true, Bool.true_and]
  rw [if_pos (by omega)]

theorem extract_self {n : Nat} (x : BitVec n) : x.extractLsb' 0 n = x := by
  apply BitVec.eq_of_getLsbD_eq
  intro i hi
  simp [hi]

theorem bit_high {m n : Nat} (x : BitVec m) (y : BitVec n) (k : Nat) (h : n ≤ k) : (x ++ y).getLsbD k = x.getLsbD (k - n) := by
  rw [BitVec.getLsbD_append, if_neg (by omega)]

theorem bit_low {m n : Nat} (x : BitVec m) (y : BitVec n) (k : Nat) (h : k < n) : (x ++ y).getLsbD k = y.getLsbD k := by
  rw [BitVec.getLsbD_append, if_pos h]

theorem bit_one (b : Bool) : (BitVec.ofBool b).getLsbD 0 = b := by cases b <;> rfl

theorem extract_cast {n w : Nat} (h : n = w) (x : BitVec n) (k l : Nat) : (x.cast h).extractLsb' k l = x.extractLsb' k l := by
  subst h
  rfl

theorem bit_cast {n w : Nat} (h : n = w) (x : BitVec n) (k : Nat) : (x.cast h).getLsbD k = x.getLsbD k := by
  subst h
  rfl

/-- The fields of a form-S word are those it was laid out from. -/
theorem formS_word (f : FormS) (op : BitVec 7) : formS (f.word op) = f := by
  obtain ⟨pe, pn, pi, dst, s1, s2, fn, imm⟩ := f
  simp (disch := omega) only [formS, FormS.word, extract_cast, bit_cast, extract_high, extract_low, bit_high, bit_low,
    Nat.reduceSub, extract_self, bit_one]

/-- The fields of a form-E pair of words are those they were laid out from. -/
theorem formE_word (e : FormE) (op : BitVec 7) : formE (e.word op) e.w1 = e := by
  obtain ⟨pe, pn, pi, da, db, dc, dd, we, wk, wv, se, sk, gs, gt, sa, sae, rsv, w1⟩ := e
  simp (disch := omega) only [formE, FormE.word, extract_cast, bit_cast, extract_high, extract_low, bit_high, bit_low,
    Nat.reduceSub, extract_self, bit_one]

/-- Bit [63] and the opcode of a form-S word. -/
theorem FormS.word_head (f : FormS) (op : BitVec 7) :
    (f.word op).getLsbD 63 = false ∧ (f.word op).extractLsb' 56 7 = op := by
  refine ⟨?_, ?_⟩
  · simp (disch := omega) only [FormS.word, bit_cast, bit_high, Nat.reduceSub]
    rfl
  · simp (disch := omega) only [FormS.word, extract_cast, extract_high, extract_low, Nat.reduceSub, extract_self]

/-- Bit [63] and the opcode of a form-E word. -/
theorem FormE.word_head (e : FormE) (op : BitVec 7) :
    (e.word op).getLsbD 63 = true ∧ (e.word op).extractLsb' 56 7 = op := by
  refine ⟨?_, ?_⟩
  · simp (disch := omega) only [FormE.word, bit_cast, bit_high, Nat.reduceSub]
    rfl
  · simp (disch := omega) only [FormE.word, extract_cast, extract_high, extract_low, Nat.reduceSub, extract_self]

/-- A 64-bit instruction is read by its opcode. -/
theorem insnOf_S (t : ThreadRef) (f : FormS) (op : BitVec 7) (w1 : Word) :
    insnOf t (f.word op) w1 = insnS t op.toNat f := by
  rw [insnOf, (f.word_head op).1, (f.word_head op).2, formS_word]
  rfl

/-- A 128-bit instruction is read by its opcode. -/
theorem insnOf_E (t : ThreadRef) (e : FormE) (op : BitVec 7) : insnOf t (e.word op) e.w1 = insnE t op.toNat e := by
  rw [insnOf, (e.word_head op).1, (e.word_head op).2, formE_word]
  rfl

/-- An atomic is read by its FN. -/
theorem insnOf_atom (t : ThreadRef) (f : FormS) (w1 : Word) (k : BitVec 4) (i : Instr) (hk : f.fn = k)
    (hi : (match k.toNat with
      | 0 => some (Instr.aadd t f) | 1 => some (.amin t f) | 2 => some (.amax t f) | 3 => some (.aswap t f)
      | 4 => some (.acas t f) | _ => none) = some i) : insnOf t (f.word 0x1B) w1 = some i := by
  rw [insnOf_S, ← hi, ← hk]
  rfl

end Sys2Proof
end

