-- ==== Sys2Proof/Laws/Events.lean ====
section
/-!
SUPPORT. The frames of what many commands share: event bits and messages, trace and error records, and the end of threads
and contexts.
-/
namespace Sys2Proof.Machine

/-- The registers that error records and their events move (13, R440; 14, R469; 18, R567). -/
def recordRegs : List Reg :=
  [.table .rasLog, .table .evtStatus, .table .msixPba, .table .trace, .col DieCnt.TRACE_RECORDS]

/-- The pieces of the state that error records and their events move. -/
def recordComps : List Comp := [.errorLog, .messages, .trace]

theorem State.rput_only_table (s : State) (f : Fld) (i v : Nat) : State.Only [] [.table f.tab] s (s.rput f i v) := by
  refine ⟨rfl, fun c _ => ?_, fun k hk => ?_⟩
  · cases c <;> simp [Comp.same]
  · have : k ≠ ⟨f.tab, i, f.lo⟩ := by rintro rfl; simp [Reg.has] at hk
    simp [look_put_ne this]

theorem State.rput_record {s u : State} (h : State.Only recordComps recordRegs s u) (f : Fld) (i v : Nat)
    (hf : f.tab = .rasLog ∨ f.tab = .evtStatus ∨ f.tab = .msixPba ∨ f.tab = .trace) :
    State.Only recordComps recordRegs s (u.rput f i v) := by
  refine h.trans ((State.rput_only_table u f i v).mono (by simp) ?_)
  rcases hf with e | e | e | e <;> simp [recordRegs, e]

theorem State.sendMsix_record {s u : State} (h : State.Only recordComps recordRegs s u) (v : Nat) :
    State.Only recordComps recordRegs s (u.sendMsix v) := by
  unfold State.sendMsix
  split
  · exact State.rput_record h _ _ _ (by decide)
  · refine h.trans ⟨rfl, fun c hc => ?_, fun _ _ => rfl⟩
    cases c <;> simp_all [Comp.same, recordComps]

theorem State.setEvt_record {s u : State} (h : State.Only recordComps recordRegs s u) (f : Fld) (hf : f.tab = .evtStatus) :
    State.Only recordComps recordRegs s (u.setEvt f) := by
  unfold State.setEvt
  split
  · exact h
  · dsimp only
    split
    · exact State.sendMsix_record (State.rput_record h _ _ _ (by rw [hf]; decide)) _
    · exact State.rput_record h _ _ _ (by rw [hf]; decide)

theorem State.setTraceBuf_record {s u : State} (h : State.Only recordComps recordRegs s u) (d : Nat) (b : TraceBuf) :
    State.Only recordComps recordRegs s (u.setTraceBuf d b) := by
  refine h.trans ⟨rfl, fun c hc => ?_, fun _ _ => rfl⟩
  cases c <;> simp_all [Comp.same, recordComps]

theorem State.traceCount_record {s u : State} (h : State.Only recordComps recordRegs s u) (d : Nat) :
    State.Only recordComps recordRegs s (u.rwrap DieCnt.TRACE_RECORDS d) :=
  h.trans ((State.rput_only_col _ _ _ _).mono (by simp) (by simp [recordRegs]))

theorem State.traceWrite_record {s u : State} (h : State.Only recordComps recordRegs s u) (d : Nat) (r : TraceRec) :
    State.Only recordComps recordRegs s (u.traceWrite d r) := by
  unfold State.traceWrite
  dsimp only
  split
  · exact State.setTraceBuf_record (State.traceCount_record h _) _ _
  · split
    · split
      · exact State.rput_record (State.setTraceBuf_record (State.traceCount_record h _) _ _) _ _ _ (by decide)
      · exact State.setTraceBuf_record (State.traceCount_record h _) _ _
    · exact h

theorem State.traceGaps_record {s u : State} (h : State.Only recordComps recordRegs s u) (d g : Nat) :
    State.Only recordComps recordRegs s (u.traceGaps d g) := by
  unfold State.traceGaps
  dsimp only
  split
  · exact State.traceWrite_record (State.setTraceBuf_record h _ _) _ _
  · exact h

theorem State.traceEvent_record {s u : State} (h : State.Only recordComps recordRegs s u) (d cls kind loc g ctx opid a b : Nat) :
    State.Only recordComps recordRegs s (u.traceEvent d cls kind loc g ctx opid a b) := by
  unfold State.traceEvent
  split
  · exact State.traceWrite_record (State.traceGaps_record h _ _) _ _
  · exact h

theorem State.logWrite_record {s u : State} (h : State.Only recordComps recordRegs s u) (r : ErrRec) :
    State.Only recordComps recordRegs s (u.logWrite r) := by
  have h1 : ∀ l n, State.Only recordComps recordRegs s { u with rasLog := l, rasSeq := n } := fun l n =>
    h.trans ⟨rfl, fun c hc => by cases c <;> simp_all [Comp.same, recordComps], fun _ _ => rfl⟩
  exact State.setEvt_record (State.rput_record (h1 _ _) RasLog.HEAD _ _ (by decide)) Evt.RAS_RECORD rfl

theorem State.logRing_record {s u : State} (h : State.Only recordComps recordRegs s u) (r : ErrRec) :
    State.Only recordComps recordRegs s (u.logRing r) := by
  unfold State.logRing State.rinc
  dsimp only
  split
  · exact State.logWrite_record h _
  · split
    · split
      · exact State.rput_record (State.logWrite_record h _) _ _ _ (by decide)
      · exact State.rput_record (State.setEvt_record (State.rput_record (State.logWrite_record h _) _ _ _ (by decide)) _ rfl) _ _ _ (by decide)
    · exact State.rput_record h _ _ _ (by decide)

theorem State.traceError_record {s u : State} (h : State.Only recordComps recordRegs s u) (r : ErrRec) (seq : Nat) :
    State.Only recordComps recordRegs s (u.traceError r seq) := State.traceEvent_record h _ _ _ _ _ _ _ _ _

theorem State.traceMark_record {s u : State} (h : State.Only recordComps recordRegs s u) (d src die : Nat) :
    State.Only recordComps recordRegs s (u.traceMark d src die) := by
  unfold State.traceMark State.rinc
  dsimp only
  split
  · exact State.rput_record (State.traceWrite_record h _ _) _ _ _ (by decide)
  · exact State.rput_record h _ _ _ (by decide)

theorem State.linked_record {s u : State} (h : State.Only recordComps recordRegs s u) (l : List (Nat × Nat)) :
    State.Only recordComps recordRegs s { u with obs := { u.obs with linked := l } } := by
  refine h.trans ⟨rfl, fun c hc => ?_, fun _ _ => rfl⟩
  cases c <;> simp_all [Comp.same, recordComps]

theorem State.traceCapture_record {s u : State} (h : State.Only recordComps recordRegs s u) (d src die fill : Nat) :
    State.Only recordComps recordRegs s (u.traceCapture d src die fill) :=
  State.rput_record (f := Trace.TRIGGER_TIME) (State.rput_record (f := Trace.CAPTURE)
    (State.setTraceBuf_record (State.traceWrite_record h _ _) _ _) _ _ (by decide)) _ _ (by decide)

theorem State.traceReport_record {s u : State} (h : State.Only recordComps recordRegs s u) (d : Nat) :
    State.Only recordComps recordRegs s (u.traceReport d) :=
  State.traceError_record (State.logRing_record (State.setEvt_record h _ rfl) _) _ _

theorem State.passOn_record {s u : State} (h : State.Only recordComps recordRegs s u) (d : Nat) :
    State.Only recordComps recordRegs s (u.passOn d) := by
  unfold State.passOn
  split
  · exact State.linked_record h _
  · exact h

theorem State.traceFire_record {s u : State} (h : State.Only recordComps recordRegs s u) (d src die fill : Nat) :
    State.Only recordComps recordRegs s (u.traceFire d src die fill) := by
  have h1 := State.traceReport_record (State.traceCapture_record h d src die fill) d
  unfold State.traceFire
  generalize (u.traceCapture d src die fill).traceReport d = v at h1
  dsimp only
  refine State.passOn_record ?_ _
  split
  · exact State.traceMark_record h1 _ _ _
  · exact h1

theorem State.traceTrigger_record {s u : State} (h : State.Only recordComps recordRegs s u) (d src die : Nat) :
    State.Only recordComps recordRegs s (u.traceTrigger d src die) := by
  unfold State.traceTrigger
  split
  · split
    · exact State.traceFire_record h _ _ _ _
    · split
      · exact h
      · exact State.traceMark_record h _ _ _
  · exact h

/-- An error record changes the log, the trace, the event bits and their messages only. -/
theorem State.logError_only (s : State) (r : ErrRec) : State.Only recordComps recordRegs s (s.logError r) := by
  unfold State.logError
  dsimp only
  have h := State.traceError_record (State.logRing_record (.refl _ _ s) r) r s.rasSeq
  split
  · exact State.traceTrigger_record h _ _ _
  · exact h

end Sys2Proof.Machine
end

