-- ==== Sys2Proof/Laws/Moves.lean ====
section
/-!
SUPPORT. What an operation may change and what it keeps, as one relation between the state before and after: the pieces and
tables that may differ, as bit masks over `Comp` and `Tab`, and the soundness and the fuses that no operation undoes. Each
primitive change of the state is shown to stay in the relation here; the operations built from them follow in Moves1 and on.
-/
set_option Elab.async false

namespace Sys2Proof.Machine

/-- From `s` to `u` only the pieces in the mask `m` and the tables in the mask `n` change; a sound state stays sound, and
neither fuse counter falls nor does the broken seal mend. -/
structure State.Moves (m n : Nat) (s u : State) : Prop where
  queue  : u.pending = s.pending
  comps  : ∀ c : Comp, m.testBit c.ctorIdx = false → c.same s u
  regs   : ∀ k : RegKey, n.testBit k.tab.ctorIdx = false → look k u.regs = look k s.regs
  sound  : s.Sound → u.Sound
  floor  : s.Sound → s.fuses.svnFloor ≤ u.fuses.svnFloor
  epoch  : s.fuses.epoch ≤ u.fuses.epoch
  broken : s.fuses.broken = true → u.fuses.broken = true

/-- One mask of pieces lies in another. -/
structure CSub (a m : Nat) : Prop where
  eq : a &&& m = a

/-- One mask of tables lies in another. -/
structure TSub (b n : Nat) : Prop where
  eq : b &&& n = b

theorem and_eq_trans {a b m : Nat} (h : a &&& m = a) (e : b &&& a = b) : b &&& m = b := by
  rw [← e, Nat.and_assoc, h]

theorem CSub.sub {a b m : Nat} (h : CSub a m) (e : b &&& a = b) : CSub b m := ⟨and_eq_trans h.eq e⟩
theorem TSub.sub {a b n : Nat} (h : TSub a n) (e : b &&& a = b) : TSub b n := ⟨and_eq_trans h.eq e⟩
theorem CSub.refl (a : Nat) : CSub a a := ⟨Nat.and_self a⟩
theorem TSub.refl (a : Nat) : TSub a a := ⟨Nat.and_self a⟩

theorem CSub.bit {a m i : Nat} (h : CSub a m) (e : a.testBit i = true) : m.testBit i = true := by
  have := congrArg (·.testBit i) h.eq
  simp only [Nat.testBit_and, e] at this
  simpa using this

theorem TSub.bit {a n i : Nat} (h : TSub a n) (e : a.testBit i = true) : n.testBit i = true := by
  have := congrArg (·.testBit i) h.eq
  simp only [Nat.testBit_and, e] at this
  simpa using this

/-! ## Composition -/

theorem State.Moves.refl (m n : Nat) (s : State) : State.Moves m n s s :=
  ⟨rfl, fun c _ => c.same_refl s, fun _ _ => rfl, id, fun _ => le_refl _, le_refl _, id⟩

theorem State.Moves.trans {m n : Nat} {s u v : State} (h : State.Moves m n s u) (g : State.Moves m n u v) : State.Moves m n s v :=
  ⟨g.queue.trans h.queue, fun c hc => Comp.same_trans (h.comps c hc) (g.comps c hc), fun k hk => (g.regs k hk).trans (h.regs k hk),
    fun x => g.sound (h.sound x), fun x => (h.floor x).trans (g.floor (h.sound x)), h.epoch.trans g.epoch,
    fun x => g.broken (h.broken x)⟩

/-! ## Primitive changes -/

theorem State.rput_mv {m n : Nat} {r s : State} (h : State.Moves m n r s) (f : Fld) (i v : Nat) (hf : f ∈ Tab.fields f.tab)
    (ht : n.testBit f.tab.ctorIdx = true) : State.Moves m n r (s.rput f i v) := by
  refine h.trans ⟨rfl, fun c _ => ?_, fun k hk => ?_, fun x => ?_, fun _ => le_refl _, le_refl _, id⟩
  · cases c <;> simp [Comp.same]
  · have : k ≠ ⟨f.tab, i, f.lo⟩ := by
      rintro rfl
      exact absurd ht (by rw [hk]; decide)
    simp [look_put_ne this]
  · refine ⟨x.memory, x.poison, put_nodup x.listed _ _, fun e he => ?_, x.floor⟩
    rcases mem_put he with rfl | he
    · exact ⟨f, hf, rfl, Nat.mod_lt _ (Nat.two_pow_pos _)⟩
    · exact x.fields e he

theorem State.drop_mv {m n : Nat} {r s : State} (h : State.Moves m n r s) (p : RegKey × Nat → Bool)
    (hp : ∀ k v, n.testBit k.tab.ctorIdx = false → p (k, v) = true) : State.Moves m n r { s with regs := s.regs.filter p } := by
  refine h.trans ⟨rfl, fun c _ => ?_, fun k hk => ?_, fun x => ?_, fun _ => le_refl _, le_refl _, id⟩
  · cases c <;> simp [Comp.same]
  · exact look_filter (fun v => hp k v hk) _
  · exact ⟨x.memory, x.poison, (x.listed.sublist (List.filter_sublist.map _)), fun e he => x.fields e (List.mem_of_mem_filter he), x.floor⟩

theorem State.rreset_mv {m n : Nat} {r s : State} (h : State.Moves m n r s) (t : Tab) (i : Nat)
    (ht : n.testBit t.ctorIdx = true) : State.Moves m n r (s.rreset t i) := by
  refine State.drop_mv h _ fun k v hk => ?_
  have : k.tab ≠ t := by
    rintro rfl
    rw [ht] at hk
    cases hk
  simp [this]

/-- A change of pieces other than memory, poison, registers and fuses. -/
theorem State.mk_mv {m n : Nat} {r s : State} {tsq' hub' slots' obs' tiers' fabric' collect' update' wellhead' cistern' cis' security' power' link' ras' rasLog' rasSeq' msixOut' freeCount'} (h : State.Moves m n r s)
    (h0 : (Tsq.threads tsq' = s.tsq.threads) ∨ m.testBit Comp.threads.ctorIdx = true :=
      by first | exact .inl (by first | rfl | exact ⟨rfl, rfl⟩ | exact ⟨rfl, rfl, rfl⟩ | exact ⟨rfl, rfl, rfl, rfl⟩ | exact ⟨rfl, rfl, rfl, rfl, rfl, rfl⟩) | exact .inr (CSub.bit (by assumption) (by with_unfolding_all rfl)) | exact .inl (by with_unfolding_all (first | rfl | exact ⟨rfl, rfl⟩ | exact ⟨rfl, rfl, rfl⟩ | exact ⟨rfl, rfl, rfl, rfl⟩ | exact ⟨rfl, rfl, rfl, rfl, rfl, rfl⟩)))
    (h1 : (Tsq.turns tsq' = s.tsq.turns) ∨ m.testBit Comp.turn.ctorIdx = true :=
      by first | exact .inl (by first | rfl | exact ⟨rfl, rfl⟩ | exact ⟨rfl, rfl, rfl⟩ | exact ⟨rfl, rfl, rfl, rfl⟩ | exact ⟨rfl, rfl, rfl, rfl, rfl, rfl⟩) | exact .inr (CSub.bit (by assumption) (by with_unfolding_all rfl)) | exact .inl (by with_unfolding_all (first | rfl | exact ⟨rfl, rfl⟩ | exact ⟨rfl, rfl, rfl⟩ | exact ⟨rfl, rfl, rfl, rfl⟩ | exact ⟨rfl, rfl, rfl, rfl, rfl, rfl⟩)))
    (h2 : (Tsq.launches tsq' = s.tsq.launches ∧ Tsq.answers tsq' = s.tsq.answers ∧ Tsq.arrivals tsq' = s.tsq.arrivals ∧ Tsq.fetching tsq' = s.tsq.fetching) ∨ m.testBit Comp.launches.ctorIdx = true :=
      by first | exact .inl (by first | rfl | exact ⟨rfl, rfl⟩ | exact ⟨rfl, rfl, rfl⟩ | exact ⟨rfl, rfl, rfl, rfl⟩ | exact ⟨rfl, rfl, rfl, rfl, rfl, rfl⟩) | exact .inr (CSub.bit (by assumption) (by with_unfolding_all rfl)) | exact .inl (by with_unfolding_all (first | rfl | exact ⟨rfl, rfl⟩ | exact ⟨rfl, rfl, rfl⟩ | exact ⟨rfl, rfl, rfl, rfl⟩ | exact ⟨rfl, rfl, rfl, rfl, rfl, rfl⟩)))
    (h3 : (Tsq.caches tsq' = s.tsq.caches) ∨ m.testBit Comp.caches.ctorIdx = true :=
      by first | exact .inl (by first | rfl | exact ⟨rfl, rfl⟩ | exact ⟨rfl, rfl, rfl⟩ | exact ⟨rfl, rfl, rfl, rfl⟩ | exact ⟨rfl, rfl, rfl, rfl, rfl, rfl⟩) | exact .inr (CSub.bit (by assumption) (by with_unfolding_all rfl)) | exact .inl (by with_unfolding_all (first | rfl | exact ⟨rfl, rfl⟩ | exact ⟨rfl, rfl, rfl⟩ | exact ⟨rfl, rfl, rfl, rfl⟩ | exact ⟨rfl, rfl, rfl, rfl, rfl, rfl⟩)))
    (h4 : (Tsq.cmds tsq' = s.tsq.cmds ∧ Tsq.blockedCmd tsq' = s.tsq.blockedCmd ∧ Tsq.nextCmd tsq' = s.tsq.nextCmd ∧ Tsq.l1Next tsq' = s.tsq.l1Next ∧ Tsq.pairNext tsq' = s.tsq.pairNext ∧ Tsq.early tsq' = s.tsq.early) ∨ m.testBit Comp.queues.ctorIdx = true :=
      by first | exact .inl (by first | rfl | exact ⟨rfl, rfl⟩ | exact ⟨rfl, rfl, rfl⟩ | exact ⟨rfl, rfl, rfl, rfl⟩ | exact ⟨rfl, rfl, rfl, rfl, rfl, rfl⟩) | exact .inr (CSub.bit (by assumption) (by with_unfolding_all rfl)) | exact .inl (by with_unfolding_all (first | rfl | exact ⟨rfl, rfl⟩ | exact ⟨rfl, rfl, rfl⟩ | exact ⟨rfl, rfl, rfl, rfl⟩ | exact ⟨rfl, rfl, rfl, rfl, rfl, rfl⟩)))
    (h5 : (Tsq.gates tsq' = s.tsq.gates ∧ Tsq.flags tsq' = s.tsq.flags ∧ Tsq.rungs tsq' = s.tsq.rungs) ∨ m.testBit Comp.gates.ctorIdx = true :=
      by first | exact .inl (by first | rfl | exact ⟨rfl, rfl⟩ | exact ⟨rfl, rfl, rfl⟩ | exact ⟨rfl, rfl, rfl, rfl⟩ | exact ⟨rfl, rfl, rfl, rfl, rfl, rfl⟩) | exact .inr (CSub.bit (by assumption) (by with_unfolding_all rfl)) | exact .inl (by with_unfolding_all (first | rfl | exact ⟨rfl, rfl⟩ | exact ⟨rfl, rfl, rfl⟩ | exact ⟨rfl, rfl, rfl, rfl⟩ | exact ⟨rfl, rfl, rfl, rfl, rfl, rfl⟩)))
    (h6 : (Tsq.gauges tsq' = s.tsq.gauges ∧ Tsq.clearing tsq' = s.tsq.clearing) ∨ m.testBit Comp.gauges.ctorIdx = true :=
      by first | exact .inl (by first | rfl | exact ⟨rfl, rfl⟩ | exact ⟨rfl, rfl, rfl⟩ | exact ⟨rfl, rfl, rfl, rfl⟩ | exact ⟨rfl, rfl, rfl, rfl, rfl, rfl⟩) | exact .inr (CSub.bit (by assumption) (by with_unfolding_all rfl)) | exact .inl (by with_unfolding_all (first | rfl | exact ⟨rfl, rfl⟩ | exact ⟨rfl, rfl, rfl⟩ | exact ⟨rfl, rfl, rfl, rfl⟩ | exact ⟨rfl, rfl, rfl, rfl, rfl, rfl⟩)))
    (h7 : (hub' = s.hub) ∨ m.testBit Comp.hub.ctorIdx = true :=
      by first | exact .inl (by first | rfl | exact ⟨rfl, rfl⟩ | exact ⟨rfl, rfl, rfl⟩ | exact ⟨rfl, rfl, rfl, rfl⟩ | exact ⟨rfl, rfl, rfl, rfl, rfl, rfl⟩) | exact .inr (CSub.bit (by assumption) (by with_unfolding_all rfl)) | exact .inl (by with_unfolding_all (first | rfl | exact ⟨rfl, rfl⟩ | exact ⟨rfl, rfl, rfl⟩ | exact ⟨rfl, rfl, rfl, rfl⟩ | exact ⟨rfl, rfl, rfl, rfl, rfl, rfl⟩)))
    (h8 : (slots' = s.slots) ∨ m.testBit Comp.coding.ctorIdx = true :=
      by first | exact .inl (by first | rfl | exact ⟨rfl, rfl⟩ | exact ⟨rfl, rfl, rfl⟩ | exact ⟨rfl, rfl, rfl, rfl⟩ | exact ⟨rfl, rfl, rfl, rfl, rfl, rfl⟩) | exact .inr (CSub.bit (by assumption) (by with_unfolding_all rfl)) | exact .inl (by with_unfolding_all (first | rfl | exact ⟨rfl, rfl⟩ | exact ⟨rfl, rfl, rfl⟩ | exact ⟨rfl, rfl, rfl, rfl⟩ | exact ⟨rfl, rfl, rfl, rfl, rfl, rfl⟩)))
    (h9 : (Obs.samplers obs' = s.obs.samplers) ∨ m.testBit Comp.sampling.ctorIdx = true :=
      by first | exact .inl (by first | rfl | exact ⟨rfl, rfl⟩ | exact ⟨rfl, rfl, rfl⟩ | exact ⟨rfl, rfl, rfl, rfl⟩ | exact ⟨rfl, rfl, rfl, rfl, rfl, rfl⟩) | exact .inr (CSub.bit (by assumption) (by with_unfolding_all rfl)) | exact .inl (by with_unfolding_all (first | rfl | exact ⟨rfl, rfl⟩ | exact ⟨rfl, rfl, rfl⟩ | exact ⟨rfl, rfl, rfl, rfl⟩ | exact ⟨rfl, rfl, rfl, rfl, rfl, rfl⟩)))
    (h10 : (Obs.bufs obs' = s.obs.bufs ∧ Obs.linked obs' = s.obs.linked) ∨ m.testBit Comp.trace.ctorIdx = true :=
      by first | exact .inl (by first | rfl | exact ⟨rfl, rfl⟩ | exact ⟨rfl, rfl, rfl⟩ | exact ⟨rfl, rfl, rfl, rfl⟩ | exact ⟨rfl, rfl, rfl, rfl, rfl, rfl⟩) | exact .inr (CSub.bit (by assumption) (by with_unfolding_all rfl)) | exact .inl (by with_unfolding_all (first | rfl | exact ⟨rfl, rfl⟩ | exact ⟨rfl, rfl, rfl⟩ | exact ⟨rfl, rfl, rfl, rfl⟩ | exact ⟨rfl, rfl, rfl, rfl, rfl, rfl⟩)))
    (h11 : (Tiers.failed tiers' = s.tiers.failed ∧ Tiers.rowErrors tiers' = s.tiers.rowErrors ∧ Tiers.spared tiers' = s.tiers.spared) ∨ m.testBit Comp.memUnits.ctorIdx = true :=
      by first | exact .inl (by first | rfl | exact ⟨rfl, rfl⟩ | exact ⟨rfl, rfl, rfl⟩ | exact ⟨rfl, rfl, rfl, rfl⟩ | exact ⟨rfl, rfl, rfl, rfl, rfl, rfl⟩) | exact .inr (CSub.bit (by assumption) (by with_unfolding_all rfl)) | exact .inl (by with_unfolding_all (first | rfl | exact ⟨rfl, rfl⟩ | exact ⟨rfl, rfl, rfl⟩ | exact ⟨rfl, rfl, rfl, rfl⟩ | exact ⟨rfl, rfl, rfl, rfl, rfl, rfl⟩)))
    (h12 : (Tiers.snoop tiers' = s.tiers.snoop) ∨ m.testBit Comp.snoop.ctorIdx = true :=
      by first | exact .inl (by first | rfl | exact ⟨rfl, rfl⟩ | exact ⟨rfl, rfl, rfl⟩ | exact ⟨rfl, rfl, rfl, rfl⟩ | exact ⟨rfl, rfl, rfl, rfl, rfl, rfl⟩) | exact .inr (CSub.bit (by assumption) (by with_unfolding_all rfl)) | exact .inl (by with_unfolding_all (first | rfl | exact ⟨rfl, rfl⟩ | exact ⟨rfl, rfl, rfl⟩ | exact ⟨rfl, rfl, rfl, rfl⟩ | exact ⟨rfl, rfl, rfl, rfl, rfl, rfl⟩)))
    (h13 : (fabric' = s.fabric) ∨ m.testBit Comp.fabric.ctorIdx = true :=
      by first | exact .inl (by first | rfl | exact ⟨rfl, rfl⟩ | exact ⟨rfl, rfl, rfl⟩ | exact ⟨rfl, rfl, rfl, rfl⟩ | exact ⟨rfl, rfl, rfl, rfl, rfl, rfl⟩) | exact .inr (CSub.bit (by assumption) (by with_unfolding_all rfl)) | exact .inl (by with_unfolding_all (first | rfl | exact ⟨rfl, rfl⟩ | exact ⟨rfl, rfl, rfl⟩ | exact ⟨rfl, rfl, rfl, rfl⟩ | exact ⟨rfl, rfl, rfl, rfl, rfl, rfl⟩)))
    (h14 : (collect' = s.collect) ∨ m.testBit Comp.collect.ctorIdx = true :=
      by first | exact .inl (by first | rfl | exact ⟨rfl, rfl⟩ | exact ⟨rfl, rfl, rfl⟩ | exact ⟨rfl, rfl, rfl, rfl⟩ | exact ⟨rfl, rfl, rfl, rfl, rfl, rfl⟩) | exact .inr (CSub.bit (by assumption) (by with_unfolding_all rfl)) | exact .inl (by with_unfolding_all (first | rfl | exact ⟨rfl, rfl⟩ | exact ⟨rfl, rfl, rfl⟩ | exact ⟨rfl, rfl, rfl, rfl⟩ | exact ⟨rfl, rfl, rfl, rfl, rfl, rfl⟩)))
    (h15 : (update' = s.update) ∨ m.testBit Comp.update.ctorIdx = true :=
      by first | exact .inl (by first | rfl | exact ⟨rfl, rfl⟩ | exact ⟨rfl, rfl, rfl⟩ | exact ⟨rfl, rfl, rfl, rfl⟩ | exact ⟨rfl, rfl, rfl, rfl, rfl, rfl⟩) | exact .inr (CSub.bit (by assumption) (by with_unfolding_all rfl)) | exact .inl (by with_unfolding_all (first | rfl | exact ⟨rfl, rfl⟩ | exact ⟨rfl, rfl, rfl⟩ | exact ⟨rfl, rfl, rfl, rfl⟩ | exact ⟨rfl, rfl, rfl, rfl, rfl, rfl⟩)))
    (h16 : (wellhead' = s.wellhead) ∨ m.testBit Comp.wellhead.ctorIdx = true :=
      by first | exact .inl (by first | rfl | exact ⟨rfl, rfl⟩ | exact ⟨rfl, rfl, rfl⟩ | exact ⟨rfl, rfl, rfl, rfl⟩ | exact ⟨rfl, rfl, rfl, rfl, rfl, rfl⟩) | exact .inr (CSub.bit (by assumption) (by with_unfolding_all rfl)) | exact .inl (by with_unfolding_all (first | rfl | exact ⟨rfl, rfl⟩ | exact ⟨rfl, rfl, rfl⟩ | exact ⟨rfl, rfl, rfl, rfl⟩ | exact ⟨rfl, rfl, rfl, rfl, rfl, rfl⟩)))
    (h17 : (cistern' = s.cistern) ∨ m.testBit Comp.cistern.ctorIdx = true :=
      by first | exact .inl (by first | rfl | exact ⟨rfl, rfl⟩ | exact ⟨rfl, rfl, rfl⟩ | exact ⟨rfl, rfl, rfl, rfl⟩ | exact ⟨rfl, rfl, rfl, rfl, rfl, rfl⟩) | exact .inr (CSub.bit (by assumption) (by with_unfolding_all rfl)) | exact .inl (by with_unfolding_all (first | rfl | exact ⟨rfl, rfl⟩ | exact ⟨rfl, rfl, rfl⟩ | exact ⟨rfl, rfl, rfl, rfl⟩ | exact ⟨rfl, rfl, rfl, rfl, rfl, rfl⟩)))
    (h18 : (cis' = s.cis) ∨ m.testBit Comp.cisternRun.ctorIdx = true :=
      by first | exact .inl (by first | rfl | exact ⟨rfl, rfl⟩ | exact ⟨rfl, rfl, rfl⟩ | exact ⟨rfl, rfl, rfl, rfl⟩ | exact ⟨rfl, rfl, rfl, rfl, rfl, rfl⟩) | exact .inr (CSub.bit (by assumption) (by with_unfolding_all rfl)) | exact .inl (by with_unfolding_all (first | rfl | exact ⟨rfl, rfl⟩ | exact ⟨rfl, rfl, rfl⟩ | exact ⟨rfl, rfl, rfl, rfl⟩ | exact ⟨rfl, rfl, rfl, rfl, rfl, rfl⟩)))
    (h19 : (security' = s.security) ∨ m.testBit Comp.security.ctorIdx = true :=
      by first | exact .inl (by first | rfl | exact ⟨rfl, rfl⟩ | exact ⟨rfl, rfl, rfl⟩ | exact ⟨rfl, rfl, rfl, rfl⟩ | exact ⟨rfl, rfl, rfl, rfl, rfl, rfl⟩) | exact .inr (CSub.bit (by assumption) (by with_unfolding_all rfl)) | exact .inl (by with_unfolding_all (first | rfl | exact ⟨rfl, rfl⟩ | exact ⟨rfl, rfl, rfl⟩ | exact ⟨rfl, rfl, rfl, rfl⟩ | exact ⟨rfl, rfl, rfl, rfl, rfl, rfl⟩)))
    (h20 : (power' = s.power) ∨ m.testBit Comp.power.ctorIdx = true :=
      by first | exact .inl (by first | rfl | exact ⟨rfl, rfl⟩ | exact ⟨rfl, rfl, rfl⟩ | exact ⟨rfl, rfl, rfl, rfl⟩ | exact ⟨rfl, rfl, rfl, rfl, rfl, rfl⟩) | exact .inr (CSub.bit (by assumption) (by with_unfolding_all rfl)) | exact .inl (by with_unfolding_all (first | rfl | exact ⟨rfl, rfl⟩ | exact ⟨rfl, rfl, rfl⟩ | exact ⟨rfl, rfl, rfl, rfl⟩ | exact ⟨rfl, rfl, rfl, rfl, rfl, rfl⟩)))
    (h21 : (link' = s.link) ∨ m.testBit Comp.link.ctorIdx = true :=
      by first | exact .inl (by first | rfl | exact ⟨rfl, rfl⟩ | exact ⟨rfl, rfl, rfl⟩ | exact ⟨rfl, rfl, rfl, rfl⟩ | exact ⟨rfl, rfl, rfl, rfl, rfl, rfl⟩) | exact .inr (CSub.bit (by assumption) (by with_unfolding_all rfl)) | exact .inl (by with_unfolding_all (first | rfl | exact ⟨rfl, rfl⟩ | exact ⟨rfl, rfl, rfl⟩ | exact ⟨rfl, rfl, rfl, rfl⟩ | exact ⟨rfl, rfl, rfl, rfl, rfl, rfl⟩)))
    (h22 : (ras' = s.ras) ∨ m.testBit Comp.ras.ctorIdx = true :=
      by first | exact .inl (by first | rfl | exact ⟨rfl, rfl⟩ | exact ⟨rfl, rfl, rfl⟩ | exact ⟨rfl, rfl, rfl, rfl⟩ | exact ⟨rfl, rfl, rfl, rfl, rfl, rfl⟩) | exact .inr (CSub.bit (by assumption) (by with_unfolding_all rfl)) | exact .inl (by with_unfolding_all (first | rfl | exact ⟨rfl, rfl⟩ | exact ⟨rfl, rfl, rfl⟩ | exact ⟨rfl, rfl, rfl, rfl⟩ | exact ⟨rfl, rfl, rfl, rfl, rfl, rfl⟩)))
    (h23 : (rasLog' = s.rasLog ∧ rasSeq' = s.rasSeq) ∨ m.testBit Comp.errorLog.ctorIdx = true :=
      by first | exact .inl (by first | rfl | exact ⟨rfl, rfl⟩ | exact ⟨rfl, rfl, rfl⟩ | exact ⟨rfl, rfl, rfl, rfl⟩ | exact ⟨rfl, rfl, rfl, rfl, rfl, rfl⟩) | exact .inr (CSub.bit (by assumption) (by with_unfolding_all rfl)) | exact .inl (by with_unfolding_all (first | rfl | exact ⟨rfl, rfl⟩ | exact ⟨rfl, rfl, rfl⟩ | exact ⟨rfl, rfl, rfl, rfl⟩ | exact ⟨rfl, rfl, rfl, rfl, rfl, rfl⟩)))
    (h24 : (msixOut' = s.msixOut) ∨ m.testBit Comp.messages.ctorIdx = true :=
      by first | exact .inl (by first | rfl | exact ⟨rfl, rfl⟩ | exact ⟨rfl, rfl, rfl⟩ | exact ⟨rfl, rfl, rfl, rfl⟩ | exact ⟨rfl, rfl, rfl, rfl, rfl, rfl⟩) | exact .inr (CSub.bit (by assumption) (by with_unfolding_all rfl)) | exact .inl (by with_unfolding_all (first | rfl | exact ⟨rfl, rfl⟩ | exact ⟨rfl, rfl, rfl⟩ | exact ⟨rfl, rfl, rfl, rfl⟩ | exact ⟨rfl, rfl, rfl, rfl, rfl, rfl⟩)))
    (h25 : (freeCount' = s.freeCount) ∨ m.testBit Comp.free.ctorIdx = true :=
      by first | exact .inl (by first | rfl | exact ⟨rfl, rfl⟩ | exact ⟨rfl, rfl, rfl⟩ | exact ⟨rfl, rfl, rfl, rfl⟩ | exact ⟨rfl, rfl, rfl, rfl, rfl, rfl⟩) | exact .inr (CSub.bit (by assumption) (by with_unfolding_all rfl)) | exact .inl (by with_unfolding_all (first | rfl | exact ⟨rfl, rfl⟩ | exact ⟨rfl, rfl, rfl⟩ | exact ⟨rfl, rfl, rfl, rfl⟩ | exact ⟨rfl, rfl, rfl, rfl, rfl, rfl⟩)))
    (ho : security'.op = s.security.op := by first | rfl | assumption | with_unfolding_all rfl) :
    State.Moves m n r (State.mk s.pending s.mem s.poison s.regs tsq' hub' slots' obs' tiers' fabric' collect' update' wellhead' cistern' cis' s.fuses security' power' link' ras' rasLog' rasSeq' msixOut' freeCount') := by
  refine h.trans ⟨rfl, fun c hc => ?_, fun _ _ => rfl, fun x => ⟨x.memory, x.poison, x.listed, x.fields, ?_⟩, fun _ => le_refl _,
    le_refl _, id⟩
  · cases c
    case memory => exact fun _ => rfl
    case poison => rfl
    case fuses => rfl
    case threads => exact h0.resolve_right (by rw [hc]; decide)
    case turn => exact h1.resolve_right (by rw [hc]; decide)
    case launches => exact h2.resolve_right (by rw [hc]; decide)
    case caches => exact h3.resolve_right (by rw [hc]; decide)
    case queues => exact h4.resolve_right (by rw [hc]; decide)
    case gates => exact h5.resolve_right (by rw [hc]; decide)
    case gauges => exact h6.resolve_right (by rw [hc]; decide)
    case hub => exact h7.resolve_right (by rw [hc]; decide)
    case coding => exact h8.resolve_right (by rw [hc]; decide)
    case sampling => exact h9.resolve_right (by rw [hc]; decide)
    case trace => exact h10.resolve_right (by rw [hc]; decide)
    case memUnits => exact h11.resolve_right (by rw [hc]; decide)
    case snoop => exact h12.resolve_right (by rw [hc]; decide)
    case fabric => exact h13.resolve_right (by rw [hc]; decide)
    case collect => exact h14.resolve_right (by rw [hc]; decide)
    case update => exact h15.resolve_right (by rw [hc]; decide)
    case wellhead => exact h16.resolve_right (by rw [hc]; decide)
    case cistern => exact h17.resolve_right (by rw [hc]; decide)
    case cisternRun => exact h18.resolve_right (by rw [hc]; decide)
    case security => exact h19.resolve_right (by rw [hc]; decide)
    case power => exact h20.resolve_right (by rw [hc]; decide)
    case link => exact h21.resolve_right (by rw [hc]; decide)
    case ras => exact h22.resolve_right (by rw [hc]; decide)
    case errorLog => exact h23.resolve_right (by rw [hc]; decide)
    case messages => exact h24.resolve_right (by rw [hc]; decide)
    case free => exact h25.resolve_right (by rw [hc]; decide)
  · intro o e
    rw [ho] at e
    exact x.floor o e

theorem State.sec_mv {m n : Nat} {r s : State} (h : State.Moves m n r s) (c : Security)
    (hc : ∀ o, c.op = some o → o.op = opRaiseFloor → o.reason = none → s.Sound → s.fuses.svnFloor ≤ o.arg)
    (hm : m.testBit Comp.security.ctorIdx = true) : State.Moves m n r { s with security := c } := by
  refine h.trans ⟨rfl, fun d hd => ?_, fun _ _ => rfl, fun x => ⟨x.memory, x.poison, x.listed, x.fields, fun o e e1 e2 => hc o e e1 e2 x⟩,
    fun _ => le_refl _, le_refl _, id⟩
  cases d <;> first | exact absurd hm (by rw [hd]; decide) | simp [Comp.same]

theorem State.fuses_mv {m n : Nat} {r s : State} (h : State.Moves m n r s) (f : Fuses) (hm : m.testBit Comp.fuses.ctorIdx = true)
    (hs : s.Sound → s.fuses.svnFloor ≤ f.svnFloor ∧ ∀ o, s.security.op = some o → o.op = opRaiseFloor → o.reason = none → f.svnFloor ≤ o.arg)
    (he : s.fuses.epoch ≤ f.epoch) (hb : s.fuses.broken = true → f.broken = true) : State.Moves m n r { s with fuses := f } := by
  refine h.trans ⟨rfl, fun d hd => ?_, fun _ _ => rfl, fun x => ⟨x.memory, x.poison, x.listed, x.fields, (hs x).2⟩,
    fun x => (hs x).1, he, hb⟩
  cases d <;> first | exact absurd hm (by rw [hd]; decide) | simp [Comp.same]

theorem foldl_markLine_sorted (ls : List Nat) (q : List Nat → Nat → Bool) {ps : List Nat} (h : ps.Pairwise (· < ·)) :
    (ls.foldl (fun ps l => markLine l (q ps l) ps) ps).Pairwise (· < ·) := by
  induction ls generalizing ps with
  | nil => exact h
  | cons l ls ih => exact ih (markLine_sorted h)

theorem State.memory_mv {m n : Nat} {r s : State} (h : State.Moves m n r s) {mem : List Host.Cell} {poison : List Nat}
    (hw : Memory.wf s.mem = true → Memory.wf mem = true) (hp : s.poison.Pairwise (· < ·) → poison.Pairwise (· < ·))
    (h1 : m.testBit Comp.memory.ctorIdx = true) (h2 : m.testBit Comp.poison.ctorIdx = true) :
    State.Moves m n r { s with mem := mem, poison := poison } := by
  refine h.trans ⟨rfl, fun d hd => ?_, fun _ _ => rfl, fun x => ⟨hw x.memory, hp x.poison, x.listed, x.fields, x.floor⟩,
    fun _ => le_refl _, le_refl _, id⟩
  cases d <;> first | exact absurd h1 (by rw [hd]; decide) | exact absurd h2 (by rw [hd]; decide) | simp [Comp.same]

theorem State.mark_mv {m n : Nat} {r s : State} (h : State.Moves m n r s) (l : Nat) (p : Bool)
    (h2 : m.testBit Comp.poison.ctorIdx = true) : State.Moves m n r { s with poison := markLine l p s.poison } := by
  refine h.trans ⟨rfl, fun d hd => ?_, fun _ _ => rfl, fun x => ⟨x.memory, markLine_sorted x.poison, x.listed, x.fields, x.floor⟩,
    fun _ => le_refl _, le_refl _, id⟩
  cases d <;> first | exact absurd h2 (by rw [hd]; decide) | simp [Comp.same]

theorem State.epoch_mv {m n : Nat} {r s : State} (h : State.Moves m n r s) (hm : m.testBit Comp.fuses.ctorIdx = true) :
    State.Moves m n r { s with fuses := { s.fuses with epoch := s.fuses.epoch + 1 } } :=
  State.fuses_mv h _ hm (fun x => ⟨le_refl _, x.floor⟩) (Nat.le_succ _) id

theorem State.seal_mv {m n : Nat} {r s : State} (h : State.Moves m n r s) (hm : m.testBit Comp.fuses.ctorIdx = true) :
    State.Moves m n r { s with fuses := { s.fuses with broken := true } } :=
  State.fuses_mv h _ hm (fun x => ⟨le_refl _, x.floor⟩) (le_refl _) fun _ => rfl

/-- A store writes memory, poison, counters and the snoop filter; the counting comes first. -/
theorem State.bytes_mv {m n : Nat} {r s : State} (h : State.Moves m n r s) {α : Type} (w : List α) (ad : α → Nat) (v : α → Byte)
    (ls : List Nat) (q : List Nat → Nat → Bool) (h1 : m.testBit Comp.memory.ctorIdx = true) (h2 : m.testBit Comp.poison.ctorIdx = true) :
    State.Moves m n r { s with
      mem := w.foldl (fun m e => Memory.write (ad e) (v e) m) s.mem
      poison := ls.foldl (fun ps l => markLine l (q ps l) ps) s.poison } :=
  State.memory_mv h (fun x => Memory.foldl_wf ad v w x) (foldl_markLine_sorted ls q) h1 h2

theorem State.wipe_mv {m n : Nat} {r s : State} (h : State.Moves m n r s) (lo hi : Nat) (hm : CSub 0x3 m) :
    State.Moves m n r (s.wipe lo hi) :=
  State.memory_mv h (fun x => Memory.clear_wf x lo hi) (fun x => x.sublist List.filter_sublist) (hm.bit rfl) (hm.bit rfl)

theorem foldl_addLine_sorted (ls : List Nat) {ps : List Nat} (h : ps.Pairwise (· < ·)) :
    (ls.foldl (fun ps l => addLine l ps) ps).Pairwise (· < ·) := by
  induction ls generalizing ps with
  | nil => exact h
  | cons l ls ih => exact ih (addLine_sorted h)

/-- A half-B command's stores off the chip are undone (13, R426). -/
theorem keepOffChip_mv {m n : Nat} {r s t : State} (h : State.Moves m n r s) (g : State.Moves m n r t) (hm : CSub 0x3 m) :
    State.Moves m n r (keepOffChip s t) := by
  refine ⟨g.queue, fun c hc => ?_, g.regs, fun x => ?_, g.floor, g.epoch, g.broken⟩
  · have := g.comps c hc
    cases c <;> first
      | exact absurd (hm.bit (i := Comp.memory.ctorIdx) rfl) (by rw [hc]; decide)
      | exact absurd (hm.bit (i := Comp.poison.ctorIdx) rfl) (by rw [hc]; decide)
      | exact this
  · have y := g.sound x
    exact ⟨Memory.foldl_wf (fun c : Host.Cell => c.1) (fun c => c.2) _ (Memory.filter_wf (h.sound x).memory _),
      foldl_addLine_sorted _ ((h.sound x).poison.sublist List.filter_sublist), y.listed, y.fields, y.floor⟩

/-! ## Structure -/

theorem State.Moves.ite {m n : Nat} {r a b : State} {c : Prop} [Decidable c] (ha : c → State.Moves m n r a)
    (hb : ¬c → State.Moves m n r b) : State.Moves m n r (if c then a else b) := by
  split <;> simp_all

theorem foldl_mv {m n : Nat} {r s : State} {α : Type} {f : State → α → State} {l : List α} (h : State.Moves m n r s)
    (hf : ∀ x a, a ∈ l → State.Moves m n r x → State.Moves m n r (f x a)) : State.Moves m n r (l.foldl f s) := by
  induction l generalizing s with
  | nil => exact h
  | cons a l ih => exact ih (hf s a (by simp) h) fun x b hb => hf x b (by simp [hb])

theorem foldl_mv2 {m n : Nat} {r : State} {α β : Type} {f : β × State → α → β × State} {l : List α} {x : β × State}
    (h : State.Moves m n r x.2) (hf : ∀ x a, State.Moves m n r x.2 → State.Moves m n r (f x a).2) :
    State.Moves m n r (l.foldl f x).2 := by
  induction l generalizing x with
  | nil => exact h
  | cons a l ih => exact ih (hf x a h)

theorem foldl_mv1 {m n : Nat} {r : State} {α β : Type} {f : State × β → α → State × β} {l : List α} {x : State × β}
    (h : State.Moves m n r x.1) (hf : ∀ x a, State.Moves m n r x.1 → State.Moves m n r (f x a).1) :
    State.Moves m n r (l.foldl f x).1 := by
  induction l generalizing x with
  | nil => exact h
  | cons a l ih => exact ih (hf x a h)

theorem mv_snd {m n : Nat} {r t : State} {α : Type} {x : α × State} {a : α} (e : x = (a, t)) (h : State.Moves m n r x.2) :
    State.Moves m n r t := by
  subst e; exact h

theorem mv_snd2 {m n : Nat} {r t : State} {α β : Type} {x : α × β × State} {a : α} {b : β} (e : x = (a, b, t))
    (h : State.Moves m n r x.2.2) : State.Moves m n r t := by
  subst e; exact h

theorem mv_fst {m n : Nat} {r t : State} {α : Type} {x : State × α} {a : α} (e : x = (t, a)) (h : State.Moves m n r x.1) :
    State.Moves m n r t := by
  subst e; exact h

/-- A meaning whose next state is in the relation. -/
structure State.MovesO (m n : Nat) (r : State) (o : Host.Outcome State Fault Refusal) : Prop where
  of : ∀ t, o = .next t → State.Moves m n r t

theorem State.MovesO.next {m n : Nat} {r s : State} (h : State.Moves m n r s) : State.MovesO m n r (.next s) :=
  ⟨by intro t e; cases e; exact h⟩

theorem State.MovesO.fault {m n : Nat} {r : State} {f : Fault} : State.MovesO m n r (.fault f) := ⟨by intro t e; cases e⟩

theorem State.MovesO.ite {m n : Nat} {r : State} {a b : Host.Outcome State Fault Refusal} {c : Prop} [Decidable c]
    (ha : c → State.MovesO m n r a) (hb : ¬c → State.MovesO m n r b) : State.MovesO m n r (if c then a else b) := by
  split <;> simp_all

/-- An answer that is absent or in the relation. -/
structure State.MvOpt (m n : Nat) (r : State) (o : Option State) : Prop where
  of : ∀ t, o = some t → State.Moves m n r t

structure State.MvOptD (m n : Nat) (r : State) (o : Option Done) : Prop where
  of : ∀ t, o = some t → State.Moves m n r t.state

theorem State.MvOpt.some {m n : Nat} {r s : State} (h : State.Moves m n r s) : State.MvOpt m n r (some s) :=
  ⟨by intro t e; cases e; exact h⟩
theorem State.MvOpt.none {m n : Nat} {r : State} : State.MvOpt m n r none := ⟨by intro t e; cases e⟩
theorem State.MvOpt.ite {m n : Nat} {r : State} {a b : Option State} {c : Prop} [Decidable c] (ha : c → State.MvOpt m n r a)
    (hb : ¬c → State.MvOpt m n r b) : State.MvOpt m n r (if c then a else b) := by
  split <;> simp_all
theorem State.MvOpt.map {m n : Nat} {r : State} {o : Option State} {f : State → State} (h : State.MvOpt m n r o)
    (hf : ∀ x, State.Moves m n r x → State.Moves m n r (f x)) : State.MvOpt m n r (o.map f) := by
  constructor
  intro t e
  cases o with
  | none => cases e
  | some x => cases e; exact hf x (h.of x rfl)
theorem State.MvOpt.getD {m n : Nat} {r s : State} {o : Option State} (h : State.MvOpt m n r o) (hs : State.Moves m n r s) :
    State.Moves m n r (o.getD s) := by
  cases o with
  | none => exact hs
  | some x => exact h.of x rfl
theorem State.MvOptD.some {m n : Nat} {r : State} {s : Done} (h : State.Moves m n r s.state) : State.MvOptD m n r (some s) :=
  ⟨by intro t e; cases e; exact h⟩
theorem State.MvOptD.none {m n : Nat} {r : State} : State.MvOptD m n r none := ⟨by intro t e; cases e⟩
theorem State.MvOptD.ite {m n : Nat} {r : State} {a b : Option Done} {c : Prop} [Decidable c] (ha : c → State.MvOptD m n r a)
    (hb : ¬c → State.MvOptD m n r b) : State.MvOptD m n r (if c then a else b) := by
  split <;> simp_all

/-! ## Fields of tables -/

theorem mem_of {f : Fld} (h : decide (f ∈ Tab.fields f.tab) = true) : f ∈ Tab.fields f.tab := of_decide_eq_true h

theorem fld_of_list {f : Fld} {l : List Fld} (h : f ∈ l) (d : decide (∀ y ∈ l, y ∈ Tab.fields y.tab) = true) :
    f ∈ Tab.fields f.tab := of_decide_eq_true d f h

theorem bit_of_list {f : Fld} {l : List Fld} {a : Nat} (h : f ∈ l) (d : decide (∀ y ∈ l, a.testBit y.tab.ctorIdx = true) = true) :
    a.testBit f.tab.ctorIdx = true := of_decide_eq_true d f h

theorem Tab.fields_tab (t : Tab) : ∀ f ∈ Tab.fields t, f.tab = t := by
  have h : ∀ t : Tab, (Tab.fields t).all (fun f => decide (f.tab = t)) = true := by intro t; cases t <;> decide
  intro f hf
  have := List.all_eq_true.mp (h t) f hf
  simpa using this

theorem fld_of_tab {f : Fld} {t : Tab} (h : f ∈ Tab.fields t) : f ∈ Tab.fields f.tab := by
  rw [Tab.fields_tab t f h]; exact h

theorem bit_of_tab {f : Fld} {t : Tab} {n : Nat} (h : f ∈ Tab.fields t) (hn : n.testBit t.ctorIdx = true) :
    n.testBit f.tab.ctorIdx = true := by
  rw [Tab.fields_tab t f h]; exact hn

theorem Kind.stateFld_mem (k : Kind) : k.stateFld ∈ Tab.fields k.stateFld.tab := by cases k <;> decide
theorem Kind.pendFld_mem (k : Kind) : k.pendFld ∈ Tab.fields k.pendFld.tab := by cases k <;> decide
theorem Kind.handleFld_mem (k : Kind) : k.handleFld ∈ Tab.fields k.handleFld.tab := by cases k <;> decide
theorem Kind.endFld_mem (k : Kind) (f : Fld) (h : k.endFld = some f) : f ∈ Tab.fields f.tab := by
  cases k <;> simp [Kind.endFld] at h <;> subst h <;> decide

theorem Kind.stateFld_bit (k : Kind) : Nat.testBit 0x18000110c11008 k.stateFld.tab.ctorIdx = true := by cases k <;> rfl
theorem Kind.pendFld_bit (k : Kind) : Nat.testBit 0x18000110c11008 k.pendFld.tab.ctorIdx = true := by cases k <;> rfl
theorem Kind.handleFld_bit (k : Kind) : Nat.testBit 0x18000110c11008 k.handleFld.tab.ctorIdx = true := by cases k <;> rfl
theorem Kind.tab_bit (k : Kind) : Nat.testBit 0x18000110c11008 k.tab.ctorIdx = true := by cases k <;> rfl
theorem Kind.endFld_bit (k : Kind) (f : Fld) (h : k.endFld = some f) : Nat.testBit 0x18000110c11008 f.tab.ctorIdx = true := by
  cases k <;> simp [Kind.endFld] at h <;> subst h <;> rfl

theorem d2dFld_mem (i : Nat) : d2dFld i ∈ Tab.fields (d2dFld i).tab := by
  match i with
  | 0 | 1 | 2 | 3 | 4 | 5 | 6 | 7 => decide
  | n + 8 => exact mem_of (by simp [d2dFld]; decide)

theorem d2dFld_tab (i : Nat) : (d2dFld i).tab = .hubD2d := by
  match i with
  | 0 | 1 | 2 | 3 | 4 | 5 | 6 | 7 => rfl
  | n + 8 => simp [d2dFld]; rfl

/-- Every table is one of all tables. -/
theorem Tab.bit_all (t : Tab) : (0x1ffffffffffffffffff : Nat).testBit t.ctorIdx = true := by cases t <;> rfl

theorem d2dFld_bit (i : Nat) {a : Nat} (h : a.testBit Tab.hubD2d.ctorIdx = true) : a.testBit (d2dFld i).tab.ctorIdx = true := by
  rw [d2dFld_tab]; exact h

end Sys2Proof.Machine
end

