-- ==== Sys2Proof/Laws/Moves1.lean ====
section
/-!
SUPPORT. What the operations of Ops, Access, Threads, Flags, Bindings and Frames may change: each one stays in
the relation `State.Moves` with the pieces and tables of its masks.
-/
set_option Elab.async false

namespace Sys2Proof.Machine

variable {μ ν : Nat} {s₀ s : State} (h₀ : State.Moves μ ν s₀ s)
include h₀

/-! ## Ops -/

theorem State.rinc_mv (f : Fld) (i : Nat) (n : Nat) (h_f : f ∈ Tab.fields f.tab)
    (t_f : ν.testBit f.tab.ctorIdx = true) :
    State.Moves μ ν s₀ (State.rinc s f i n) := by
  unfold State.rinc
  try dsimp only
  with_reducible repeat' (first
    | assumption | apply State.rput_mv)

theorem State.rwrap_mv (f : Fld) (i : Nat) (n : Nat) (h_f : f ∈ Tab.fields f.tab)
    (t_f : ν.testBit f.tab.ctorIdx = true) :
    State.Moves μ ν s₀ (State.rwrap s f i n) := by
  unfold State.rwrap
  try dsimp only
  with_reducible repeat' (first
    | assumption | apply State.rput_mv)

theorem State.draw_mv (hm : CSub 0x10000000 μ) :
    State.Moves μ ν s₀ (State.draw s).2 := by
  unfold State.draw
  try dsimp only
  with_reducible repeat' (first
    | assumption | intro _ | exact hm.sub (by decide) | exact hm.bit (by decide) | split
    | refine State.mk_mv ?_ | rfl | exact mem_of (by decide))

theorem State.refuse_mv (code : Nat) (hn : TSub 0x1 ν) :
    State.Moves μ ν s₀ (State.refuse s code) := by
  unfold State.refuse
  try dsimp only
  with_reducible repeat' (first
    | assumption | exact hn.bit (by decide) | apply State.rput_mv | exact mem_of (by decide))

theorem State.sendMsix_mv (v : Nat) (hm : CSub 0x8000000 μ) (hn : TSub 0x1000000000000000000 ν) :
    State.Moves μ ν s₀ (State.sendMsix s v) := by
  unfold State.sendMsix
  try dsimp only
  with_reducible repeat' (first
    | assumption | intro _ | exact hm.sub (by decide) | exact hn.sub (by decide)
    | exact hn.bit (by decide) | exact hm.bit (by decide) | apply State.rput_mv | apply State.Moves.ite
    | split | refine State.mk_mv ?_ | rfl | exact mem_of (by decide))

theorem State.setEvt_mv (f : Fld) (h_f : f ∈ Tab.fields f.tab) (t_f : ν.testBit f.tab.ctorIdx = true)
    (hm : CSub 0x8000000 μ) (hn : TSub 0x1000000000000000000 ν) :
    State.Moves μ ν s₀ (State.setEvt s f) := by
  unfold State.setEvt
  try dsimp only
  with_reducible repeat' (first
    | assumption | intro _ | apply State.rput_mv | apply State.sendMsix_mv | apply State.Moves.ite)

theorem State.countEvent_mv (code : Nat) (lo : Nat) (cnt : Nat) (ctx : Option Half) (opid : Half) (n : Nat)
    (hm : CSub 0x800 μ) :
    State.Moves μ ν s₀ (State.countEvent s code lo cnt ctx opid n) := by
  unfold State.countEvent
  try dsimp only
  with_reducible repeat' (first
    | assumption | intro _ | exact hm.sub (by decide) | exact hm.bit (by decide) | apply State.bump_mv
    | apply State.Moves.ite | split | refine State.mk_mv ?_ | rfl | exact fld_of_tab (by with_reducible assumption)
    | exact fld_of_list (by with_reducible assumption) (by decide)
    | exact fld_of_list (List.of_mem_zip (by with_reducible assumption)).1 (by decide)
    | exact hn.bit (bit_of_list (by with_reducible assumption) (by decide))
    | exact hn.bit (bit_of_list (List.of_mem_zip (by with_reducible assumption)).1 (by decide))
    | exact bit_of_tab (by with_reducible assumption) (by with_reducible assumption) | exact mem_of (by decide))

theorem State.stopSamples_mv (lo : Nat) (cnt : Nat) (hm : CSub 0x800 μ) :
    State.Moves μ ν s₀ (State.stopSamples s lo cnt) := by
  unfold State.stopSamples
  try dsimp only
  with_reducible repeat' (first
    | assumption | intro _ | exact hm.sub (by decide) | exact hm.bit (by decide) | apply State.Moves.ite
    | split | refine State.mk_mv ?_ | rfl | exact mem_of (by decide))

theorem State.countTile_mv (f : Fld) (code : Nat) (t : Nat) (ctx : Option Half) (opid : Half) (n : Nat)
    (h_f : f ∈ Tab.fields f.tab) (t_f : ν.testBit f.tab.ctorIdx = true) (hm : CSub 0x800 μ) :
    State.Moves μ ν s₀ (State.countTile s f code t ctx opid n) := by
  unfold State.countTile
  try dsimp only
  with_reducible repeat' (first
    | assumption | apply State.rwrap_mv | apply State.countEvent_mv)

theorem State.setTraceBuf_mv (d : Nat) (b : TraceBuf) (hm : CSub 0x1000 μ) :
    State.Moves μ ν s₀ (State.setTraceBuf s d b) := by
  unfold State.setTraceBuf
  try dsimp only
  with_reducible repeat' (first
    | assumption | intro _ | exact hm.sub (by decide) | exact hm.bit (by decide) | split
    | refine State.mk_mv ?_ | rfl | exact mem_of (by decide))

theorem State.traceWrite_mv (d : Nat) (r : TraceRec) (hm : CSub 0x1000 μ) (hn : TSub 0x12000000000000 ν) :
    State.Moves μ ν s₀ (State.traceWrite s d r) := by
  unfold State.traceWrite
  try dsimp only
  with_reducible repeat' (first
    | assumption | intro _ | exact hn.bit (by decide) | apply State.rput_mv | apply State.rwrap_mv
    | apply State.setTraceBuf_mv | apply State.Moves.ite | exact mem_of (by decide))

theorem State.traceGaps_mv (d : Nat) (region : Nat) (hm : CSub 0x1000 μ) (hn : TSub 0x12000000000000 ν) :
    State.Moves μ ν s₀ (State.traceGaps s d region) := by
  unfold State.traceGaps
  try dsimp only
  with_reducible repeat' (first
    | assumption | intro _ | apply State.setTraceBuf_mv | apply State.traceWrite_mv | apply State.Moves.ite)

theorem State.traceEvent_mv (d : Nat) (cls : Nat) (kind : Nat) (loc : Nat) (region : Nat) (ctx : Nat) (opid : Nat)
    (a : Nat) (b : Nat) (hm : CSub 0x1000 μ) (hn : TSub 0x12000000000000 ν) :
    State.Moves μ ν s₀ (State.traceEvent s d cls kind loc region ctx opid a b) := by
  unfold State.traceEvent
  try dsimp only
  with_reducible repeat' (first
    | assumption | intro _ | apply State.traceWrite_mv | apply State.traceGaps_mv | apply State.Moves.ite)

theorem State.logWrite_mv (r : ErrRec) (hm : CSub 0xc000000 μ) (hn : TSub 0x1000000000220000000 ν) :
    State.Moves μ ν s₀ (State.logWrite s r) := by
  unfold State.logWrite
  try dsimp only
  with_reducible repeat' (first
    | assumption | intro _ | exact hm.sub (by decide) | exact hn.sub (by decide)
    | exact hn.bit (by decide) | exact hm.bit (by decide) | apply State.rwrap_mv | apply State.setEvt_mv
    | split | refine State.mk_mv ?_ | rfl | exact mem_of (by decide))

theorem State.logRing_mv (r : ErrRec) (hm : CSub 0xc000000 μ) (hn : TSub 0x1000000000220000000 ν) :
    State.Moves μ ν s₀ (State.logRing s r) := by
  unfold State.logRing
  try dsimp only
  with_reducible repeat' (first
    | assumption | intro _ | exact hm.sub (by decide) | exact hn.sub (by decide)
    | exact hn.bit (by decide) | apply State.rput_mv | apply State.rinc_mv | apply State.setEvt_mv
    | apply State.logWrite_mv | apply State.Moves.ite | exact mem_of (by decide))

theorem State.traceError_mv (r : ErrRec) (seq : Nat) (hm : CSub 0x1000 μ) (hn : TSub 0x12000000000000 ν) :
    State.Moves μ ν s₀ (State.traceError s r seq) := by
  unfold State.traceError
  try dsimp only
  with_reducible repeat' (first
    | assumption | apply State.traceEvent_mv)

theorem State.traceMark_mv (d : Nat) (src : Nat) (die : Nat) (hm : CSub 0x1000 μ) (hn : TSub 0x12000000000000 ν) :
    State.Moves μ ν s₀ (State.traceMark s d src die) := by
  unfold State.traceMark
  try dsimp only
  with_reducible repeat' (first
    | assumption | intro _ | exact hn.bit (by decide) | apply State.rinc_mv | apply State.traceWrite_mv
    | apply State.Moves.ite | exact mem_of (by decide))

theorem State.traceCapture_mv (d : Nat) (src : Nat) (die : Nat) (fill : Nat) (hm : CSub 0x1000 μ)
    (hn : TSub 0x12000000000000 ν) :
    State.Moves μ ν s₀ (State.traceCapture s d src die fill) := by
  unfold State.traceCapture
  try dsimp only
  with_reducible repeat' (first
    | assumption | exact hn.bit (by decide) | apply State.rput_mv | apply State.setTraceBuf_mv
    | apply State.traceWrite_mv | exact mem_of (by decide))

theorem State.traceReport_mv (d : Nat) (hm : CSub 0xc001000 μ) (hn : TSub 0x1000012000220000000 ν) :
    State.Moves μ ν s₀ (State.traceReport s d) := by
  unfold State.traceReport
  try dsimp only
  with_reducible repeat' (first
    | assumption | exact hm.sub (by decide) | exact hn.sub (by decide) | exact hn.bit (by decide)
    | apply State.setEvt_mv | apply State.logRing_mv | apply State.traceError_mv | exact mem_of (by decide))

theorem State.passOn_mv (d : Nat) (hm : CSub 0x1000 μ) :
    State.Moves μ ν s₀ (State.passOn s d) := by
  unfold State.passOn
  try dsimp only
  with_reducible repeat' (first
    | assumption | intro _ | exact hm.sub (by decide) | exact hm.bit (by decide) | apply State.Moves.ite
    | split | refine State.mk_mv ?_ | rfl | exact mem_of (by decide))

theorem State.traceFire_mv (d : Nat) (src : Nat) (die : Nat) (fill : Nat) (hm : CSub 0xc001000 μ)
    (hn : TSub 0x1000012000220000000 ν) :
    State.Moves μ ν s₀ (State.traceFire s d src die fill) := by
  unfold State.traceFire
  try dsimp only
  with_reducible repeat' (first
    | assumption | intro _ | exact hm.sub (by decide) | exact hn.sub (by decide) | apply State.traceMark_mv
    | apply State.traceCapture_mv | apply State.traceReport_mv | apply State.passOn_mv | apply State.Moves.ite)

theorem State.traceTrigger_mv (d : Nat) (src : Nat) (die : Nat) (hm : CSub 0xc001000 μ)
    (hn : TSub 0x1000012000220000000 ν) :
    State.Moves μ ν s₀ (State.traceTrigger s d src die) := by
  unfold State.traceTrigger
  try dsimp only
  with_reducible repeat' (first
    | assumption | intro _ | exact hm.sub (by decide) | exact hn.sub (by decide) | apply State.traceMark_mv
    | apply State.traceFire_mv | apply State.Moves.ite)

theorem State.logError_mv (r : ErrRec) (hm : CSub 0xc001000 μ) (hn : TSub 0x1000012000220000000 ν) :
    State.Moves μ ν s₀ (State.logError s r) := by
  unfold State.logError
  try dsimp only
  with_reducible repeat' (first
    | assumption | intro _ | exact hm.sub (by decide) | exact hn.sub (by decide) | apply State.logRing_mv
    | apply State.traceError_mv | apply State.traceTrigger_mv | apply State.Moves.ite)

theorem State.detect_mv (p : Nat) (r : ErrRec) (hm : CSub 0xc001000 μ) (hn : TSub 0x1000012000230000000 ν) :
    State.Moves μ ν s₀ (State.detect s p r) := by
  unfold State.detect
  try dsimp only
  with_reducible repeat' (first
    | assumption | exact hn.sub (by decide) | exact hn.bit (by decide) | apply State.rinc_mv
    | apply State.logError_mv | exact mem_of (by decide))

theorem State.writeItem_mv (v : SysValue) (hm : CSub 0x80000 μ) :
    State.Moves μ ν s₀ (State.writeItem s v) := by
  unfold State.writeItem
  try dsimp only
  with_reducible repeat' (first
    | assumption | intro _ | exact hm.sub (by decide) | exact hm.bit (by decide) | apply State.Moves.ite
    | split | refine State.mk_mv ?_ | rfl | exact mem_of (by decide))

theorem State.writeBoth_mv (v : SysValue) (hm : CSub 0x80000 μ) :
    State.Moves μ ν s₀ (State.writeBoth s v) := by
  unfold State.writeBoth
  try dsimp only
  with_reducible repeat' (first
    | assumption | intro _ | exact hm.sub (by decide) | exact hm.bit (by decide) | split
    | refine State.mk_mv ?_ | rfl | exact mem_of (by decide))

theorem State.loseCopy_mv (i : SysItem) (newer : Bool) (hm : CSub 0x80000 μ) :
    State.Moves μ ν s₀ (State.loseCopy s i newer) := by
  unfold State.loseCopy
  try dsimp only
  with_reducible repeat' (first
    | assumption | intro _ | exact hm.sub (by decide) | exact hm.bit (by decide) | split
    | refine State.mk_mv ?_ | rfl | exact mem_of (by decide))

theorem State.censusMoved_mv (hm : CSub 0x8000000 μ) (hn : TSub 0x1000000000200000200 ν) :
    State.Moves μ ν s₀ (State.censusMoved s) := by
  unfold State.censusMoved
  try dsimp only
  with_reducible repeat' (first
    | assumption | intro _ | exact hn.sub (by decide) | exact hn.bit (by decide) | apply State.rput_mv
    | apply State.rwrap_mv | apply State.setEvt_mv | apply State.Moves.ite | exact mem_of (by decide))

theorem State.strikesReach_mv (t : Nat) (n : Nat) (hm : CSub 0xa000000 μ) (hn : TSub 0x1000000000200000300 ν) :
    State.Moves μ ν s₀ (State.strikesReach s t n) := by
  unfold State.strikesReach
  try dsimp only
  with_reducible repeat' (first
    | assumption | intro _ | exact hm.sub (by decide) | exact hn.sub (by decide)
    | exact hn.bit (by decide) | exact hm.bit (by decide) | apply State.rput_mv | apply State.censusMoved_mv
    | apply State.Moves.ite | split | refine State.mk_mv ?_ | rfl | exact mem_of (by decide))

theorem State.strikeTile_mv (t : Nat) (hm : CSub 0xa000000 μ) (hn : TSub 0x1000000000200000300 ν) :
    State.Moves μ ν s₀ (State.strikeTile s t) := by
  unfold State.strikeTile
  try dsimp only
  with_reducible repeat' (first
    | assumption | intro _ | exact hm.sub (by decide) | exact hn.sub (by decide)
    | exact hn.bit (by decide) | exact hm.bit (by decide) | apply State.strikesReach_mv | split
    | refine State.mk_mv ?_ | rfl | exact mem_of (by decide))

theorem State.strikeColumn_mv (t : Nat) (p : Nat) (hm : CSub 0xa000000 μ) (hn : TSub 0x1000000000200000300 ν) :
    State.Moves μ ν s₀ (State.strikeColumn s t p) := by
  unfold State.strikeColumn
  try dsimp only
  with_reducible repeat' (first
    | assumption | intro _ | exact hm.sub (by decide) | exact hn.sub (by decide)
    | exact hn.bit (by decide) | exact hm.bit (by decide) | apply State.strikesReach_mv | split
    | refine State.mk_mv ?_ | rfl | exact mem_of (by decide))

/-! ## Access -/

theorem State.countBytes_mv (a : Nat) (n : Nat) (write : Bool) (hm : CSub 0x800 μ) (hn : TSub 0x6000000000000 ν) :
    State.Moves μ ν s₀ (State.countBytes s a n write) := by
  unfold State.countBytes
  try dsimp only
  with_reducible repeat' (first
    | assumption | exact hn.bit (by decide) | apply State.rwrap_mv | apply State.countEvent_mv | split
    | exact mem_of (by decide))

theorem State.snoopOut_mv (a : Nat) (n : Nat) (hm : CSub 0x4000 μ) :
    State.Moves μ ν s₀ (State.snoopOut s a n) := by
  unfold State.snoopOut
  try dsimp only
  with_reducible repeat' (first
    | assumption | intro _ | exact hm.sub (by decide) | exact hm.bit (by decide) | apply State.Moves.ite
    | split | refine State.mk_mv ?_ | rfl | exact mem_of (by decide))

theorem State.load_mv (a : Nat) (n : Nat) (hm : CSub 0x4800 μ) (hn : TSub 0x6000000000000 ν) :
    State.Moves μ ν s₀ (State.load s a n).2.2 := by
  unfold State.load
  try dsimp only
  with_reducible repeat' (first
    | assumption | exact hm.sub (by decide) | apply State.countBytes_mv | apply State.snoopOut_mv)

theorem State.touch_mv (a : Nat) (n : Nat) (hm : CSub 0x4800 μ) (hn : TSub 0x6000000000000 ν) :
    State.Moves μ ν s₀ (State.touch s a n) := by
  unfold State.touch
  try dsimp only
  with_reducible repeat' (first
    | assumption | apply State.load_mv)

omit h₀ in
theorem State.store_mv {μ ν : Nat} {s₀ s : State} (h₀ : State.Moves μ ν s₀ s) (a : Nat) (bs : List Byte) (mark : Bool) (hm : CSub 0x4803 μ) (hn : TSub 0x6000000000000 ν) :
    State.Moves μ ν s₀ (s.store a bs mark) := by
  unfold State.store
  exact State.bytes_mv (State.countBytes_mv (State.snoopOut_mv h₀ _ _ (hm.sub rfl)) _ _ _ (hm.sub rfl) (hn.sub rfl)) _ _ _ _ _ (hm.bit rfl) (hm.bit rfl)

theorem State.storeNat_mv (a : Nat) (n : Nat) (v : Nat) (mark : Bool) (hm : CSub 0x4803 μ)
    (hn : TSub 0x6000000000000 ν) :
    State.Moves μ ν s₀ (State.storeNat s a n v mark) := by
  unfold State.storeNat
  try dsimp only
  with_reducible repeat' (first
    | assumption | apply State.store_mv)

/-! ## Threads -/

theorem State.finishCmd_mv (id : Nat) (handle : Nat) (reason : Nat) (hm : CSub 0x200 μ) :
    State.Moves μ ν s₀ (State.finishCmd s id handle reason) := by
  unfold State.finishCmd
  try dsimp only
  with_reducible repeat' (first
    | assumption | intro _ | exact hm.sub (by decide) | exact hm.bit (by decide) | split
    | refine State.mk_mv ?_ | rfl | exact mem_of (by decide))

theorem State.postEvent_mv (k : Kind) (i : Nat) (reason : Nat) (hm : CSub 0xc001200 μ)
    (hn : TSub 0x1000012000620000000 ν) :
    State.Moves μ ν s₀ (State.postEvent s k i reason) := by
  unfold State.postEvent
  try dsimp only
  with_reducible repeat' (first
    | assumption | intro _ | exact hm.sub (by decide) | exact hn.sub (by decide)
    | exact hn.bit (by decide) | exact hm.bit (by decide) | apply State.rinc_mv | apply State.setEvt_mv
    | apply State.logError_mv | apply State.Moves.ite | split | refine State.mk_mv ?_ | rfl | exact mem_of (by decide))

theorem State.answerWaiter_mv (w : Waiter) (code : Nat) (hm : CSub 0x200 μ) (hn : TSub 0x100000000 ν) :
    State.Moves μ ν s₀ (State.answerWaiter s w code) := by
  unfold State.answerWaiter
  try dsimp only
  with_reducible repeat' (first
    | assumption | intro _ | exact hn.bit (by decide) | apply State.rput_mv | apply State.finishCmd_mv
    | apply State.Moves.ite | split | exact mem_of (by decide))

theorem State.finishWaiters_mv (k : Kind) (i : Nat) (onEnable : Nat) (onDisable : Nat) (hm : CSub 0x200 μ)
    (hn : TSub 0x100000000 ν) :
    State.Moves μ ν s₀ (State.finishWaiters s k i onEnable onDisable).2 := by
  unfold State.finishWaiters
  try dsimp only
  with_reducible repeat' (first
    | assumption | intro _ | exact hm.sub (by decide) | exact hn.sub (by decide)
    | exact hn.bit (by decide) | exact hm.bit (by decide) | apply State.answerWaiter_mv
    | (refine mv_snd (by assumption) ?_; apply State.enable_mv) | apply State.enable_mv | apply State.Moves.ite
    | apply foldl_mv | apply foldl_mv2 | apply foldl_mv1 | split | refine State.mk_mv ?_ | rfl
    | exact mem_of (by decide))

theorem State.reachOn_mv (k : Kind) (i : Nat) (hm : CSub 0xc001200 μ) (hn : TSub 0x100001a000730c11008 ν) :
    State.Moves μ ν s₀ (State.reachOn s k i) := by
  unfold State.reachOn
  try dsimp only
  with_reducible repeat' (first
    | assumption | exact hm.sub (by decide) | exact hn.sub (by decide) | apply State.rput_mv
    | apply State.postEvent_mv | (refine mv_snd (by assumption) ?_; apply State.finishWaiters_mv) | split
    | exact Kind.stateFld_mem _ | exact TSub.bit (hn.sub (b := 0x18000110c11008) (by decide)) (Kind.stateFld_bit _))

theorem State.reachOff_mv (k : Kind) (i : Nat) (hm : CSub 0xc001200 μ) (hn : TSub 0x100001a000730c11008 ν) :
    State.Moves μ ν s₀ (State.reachOff s k i) := by
  unfold State.reachOff
  try dsimp only
  with_reducible repeat' (first
    | assumption | intro _ | exact hm.sub (by decide) | exact hn.sub (by decide)
    | exact hn.bit (by decide) | exact hm.bit (by decide) | apply State.rput_mv | apply State.postEvent_mv
    | (refine mv_snd (by assumption) ?_; apply State.finishWaiters_mv) | apply State.finishWaiters_mv | split
    | refine State.mk_mv ?_ | rfl | exact Kind.stateFld_mem _ | exact Kind.pendFld_mem _ | exact Kind.handleFld_mem _
    | exact Kind.endFld_mem _ _ (by with_reducible assumption)
    | exact TSub.bit (hn.sub (b := 0x18000110c11008) (by decide)) (Kind.stateFld_bit _)
    | exact TSub.bit (hn.sub (b := 0x18000110c11008) (by decide)) (Kind.pendFld_bit _)
    | exact TSub.bit (hn.sub (b := 0x18000110c11008) (by decide)) (Kind.handleFld_bit _)
    | exact TSub.bit (hn.sub (b := 0x18000110c11008) (by decide)) (Kind.endFld_bit _ _ (by with_reducible assumption))
    | exact TSub.bit (hn.sub (b := 0x18000110c11008) (by decide)) (Kind.tab_bit _) | exact mem_of (by decide))

theorem State.reachFault_mv (k : Kind) (i : Nat) (reason : Nat) (hm : CSub 0xc001200 μ)
    (hn : TSub 0x100001a000730c11008 ν) :
    State.Moves μ ν s₀ (State.reachFault s k i reason) := by
  unfold State.reachFault
  try dsimp only
  with_reducible repeat' (first
    | assumption | intro _ | exact hm.sub (by decide) | exact hn.sub (by decide)
    | exact hn.bit (by decide) | exact hm.bit (by decide) | apply State.rput_mv | apply State.postEvent_mv
    | (refine mv_snd (by assumption) ?_; apply State.finishWaiters_mv) | apply State.finishWaiters_mv
    | apply State.Moves.ite | split | refine State.mk_mv ?_ | rfl | exact Kind.stateFld_mem _
    | exact Kind.pendFld_mem _ | exact Kind.handleFld_mem _ | exact Kind.endFld_mem _ _ (by with_reducible assumption)
    | exact TSub.bit (hn.sub (b := 0x18000110c11008) (by decide)) (Kind.stateFld_bit _)
    | exact TSub.bit (hn.sub (b := 0x18000110c11008) (by decide)) (Kind.pendFld_bit _)
    | exact TSub.bit (hn.sub (b := 0x18000110c11008) (by decide)) (Kind.handleFld_bit _)
    | exact TSub.bit (hn.sub (b := 0x18000110c11008) (by decide)) (Kind.endFld_bit _ _ (by with_reducible assumption))
    | exact TSub.bit (hn.sub (b := 0x18000110c11008) (by decide)) (Kind.tab_bit _) | exact mem_of (by decide))

theorem State.setThread_mv (t : ThreadRef) (th : Thread) (hm : CSub 0x4 μ) :
    State.Moves μ ν s₀ (State.setThread s t th) := by
  unfold State.setThread
  try dsimp only
  with_reducible repeat' (first
    | assumption | intro _ | exact hm.sub (by decide) | exact hm.bit (by decide) | split
    | refine State.mk_mv ?_ | rfl | exact mem_of (by decide))

theorem State.freeSlot_mv (t : ThreadRef) (hm : CSub 0x4 μ) :
    State.Moves μ ν s₀ (State.freeSlot s t) := by
  unfold State.freeSlot
  try dsimp only
  with_reducible repeat' (first
    | assumption | intro _ | exact hm.sub (by decide) | exact hm.bit (by decide) | split
    | refine State.mk_mv ?_ | rfl | exact mem_of (by decide))

theorem State.leaveIfLast_mv (c : Nat) (hm : CSub 0x80 μ) :
    State.Moves μ ν s₀ (State.leaveIfLast s c) := by
  unfold State.leaveIfLast
  try dsimp only
  with_reducible repeat' (first
    | assumption | intro _ | exact hm.sub (by decide) | exact hm.bit (by decide) | apply State.Moves.ite
    | split | refine State.mk_mv ?_ | rfl | exact mem_of (by decide))

theorem State.endThread_mv (t : ThreadRef) (hm : CSub 0xc4 μ) :
    State.Moves μ ν s₀ (State.endThread s t) := by
  unfold State.endThread
  try dsimp only
  with_reducible repeat' (first
    | assumption | intro _ | exact hm.sub (by decide) | exact hm.bit (by decide) | apply State.setThread_mv
    | apply State.freeSlot_mv | apply State.leaveIfLast_mv | apply State.Moves.ite | split | refine State.mk_mv ?_
    | rfl | exact mem_of (by decide))

theorem State.endThreads_mv (c : Nat) (hm : CSub 0xc4 μ) :
    State.Moves μ ν s₀ (State.endThreads s c) := by
  unfold State.endThreads
  try dsimp only
  with_reducible repeat' (first
    | assumption | intro _ | apply State.endThread_mv | apply foldl_mv)

theorem State.haltChannel_mv (ch : Nat) (hm : CSub 0x18000 μ) :
    State.Moves μ ν s₀ (State.haltChannel s ch) := by
  unfold State.haltChannel
  try dsimp only
  with_reducible repeat' (first
    | assumption | intro _ | exact hm.sub (by decide) | exact hm.bit (by decide) | apply foldl_mv
    | apply foldl_mv2 | apply foldl_mv1 | split | refine State.mk_mv ?_ | rfl | exact mem_of (by decide))

theorem State.halt_mv (k : Kind) (i : Nat) (hm : CSub 0x18000 μ) :
    State.Moves μ ν s₀ (State.halt s k i) := by
  unfold State.halt
  try dsimp only
  with_reducible repeat' (first
    | assumption | apply State.haltChannel_mv | split)

theorem State.stopForFault_mv (k : Kind) (i : Nat) (reason : Nat) (hm : CSub 0x18200 μ) (hn : TSub 0x18000110c11008 ν)
    :
    State.Moves μ ν s₀ (State.stopForFault s k i reason) := by
  unfold State.stopForFault
  try dsimp only
  with_reducible repeat' (first
    | assumption | intro _ | exact hm.sub (by decide) | exact hn.sub (by decide)
    | exact hn.bit (by decide) | exact hm.bit (by decide) | apply State.rput_mv | apply State.halt_mv
    | apply State.Moves.ite | split | refine State.mk_mv ?_ | rfl | exact Kind.stateFld_mem _
    | exact Kind.pendFld_mem _ | exact Kind.handleFld_mem _ | exact Kind.endFld_mem _ _ (by with_reducible assumption)
    | exact TSub.bit (hn.sub (b := 0x18000110c11008) (by decide)) (Kind.stateFld_bit _)
    | exact TSub.bit (hn.sub (b := 0x18000110c11008) (by decide)) (Kind.pendFld_bit _)
    | exact TSub.bit (hn.sub (b := 0x18000110c11008) (by decide)) (Kind.handleFld_bit _)
    | exact TSub.bit (hn.sub (b := 0x18000110c11008) (by decide)) (Kind.endFld_bit _ _ (by with_reducible assumption))
    | exact TSub.bit (hn.sub (b := 0x18000110c11008) (by decide)) (Kind.tab_bit _) | exact mem_of (by decide))

theorem State.endContext_mv (c : Nat) (reason : Nat) (hm : CSub 0x182c4 μ) (hn : TSub 0x18000110c11008 ν) :
    State.Moves μ ν s₀ (State.endContext s c reason) := by
  unfold State.endContext
  try dsimp only
  with_reducible repeat' (first
    | assumption | intro _ | exact hm.sub (by decide) | exact hn.sub (by decide)
    | exact hn.bit (by decide) | exact hm.bit (by decide) | apply State.rput_mv | apply State.endThreads_mv
    | apply State.stopForFault_mv | apply State.Moves.ite | apply foldl_mv | apply foldl_mv2 | apply foldl_mv1 | split
    | refine State.mk_mv ?_ | rfl | exact mem_of (by decide))

theorem State.blameAt_mv (c : Nat) (opid : Nat) (t : ThreadRef) (hn : TSub 0x8 ν) :
    State.Moves μ ν s₀ (State.blameAt s c opid t) := by
  unfold State.blameAt
  try dsimp only
  with_reducible repeat' (first
    | assumption | intro _ | exact hn.sub (by decide) | exact hn.bit (by decide) | apply State.rput_mv
    | split | rfl | exact mem_of (by decide))

theorem State.blame_mv (t : ThreadRef) (th : Thread) (hn : TSub 0x8 ν) :
    State.Moves μ ν s₀ (State.blame s t th) := by
  unfold State.blame
  try dsimp only
  with_reducible repeat' (first
    | assumption | exact hn.bit (by decide) | apply State.blameAt_mv | exact mem_of (by decide))

theorem State.insnFault_mv (t : ThreadRef) (th : Thread) (f : InsnFault) (reason : Nat) (addr : Nat)
    (hm : CSub 0xc0192c4 μ) (hn : TSub 0x100001a000330c11008 ν) :
    State.Moves μ ν s₀ (State.insnFault s t th f reason addr) := by
  unfold State.insnFault
  try dsimp only
  with_reducible repeat' (first
    | assumption | exact hm.sub (by decide) | exact hn.sub (by decide) | apply State.logError_mv
    | apply State.endContext_mv | apply State.blame_mv)

theorem State.consumePoison_mv (t : ThreadRef) (th : Thread) (addr : Nat) (hm : CSub 0xc0192c4 μ)
    (hn : TSub 0x100001a000330c11008 ν) :
    State.Moves μ ν s₀ (State.consumePoison s t th addr) := by
  unfold State.consumePoison
  try dsimp only
  with_reducible repeat' (first
    | assumption | exact hm.sub (by decide) | exact hn.sub (by decide) | apply State.logError_mv
    | apply State.endContext_mv | apply State.blame_mv)

/-! ## Flags -/

theorem State.observe_mv (region : Nat) (e : Nat) (k : Converted) (hm : CSub 0x100 μ) (hn : TSub 0x1000000000000 ν) :
    State.Moves μ ν s₀ (State.observe s region e k) := by
  unfold State.observe
  try dsimp only
  with_reducible repeat' (first
    | assumption | intro _ | exact hm.sub (by decide) | exact hn.sub (by decide)
    | exact hn.bit (by decide) | exact hm.bit (by decide) | apply State.rwrap_mv | apply State.Moves.ite
    | apply foldl_mv | apply foldl_mv2 | apply foldl_mv1 | split | refine State.mk_mv ?_ | rfl
    | exact mem_of (by decide))

theorem State.observeOut_mv (p : Producer) (o : Operand) (k : Converted) (hm : CSub 0x100 μ)
    (hn : TSub 0x1000000000000 ν) :
    State.Moves μ ν s₀ (State.observeOut s p o k) := by
  unfold State.observeOut
  try dsimp only
  with_reducible repeat' (first
    | assumption | intro _ | apply State.observe_mv | apply State.Moves.ite)

theorem storePlain_mv (o : Operand) (codes : List (List Nat)) (scales : List Byte) (poison : Bool)
    (hm : CSub 0x4803 μ) (hn : TSub 0x6000000000000 ν) :
    State.Moves μ ν s₀ (storePlain s o codes scales poison) := by
  unfold storePlain
  try dsimp only
  with_reducible repeat' (first
    | assumption | intro _ | apply State.store_mv | apply State.Moves.ite | apply foldl_mv)

theorem storeTensor_mv (p : Producer) (o : Operand) (codes : List (List Nat)) (scales : List Byte)
    (hm : CSub 0x4803 μ) (hn : TSub 0x6000000000000 ν) :
    State.Moves μ ν s₀ (storeTensor s p o codes scales) := by
  unfold storeTensor
  try dsimp only
  with_reducible repeat' (first
    | assumption | intro _ | apply State.store_mv | apply storePlain_mv | apply State.Moves.ite)

theorem addCensus_mv (o : Operand) (codes : List (List Nat)) (hm : CSub 0x4803 μ) (hn : TSub 0x6000000000000 ν) :
    State.Moves μ ν s₀ (addCensus s o codes) := by
  unfold addCensus
  try dsimp only
  with_reducible repeat' (first
    | assumption | intro _ | apply State.store_mv | apply State.Moves.ite)

theorem writeConverted_mv (p : Producer) (o : Operand) (k : Converted) (hm : CSub 0x4803 μ)
    (hn : TSub 0x6000000000000 ν) :
    State.Moves μ ν s₀ (writeConverted s p o k) := by
  unfold writeConverted
  try dsimp only
  with_reducible repeat' (first
    | assumption | apply storeTensor_mv | apply addCensus_mv)

theorem writeTensor_mv (p : Producer) (o : Operand) (m : List (List Val)) (hm : CSub 0x4903 μ)
    (hn : TSub 0x7000000000000 ν) :
    State.Moves μ ν s₀ (writeTensor s p o m).2 := by
  unfold writeTensor
  try dsimp only
  with_reducible repeat' (first
    | assumption | exact hm.sub (by decide) | exact hn.sub (by decide) | apply State.observeOut_mv
    | apply writeConverted_mv)

/-! ## Bindings -/

theorem State.writeAll_mv (ws : List (Nat × List Byte)) (hm : CSub 0x4803 μ) (hn : TSub 0x6000000000000 ν) :
    State.Moves μ ν s₀ (State.writeAll s ws) := by
  unfold State.writeAll
  try dsimp only
  with_reducible repeat' (first
    | assumption | intro _ | apply State.store_mv | apply State.Moves.ite | apply foldl_mv)

theorem State.observeWork_mv (b : Nat) (j : Nat) (d : Derived) (hm : CSub 0x100 μ) (hn : TSub 0x1000000000000 ν) :
    State.Moves μ ν s₀ (State.observeWork s b j d) := by
  unfold State.observeWork
  try dsimp only
  with_reducible repeat' (first
    | assumption | intro _ | apply State.observe_mv | apply State.Moves.ite)

theorem State.setRetained_mv (b : Nat) (j : Nat) (r : Retained) (hm : CSub 0x20000 μ) :
    State.Moves μ ν s₀ (State.setRetained s b j r) := by
  unfold State.setRetained
  try dsimp only
  with_reducible repeat' (first
    | assumption | intro _ | exact hm.sub (by decide) | exact hm.bit (by decide) | split
    | refine State.mk_mv ?_ | rfl | exact mem_of (by decide))

theorem State.raiseFlags_mv (c : Nat) (attempt : Nat) (nonFinite : Bool) (poison : Bool) (hm : CSub 0x80 μ) :
    State.Moves μ ν s₀ (State.raiseFlags s c attempt nonFinite poison) := by
  unfold State.raiseFlags
  try dsimp only
  with_reducible repeat' (first
    | assumption | intro _ | exact hm.sub (by decide) | exact hm.bit (by decide) | apply State.Moves.ite
    | split | refine State.mk_mv ?_ | rfl | exact mem_of (by decide))

/-! ## Frames -/

theorem State.setPort_mv (p : Nat) (v : PortState) (hm : CSub 0x8000 μ) :
    State.Moves μ ν s₀ (State.setPort s p v) := by
  unfold State.setPort
  try dsimp only
  with_reducible repeat' (first
    | assumption | refine State.mk_mv ?_)

theorem State.dropUnroutable_mv (chan : Nat) (hm : CSub 0xc001000 μ) (hn : TSub 0x1000012000220010000 ν) :
    State.Moves μ ν s₀ (State.dropUnroutable s chan) := by
  unfold State.dropUnroutable
  try dsimp only
  with_reducible repeat' (first
    | assumption | exact hn.sub (by decide) | exact hn.bit (by decide) | apply State.rput_mv
    | apply State.rinc_mv | apply State.logError_mv | exact mem_of (by decide))

theorem State.enqueueFlits_mv (p : Nat) (out : Option Nat) (fs : List Flit) (hm : CSub 0x8000 μ)
    (hn : TSub 0x200000 ν) :
    State.Moves μ ν s₀ (State.enqueueFlits s p out fs) := by
  unfold State.enqueueFlits
  try dsimp only
  with_reducible repeat' (first
    | assumption | intro _ | exact hn.bit (by decide) | apply State.rinc_mv | apply State.setPort_mv
    | apply State.Moves.ite | apply foldl_mv | exact mem_of (by decide))

theorem State.addSending_mv (cmd : Option Nat) (hm : CSub 0x10000 μ) :
    State.Moves μ ν s₀ (State.addSending s cmd) := by
  unfold State.addSending
  try dsimp only
  with_reducible repeat' (first
    | assumption | split | refine State.mk_mv ?_)

theorem State.signalReuse_mv (c : Nat) (hm : CSub 0x10004 μ) :
    State.Moves μ ν s₀ (State.signalReuse s c) := by
  unfold State.signalReuse
  try dsimp only
  with_reducible repeat' (first
    | assumption | intro _ | exact hm.sub (by decide) | apply State.setThread_mv | apply State.Moves.ite | split
    | refine State.mk_mv ?_)

theorem State.doneSending_mv (cmd : Option Nat) (hm : CSub 0x10004 μ) :
    State.Moves μ ν s₀ (State.doneSending s cmd) := by
  unfold State.doneSending
  try dsimp only
  with_reducible repeat' (first
    | assumption | intro _ | apply State.signalReuse_mv | apply State.Moves.ite | split | refine State.mk_mv ?_)

theorem State.launchFrame_mv (f : Frame) (cmd : Option Nat) (hm : CSub 0xc019004 μ)
    (hn : TSub 0x1000012000220210000 ν) :
    State.Moves μ ν s₀ (State.launchFrame s f cmd) := by
  unfold State.launchFrame
  try dsimp only
  with_reducible repeat' (first
    | assumption | intro _ | exact hm.sub (by decide) | exact hn.sub (by decide)
    | exact hn.bit (by decide) | apply State.rwrap_mv | apply State.dropUnroutable_mv
    | apply State.enqueueFlits_mv | apply State.doneSending_mv | apply State.Moves.ite | split | refine State.mk_mv ?_
    | exact mem_of (by decide))

theorem State.windowFrame_mv (f : Frame) (cmd : Option Nat) (win : Option (Nat × Nat)) (hm : CSub 0xc019004 μ)
    (hn : TSub 0x1000012000220210000 ν) :
    State.Moves μ ν s₀ (State.windowFrame s f cmd win) := by
  unfold State.windowFrame
  try dsimp only
  with_reducible repeat' (first
    | assumption | intro _ | apply State.launchFrame_mv | apply State.Moves.ite | refine State.mk_mv ?_)

theorem State.setPolicer_mv (src : Nat) (p : Policer) (hm : CSub 0x8000 μ) :
    State.Moves μ ν s₀ (State.setPolicer s src p) := by
  unfold State.setPolicer
  try dsimp only
  with_reducible repeat' (first
    | assumption | refine State.mk_mv ?_)

theorem State.policeFrame_mv (src : Nat) (f : Frame) (ctx : Option Half) (opid : Half) (hm : CSub 0xc019804 μ)
    (hn : TSub 0x1000012800220210000 ν) :
    State.Moves μ ν s₀ (State.policeFrame s src f ctx opid) := by
  unfold State.policeFrame
  try dsimp only
  with_reducible repeat' (first
    | assumption | intro _ | exact hm.sub (by decide) | exact hn.sub (by decide)
    | exact hn.bit (by decide) | apply State.countTile_mv | apply State.launchFrame_mv | apply State.setPolicer_mv
    | apply State.Moves.ite | exact mem_of (by decide))

theorem State.sendFrame_mv (f : Frame) (cmd : Option Nat) (win : Option (Nat × Nat)) (hm : CSub 0xc019804 μ)
    (hn : TSub 0x1000012800220210000 ν) :
    State.Moves μ ν s₀ (State.sendFrame s f cmd win) := by
  unfold State.sendFrame
  try dsimp only
  with_reducible repeat' (first
    | assumption | intro _ | exact hm.sub (by decide) | exact hn.sub (by decide) | apply State.launchFrame_mv
    | apply State.windowFrame_mv | apply State.policeFrame_mv | apply State.Moves.ite)

omit h₀ in
theorem State.pumpWindow_mv {μ ν : Nat} {s₀ s : State} (h₀ : State.Moves μ ν s₀ s) (k dest cls : Nat) (hm : CSub 0xc019004 μ) (hn : TSub 0x1000012000220210000 ν) :
    State.Moves μ ν s₀ (State.pumpWindow k dest cls s) := by
  induction k generalizing s with
  | zero => exact h₀
  | succ k ih =>
    unfold State.pumpWindow
    dsimp only
    split
    · exact h₀
    · split
      · exact h₀
      · apply ih
        apply State.launchFrame_mv <;> first | exact hm.sub rfl | exact hn.sub rfl | (with_reducible refine State.mk_mv ?_; exact h₀)

theorem State.postToken_mv (t : ThreadRef) (k : BitVec 4) (v : Half) (ctx : Half) (hm : CSub 0x4 μ)
    (hn : TSub 0x800000000000 ν) :
    State.Moves μ ν s₀ (State.postToken s t k v ctx) := by
  unfold State.postToken
  try dsimp only
  with_reducible repeat' (first
    | assumption | intro _ | exact hn.bit (by decide) | apply State.rwrap_mv | apply State.setThread_mv
    | apply State.Moves.ite | split | exact mem_of (by decide))

theorem State.grantFrame_mv (f : Frame) (code : Nat) (hm : CSub 0xc019804 μ) (hn : TSub 0x1000012800220210000 ν) :
    State.Moves μ ν s₀ (State.grantFrame s f code) := by
  unfold State.grantFrame
  try dsimp only
  with_reducible repeat' (first
    | assumption | intro _ | apply State.sendFrame_mv | apply State.Moves.ite)

theorem State.popFrame_mv (op : Nat) (f : Frame) (hm : CSub 0x8000 μ) :
    State.MvOpt μ ν s₀ (State.popFrame s op f) := by
  unfold State.popFrame
  try dsimp only
  with_reducible repeat' (first
    | assumption | intro _ | apply State.MvOpt.some | exact State.MvOpt.none | apply State.MvOpt.ite
    | refine State.mk_mv ?_)

theorem State.takeFrame_mv (op : Nat) (f : Frame) (hm : CSub 0xc019804 μ) (hn : TSub 0x1000012800220210000 ν) :
    State.MvOpt μ ν s₀ (State.takeFrame s op f) := by
  unfold State.takeFrame
  try dsimp only
  with_reducible repeat' (first
    | assumption | intro _ | exact hm.sub (by decide) | apply State.grantFrame_mv | apply State.popFrame_mv
    | apply State.MvOpt.map)

end Sys2Proof.Machine
end

