-- ==== Sys2Proof/Laws/Moves2.lean ====
section
/-!
SUPPORT. What the operations of Issue, Commands, Matrix, Movers, Landing and Gathers may change: each one stays in
the relation `State.Moves` with the pieces and tables of its masks.
-/
set_option Elab.async false

namespace Sys2Proof.Machine

variable {μ ν : Nat} {s₀ s : State} (h₀ : State.Moves μ ν s₀ s)
include h₀

/-! ## Issue -/

theorem State.retire_mv (t : ThreadRef) (th : Thread) (hm : CSub 0x4 μ) :
    State.Moves μ ν s₀ (State.retire s t th) := by
  unfold State.retire
  try dsimp only
  with_reducible repeat' (first
    | assumption | apply State.setThread_mv)

theorem State.passTurn_mv (t : ThreadRef) (hm : CSub 0x8 μ) :
    State.Moves μ ν s₀ (State.passTurn s t) := by
  unfold State.passTurn
  try dsimp only
  with_reducible repeat' (first
    | assumption | intro _ | exact hm.sub (by decide) | exact hm.bit (by decide) | split
    | refine State.mk_mv ?_ | rfl | exact mem_of (by decide))

theorem State.issue_mv (t : ThreadRef) (size : Nat) (pe : Bool) (pn : Bool) (pi : BitVec 3) (defined : Bool)
    (level : Nat) (body : Thread → State → State) (h_body : ∀ z0
    (y : State), State.Moves μ ν s₀ y → State.Moves μ ν s₀ (body z0 y)) (hm : CSub 0xc01dacc μ)
    (hn : TSub 0x100001e800330c11008 ν) :
    State.Moves μ ν s₀ (State.issue s t size pe pn pi defined level body) := by
  unfold State.issue
  try dsimp only
  with_reducible repeat' (first
    | assumption | intro _ | exact hm.sub (by decide) | exact hn.sub (by decide)
    | exact hn.bit (by decide) | exact hm.bit (by decide) | apply h_body | apply State.countTile_mv
    | apply State.touch_mv | apply State.setThread_mv | apply State.insnFault_mv | apply State.consumePoison_mv
    | apply State.passTurn_mv | apply State.Moves.ite | split | refine State.mk_mv ?_ | rfl | exact mem_of (by decide))

theorem scalar_mv (t : ThreadRef) (f : FormS) (defined : Bool) (level : Nat) (body : Thread → State → State)
    (h_body : ∀ z0 (y : State), State.Moves μ ν s₀ y → State.Moves μ ν s₀ (body z0 y)) (hm : CSub 0xc01dacc μ)
    (hn : TSub 0x100001e800330c11008 ν) :
    State.MovesO μ ν s₀ (scalar t f defined level body s) := by
  unfold scalar
  try dsimp only
  with_reducible repeat' (first
    | assumption | apply State.issue_mv | apply State.MovesO.next)

theorem regWrite_mv (t : ThreadRef) (f : FormS) (defined : Bool) (value : Thread → Word) (hm : CSub 0xc01dacc μ)
    (hn : TSub 0x100001e800330c11008 ν) :
    State.MovesO μ ν s₀ (regWrite t f defined value s) := by
  unfold regWrite
  try dsimp only
  with_reducible repeat' (first
    | assumption | intro _ | exact hm.sub (by decide) | apply State.retire_mv | apply scalar_mv)

theorem State.scalarRead_mv (t : ThreadRef) (th : Thread) (a : Nat) (n : Nat) (al : Nat) (k : Nat → State → State)
    (h_k : ∀ z0 (y : State), State.Moves μ ν s₀ y → State.Moves μ ν s₀ (k z0 y)) (hm : CSub 0xc01dac4 μ)
    (hn : TSub 0x100001e000330c11008 ν) :
    State.Moves μ ν s₀ (State.scalarRead s t th a n al k) := by
  unfold State.scalarRead
  try dsimp only
  with_reducible repeat' (first
    | assumption | intro _ | exact hm.sub (by decide) | exact hn.sub (by decide) | apply h_k
    | apply State.touch_mv | apply State.insnFault_mv | apply State.consumePoison_mv | apply State.Moves.ite | split)

theorem State.scalarWrite_mv (t : ThreadRef) (th : Thread) (a : Nat) (n : Nat) (al : Nat) (v : Nat)
    (k : State → State) (h_k : ∀ (y : State), State.Moves μ ν s₀ y → State.Moves μ ν s₀ (k y)) (hm : CSub 0xc01dac7 μ)
    (hn : TSub 0x100001e000330c11008 ν) :
    State.Moves μ ν s₀ (State.scalarWrite s t th a n al v k) := by
  unfold State.scalarWrite
  try dsimp only
  with_reducible repeat' (first
    | assumption | exact hm.sub (by decide) | exact hn.sub (by decide) | apply h_k | apply State.storeNat_mv
    | apply State.insnFault_mv | split)

theorem State.beginGate_mv (p : Nat) (hm : CSub 0x80 μ) :
    State.Moves μ ν s₀ (State.beginGate s p) := by
  unfold State.beginGate
  try dsimp only
  with_reducible repeat' (first
    | assumption | split | refine State.mk_mv ?_)

/-! ## Commands -/

theorem State.useCache_mv (t : Nat) (c : Nat) (hm : CSub 0x20 μ) :
    State.Moves μ ν s₀ (State.useCache s t c) := by
  unfold State.useCache
  try dsimp only
  with_reducible repeat' (first
    | assumption | refine State.mk_mv ?_)

theorem State.engineUse_mv (c : EngCmd) (hm : CSub 0x20 μ) :
    State.Moves μ ν s₀ (State.engineUse s c) := by
  unfold State.engineUse
  try dsimp only
  with_reducible repeat' (first
    | assumption | intro _ | exact hm.sub (by decide) | exact hm.bit (by decide) | apply State.useCache_mv
    | apply State.Moves.ite | split | rfl | exact mem_of (by decide))

theorem State.accept_mv (c : EngCmd) (hm : CSub 0x40 μ) :
    State.Moves μ ν s₀ (State.accept s c) := by
  unfold State.accept
  try dsimp only
  with_reducible repeat' (first
    | assumption | split | refine State.mk_mv ?_)

theorem State.submit_mv (t : ThreadRef) (th : Thread) (c : EngCmd) (hm : CSub 0x44 μ) :
    State.Moves μ ν s₀ (State.submit s t th c) := by
  unfold State.submit
  try dsimp only
  with_reducible repeat' (first
    | assumption | intro _ | exact hm.sub (by decide) | apply State.setThread_mv | apply State.accept_mv
    | apply State.Moves.ite | refine State.mk_mv ?_)

theorem engine_mv (t : ThreadRef) (e : FormE) (op : EngOp) (rsv : Word) (defined : Bool) (level : Nat)
    (check : State → EngCmd → Option IssueFault) (hm : CSub 0xc01dacc μ) (hn : TSub 0x100001e800330c11008 ν) :
    State.MovesO μ ν s₀ (engine t e op rsv defined level check s) := by
  unfold engine
  try dsimp only
  with_reducible repeat' (first
    | assumption | intro _ | exact hm.sub (by decide) | exact hn.sub (by decide) | apply State.insnFault_mv
    | apply State.issue_mv | apply State.submit_mv | apply State.MovesO.next | split)

theorem State.blockErrors_mv (c : EngCmd) (errs : List BlockError) (hm : CSub 0xc001000 μ)
    (hn : TSub 0x1000012000220000000 ν) :
    State.Moves μ ν s₀ (State.blockErrors s c errs) := by
  unfold State.blockErrors
  try dsimp only
  with_reducible repeat' (first
    | assumption | intro _ | apply State.logError_mv | apply foldl_mv)

theorem EngCmd.readOperand_mv (c : EngCmd) (unit : Nat) (ix : Nat) (o : Operand) (hm : CSub 0xc005800 μ)
    (hn : TSub 0x1000016000220000000 ν) :
    State.Moves μ ν s₀ (EngCmd.readOperand c s unit ix o).state := by
  unfold EngCmd.readOperand
  try dsimp only
  with_reducible repeat' (first
    | assumption | intro _ | exact hm.sub (by decide) | exact hn.sub (by decide) | apply State.touch_mv
    | apply State.blockErrors_mv | apply foldl_mv)

theorem Done.plain_mv (reason : Nat) (count : Nat) :
    State.Moves μ ν s₀ (Done.plain s reason count).state := by
  unfold Done.plain
  try dsimp only
  with_reducible repeat' (first
    | assumption)

theorem State.traceCmd_mv (c : EngCmd) (kind : Nat) (a : Nat) (b : Nat) (hm : CSub 0x1000 μ)
    (hn : TSub 0x12000000000000 ν) :
    State.Moves μ ν s₀ (State.traceCmd s c kind a b) := by
  unfold State.traceCmd
  try dsimp only
  with_reducible repeat' (first
    | assumption | apply State.traceEvent_mv)

theorem State.signalToken_mv (t : ThreadRef) (ctx : Half) (k : Option (BitVec 4)) (hm : CSub 0x4 μ) :
    State.Moves μ ν s₀ (State.signalToken s t ctx k) := by
  unfold State.signalToken
  try dsimp only
  with_reducible repeat' (first
    | assumption | intro _ | apply State.setThread_mv | apply State.Moves.ite | split)

theorem State.dropCmd_mv (c : EngCmd) (hm : CSub 0x44 μ) :
    State.Moves μ ν s₀ (State.dropCmd s c) := by
  unfold State.dropCmd
  try dsimp only
  with_reducible repeat' (first
    | assumption | intro _ | exact hm.sub (by decide) | apply State.freeSlot_mv | apply State.Moves.ite | split
    | refine State.mk_mv ?_)

omit h₀ in
theorem State.finish_mv {μ ν : Nat} {s₀ : State} (c : EngCmd) (d : Done) (h₀ : State.Moves μ ν s₀ d.state) (hm : CSub 0x5847 μ) (hn : TSub 0x16800000000000 ν) :
    State.Moves μ ν s₀ (State.finish c d) := by
  unfold State.finish
  dsimp only
  repeat' (first
    | with_reducible assumption | exact hm.sub rfl | exact hn.sub rfl | exact hn.bit rfl
    | with_reducible apply State.dropCmd_mv | with_reducible apply State.signalToken_mv | with_reducible apply State.countTile_mv
    | with_reducible apply State.traceCmd_mv | with_reducible apply State.store_mv | split | exact mem_of (by decide))

theorem State.inputFault_mv (c : EngCmd) (reason : Nat) (hm : CSub 0xc0192c4 μ) (hn : TSub 0x100001a000330c11008 ν) :
    State.Moves μ ν s₀ (State.inputFault s c reason) := by
  unfold State.inputFault
  try dsimp only
  with_reducible repeat' (first
    | assumption | intro _ | exact hm.sub (by decide) | exact hn.sub (by decide)
    | exact hn.bit (by decide) | exact hm.bit (by decide) | apply State.logError_mv
    | apply State.endContext_mv | apply State.blameAt_mv | apply State.dropCmd_mv | split | rfl
    | exact mem_of (by decide))

/-! ## Matrix -/

theorem accWrite_mv (base : Nat) (eb : Nat) (m : Nat) (n : Nat) (x : List (List Nat)) (poison : Bool)
    (hm : CSub 0x4803 μ) (hn : TSub 0x6000000000000 ν) :
    State.Moves μ ν s₀ (accWrite s base eb m n x poison) := by
  unfold accWrite
  try dsimp only
  with_reducible repeat' (first
    | assumption | intro _ | apply State.store_mv | apply foldl_mv)

theorem State.countWaves_mv (c : EngCmd) (sh : Shape) (hm : CSub 0x10000800 μ) (hn : TSub 0x800000000000 ν) :
    State.Moves μ ν s₀ (State.countWaves s c sh).2 := by
  unfold State.countWaves
  try dsimp only
  with_reducible repeat' (first
    | assumption | intro _ | exact hm.sub (by decide) | exact hn.sub (by decide)
    | exact hn.bit (by decide) | exact hm.bit (by decide)
    | (refine mv_snd (by assumption) ?_; apply State.draw_mv) | apply State.draw_mv | apply State.countTile_mv
    | apply State.Moves.ite | split | rfl | exact mem_of (by decide))

theorem drainOutputs_mv (c : EngCmd) (poison : Bool) (outs : List Operand) (planes : List (List (List Val)))
    (hm : CSub 0x4903 μ) (hn : TSub 0x7000000000000 ν) :
    State.Moves μ ν s₀ (drainOutputs c poison outs planes s).2.2 := by
  unfold drainOutputs
  try dsimp only
  with_reducible repeat' (first
    | assumption | exact hm.sub (by decide) | exact hn.sub (by decide) | apply State.observeOut_mv
    | apply writeConverted_mv | apply writeTensor_mv | split)

theorem readAll_mv (c : EngCmd) (unit : Nat) (ix : Nat) (ops : List Operand) (hm : CSub 0xc005800 μ)
    (hn : TSub 0x1000016000220000000 ν) :
    State.Moves μ ν s₀ (readAll c unit ix ops s).2 := by
  unfold readAll
  try dsimp only
  with_reducible repeat' (first
    | assumption | intro _ | apply EngCmd.readOperand_mv | apply foldl_mv2)

theorem State.noteMismatch_mv (c : EngCmd) (m : Mismatch) (hm : CSub 0x1e001000 μ) (hn : TSub 0x1000012000230000300 ν)
    :
    State.Moves μ ν s₀ (State.noteMismatch s c m) := by
  unfold State.noteMismatch
  try dsimp only
  with_reducible repeat' (first
    | assumption | intro _ | exact hm.sub (by decide) | exact hn.sub (by decide)
    | exact hn.bit (by decide) | exact hm.bit (by decide)
    | (refine mv_snd (by assumption) ?_; apply State.draw_mv) | apply State.draw_mv | apply State.detect_mv
    | apply State.strikeTile_mv | apply State.strikeColumn_mv | apply State.Moves.ite | split | refine State.mk_mv ?_
    | rfl | exact mem_of (by decide))

theorem runMma_mv (c : EngCmd) (found : ProductCheck) (hm : CSub 0x1e005903 μ) (hn : TSub 0x1000017800230000300 ν) :
    State.Moves μ ν s₀ (runMma c found s).state := by
  unfold runMma
  try dsimp only
  with_reducible repeat' (first
    | assumption | intro _ | exact hm.sub (by decide) | exact hn.sub (by decide)
    | exact hn.bit (by decide) | exact hm.bit (by decide) | apply accWrite_mv
    | (refine mv_snd (by assumption) ?_; apply State.countWaves_mv) | apply State.countWaves_mv
    | (refine mv_snd2 (by assumption) ?_; apply drainOutputs_mv) | apply drainOutputs_mv
    | (refine mv_snd (by assumption) ?_; apply readAll_mv) | apply readAll_mv | apply State.noteMismatch_mv
    | apply foldl_mv | apply foldl_mv2 | apply foldl_mv1 | split | refine State.mk_mv ?_ | rfl
    | exact fld_of_tab (by with_reducible assumption) | exact fld_of_list (by with_reducible assumption) (by decide)
    | exact fld_of_list (List.of_mem_zip (by with_reducible assumption)).1 (by decide)
    | exact hn.bit (bit_of_list (by with_reducible assumption) (by decide))
    | exact hn.bit (bit_of_list (List.of_mem_zip (by with_reducible assumption)).1 (by decide))
    | exact bit_of_tab (by with_reducible assumption) (by with_reducible assumption) | exact mem_of (by decide))

theorem execMma_mv (t : ThreadRef) (e : FormE) (hm : CSub 0xc01dacc μ) (hn : TSub 0x100001e800330c11008 ν) :
    State.MovesO μ ν s₀ (execMma t e s) := by
  unfold execMma
  try dsimp only
  with_reducible repeat' (first
    | assumption | apply engine_mv)

theorem runTbuild_mv (c : EngCmd) (hm : CSub 0x4803 μ) (hn : TSub 0x6000000000000 ν) :
    State.Moves μ ν s₀ (runTbuild c s).state := by
  unfold runTbuild
  try dsimp only
  with_reducible repeat' (first
    | assumption | exact hm.sub (by decide) | apply State.touch_mv | apply State.store_mv | apply Done.plain_mv
    | split)

theorem execTbuild_mv (t : ThreadRef) (e : FormE) (hm : CSub 0xc01dacc μ) (hn : TSub 0x100001e800330c11008 ν) :
    State.MovesO μ ν s₀ (execTbuild t e s) := by
  unfold execTbuild
  try dsimp only
  with_reducible repeat' (first
    | assumption | apply engine_mv)

/-! ## Movers -/

theorem State.storeMarked_mv (a : Nat) (bs : List Byte) (dirty : Nat → Nat → Bool) (hm : CSub 0x4803 μ)
    (hn : TSub 0x6000000000000 ν) :
    State.Moves μ ν s₀ (State.storeMarked s a bs dirty) := by
  unfold State.storeMarked
  try dsimp only
  with_reducible repeat' (first
    | assumption | intro _ | apply State.store_mv | apply foldl_mv)

theorem State.copyRange_mv (old : State) (src : Nat) (dst : Nat) (n : Nat) (hm : CSub 0x4803 μ)
    (hn : TSub 0x6000000000000 ν) :
    State.Moves μ ν s₀ (State.copyRange s old src dst n) := by
  unfold State.copyRange
  try dsimp only
  with_reducible repeat' (first
    | assumption | exact hm.sub (by decide) | apply State.touch_mv | apply State.storeMarked_mv)

theorem copyDone_mv (c : EngCmd) (slots : Nat → Option Table) (d : Operand) (poison : Bool) (hm : CSub 0x100 μ)
    (hn : TSub 0x1000000000000 ν) :
    State.Moves μ ν s₀ (copyDone s c slots d poison).2 := by
  unfold copyDone
  try dsimp only
  with_reducible repeat' (first
    | assumption | intro _ | exact hm.sub (by decide) | exact hn.sub (by decide)
    | exact hn.bit (by decide) | exact hm.bit (by decide) | apply State.observeOut_mv | split | rfl
    | exact mem_of (by decide))

theorem runCmove_mv (c : EngCmd) (hm : CSub 0x4903 μ) (hn : TSub 0x7000000000000 ν) :
    State.Moves μ ν s₀ (runCmove c s).state := by
  unfold runCmove
  try dsimp only
  with_reducible repeat' (first
    | assumption | intro _ | exact hm.sub (by decide) | exact hn.sub (by decide)
    | exact hn.bit (by decide) | exact hm.bit (by decide) | apply State.copyRange_mv
    | (refine mv_snd (by assumption) ?_; apply copyDone_mv) | apply copyDone_mv | apply State.Moves.ite
    | apply foldl_mv | apply foldl_mv2 | apply foldl_mv1 | split | rfl | exact mem_of (by decide))

theorem execCmove_mv (t : ThreadRef) (e : FormE) (hm : CSub 0xc01dacc μ) (hn : TSub 0x100001e800330c11008 ν) :
    State.MovesO μ ν s₀ (execCmove t e s) := by
  unfold execCmove
  try dsimp only
  with_reducible repeat' (first
    | assumption | apply engine_mv)

theorem storeSquares_mv (o : Operand) (sq : List MovedSquare) (hm : CSub 0x4803 μ) (hn : TSub 0x6000000000000 ν) :
    State.Moves μ ν s₀ (storeSquares s o sq) := by
  unfold storeSquares
  try dsimp only
  with_reducible repeat' (first
    | assumption | intro _ | apply State.storeMarked_mv | apply foldl_mv)

theorem storeCodedSquares_mv (o : Operand) (slot : Nat) (table : Option Table) (sq : List MovedSquare)
    (hm : CSub 0x4803 μ) (hn : TSub 0x6000000000000 ν) :
    State.Moves μ ν s₀ (storeCodedSquares s o slot table sq).2 := by
  unfold storeCodedSquares
  try dsimp only
  with_reducible repeat' (first
    | assumption | apply State.storeMarked_mv)

theorem State.countTmove_mv (c : EngCmd) (n : Nat) (hm : CSub 0x800 μ) (hn : TSub 0x2000000000000 ν) :
    State.Moves μ ν s₀ (State.countTmove s c n) := by
  unfold State.countTmove
  try dsimp only
  with_reducible repeat' (first
    | assumption | exact hn.bit (by decide) | apply State.rwrap_mv | apply State.countEvent_mv
    | exact mem_of (by decide))

theorem refuseTmove_mv (c : EngCmd) (reason : Nat) (hn : TSub 0x8000000 ν) :
    State.Moves μ ν s₀ (refuseTmove s c reason).state := by
  unfold refuseTmove
  try dsimp only
  with_reducible repeat' (first
    | assumption | exact hn.bit (by decide) | apply State.rinc_mv | apply Done.plain_mv | exact mem_of (by decide))

theorem moveTensor_mv (c : EngCmd) (a : Operand) (d : Operand) (hm : CSub 0xc005903 μ)
    (hn : TSub 0x1000017000220000000 ν) :
    State.Moves μ ν s₀ (moveTensor c a d s).state := by
  unfold moveTensor
  try dsimp only
  with_reducible repeat' (first
    | assumption | intro _ | exact hm.sub (by decide) | exact hn.sub (by decide)
    | exact hn.bit (by decide) | exact hm.bit (by decide) | apply State.touch_mv | apply State.blockErrors_mv
    | apply State.storeMarked_mv | apply State.copyRange_mv | (refine mv_snd (by assumption) ?_; apply copyDone_mv)
    | apply copyDone_mv | apply storeSquares_mv | (refine mv_snd (by assumption) ?_; apply storeCodedSquares_mv)
    | apply storeCodedSquares_mv | apply State.countTmove_mv | apply State.Moves.ite | apply foldl_mv | apply foldl_mv2
    | apply foldl_mv1 | split | rfl | exact mem_of (by decide))

theorem State.demandMoved_mv (die : Nat) (bytes : Nat) (hm : CSub 0x20000 μ) :
    State.Moves μ ν s₀ (State.demandMoved s die bytes) := by
  unfold State.demandMoved
  try dsimp only
  with_reducible repeat' (first
    | assumption | intro _ | exact hm.sub (by decide) | exact hm.bit (by decide) | split
    | refine State.mk_mv ?_ | rfl | exact mem_of (by decide))

theorem runTmove_mv (c : EngCmd) (hm : CSub 0xc025903 μ) (hn : TSub 0x1000017000228000000 ν) :
    State.Moves μ ν s₀ (runTmove c s).state := by
  unfold runTmove
  try dsimp only
  with_reducible repeat' (first
    | assumption | intro _ | exact hm.sub (by decide) | exact hn.sub (by decide)
    | exact hn.bit (by decide) | exact hm.bit (by decide) | apply refuseTmove_mv | apply moveTensor_mv
    | apply State.demandMoved_mv | apply State.Moves.ite | split | refine State.mk_mv ?_ | rfl
    | exact mem_of (by decide))

theorem execTmove_mv (t : ThreadRef) (e : FormE) (hm : CSub 0xc01dacc μ) (hn : TSub 0x100001e800330c11008 ν) :
    State.MovesO μ ν s₀ (execTmove t e s) := by
  unfold execTmove
  try dsimp only
  with_reducible repeat' (first
    | assumption | apply engine_mv)

/-! ## Landing -/

theorem State.takeRequest_mv (op : Nat) (f : Frame) (k : State → State) (h_k : ∀
    (y : State), State.Moves μ ν s₀ y → State.Moves μ ν s₀ (k y)) (hm : CSub 0xc019804 μ)
    (hn : TSub 0x1000012800220210000 ν) :
    State.Moves μ ν s₀ (State.takeRequest s op f k) := by
  unfold State.takeRequest
  try dsimp only
  with_reducible repeat' (first
    | assumption | intro _ | exact hm.sub (by decide) | exact hn.sub (by decide) | apply h_k
    | apply State.logError_mv | (refine State.MvOpt.of ?_ _ (by assumption); apply State.takeFrame_mv)
    | apply State.Moves.ite | split)

theorem State.endEarly_mv (c : EngCmd) (reason : Nat) (hm : CSub 0x40 μ) :
    State.Moves μ ν s₀ (State.endEarly s c reason) := by
  unfold State.endEarly
  try dsimp only
  with_reducible repeat' (first
    | assumption | refine State.mk_mv ?_)

theorem State.endRefused_mv (c : EngCmd) (reason : Nat) (hm : CSub 0x40 μ) (hn : TSub 0x10000 ν) :
    State.Moves μ ν s₀ (State.endRefused s c reason) := by
  unfold State.endRefused
  try dsimp only
  with_reducible repeat' (first
    | assumption | intro _ | exact hm.sub (by decide) | exact hn.sub (by decide)
    | exact hn.bit (by decide) | exact hm.bit (by decide) | apply State.rput_mv | apply State.endEarly_mv
    | apply State.Moves.ite | split | refine State.mk_mv ?_ | rfl | exact mem_of (by decide))

theorem landSquare_mv (o : Operand) (a : Arriving) (i : Nat) (j : Nat) (hm : CSub 0x4803 μ)
    (hn : TSub 0x6000000000000 ν) :
    State.Moves μ ν s₀ (landSquare s o a i j) := by
  unfold landSquare
  try dsimp only
  with_reducible repeat' (first
    | assumption | intro _ | apply State.store_mv | apply State.Moves.ite | apply foldl_mv)

theorem landPlain_mv (o : Operand) (a : Arriving) (hm : CSub 0x4803 μ) (hn : TSub 0x6000000000000 ν) :
    State.Moves μ ν s₀ (landPlain s o a) := by
  unfold landPlain
  try dsimp only
  with_reducible repeat' (first
    | assumption | intro _ | apply State.storeNat_mv | apply landSquare_mv | apply State.Moves.ite | apply foldl_mv)

/-! ## Gathers -/

theorem execCgather_mv (t : ThreadRef) (e : FormE) (hm : CSub 0xc01dacc μ) (hn : TSub 0x100001e800330c11008 ν) :
    State.MovesO μ ν s₀ (execCgather t e s) := by
  unfold execCgather
  try dsimp only
  with_reducible repeat' (first
    | assumption | apply engine_mv)

theorem State.answerShard_mv (c : EngCmd) (j : Nat) (word : Nat) (hm : CSub 0x14803 μ) (hn : TSub 0x6000000000000 ν) :
    State.Moves μ ν s₀ (State.answerShard s c j word) := by
  unfold State.answerShard
  try dsimp only
  with_reducible repeat' (first
    | assumption | exact hm.sub (by decide) | apply State.storeNat_mv | split | refine State.mk_mv ?_)

theorem startGather_mv (c : EngCmd) (hm : CSub 0xc01d847 μ) (hn : TSub 0x1000016800220210000 ν) :
    State.Moves μ ν s₀ (startGather c s) := by
  unfold startGather
  try dsimp only
  with_reducible repeat' (first
    | assumption | intro _ | exact hm.sub (by decide) | exact hn.sub (by decide)
    | exact hn.bit (by decide) | exact hm.bit (by decide) | apply State.sendFrame_mv
    | apply State.endEarly_mv | apply State.endRefused_mv | apply State.answerShard_mv | apply State.Moves.ite
    | apply foldl_mv | apply foldl_mv2 | apply foldl_mv1 | split | refine State.mk_mv ?_ | rfl
    | exact mem_of (by decide))

theorem execGatherReq_mv (f : Frame) (hm : CSub 0xc019804 μ) (hn : TSub 0x1000012800220210000 ν) :
    State.MovesO μ ν s₀ (execGatherReq f s) := by
  unfold execGatherReq
  try dsimp only
  with_reducible repeat' (first
    | assumption | intro _ | apply State.takeRequest_mv | apply State.MovesO.next | refine State.mk_mv ?_)

theorem State.takeLease_mv (r : GatherReq) (b : Nat) (gen : Nat) (hm : CSub 0x10000 μ) :
    State.Moves μ ν s₀ (State.takeLease s r b gen) := by
  unfold State.takeLease
  try dsimp only
  with_reducible repeat' (first
    | assumption | intro _ | apply State.Moves.ite | refine State.mk_mv ?_)

theorem State.sendCopies_mv (r : GatherReq) (b : Nat) (k : Nat) (h : SlotHead) (hm : CSub 0xc01d804 μ)
    (hn : TSub 0x1000016800220210000 ν) :
    State.Moves μ ν s₀ (State.sendCopies s r b k h) := by
  unfold State.sendCopies
  try dsimp only
  with_reducible repeat' (first
    | assumption | intro _ | exact hm.sub (by decide) | exact hn.sub (by decide) | apply State.touch_mv
    | apply State.sendFrame_mv | apply State.takeLease_mv | apply State.Moves.ite | apply foldl_mv)

theorem State.serveGather_mv (r : GatherReq) (hm : CSub 0xc01d804 μ) (hn : TSub 0x1000016800220210000 ν) :
    State.Moves μ ν s₀ (State.serveGather s r) := by
  unfold State.serveGather
  try dsimp only
  with_reducible repeat' (first
    | assumption | intro _ | exact hm.sub (by decide) | exact hn.sub (by decide) | apply State.sendFrame_mv
    | apply State.sendCopies_mv | split | refine State.mk_mv ?_ | rfl)

theorem execGatherServe_mv (chan : Nat) (member : Nat) (shard : Nat) (hm : CSub 0xc01d804 μ)
    (hn : TSub 0x1000016800220210000 ν) :
    State.MovesO μ ν s₀ (execGatherServe chan member shard s) := by
  unfold execGatherServe
  try dsimp only
  with_reducible repeat' (first
    | assumption | intro _ | exact hm.sub (by decide) | exact hn.sub (by decide)
    | exact hn.bit (by decide) | exact hm.bit (by decide) | apply State.serveGather_mv
    | apply State.Moves.ite | apply State.MovesO.next | apply State.MovesO.ite | split | refine State.mk_mv ?_ | rfl
    | exact mem_of (by decide))

theorem appendSquare_mv (o : Operand) (w : Nat) (q : Nat) (g : Gather) (blocks : List (List Byte × Bool))
    (hm : CSub 0x4803 μ) (hn : TSub 0x6000000000000 ν) :
    State.Moves μ ν s₀ (appendSquare s o w q g blocks).1 := by
  unfold appendSquare
  try dsimp only
  with_reducible repeat' (first
    | assumption | apply State.storeMarked_mv)

theorem landParts_mv (o : Operand) (die : Nat) (w : Nat) (a : Arriving) (g : Gather) (hm : CSub 0x4803 μ)
    (hn : TSub 0x6000000000000 ν) :
    State.Moves μ ν s₀ (landParts s o die w a g).1 := by
  unfold landParts
  try dsimp only
  with_reducible repeat' (first
    | assumption | intro _ | apply appendSquare_mv | apply foldl_mv1 | split)

theorem landCopy_mv (o : Operand) (die : Nat) (w : Nat) (a : Arriving) (raw : List (List (List Byte × Bool)))
    (g : Gather) (hm : CSub 0x4803 μ) (hn : TSub 0x6000000000000 ν) :
    State.Moves μ ν s₀ (landCopy s o die w a raw g).1 := by
  unfold landCopy
  try dsimp only
  with_reducible repeat' (first
    | assumption | intro _ | apply landPlain_mv | apply appendSquare_mv | apply landParts_mv | apply foldl_mv1 | split)

theorem landCopies_mv (c : EngCmd) (f : Frame) (b : Nat) (h : SlotHead) (g : Gather) (hm : CSub 0xc005903 μ)
    (hn : TSub 0x1000017000220000000 ν) :
    State.Moves μ ν s₀ (landCopies s c f b h g).1 := by
  unfold landCopies
  try dsimp only
  with_reducible repeat' (first
    | assumption | intro _ | exact hm.sub (by decide) | exact hn.sub (by decide)
    | exact hn.bit (by decide) | exact hm.bit (by decide) | apply State.observeOut_mv
    | apply State.blockErrors_mv | (refine mv_fst (by assumption) ?_; apply landCopy_mv) | apply landCopy_mv
    | apply State.Moves.ite | apply foldl_mv | apply foldl_mv2 | apply foldl_mv1 | split | refine State.mk_mv ?_ | rfl
    | exact fld_of_tab (by with_reducible assumption) | exact fld_of_list (by with_reducible assumption) (by decide)
    | exact fld_of_list (List.of_mem_zip (by with_reducible assumption)).1 (by decide)
    | exact hn.bit (bit_of_list (by with_reducible assumption) (by decide))
    | exact hn.bit (bit_of_list (List.of_mem_zip (by with_reducible assumption)).1 (by decide))
    | exact bit_of_tab (by with_reducible assumption) (by with_reducible assumption) | exact mem_of (by decide))

theorem State.bump_mv (c : Nat) (i : Nat) (n : Nat) (hm : CSub 0x10000 μ) :
    State.Moves μ ν s₀ (State.bump s c i n) := by
  unfold State.bump
  try dsimp only
  with_reducible repeat' (first
    | assumption | refine State.mk_mv ?_)

theorem State.bumpStale_mv (c : Nat) (n : Nat) (hm : CSub 0x10000 μ) :
    State.Moves μ ν s₀ (State.bumpStale s c n) := by
  unfold State.bumpStale
  try dsimp only
  with_reducible repeat' (first
    | assumption | refine State.mk_mv ?_)

theorem State.holdLease_mv (h : HeldLease) (hm : CSub 0x10000 μ) :
    State.Moves μ ν s₀ (State.holdLease s h) := by
  unfold State.holdLease
  try dsimp only
  with_reducible repeat' (first
    | assumption | split | refine State.mk_mv ?_)

theorem State.landAnswer_mv (c : EngCmd) (g : Gather) (f : Frame) (hm : CSub 0xc015903 μ)
    (hn : TSub 0x1000017000220000000 ν) :
    State.Moves μ ν s₀ (State.landAnswer s c g f) := by
  unfold State.landAnswer
  try dsimp only
  with_reducible repeat' (first
    | assumption | intro _ | exact hm.sub (by decide) | exact hn.sub (by decide) | apply State.countEvent_mv
    | apply State.traceCmd_mv | apply State.answerShard_mv | apply landCopies_mv | apply State.bump_mv
    | apply State.bumpStale_mv | apply State.holdLease_mv | apply State.Moves.ite | refine State.mk_mv ?_)

theorem State.lateLease_mv (f : Frame) (hm : CSub 0xc019804 μ) (hn : TSub 0x1000012800220210000 ν) :
    State.Moves μ ν s₀ (State.lateLease s f) := by
  unfold State.lateLease
  try dsimp only
  with_reducible repeat' (first
    | assumption | intro _ | exact hm.sub (by decide) | exact hn.sub (by decide)
    | exact hn.bit (by decide) | exact hm.bit (by decide) | apply State.sendFrame_mv
    | apply State.holdLease_mv | apply State.Moves.ite | split | rfl | exact mem_of (by decide))

theorem execGatherData_mv (f : Frame) (hm : CSub 0xc01d907 μ) (hn : TSub 0x1000017800220210000 ν) :
    State.MovesO μ ν s₀ (execGatherData f s) := by
  unfold execGatherData
  try dsimp only
  with_reducible repeat' (first
    | assumption | intro _ | exact hm.sub (by decide) | exact hn.sub (by decide)
    | exact hn.bit (by decide) | exact hm.bit (by decide) | apply State.takeRequest_mv
    | apply State.answerShard_mv | apply State.landAnswer_mv | apply State.lateLease_mv | apply State.Moves.ite
    | apply State.MovesO.next | apply State.MovesO.ite | split | refine State.mk_mv ?_ | rfl | exact mem_of (by decide))

theorem execGatherTimeout_mv (id : Nat) (shard : Nat) (hm : CSub 0x14803 μ) (hn : TSub 0x6000000000000 ν) :
    State.MovesO μ ν s₀ (execGatherTimeout id shard s) := by
  unfold execGatherTimeout
  try dsimp only
  with_reducible repeat' (first
    | assumption | intro _ | apply State.answerShard_mv | apply State.Moves.ite | apply State.MovesO.next | split)

theorem finishCoded_mv (o : Operand) (w : Nat) (g : Gather) (hm : CSub 0x10004803 μ) (hn : TSub 0x6000000000000 ν) :
    State.Moves μ ν s₀ (finishCoded s o w g) := by
  unfold finishCoded
  try dsimp only
  with_reducible repeat' (first
    | assumption | intro _ | exact hm.sub (by decide) | apply State.draw_mv | apply State.store_mv
    | apply State.storeNat_mv | apply State.Moves.ite | apply foldl_mv | apply foldl_mv2 | split)

theorem runGather_mv (c : EngCmd) (hm : CSub 0x10014803 μ) (hn : TSub 0x6000000000000 ν) :
    State.Moves μ ν s₀ (runGather c s).state := by
  unfold runGather
  try dsimp only
  with_reducible repeat' (first
    | assumption | intro _ | exact hm.sub (by decide) | apply Done.plain_mv | apply finishCoded_mv
    | apply State.Moves.ite | apply foldl_mv | split | refine State.mk_mv ?_)

theorem State.releaseLeases_mv (which : HeldLease → Bool) (hm : CSub 0xc019804 μ) (hn : TSub 0x1000012800220210000 ν)
    :
    State.Moves μ ν s₀ (State.releaseLeases s which) := by
  unfold State.releaseLeases
  try dsimp only
  with_reducible repeat' (first
    | assumption | intro _ | apply State.sendFrame_mv | apply foldl_mv | refine State.mk_mv ?_)

theorem execLeaseRelease_mv (f : Frame) (hm : CSub 0xc019804 μ) (hn : TSub 0x1000012800220210000 ν) :
    State.MovesO μ ν s₀ (execLeaseRelease f s) := by
  unfold execLeaseRelease
  try dsimp only
  with_reducible repeat' (first
    | assumption | intro _ | apply State.takeRequest_mv | apply State.MovesO.next | refine State.mk_mv ?_)

theorem execLeaseTimeout_mv (chan : Nat) (member : Nat) (shard : Nat) (gen : Nat) (hm : CSub 0xc011000 μ)
    (hn : TSub 0x1000012000220000000 ν) :
    State.MovesO μ ν s₀ (execLeaseTimeout chan member shard gen s) := by
  unfold execLeaseTimeout
  try dsimp only
  with_reducible repeat' (first
    | assumption | intro _ | exact hm.sub (by decide) | apply State.logError_mv | apply State.bump_mv
    | apply State.Moves.ite | apply State.MovesO.next | split | refine State.mk_mv ?_)

end Sys2Proof.Machine
end

