-- ==== Sys2Proof/Laws/Moves3.lean ====
section
/-!
SUPPORT. What the operations of Reduce, Transfers, Containment, Pairs, Update and Control may change: each one stays in
the relation `State.Moves` with the pieces and tables of its masks.
-/
set_option Elab.async false

namespace Sys2Proof.Machine

variable {μ ν : Nat} {s₀ s : State} (h₀ : State.Moves μ ν s₀ s)
include h₀

/-! ## Reduce -/

theorem execCreduce_mv (t : ThreadRef) (e : FormE) (hm : CSub 0xc01dacc μ) (hn : TSub 0x100001e800330c11008 ν) :
    State.MovesO μ ν s₀ (execCreduce t e s) := by
  unfold execCreduce
  try dsimp only
  with_reducible repeat' (first
    | assumption | apply engine_mv)

theorem State.sendContrib_mv (c : EngCmd) (ch : Nat) (j : Nat) (dest : Nat) (o : Operand) (bad : Bool) (tscale : Nat)
    (hm : CSub 0xc019804 μ) (hn : TSub 0x1000012800220210000 ν) :
    State.Moves μ ν s₀ (State.sendContrib s c ch j dest o bad tscale) := by
  unfold State.sendContrib
  try dsimp only
  with_reducible repeat' (first
    | assumption | intro _ | exact hm.sub (by decide) | exact hn.sub (by decide)
    | exact hn.bit (by decide) | exact hm.bit (by decide) | apply State.sendFrame_mv | apply State.Moves.ite
    | apply foldl_mv | apply foldl_mv2 | apply foldl_mv1 | split | refine State.mk_mv ?_ | rfl
    | exact mem_of (by decide))

theorem startReduce_mv (c : EngCmd) (hm : CSub 0xc01d844 μ) (hn : TSub 0x1000016800220210000 ν) :
    State.Moves μ ν s₀ (startReduce c s) := by
  unfold startReduce
  try dsimp only
  with_reducible repeat' (first
    | assumption | intro _ | exact hm.sub (by decide) | exact hn.sub (by decide) | apply State.countEvent_mv
    | apply State.touch_mv | apply State.endRefused_mv | apply State.sendContrib_mv | apply step_mv | apply foldl_mv
    | split | refine State.mk_mv ?_)

theorem State.acceptContrib_mv (id : Nat) (shard : Nat) (code : Nat) (hm : CSub 0x10000 μ) :
    State.Moves μ ν s₀ (State.acceptContrib s id shard code) := by
  unfold State.acceptContrib
  try dsimp only
  with_reducible repeat' (first
    | assumption | intro _ | apply State.Moves.ite | split | refine State.mk_mv ?_)

theorem execContribUnaccepted_mv (id : Nat) (shard : Nat) (hm : CSub 0xc011080 μ) (hn : TSub 0x1000012000220000000 ν)
    :
    State.MovesO μ ν s₀ (execContribUnaccepted id shard s) := by
  unfold execContribUnaccepted
  try dsimp only
  with_reducible repeat' (first
    | assumption | intro _ | exact hm.sub (by decide) | apply State.logError_mv | apply State.raiseFlags_mv
    | apply State.Moves.ite | apply State.MovesO.next | split | refine State.mk_mv ?_)

theorem State.contribErrors_mv (f : Frame) (hm : CSub 0xc001000 μ) (hn : TSub 0x1000012000220000000 ν) :
    State.Moves μ ν s₀ (State.contribErrors s f) := by
  unfold State.contribErrors
  try dsimp only
  with_reducible repeat' (first
    | assumption | intro _ | exact hm.sub (by decide) | exact hn.sub (by decide)
    | exact hn.bit (by decide) | exact hm.bit (by decide) | apply State.logError_mv | apply foldl_mv
    | apply foldl_mv2 | apply foldl_mv1 | split | rfl | exact mem_of (by decide))

theorem State.dropCarries_mv (which : Carry → Bool) (counted : Bool) (hm : CSub 0x10000 μ) :
    State.Moves μ ν s₀ (State.dropCarries s which counted) := by
  unfold State.dropCarries
  try dsimp only
  with_reducible repeat' (first
    | assumption | intro _ | apply State.bump_mv | apply State.Moves.ite | apply foldl_mv | refine State.mk_mv ?_)

theorem State.storeCarry_mv (y : Carry) (f : Frame) (hm : CSub 0x4803 μ) (hn : TSub 0x6000000000000 ν) :
    State.Moves μ ν s₀ (State.storeCarry s y f) := by
  unfold State.storeCarry
  try dsimp only
  with_reducible repeat' (first
    | assumption | apply State.store_mv | apply State.storeMarked_mv)

theorem State.noteLate_mv (f : Frame) (hm : CSub 0x10000 μ) :
    State.Moves μ ν s₀ (State.noteLate s f) := by
  unfold State.noteLate
  try dsimp only
  with_reducible repeat' (first
    | assumption | intro _ | exact hm.sub (by decide) | exact hm.bit (by decide) | apply step_mv
    | apply State.Moves.ite | split | refine State.mk_mv ?_ | rfl | exact mem_of (by decide))

theorem State.lateContrib_mv (f : Frame) (hm : CSub 0x14803 μ) (hn : TSub 0x6000000000000 ν) :
    State.Moves μ ν s₀ (State.lateContrib s f) := by
  unfold State.lateContrib
  try dsimp only
  with_reducible repeat' (first
    | assumption | intro _ | exact hm.sub (by decide) | apply State.bump_mv | apply State.storeCarry_mv
    | apply State.noteLate_mv | apply State.Moves.ite | split | refine State.mk_mv ?_)

theorem State.setRed_mv (r : Reduction) (r' : Reduction) (hm : CSub 0x10000 μ) :
    State.Moves μ ν s₀ (State.setRed s r r') := by
  unfold State.setRed
  try dsimp only
  with_reducible repeat' (first
    | assumption | refine State.mk_mv ?_)

theorem State.logReduction_mv (r : Reduction) (outcome : Nat) (hm : CSub 0x4803 μ) (hn : TSub 0x6000000010000 ν) :
    State.Moves μ ν s₀ (State.logReduction s r outcome) := by
  unfold State.logReduction
  try dsimp only
  with_reducible repeat' (first
    | assumption | intro _ | exact hn.sub (by decide) | exact hn.bit (by decide) | apply State.rwrap_mv
    | apply State.store_mv | apply State.Moves.ite | exact mem_of (by decide))

theorem State.endReduction_mv (r : Reduction) (outcome : Nat) (hm : CSub 0x15803 μ) (hn : TSub 0x16000000010000 ν) :
    State.Moves μ ν s₀ (State.endReduction s r outcome) := by
  unfold State.endReduction
  try dsimp only
  with_reducible repeat' (first
    | assumption | exact hm.sub (by decide) | exact hn.sub (by decide) | apply State.traceEvent_mv
    | apply State.logReduction_mv | refine State.mk_mv ?_)

theorem State.closeSegment_mv (r : Reduction) (g : Segment) (hm : CSub 0xc011080 μ)
    (hn : TSub 0x1000012000230000000 ν) :
    State.Moves μ ν s₀ (State.closeSegment s r g).2 := by
  unfold State.closeSegment
  try dsimp only
  with_reducible repeat' (first
    | assumption | intro _ | exact hm.sub (by decide) | exact hn.sub (by decide)
    | exact hn.bit (by decide) | exact hm.bit (by decide) | apply State.detect_mv | apply State.raiseFlags_mv
    | apply State.setRed_mv | apply State.Moves.ite | split | refine State.mk_mv ?_ | rfl | exact mem_of (by decide))

theorem State.closeReduction_mv (r : Reduction) (hm : CSub 0x15803 μ) (hn : TSub 0x16000000010000 ν) :
    State.Moves μ ν s₀ (State.closeReduction s r) := by
  unfold State.closeReduction
  try dsimp only
  with_reducible repeat' (first
    | assumption | intro _ | exact hm.sub (by decide) | exact hn.sub (by decide)
    | exact hn.bit (by decide) | exact hm.bit (by decide) | apply State.bump_mv | apply State.endReduction_mv
    | apply step_mv | apply State.Moves.ite | split | refine State.mk_mv ?_ | rfl | exact mem_of (by decide))

theorem State.fixRecord_mv (r : Reduction) (hm : CSub 0x10000 μ) :
    State.Moves μ ν s₀ (State.fixRecord s r).2 := by
  unfold State.fixRecord
  try dsimp only
  with_reducible repeat' (first
    | assumption | apply State.dropCarries_mv | apply State.setRed_mv | refine State.mk_mv ?_)

theorem State.tryClose_mv (r : Reduction) (record : List Nat) (k : Nat) (hm : CSub 0xc011080 μ)
    (hn : TSub 0x1000012000230000000 ν) :
    State.Moves μ ν s₀ (State.tryClose s r record k).2 := by
  unfold State.tryClose
  try dsimp only
  with_reducible repeat' (first
    | assumption | intro _ | exact hm.sub (by decide) | exact hn.sub (by decide)
    | exact hn.bit (by decide) | exact hm.bit (by decide)
    | (refine mv_snd (by assumption) ?_; apply State.closeSegment_mv) | apply State.closeSegment_mv
    | apply State.Moves.ite | split | refine State.mk_mv ?_ | rfl | exact mem_of (by decide))

theorem State.progress_mv (r : Reduction) (hm : CSub 0xc015883 μ) (hn : TSub 0x1000016000230010000 ν) :
    State.Moves μ ν s₀ (State.progress s r) := by
  unfold State.progress
  try dsimp only
  with_reducible repeat' (first
    | assumption | intro _ | exact hm.sub (by decide) | exact hn.sub (by decide)
    | exact hn.bit (by decide) | exact hm.bit (by decide) | apply State.closeReduction_mv
    | (refine mv_snd (by assumption) ?_; apply State.fixRecord_mv) | apply State.fixRecord_mv
    | (refine mv_snd (by assumption) ?_; apply State.tryClose_mv) | apply State.tryClose_mv | apply State.Moves.ite
    | apply foldl_mv | apply foldl_mv2 | apply foldl_mv1 | split | refine State.mk_mv ?_ | rfl
    | exact mem_of (by decide))

theorem State.addSegment_mv (r : Reduction) (f : Frame) (hm : CSub 0xc015883 μ) (hn : TSub 0x1000016000230010000 ν) :
    State.Moves μ ν s₀ (State.addSegment s r f) := by
  unfold State.addSegment
  try dsimp only
  with_reducible repeat' (first
    | assumption | exact hm.sub (by decide) | exact hn.bit (by decide) | apply State.rwrap_mv
    | apply State.setRed_mv | apply State.progress_mv | exact mem_of (by decide))

theorem State.openReduction_mv (f : Frame) (hm : CSub 0xc015883 μ) (hn : TSub 0x1000016000230010000 ν) :
    State.Moves μ ν s₀ (State.openReduction s f) := by
  unfold State.openReduction
  try dsimp only
  with_reducible repeat' (first
    | assumption | apply State.addSegment_mv | refine State.mk_mv ?_)

theorem State.addContrib_mv (f : Frame) (hm : CSub 0xc015883 μ) (hn : TSub 0x1000016000230010000 ν) :
    State.Moves μ ν s₀ (State.addContrib s f) := by
  unfold State.addContrib
  try dsimp only
  with_reducible repeat' (first
    | assumption | intro _ | exact hm.sub (by decide) | exact hn.sub (by decide)
    | exact hn.bit (by decide) | exact hm.bit (by decide) | apply State.bump_mv
    | apply State.contribErrors_mv | apply State.lateContrib_mv | apply State.addSegment_mv
    | apply State.openReduction_mv | split | refine State.mk_mv ?_ | rfl | exact mem_of (by decide))

theorem State.grantContrib_mv (f : Frame) (code : Nat) (hm : CSub 0xc019804 μ) (hn : TSub 0x1000012800220210000 ν) :
    State.Moves μ ν s₀ (State.grantContrib s f code) := by
  unfold State.grantContrib
  try dsimp only
  with_reducible repeat' (first
    | assumption | intro _ | exact hm.sub (by decide) | apply State.grantFrame_mv | apply State.acceptContrib_mv
    | apply State.Moves.ite)

theorem State.takeWaiting_mv (e : Nat × Nat × Frame) (hm : CSub 0xc01d887 μ) (hn : TSub 0x1000016800230210000 ν) :
    State.Moves μ ν s₀ (State.takeWaiting s e) := by
  unfold State.takeWaiting
  try dsimp only
  with_reducible repeat' (first
    | assumption | intro _ | exact hm.sub (by decide) | exact hn.sub (by decide)
    | exact hn.bit (by decide) | exact hm.bit (by decide) | apply State.rwrap_mv | apply State.addContrib_mv
    | apply State.grantContrib_mv | apply State.Moves.ite | split | refine State.mk_mv ?_ | rfl
    | exact mem_of (by decide))

theorem State.takeLined_mv (hm : CSub 0xc01d887 μ) (hn : TSub 0x1000016800230210000 ν) :
    State.Moves μ ν s₀ (State.takeLined s) := by
  unfold State.takeLined
  try dsimp only
  with_reducible repeat' (first
    | assumption | intro _ | exact hm.sub (by decide) | exact hn.sub (by decide)
    | exact hn.bit (by decide) | exact hm.bit (by decide) | apply State.takeWaiting_mv
    | apply State.Moves.ite | apply foldl_mv | apply foldl_mv2 | apply foldl_mv1 | split | rfl
    | exact mem_of (by decide))

theorem execContribution_mv (f : Frame) (hm : CSub 0xc01d887 μ) (hn : TSub 0x1000016800230210000 ν) :
    State.MovesO μ ν s₀ (execContribution f s) := by
  unfold execContribution
  try dsimp only
  with_reducible repeat' (first
    | assumption | intro _ | exact hm.sub (by decide) | exact hn.sub (by decide)
    | exact hn.bit (by decide) | exact hm.bit (by decide) | apply State.logError_mv
    | apply State.grantFrame_mv | (refine State.MvOpt.of ?_ _ (by assumption); apply State.popFrame_mv)
    | apply State.popFrame_mv | apply State.addContrib_mv | apply State.grantContrib_mv | apply State.takeLined_mv
    | apply State.Moves.ite | apply State.MovesO.next | apply State.MovesO.ite | apply State.MvOpt.some
    | exact State.MvOpt.none | apply State.MvOpt.ite | apply State.MvOpt.map | apply State.MvOpt.getD | split
    | refine State.mk_mv ?_ | rfl | exact mem_of (by decide))

theorem execContributionLineGrant_mv (die : Nat) (hm : CSub 0xc01d887 μ) (hn : TSub 0x1000016800230210000 ν) :
    State.MovesO μ ν s₀ (execContributionLineGrant die s) := by
  unfold execContributionLineGrant
  try dsimp only
  with_reducible repeat' (first
    | assumption | intro _ | exact hm.sub (by decide) | exact hn.sub (by decide)
    | exact hn.bit (by decide) | apply State.takeWaiting_mv | apply State.takeLined_mv | apply State.MovesO.next
    | apply State.MovesO.ite | split | rfl | exact mem_of (by decide))

theorem execReductionDeadline_mv (chan : Nat) (shard : Nat) (hm : CSub 0xc015883 μ)
    (hn : TSub 0x1000016000230010000 ν) :
    State.MovesO μ ν s₀ (execReductionDeadline chan shard s) := by
  unfold execReductionDeadline
  try dsimp only
  with_reducible repeat' (first
    | assumption | intro _ | apply State.progress_mv | apply State.MovesO.next | apply foldl_mv)

theorem State.loseReduction_mv (r : Reduction) (hm : CSub 0xc015883 μ) (hn : TSub 0x1000016000220010000 ν) :
    State.Moves μ ν s₀ (State.loseReduction s r) := by
  unfold State.loseReduction
  try dsimp only
  with_reducible repeat' (first
    | assumption | intro _ | exact hm.sub (by decide) | exact hn.sub (by decide) | apply State.logError_mv
    | apply State.raiseFlags_mv | apply State.bump_mv | apply State.dropCarries_mv | apply State.endReduction_mv
    | apply State.Moves.ite | refine State.mk_mv ?_)

theorem execReductionAbandon_mv (chan : Nat) (shard : Nat) (hm : CSub 0xc015883 μ) (hn : TSub 0x1000016000220010000 ν)
    :
    State.MovesO μ ν s₀ (execReductionAbandon chan shard s) := by
  unfold execReductionAbandon
  try dsimp only
  with_reducible repeat' (first
    | assumption | intro _ | apply State.loseReduction_mv | apply State.MovesO.next | apply foldl_mv)

theorem placeResults_mv (o : Operand) (k : Converted) (rs : List (Box × RedResult)) (hm : CSub 0x4803 μ)
    (hn : TSub 0x6000000000000 ν) :
    State.Moves μ ν s₀ (placeResults s o k rs) := by
  unfold placeResults
  try dsimp only
  with_reducible repeat' (first
    | assumption | intro _ | apply State.storeNat_mv | apply landPlain_mv | apply State.Moves.ite | apply foldl_mv)

theorem placeCoded_mv (p : Producer) (o : Operand) (ch : Nat) (k : Converted) (rs : List (Box × RedResult))
    (hm : CSub 0x10004803 μ) (hn : TSub 0x6000000000000 ν) :
    State.Moves μ ν s₀ (placeCoded s p o ch k rs) := by
  unfold placeCoded
  try dsimp only
  with_reducible repeat' (first
    | assumption | intro _ | exact hm.sub (by decide) | apply State.draw_mv | apply storeTensor_mv
    | apply foldl_mv2 | split)

theorem writeResults_mv (c : EngCmd) (ch : Nat) (results : List RedResult) (hm : CSub 0x10004903 μ)
    (hn : TSub 0x7000000000000 ν) :
    State.Moves μ ν s₀ (writeResults c ch results s).2 := by
  unfold writeResults
  try dsimp only
  with_reducible repeat' (first
    | assumption | intro _ | exact hm.sub (by decide) | exact hn.sub (by decide) | apply State.observeOut_mv
    | apply placeResults_mv | apply placeCoded_mv | apply State.Moves.ite)

theorem runReduce_mv (c : EngCmd) (hm : CSub 0x10014903 μ) (hn : TSub 0x7000000000000 ν) :
    State.Moves μ ν s₀ (runReduce c s).state := by
  unfold runReduce
  try dsimp only
  with_reducible repeat' (first
    | assumption | exact hm.sub (by decide) | apply Done.plain_mv | apply writeResults_mv | split
    | refine State.mk_mv ?_)

/-! ## Transfers -/

theorem execCshift_mv (t : ThreadRef) (e : FormE) (hm : CSub 0xc01dacc μ) (hn : TSub 0x100001e800330c11008 ν) :
    State.MovesO μ ν s₀ (execCshift t e s) := by
  unfold execCshift
  try dsimp only
  with_reducible repeat' (first
    | assumption | apply engine_mv)

theorem execCsend_mv (t : ThreadRef) (e : FormE) (hm : CSub 0xc01dacc μ) (hn : TSub 0x100001e800330c11008 ν) :
    State.MovesO μ ν s₀ (execCsend t e s) := by
  unfold execCsend
  try dsimp only
  with_reducible repeat' (first
    | assumption | apply engine_mv)

theorem execCrecv_mv (t : ThreadRef) (e : FormE) (hm : CSub 0xc01dacc μ) (hn : TSub 0x100001e800330c11008 ν) :
    State.MovesO μ ν s₀ (execCrecv t e s) := by
  unfold execCrecv
  try dsimp only
  with_reducible repeat' (first
    | assumption | apply engine_mv)

theorem State.sendTensor_mv (c : EngCmd) (ch : Nat) (op : Nat) (member : Nat) (hm : CSub 0xc01d804 μ)
    (hn : TSub 0x1000016800220210000 ν) :
    State.Moves μ ν s₀ (State.sendTensor s c ch op member) := by
  unfold State.sendTensor
  try dsimp only
  with_reducible repeat' (first
    | assumption | intro _ | exact hm.sub (by decide) | exact hn.sub (by decide) | apply State.touch_mv
    | apply State.addSending_mv | apply State.sendFrame_mv | apply foldl_mv)

theorem State.addLanding_mv (l : Landing) (hm : CSub 0x10000 μ) :
    State.Moves μ ν s₀ (State.addLanding s l) := by
  unfold State.addLanding
  try dsimp only
  with_reducible repeat' (first
    | assumption | refine State.mk_mv ?_)

theorem startCshift_mv (c : EngCmd) (hm : CSub 0xc01d844 μ) (hn : TSub 0x1000016800220210000 ν) :
    State.Moves μ ν s₀ (startCshift c s) := by
  unfold startCshift
  try dsimp only
  with_reducible repeat' (first
    | assumption | intro _ | exact hm.sub (by decide) | exact hn.sub (by decide)
    | exact hn.bit (by decide) | exact hm.bit (by decide) | apply State.endRefused_mv
    | apply State.sendTensor_mv | apply State.addLanding_mv | split | refine State.mk_mv ?_ | rfl
    | exact mem_of (by decide))

theorem startCsend_mv (c : EngCmd) (hm : CSub 0xc01d844 μ) (hn : TSub 0x1000016800220210000 ν) :
    State.Moves μ ν s₀ (startCsend c s) := by
  unfold startCsend
  try dsimp only
  with_reducible repeat' (first
    | assumption | intro _ | exact hm.sub (by decide) | exact hn.sub (by decide)
    | exact hn.bit (by decide) | exact hm.bit (by decide) | apply State.endRefused_mv
    | apply State.sendTensor_mv | split | refine State.mk_mv ?_ | rfl | exact mem_of (by decide))

theorem startCrecv_mv (c : EngCmd) (hm : CSub 0x10040 μ) (hn : TSub 0x10000 ν) :
    State.Moves μ ν s₀ (startCrecv c s) := by
  unfold startCrecv
  try dsimp only
  with_reducible repeat' (first
    | assumption | intro _ | exact hm.sub (by decide) | exact hn.sub (by decide)
    | exact hn.bit (by decide) | exact hm.bit (by decide) | apply State.endRefused_mv
    | apply State.addLanding_mv | split | refine State.mk_mv ?_ | rfl | exact mem_of (by decide))

theorem landTransfer_mv (o : Operand) (f : Frame) (hm : CSub 0x4803 μ) (hn : TSub 0x6000000000000 ν) :
    State.Moves μ ν s₀ (landTransfer s o f) := by
  unfold landTransfer
  try dsimp only
  with_reducible repeat' (first
    | assumption | intro _ | apply State.storeMarked_mv | apply State.Moves.ite | apply foldl_mv)

theorem State.takeTransfer_mv (op : Nat) (shift : Bool) (f : Frame) (hm : CSub 0xc01d807 μ)
    (hn : TSub 0x1000016800220210000 ν) :
    State.Moves μ ν s₀ (State.takeTransfer s op shift f) := by
  unfold State.takeTransfer
  try dsimp only
  with_reducible repeat' (first
    | assumption | intro _ | exact hm.sub (by decide) | exact hn.sub (by decide) | apply State.takeRequest_mv
    | apply landTransfer_mv | apply State.Moves.ite | split | refine State.mk_mv ?_)

theorem execShift_mv (f : Frame) (hm : CSub 0xc01d807 μ) (hn : TSub 0x1000016800220210000 ν) :
    State.MovesO μ ν s₀ (execShift f s) := by
  unfold execShift
  try dsimp only
  with_reducible repeat' (first
    | assumption | apply State.takeTransfer_mv | apply State.MovesO.next)

theorem execSend_mv (f : Frame) (hm : CSub 0xc01d807 μ) (hn : TSub 0x1000016800220210000 ν) :
    State.MovesO μ ν s₀ (execSend f s) := by
  unfold execSend
  try dsimp only
  with_reducible repeat' (first
    | assumption | apply State.takeTransfer_mv | apply State.MovesO.next)

theorem runTransfer_mv (c : EngCmd) (hm : CSub 0x10100 μ) (hn : TSub 0x1000000000000 ν) :
    State.Moves μ ν s₀ (runTransfer c s).state := by
  unfold runTransfer
  try dsimp only
  with_reducible repeat' (first
    | assumption | intro _ | exact hm.sub (by decide) | exact hn.sub (by decide)
    | exact hn.bit (by decide) | exact hm.bit (by decide)
    | (refine mv_snd (by assumption) ?_; apply copyDone_mv) | apply copyDone_mv | apply State.Moves.ite | split
    | refine State.mk_mv ?_ | rfl | exact mem_of (by decide))

/-! ## Containment -/

theorem State.abortCmds_mv (which : EngCmd → Bool) (hm : CSub 0x30040 μ) :
    State.Moves μ ν s₀ (State.abortCmds s which) := by
  unfold State.abortCmds
  try dsimp only
  with_reducible repeat' (first
    | assumption | refine State.mk_mv ?_)

theorem State.dropUpdates_mv (b : Nat) (hm : CSub 0x30000 μ) :
    State.Moves μ ν s₀ (State.dropUpdates s b) := by
  unfold State.dropUpdates
  try dsimp only
  with_reducible repeat' (first
    | assumption | refine State.mk_mv ?_)

theorem State.resetPartition_mv (p : Nat) (hm : CSub 0xe0392c4 μ) (hn : TSub 0x100001a000330c11008 ν) :
    State.Moves μ ν s₀ (State.resetPartition s p) := by
  unfold State.resetPartition
  try dsimp only
  with_reducible repeat' (first
    | assumption | intro _ | exact hm.sub (by decide) | exact hn.sub (by decide)
    | exact hn.bit (by decide) | apply State.rput_mv | apply State.rinc_mv | apply State.logError_mv
    | apply State.endContext_mv | apply State.abortCmds_mv | apply State.dropUpdates_mv | apply State.Moves.ite
    | apply foldl_mv | refine State.mk_mv ?_ | exact mem_of (by decide))

theorem State.wipeRegion_mv (g : Nat) (hm : CSub 0x3 μ) :
    State.Moves μ ν s₀ (State.wipeRegion s g) := by
  unfold State.wipeRegion
  try dsimp only
  with_reducible repeat' (first
    | assumption | intro _ | apply State.wipe_mv | apply foldl_mv)

theorem State.clearUnits_mv (g : Nat) (hm : CSub 0x30454 μ) :
    State.Moves μ ν s₀ (State.clearUnits s g) := by
  unfold State.clearUnits
  try dsimp only
  with_reducible repeat' (first
    | assumption | refine State.mk_mv ?_)

theorem State.stopRegion_mv (g : Nat) (hm : CSub 0x800 μ) (hn : TSub 0x40000000000 ν) :
    State.Moves μ ν s₀ (State.stopRegion s g) := by
  unfold State.stopRegion
  try dsimp only
  with_reducible repeat' (first
    | assumption | intro _ | exact hn.bit (by decide) | apply State.rput_mv | apply State.stopSamples_mv
    | apply State.Moves.ite | exact mem_of (by decide))

theorem State.resumeRegion_mv (g : Nat) (hm : CSub 0x1000 μ) (hn : TSub 0x40000000000 ν) :
    State.Moves μ ν s₀ (State.resumeRegion s g) := by
  unfold State.resumeRegion
  try dsimp only
  with_reducible repeat' (first
    | assumption | intro _ | exact hn.bit (by decide) | apply State.rput_mv | apply State.setTraceBuf_mv
    | apply State.Moves.ite | exact mem_of (by decide))

theorem State.resetRegion_mv (g : Nat) (hm : CSub 0x31457 μ) (hn : TSub 0x40000004000 ν) :
    State.Moves μ ν s₀ (State.resetRegion s g) := by
  unfold State.resetRegion
  try dsimp only
  with_reducible repeat' (first
    | assumption | intro _ | exact hm.sub (by decide) | exact hn.sub (by decide)
    | exact hn.bit (by decide) | exact hm.bit (by decide) | apply State.rput_mv | apply State.wipeRegion_mv
    | apply State.clearUnits_mv | apply State.resumeRegion_mv | apply State.Moves.ite | split | rfl
    | exact mem_of (by decide))

theorem State.recordColumns_mv (t : Nat) (mask : Nat) (retired : Bool) (grown : Nat) (hm : CSub 0x80000 μ) :
    State.Moves μ ν s₀ (State.recordColumns s t mask retired grown) := by
  unfold State.recordColumns
  try dsimp only
  with_reducible repeat' (first
    | assumption | intro _ | exact hm.sub (by decide) | exact hm.bit (by decide) | apply State.writeItem_mv
    | split | rfl | exact mem_of (by decide))

theorem State.applyBypass_mv (t : Nat) (mask : Nat) (hm : CSub 0xc081000 μ) (hn : TSub 0x1000012000220000300 ν) :
    State.Moves μ ν s₀ (State.applyBypass s t mask) := by
  unfold State.applyBypass
  try dsimp only
  with_reducible repeat' (first
    | assumption | intro _ | exact hm.sub (by decide) | exact hn.sub (by decide)
    | exact hn.bit (by decide) | apply State.rput_mv | apply State.rinc_mv | apply State.logError_mv
    | apply State.censusMoved_mv | apply State.recordColumns_mv | apply State.Moves.ite | apply foldl_mv
    | exact mem_of (by decide))

theorem State.applyHeld_mv (gs : List Nat) (hm : CSub 0xe081000 μ) (hn : TSub 0x1000012000220000300 ν) :
    State.Moves μ ν s₀ (State.applyHeld s gs) := by
  unfold State.applyHeld
  try dsimp only
  with_reducible repeat' (first
    | assumption | intro _ | exact hm.sub (by decide) | apply State.applyBypass_mv | apply foldl_mv
    | refine State.mk_mv ?_)

theorem State.d2dChanged_mv (hm : CSub 0x8000000 μ) (hn : TSub 0x1000000000200000004 ν) :
    State.Moves μ ν s₀ (State.d2dChanged s) := by
  unfold State.d2dChanged
  try dsimp only
  with_reducible repeat' (first
    | assumption | intro _ | exact hn.sub (by decide) | exact hn.bit (by decide) | apply State.rput_mv
    | apply State.setEvt_mv | apply State.Moves.ite | exact mem_of (by decide))

theorem State.retireDie_mv (d : Nat) (hm : CSub 0xe0192c4 μ) (hn : TSub 0x100001a000330c1100c ν) :
    State.Moves μ ν s₀ (State.retireDie s d) := by
  unfold State.retireDie
  try dsimp only
  with_reducible repeat' (first
    | assumption | intro _ | exact hm.sub (by decide) | exact hn.sub (by decide)
    | exact hn.bit (by decide) | apply State.rput_mv | apply State.logError_mv | apply State.endContext_mv
    | apply State.d2dChanged_mv | apply State.Moves.ite | apply foldl_mv | refine State.mk_mv ?_
    | exact mem_of (by decide))

/-! ## Pairs -/

theorem State.strikePair_mv (t : Nat) (hm : CSub 0xa000000 μ) (hn : TSub 0x1000000000200000300 ν) :
    State.Moves μ ν s₀ (State.strikePair s t) := by
  unfold State.strikePair
  try dsimp only
  with_reducible repeat' (first
    | assumption | intro _ | exact hm.sub (by decide) | exact hn.sub (by decide)
    | exact hn.bit (by decide) | exact hm.bit (by decide) | apply State.strikeTile_mv | apply State.Moves.ite
    | split | rfl | exact mem_of (by decide))

theorem State.comparePair_mv (p : PairDigest) (digest : Nat) (hm : CSub 0xe001000 μ)
    (hn : TSub 0x1000012000230000300 ν) :
    State.Moves μ ν s₀ (State.comparePair s p digest) := by
  unfold State.comparePair
  try dsimp only
  with_reducible repeat' (first
    | assumption | intro _ | exact hm.sub (by decide) | exact hn.sub (by decide) | apply State.detect_mv
    | apply State.strikePair_mv | split)

theorem State.pairFormed_mv (p : PairDigest) (hm : CSub 0xe001000 μ) (hn : TSub 0x1000012000230000300 ν) :
    State.Moves μ ν s₀ (State.pairFormed s p) := by
  unfold State.pairFormed
  try dsimp only
  with_reducible repeat' (first
    | assumption | apply State.comparePair_mv | split | refine State.mk_mv ?_)

theorem State.sendDigest_mv (src : Nat) (p : PairDigest) (ctx : Option Half) (hm : CSub 0xc019804 μ)
    (hn : TSub 0x1000012800220210000 ν) :
    State.Moves μ ν s₀ (State.sendDigest s src p ctx) := by
  unfold State.sendDigest
  try dsimp only
  with_reducible repeat' (first
    | assumption | intro _ | exact hm.sub (by decide) | exact hn.sub (by decide)
    | exact hn.bit (by decide) | exact hm.bit (by decide) | apply State.policeFrame_mv | apply step_mv
    | split | refine State.mk_mv ?_ | rfl | exact mem_of (by decide))

theorem State.pairCommit_mv (b : Nat) (j : Nat) (gen : Nat) (opid : Nat) (step : Nat) (state : List Byte)
    (hm : CSub 0xe019804 μ) (hn : TSub 0x1000012800230210300 ν) :
    State.Moves μ ν s₀ (State.pairCommit s b j gen opid step state) := by
  unfold State.pairCommit
  try dsimp only
  with_reducible repeat' (first
    | assumption | intro _ | exact hm.sub (by decide) | exact hn.sub (by decide)
    | exact hn.bit (by decide) | exact hm.bit (by decide) | apply State.pairFormed_mv
    | apply State.sendDigest_mv | apply step_mv | apply State.Moves.ite | split | rfl | exact mem_of (by decide))

theorem execDigest_mv (f : Frame) (hm : CSub 0xe019804 μ) (hn : TSub 0x1000012800230210300 ν) :
    State.MovesO μ ν s₀ (execDigest f s) := by
  unfold execDigest
  try dsimp only
  with_reducible repeat' (first
    | assumption | exact hm.sub (by decide) | exact hn.sub (by decide)
    | (refine State.MvOpt.of ?_ _ (by assumption); apply State.takeFrame_mv) | apply State.comparePair_mv
    | apply State.MovesO.next | split | refine State.mk_mv ?_)

theorem execPairTimeout_mv (tile : Nat) (number : Nat) (hm : CSub 0xe001000 μ) (hn : TSub 0x1000012000230000300 ν) :
    State.MovesO μ ν s₀ (execPairTimeout tile number s) := by
  unfold execPairTimeout
  try dsimp only
  with_reducible repeat' (first
    | assumption | intro _ | exact hm.sub (by decide) | exact hn.sub (by decide)
    | exact hn.bit (by decide) | exact hm.bit (by decide) | apply State.detect_mv | apply State.strikePair_mv
    | apply State.Moves.ite | apply State.MovesO.next | apply State.MovesO.ite | split | refine State.mk_mv ?_ | rfl
    | exact mem_of (by decide))

/-! ## Update -/

theorem execUapply_mv (t : ThreadRef) (e : FormE) (hm : CSub 0xc01dacc μ) (hn : TSub 0x100001e800330c11008 ν) :
    State.MovesO μ ν s₀ (execUapply t e s) := by
  unfold execUapply
  try dsimp only
  with_reducible repeat' (first
    | assumption | apply engine_mv)

theorem execUprefetch_mv (t : ThreadRef) (e : FormE) (hm : CSub 0xc01dacc μ) (hn : TSub 0x100001e800330c11008 ν) :
    State.MovesO μ ν s₀ (execUprefetch t e s) := by
  unfold execUprefetch
  try dsimp only
  with_reducible repeat' (first
    | assumption | apply engine_mv)

theorem startUapply_mv (c : EngCmd) (hm : CSub 0x20040 μ) :
    State.Moves μ ν s₀ (startUapply c s) := by
  unfold startUapply
  try dsimp only
  with_reducible repeat' (first
    | assumption | intro _ | exact hm.sub (by decide) | apply State.endEarly_mv | apply State.Moves.ite | split
    | refine State.mk_mv ?_)

theorem startUprefetch_mv (c : EngCmd) (hm : CSub 0x20040 μ) :
    State.Moves μ ν s₀ (startUprefetch c s) := by
  unfold startUprefetch
  try dsimp only
  with_reducible repeat' (first
    | assumption | intro _ | exact hm.sub (by decide) | apply State.endEarly_mv | apply State.Moves.ite | split
    | refine State.mk_mv ?_)

theorem runApply_mv (c : EngCmd) (hm : CSub 0x20000 μ) :
    State.Moves μ ν s₀ (runApply c s).state := by
  unfold runApply
  try dsimp only
  with_reducible repeat' (first
    | assumption | intro _ | exact hm.sub (by decide) | exact hm.bit (by decide) | apply Done.plain_mv
    | apply State.Moves.ite | split | refine State.mk_mv ?_ | rfl | exact mem_of (by decide))

theorem State.updateGate_mv (c : Nat) (attempt : Nat) (passed : Bool) (binds : Regs) (hm : CSub 0x30000 μ) :
    State.Moves μ ν s₀ (State.updateGate s c attempt passed binds) := by
  unfold State.updateGate
  try dsimp only
  with_reducible repeat' (first
    | assumption | split | refine State.mk_mv ?_)

theorem State.dueAudits_mv (p : Nat) (hm : CSub 0x20000 μ) :
    State.Moves μ ν s₀ (State.dueAudits s p) := by
  unfold State.dueAudits
  try dsimp only
  with_reducible repeat' (first
    | assumption | intro _ | exact hm.sub (by decide) | exact hm.bit (by decide) | split
    | refine State.mk_mv ?_ | rfl | exact mem_of (by decide))

theorem execSumpWrite_mv (region : Nat) (hm : CSub 0xc031000 μ) (hn : TSub 0x1000012000220000000 ν) :
    State.MovesO μ ν s₀ (execSumpWrite region s) := by
  unfold execSumpWrite
  try dsimp only
  with_reducible repeat' (first
    | assumption | intro _ | exact hm.sub (by decide) | exact hn.sub (by decide)
    | exact hn.bit (by decide) | exact hm.bit (by decide) | apply State.logError_mv | apply step_mv
    | apply State.Moves.ite | apply State.MovesO.next | apply State.MovesO.ite | apply foldl_mv | apply foldl_mv2
    | apply foldl_mv1 | split | refine State.mk_mv ?_ | rfl | exact mem_of (by decide))

theorem State.shardDone_mv (cmd : Nat) (j : Nat) (code : Nat) (hm : CSub 0x20000 μ) :
    State.Moves μ ν s₀ (State.shardDone s cmd j code) := by
  unfold State.shardDone
  try dsimp only
  with_reducible repeat' (first
    | assumption | refine State.mk_mv ?_)

theorem State.dropGrad_mv (b : Nat) (j : Nat) (step : Nat) (attempt : Nat) (hm : CSub 0x20000 μ) :
    State.Moves μ ν s₀ (State.dropGrad s b j step attempt) := by
  unfold State.dropGrad
  try dsimp only
  with_reducible repeat' (first
    | assumption | refine State.mk_mv ?_)

theorem State.stage_mv (b : Nat) (j : Nat) (l : List (Nat × Nat × Nat)) (hm : CSub 0x24800 μ)
    (hn : TSub 0x6000000000000 ν) :
    State.Moves μ ν s₀ (State.stage s b j l) := by
  unfold State.stage
  try dsimp only
  with_reducible repeat' (first
    | assumption | intro _ | exact hm.sub (by decide) | apply State.touch_mv | apply foldl_mv
    | refine State.mk_mv ?_)

theorem State.hintMoved_mv (d : Nat) (hm : CSub 0x20000 μ) :
    State.Moves μ ν s₀ (State.hintMoved s d) := by
  unfold State.hintMoved
  try dsimp only
  with_reducible repeat' (first
    | assumption | intro _ | exact hm.sub (by decide) | exact hm.bit (by decide) | split
    | refine State.mk_mv ?_ | rfl | exact mem_of (by decide))

theorem execStateFetch_mv (b : Nat) (j : Nat) (hm : CSub 0x24800 μ) (hn : TSub 0x6000000000000 ν) :
    State.MovesO μ ν s₀ (execStateFetch b j s) := by
  unfold execStateFetch
  try dsimp only
  with_reducible repeat' (first
    | assumption | intro _ | exact hm.sub (by decide) | exact hn.sub (by decide)
    | exact hn.bit (by decide) | exact hm.bit (by decide) | apply State.demandMoved_mv | apply State.stage_mv
    | apply State.hintMoved_mv | apply State.Moves.ite | apply State.MovesO.next | apply State.MovesO.ite | split | rfl
    | exact mem_of (by decide))

theorem execRootJobStart_mv (b : Nat) (j : Nat) (hm : CSub 0x20000 μ) :
    State.MovesO μ ν s₀ (execRootJobStart b j s) := by
  unfold execRootJobStart
  try dsimp only
  with_reducible repeat' (first
    | assumption | intro _ | exact hm.sub (by decide) | exact hm.bit (by decide) | apply State.withBinds_mv
    | apply State.Moves.ite | apply State.MovesO.next | apply State.MovesO.ite | split | refine State.mk_mv ?_ | rfl
    | exact mem_of (by decide))

theorem State.holdShard_mv (b : Nat) (j : Nat) (opid : Nat) (step : Nat) (hm : CSub 0xc001000 μ)
    (hn : TSub 0x1000012000220001000 ν) :
    State.Moves μ ν s₀ (State.holdShard s b j opid step) := by
  unfold State.holdShard
  try dsimp only
  with_reducible repeat' (first
    | assumption | exact hn.sub (by decide) | exact hn.bit (by decide) | apply State.rput_mv
    | apply State.rinc_mv | apply State.logError_mv | exact mem_of (by decide))

theorem execRootJobDone_mv (b : Nat) (j : Nat) (hm : CSub 0xc021000 μ) (hn : TSub 0x1000012000220001000 ν) :
    State.MovesO μ ν s₀ (execRootJobDone b j s) := by
  unfold execRootJobDone
  try dsimp only
  with_reducible repeat' (first
    | assumption | intro _ | exact hm.sub (by decide) | exact hn.sub (by decide)
    | exact hn.bit (by decide) | exact hm.bit (by decide) | apply State.holdShard_mv | apply step_mv
    | apply State.Moves.ite | apply State.MovesO.next | apply State.MovesO.ite | split | refine State.mk_mv ?_ | rfl
    | exact mem_of (by decide))

theorem State.lentWaves_mv (b : Nat) (j : Nat) (opid : Nat) (hm : CSub 0x10000800 μ) (hn : TSub 0x800000000000 ν) :
    State.Moves μ ν s₀ (State.lentWaves s b j opid) := by
  unfold State.lentWaves
  try dsimp only
  with_reducible repeat' (first
    | assumption | intro _ | exact hm.sub (by decide) | exact hn.sub (by decide)
    | exact hn.bit (by decide) | exact hm.bit (by decide)
    | (refine mv_snd (by assumption) ?_; apply State.draw_mv) | apply State.draw_mv | apply State.countTile_mv
    | apply foldl_mv | apply foldl_mv2 | apply foldl_mv1 | split | rfl | exact mem_of (by decide))

theorem State.lendWait_mv (c : EngCmd) (hm : CSub 0x10000800 μ) (hn : TSub 0x800000000000 ν) :
    State.Moves μ ν s₀ (State.lendWait s c) := by
  unfold State.lendWait
  try dsimp only
  with_reducible repeat' (first
    | assumption | intro _ | exact hm.sub (by decide) | exact hn.sub (by decide)
    | exact hn.bit (by decide) | exact hm.bit (by decide)
    | (refine mv_snd (by assumption) ?_; apply State.draw_mv) | apply State.draw_mv | apply State.countTile_mv | split
    | rfl | exact mem_of (by decide))

theorem State.runRule_mv (b : Nat) (j : Nat) (hm : CSub 0x1e039ac4 μ) (hn : TSub 0x100001a800330c11008 ν) :
    State.Moves μ ν s₀ (State.runRule s b j) := by
  unfold State.runRule
  try dsimp only
  with_reducible repeat' (first
    | assumption | intro _ | exact hm.sub (by decide) | exact hn.sub (by decide)
    | exact hn.bit (by decide) | exact hm.bit (by decide) | apply State.logError_mv
    | apply State.withBinds_mv | apply State.resetPartition_mv | apply State.shardDone_mv | apply State.dropGrad_mv
    | apply State.holdShard_mv | apply State.lentWaves_mv | apply step_mv | apply State.Moves.ite | split
    | refine State.mk_mv ?_ | rfl | exact mem_of (by decide))

theorem State.publish_mv (b : Nat) (j : Nat) (k : Nat) (gen : Nat) (step : Nat) (rung : Nat) (hm : CSub 0x20000 μ) :
    State.Moves μ ν s₀ (State.publish s b j k gen step rung) := by
  unfold State.publish
  try dsimp only
  with_reducible repeat' (first
    | assumption | apply State.setRetained_mv)

theorem State.countCommit_mv (b : Nat) (j : Nat) (opid : Nat) (hm : CSub 0x800 μ) (hn : TSub 0x1000000000000 ν) :
    State.Moves μ ν s₀ (State.countCommit s b j opid) := by
  unfold State.countCommit
  try dsimp only
  with_reducible repeat' (first
    | assumption | intro _ | exact hm.sub (by decide) | exact hn.sub (by decide)
    | exact hn.bit (by decide) | exact hm.bit (by decide) | apply State.rwrap_mv | apply State.countEvent_mv
    | split | rfl | exact mem_of (by decide))

theorem State.commitShard_mv (b : Nat) (j : Nat) (k : Nat) (rung : Nat) (step : Nat) (opid : Nat) (writes : List
    (Nat × List Byte)) (master : List (List Nat)) (hm : CSub 0x24903 μ) (hn : TSub 0x7000000000000 ν) :
    State.Moves μ ν s₀ (State.commitShard s b j k rung step opid writes master) := by
  unfold State.commitShard
  try dsimp only
  with_reducible repeat' (first
    | assumption | intro _ | exact hm.sub (by decide) | exact hn.sub (by decide)
    | exact hn.bit (by decide) | exact hm.bit (by decide) | apply State.writeAll_mv
    | apply State.observeWork_mv | apply State.publish_mv | apply State.countCommit_mv | apply step_mv
    | apply State.MovesO.next | apply State.MovesO.ite | split | rfl | exact mem_of (by decide))

theorem State.commitDue_mv (b : Nat) (j : Nat) (hm : CSub 0xe03d907 μ) (hn : TSub 0x1000017800230210300 ν) :
    State.Moves μ ν s₀ (State.commitDue s b j) := by
  unfold State.commitDue
  try dsimp only
  with_reducible repeat' (first
    | assumption | intro _ | exact hm.sub (by decide) | exact hn.sub (by decide)
    | exact hn.bit (by decide) | exact hm.bit (by decide) | apply State.pairCommit_mv
    | apply State.shardDone_mv | apply State.dropGrad_mv | apply State.commitShard_mv | apply step_mv
    | apply State.Moves.ite | apply State.MovesO.next | apply State.MovesO.ite | split | refine State.mk_mv ?_ | rfl
    | exact mem_of (by decide))

theorem State.auditShard_mv (g : Nat) (b : Nat) (j : Nat) (hm : CSub 0xc005803 μ) (hn : TSub 0x1000016000220004000 ν)
    :
    State.Moves μ ν s₀ (State.auditShard s g b j) := by
  unfold State.auditShard
  try dsimp only
  with_reducible repeat' (first
    | assumption | intro _ | exact hm.sub (by decide) | exact hn.sub (by decide)
    | exact hn.bit (by decide) | apply State.rinc_mv | apply State.logError_mv | apply State.store_mv
    | apply State.Moves.ite | apply foldl_mv | split | exact mem_of (by decide))

theorem execDriftAudit_mv (g : Nat) (hm : CSub 0xc025803 μ) (hn : TSub 0x1000016000220004000 ν) :
    State.MovesO μ ν s₀ (execDriftAudit g s) := by
  unfold execDriftAudit
  try dsimp only
  with_reducible repeat' (first
    | assumption | intro _ | exact hm.sub (by decide) | apply State.auditShard_mv | apply State.Moves.ite
    | apply State.MovesO.next | apply foldl_mv | split | refine State.mk_mv ?_)

/-! ## Control -/

theorem State.addLaunch_mv (r : LaunchReq) (hm : CSub 0x10 μ) :
    State.Moves μ ν s₀ (State.addLaunch s r) := by
  unfold State.addLaunch
  try dsimp only
  with_reducible repeat' (first
    | assumption | refine State.mk_mv ?_)

theorem execTspawn_mv (t : ThreadRef) (f : FormS) (hm : CSub 0xc01dadc μ) (hn : TSub 0x100001e800330c11008 ν) :
    State.MovesO μ ν s₀ (execTspawn t f s) := by
  unfold execTspawn
  try dsimp only
  with_reducible repeat' (first
    | assumption | intro _ | exact hm.sub (by decide) | exact hn.sub (by decide) | apply State.setThread_mv
    | apply scalar_mv | apply State.scalarRead_mv | apply State.addLaunch_mv)

theorem execSgate_mv (t : ThreadRef) (f : FormS) (hm : CSub 0xc01dacc μ) (hn : TSub 0x100001e800330c11008 ν) :
    State.MovesO μ ν s₀ (execSgate t f s) := by
  unfold execSgate
  try dsimp only
  with_reducible repeat' (first
    | assumption | intro _ | exact hm.sub (by decide) | apply State.setThread_mv | apply scalar_mv
    | apply State.beginGate_mv)

theorem execLd_mv (t : ThreadRef) (f : FormS) (hm : CSub 0xc01dacc μ) (hn : TSub 0x100001e800330c11008 ν) :
    State.MovesO μ ν s₀ (execLd t f s) := by
  unfold execLd
  try dsimp only
  with_reducible repeat' (first
    | assumption | intro _ | exact hm.sub (by decide) | exact hn.sub (by decide) | apply State.retire_mv
    | apply scalar_mv | apply State.scalarRead_mv)

theorem execSt_mv (t : ThreadRef) (f : FormS) (hm : CSub 0xc01dacf μ) (hn : TSub 0x100001e800330c11008 ν) :
    State.MovesO μ ν s₀ (execSt t f s) := by
  unfold execSt
  try dsimp only
  with_reducible repeat' (first
    | assumption | intro _ | exact hm.sub (by decide) | exact hn.sub (by decide) | apply State.retire_mv
    | apply scalar_mv | apply State.scalarWrite_mv)

theorem execFence_mv (t : ThreadRef) (f : FormS) (hm : CSub 0xc01dacc μ) (hn : TSub 0x100001e800330c11008 ν) :
    State.MovesO μ ν s₀ (execFence t f s) := by
  unfold execFence
  try dsimp only
  with_reducible repeat' (first
    | assumption | intro _ | exact hm.sub (by decide) | apply State.retire_mv | apply scalar_mv)

theorem atomic_mv (t : ThreadRef) (f : FormS) (new : Thread → Word → Option Word) (hm : CSub 0xc01dacf μ)
    (hn : TSub 0x100001e800330c11008 ν) :
    State.MovesO μ ν s₀ (atomic t f new s) := by
  unfold atomic
  try dsimp only
  with_reducible repeat' (first
    | assumption | intro _ | exact hm.sub (by decide) | exact hn.sub (by decide) | apply State.storeNat_mv
    | apply State.retire_mv | apply scalar_mv | apply State.scalarRead_mv | split)

theorem execAadd_mv (t : ThreadRef) (f : FormS) (hm : CSub 0xc01dacf μ) (hn : TSub 0x100001e800330c11008 ν) :
    State.MovesO μ ν s₀ (execAadd t f s) := by
  unfold execAadd
  try dsimp only
  with_reducible repeat' (first
    | assumption | apply atomic_mv)

theorem execAmin_mv (t : ThreadRef) (f : FormS) (hm : CSub 0xc01dacf μ) (hn : TSub 0x100001e800330c11008 ν) :
    State.MovesO μ ν s₀ (execAmin t f s) := by
  unfold execAmin
  try dsimp only
  with_reducible repeat' (first
    | assumption | apply atomic_mv)

theorem execAmax_mv (t : ThreadRef) (f : FormS) (hm : CSub 0xc01dacf μ) (hn : TSub 0x100001e800330c11008 ν) :
    State.MovesO μ ν s₀ (execAmax t f s) := by
  unfold execAmax
  try dsimp only
  with_reducible repeat' (first
    | assumption | apply atomic_mv)

theorem execAswap_mv (t : ThreadRef) (f : FormS) (hm : CSub 0xc01dacf μ) (hn : TSub 0x100001e800330c11008 ν) :
    State.MovesO μ ν s₀ (execAswap t f s) := by
  unfold execAswap
  try dsimp only
  with_reducible repeat' (first
    | assumption | apply atomic_mv)

theorem execAcas_mv (t : ThreadRef) (f : FormS) (hm : CSub 0xc01dacf μ) (hn : TSub 0x100001e800330c11008 ν) :
    State.MovesO μ ν s₀ (execAcas t f s) := by
  unfold execAcas
  try dsimp only
  with_reducible repeat' (first
    | assumption | apply atomic_mv)

theorem execDload_mv (t : ThreadRef) (f : FormS) (hm : CSub 0xc01dacc μ) (hn : TSub 0x100001e800330c11008 ν) :
    State.MovesO μ ν s₀ (execDload t f s) := by
  unfold execDload
  try dsimp only
  with_reducible repeat' (first
    | assumption | intro _ | exact hm.sub (by decide) | exact hn.sub (by decide) | apply State.retire_mv
    | apply scalar_mv | apply State.scalarRead_mv)

theorem execDsave_mv (t : ThreadRef) (f : FormS) (hm : CSub 0xc01dacf μ) (hn : TSub 0x100001e800330c11008 ν) :
    State.MovesO μ ν s₀ (execDsave t f s) := by
  unfold execDsave
  try dsimp only
  with_reducible repeat' (first
    | assumption | intro _ | exact hm.sub (by decide) | exact hn.sub (by decide) | apply State.retire_mv
    | apply scalar_mv | apply State.scalarWrite_mv)

theorem execDsetf_mv (t : ThreadRef) (f : FormS) (hm : CSub 0xc01dacc μ) (hn : TSub 0x100001e800330c11008 ν) :
    State.MovesO μ ν s₀ (execDsetf t f s) := by
  unfold execDsetf
  try dsimp only
  with_reducible repeat' (first
    | assumption | intro _ | exact hm.sub (by decide) | apply State.retire_mv | apply scalar_mv)

theorem execDgetf_mv (t : ThreadRef) (f : FormS) (hm : CSub 0xc01dacc μ) (hn : TSub 0x100001e800330c11008 ν) :
    State.MovesO μ ν s₀ (execDgetf t f s) := by
  unfold execDgetf
  try dsimp only
  with_reducible repeat' (first
    | assumption | apply regWrite_mv)

theorem execDcopy_mv (t : ThreadRef) (f : FormS) (hm : CSub 0xc01dacc μ) (hn : TSub 0x100001e800330c11008 ν) :
    State.MovesO μ ν s₀ (execDcopy t f s) := by
  unfold execDcopy
  try dsimp only
  with_reducible repeat' (first
    | assumption | intro _ | exact hm.sub (by decide) | apply State.retire_mv | apply scalar_mv)

theorem execTwait_mv (t : ThreadRef) (f : FormS) (hm : CSub 0xc01dacc μ) (hn : TSub 0x100001e800330c11008 ν) :
    State.MovesO μ ν s₀ (execTwait t f s) := by
  unfold execTwait
  try dsimp only
  with_reducible repeat' (first
    | assumption | intro _ | exact hm.sub (by decide) | apply State.retire_mv | apply scalar_mv)

theorem execTpost_mv (t : ThreadRef) (f : FormS) (hm : CSub 0xc01dacc μ) (hn : TSub 0x100001e800330e11008 ν) :
    State.MovesO μ ν s₀ (execTpost t f s) := by
  unfold execTpost
  try dsimp only
  with_reducible repeat' (first
    | assumption | intro _ | exact hm.sub (by decide) | exact hn.sub (by decide) | apply State.policeFrame_mv
    | apply State.postToken_mv | apply State.retire_mv | apply scalar_mv | apply State.Moves.ite)

theorem execTset_mv (t : ThreadRef) (f : FormS) (hm : CSub 0xc01dacc μ) (hn : TSub 0x100001e800330c11008 ν) :
    State.MovesO μ ν s₀ (execTset t f s) := by
  unfold execTset
  try dsimp only
  with_reducible repeat' (first
    | assumption | intro _ | exact hm.sub (by decide) | apply State.retire_mv | apply scalar_mv)

theorem execTget_mv (t : ThreadRef) (f : FormS) (hm : CSub 0xc01dacc μ) (hn : TSub 0x100001e800330c11008 ν) :
    State.MovesO μ ν s₀ (execTget t f s) := by
  unfold execTget
  try dsimp only
  with_reducible repeat' (first
    | assumption | apply regWrite_mv)

theorem execGread_mv (t : ThreadRef) (f : FormS) (hm : CSub 0xc01dacc μ) (hn : TSub 0x100001e800330c11008 ν) :
    State.MovesO μ ν s₀ (execGread t f s) := by
  unfold execGread
  try dsimp only
  with_reducible repeat' (first
    | assumption | intro _ | exact hm.sub (by decide) | exact hn.sub (by decide) | apply State.insnFault_mv
    | apply State.retire_mv | apply scalar_mv | apply State.Moves.ite)

theorem execGrung_mv (t : ThreadRef) (f : FormS) (hm : CSub 0xc01dacc μ) (hn : TSub 0x100001e800330c11008 ν) :
    State.MovesO μ ν s₀ (execGrung t f s) := by
  unfold execGrung
  try dsimp only
  with_reducible repeat' (first
    | assumption | intro _ | exact hm.sub (by decide) | apply State.retire_mv | apply scalar_mv)

theorem execXstat_mv (t : ThreadRef) (f : FormS) (hm : CSub 0xc01dacc μ) (hn : TSub 0x100001e800330c11008 ν) :
    State.MovesO μ ν s₀ (execXstat t f s) := by
  unfold execXstat
  try dsimp only
  with_reducible repeat' (first
    | assumption | intro _ | exact hm.sub (by decide) | apply State.retire_mv | apply scalar_mv)

theorem execFwcall_mv (t : ThreadRef) (f : FormS) (hm : CSub 0xc01dacc μ) (hn : TSub 0x100001e800330c11008 ν) :
    State.MovesO μ ν s₀ (execFwcall t f s) := by
  unfold execFwcall
  try dsimp only
  with_reducible repeat' (first
    | assumption | intro _ | exact hm.sub (by decide) | apply State.retire_mv | apply scalar_mv)

end Sys2Proof.Machine
end

