-- ==== Sys2Proof/Laws/Moves4.lean ====
section
/-!
SUPPORT. What the operations of Wellhead, Wxp, Gate, Cistern, Ras and Observe may change: each one stays in
the relation `State.Moves` with the pieces and tables of its masks.
-/
set_option Elab.async false

namespace Sys2Proof.Machine

variable {μ ν : Nat} {s₀ s : State} (h₀ : State.Moves μ ν s₀ s)
include h₀

/-! ## Wellhead -/

theorem State.onWell_mv (f : Wellhead → Wellhead) (hm : CSub 0x40000 μ) :
    State.Moves μ ν s₀ (State.onWell s f) := by
  unfold State.onWell
  try dsimp only
  with_reducible repeat' (first
    | assumption | refine State.mk_mv ?_)

theorem State.setRun_mv (i : Nat) (r : Run) (hm : CSub 0x40000 μ) :
    State.Moves μ ν s₀ (State.setRun s i r) := by
  unfold State.setRun
  try dsimp only
  with_reducible repeat' (first
    | assumption | apply State.onWell_mv)

theorem State.setPeer_mv (site : Nat) (p : Peer) (hm : CSub 0x40000 μ) :
    State.Moves μ ν s₀ (State.setPeer s site p) := by
  unfold State.setPeer
  try dsimp only
  with_reducible repeat' (first
    | assumption | apply State.onWell_mv)

theorem State.whdEvent_mv (i : Nat) (reason : Nat) (unit : Nat) (addr : Nat) (hm : CSub 0xc001000 μ)
    (hn : TSub 0x1000012000220000000 ν) :
    State.Moves μ ν s₀ (State.whdEvent s i reason unit addr) := by
  unfold State.whdEvent
  try dsimp only
  with_reducible repeat' (first
    | assumption | apply State.logError_mv)

theorem State.faultRound_mv (i : Nat) (reason : Nat) (unit : Nat) (hm : CSub 0xc019200 μ)
    (hn : TSub 0x100001a000330c11008 ν) :
    State.Moves μ ν s₀ (State.faultRound s i reason unit) := by
  unfold State.faultRound
  try dsimp only
  with_reducible repeat' (first
    | assumption | exact hm.sub (by decide) | exact hn.sub (by decide) | apply State.stopForFault_mv
    | apply State.whdEvent_mv)

theorem State.tracePhase_mv (i : Nat) (phase : Nat) (round : Nat) (hm : CSub 0x1000 μ) (hn : TSub 0x12000000000000 ν)
    :
    State.Moves μ ν s₀ (State.tracePhase s i phase round) := by
  unfold State.tracePhase
  try dsimp only
  with_reducible repeat' (first
    | assumption | apply State.traceEvent_mv)

theorem State.queueWxp_mv (i : Nat) (site : Nat) (type : Nat) (round : Nat) (payload : List Byte) (reason : Nat)
    (hm : CSub 0x40000 μ) :
    State.Moves μ ν s₀ (State.queueWxp s i site type round payload reason) := by
  unfold State.queueWxp
  try dsimp only
  with_reducible repeat' (first
    | assumption | apply State.onWell_mv)

theorem State.pumpObjects_mv (hm : CSub 0x40000 μ) :
    State.Moves μ ν s₀ (State.pumpObjects s) := by
  unfold State.pumpObjects
  try dsimp only
  with_reducible repeat' (first
    | assumption | apply State.onWell_mv)

theorem State.sendObject_mv (i : Nat) (site : Nat) (key : ObjectKey) (digest : Nat) (body : List Byte) (asked : Bool)
    (hm : CSub 0x40000 μ) :
    State.Moves μ ν s₀ (State.sendObject s i site key digest body asked) := by
  unfold State.sendObject
  try dsimp only
  with_reducible repeat' (first
    | assumption | apply State.onWell_mv | apply State.pumpObjects_mv)

theorem State.dropObjects_mv (which : Outgoing → Bool) (hm : CSub 0x40000 μ) :
    State.Moves μ ν s₀ (State.dropObjects s which) := by
  unfold State.dropObjects
  try dsimp only
  with_reducible repeat' (first
    | assumption | apply State.onWell_mv | apply State.pumpObjects_mv)

theorem State.storeFragment_mv (f : Fragment) (hm : CSub 0xc041000 μ) (hn : TSub 0x1000012000220000000 ν) :
    State.Moves μ ν s₀ (State.storeFragment s f) := by
  unfold State.storeFragment
  try dsimp only
  with_reducible repeat' (first
    | assumption | intro _ | exact hm.sub (by decide) | exact hn.sub (by decide)
    | exact hn.bit (by decide) | exact hm.bit (by decide) | apply State.onWell_mv | apply State.setRun_mv
    | apply State.whdEvent_mv | apply State.Moves.ite | split | refine State.mk_mv ?_ | rfl | exact mem_of (by decide))

theorem State.writePlane_mv (i : Nat) (b : Nat) (j : Nat) (k : Nat) (codes : List (List Nat)) (mark : Bool)
    (hm : CSub 0x4803 μ) (hn : TSub 0x6000000000000 ν) :
    State.Moves μ ν s₀ (State.writePlane s i b j k codes mark) := by
  unfold State.writePlane
  try dsimp only
  with_reducible repeat' (first
    | assumption | intro _ | apply State.store_mv | apply State.Moves.ite | apply foldl_mv)

theorem State.touchPlanes_mv (i : Nat) (b : Nat) (j : Nat) (ks : List Nat) (hm : CSub 0x4800 μ)
    (hn : TSub 0x6000000000000 ν) :
    State.Moves μ ν s₀ (State.touchPlanes s i b j ks) := by
  unfold State.touchPlanes
  try dsimp only
  with_reducible repeat' (first
    | assumption | intro _ | apply State.touch_mv | apply foldl_mv)

theorem State.sendFetch_mv (l : Ledger) (hm : CSub 0x40000 μ) :
    State.Moves μ ν s₀ (State.sendFetch s l) := by
  unfold State.sendFetch
  try dsimp only
  with_reducible repeat' (first
    | assumption | intro _ | apply State.queueWxp_mv | apply foldl_mv)

theorem State.badFragment_mv (i : Nat) (e : BlockError) (hm : CSub 0xc001000 μ) (hn : TSub 0x1000012000220000000 ν) :
    State.Moves μ ν s₀ (State.badFragment s i e) := by
  unfold State.badFragment
  try dsimp only
  with_reducible repeat' (first
    | assumption | apply State.logError_mv)

theorem State.averageShard_mv (l : Ledger) (b : Nat) (j : Nat) (hm : CSub 0xc005803 μ)
    (hn : TSub 0x1000016000220000000 ν) :
    State.Moves μ ν s₀ (State.averageShard s l b j) := by
  unfold State.averageShard
  try dsimp only
  with_reducible repeat' (first
    | assumption | intro _ | exact hm.sub (by decide) | exact hn.sub (by decide) | apply State.writePlane_mv
    | apply State.badFragment_mv | apply State.Moves.ite | apply foldl_mv)

theorem State.checkReady_mv (i : Nat) (hm : CSub 0xc045803 μ) (hn : TSub 0x1000016000220000000 ν) :
    State.Moves μ ν s₀ (State.checkReady s i) := by
  unfold State.checkReady
  try dsimp only
  with_reducible repeat' (first
    | assumption | intro _ | exact hm.sub (by decide) | exact hn.sub (by decide) | apply State.setRun_mv
    | apply State.tracePhase_mv | apply State.sendFetch_mv | apply State.averageShard_mv | apply State.Moves.ite
    | apply foldl_mv | split)

theorem State.acceptLedger_mv (l : Ledger) (hm : CSub 0xc05da03 μ) (hn : TSub 0x100001e000330c11008 ν) :
    State.Moves μ ν s₀ (State.acceptLedger s l) := by
  unfold State.acceptLedger
  try dsimp only
  with_reducible repeat' (first
    | assumption | intro _ | exact hm.sub (by decide) | exact hn.sub (by decide) | apply State.onWell_mv
    | apply State.faultRound_mv | apply State.dropObjects_mv | apply State.checkReady_mv | apply State.Moves.ite
    | split)

theorem State.closeRound_mv (i : Nat) (round : Nat) (attempt : Nat) (hm : CSub 0xc05da03 μ)
    (hn : TSub 0x100001e000330c11008 ν) :
    State.Moves μ ν s₀ (State.closeRound s i round attempt) := by
  unfold State.closeRound
  try dsimp only
  with_reducible repeat' (first
    | assumption | intro _ | exact hm.sub (by decide) | exact hn.sub (by decide)
    | exact hn.bit (by decide) | apply State.rwrap_mv | apply State.whdEvent_mv | apply State.tracePhase_mv
    | apply State.sendObject_mv | apply State.acceptLedger_mv | apply State.Moves.ite | apply foldl_mv
    | exact mem_of (by decide))

theorem State.anchorCheck_mv (i : Nat) (hm : CSub 0xc05da03 μ) (hn : TSub 0x100001e000330c11008 ν) :
    State.Moves μ ν s₀ (State.anchorCheck s i) := by
  unfold State.anchorCheck
  try dsimp only
  with_reducible repeat' (first
    | assumption | intro _ | apply State.closeRound_mv | apply State.Moves.ite | split)

theorem State.anchorGate_mv (i : Nat) (step : Nat) (hm : CSub 0xc05da03 μ) (hn : TSub 0x100001e000330c11008 ν) :
    State.Moves μ ν s₀ (State.anchorGate s i step) := by
  unfold State.anchorGate
  try dsimp only
  with_reducible repeat' (first
    | assumption | intro _ | exact hm.sub (by decide) | apply State.setRun_mv | apply State.queueWxp_mv
    | apply State.closeRound_mv | apply State.Moves.ite | apply foldl_mv | split)

theorem State.acceptFragment_mv (f : Fragment) (hm : CSub 0xc05da03 μ) (hn : TSub 0x100001e000330c11008 ν) :
    State.Moves μ ν s₀ (State.acceptFragment s f) := by
  unfold State.acceptFragment
  try dsimp only
  with_reducible repeat' (first
    | assumption | intro _ | exact hm.sub (by decide) | exact hn.sub (by decide)
    | apply State.storeFragment_mv | apply State.checkReady_mv | apply State.anchorCheck_mv | apply State.Moves.ite)

theorem State.cutShard_mv (i : Nat) (k : Cut) (b : Nat) (j : Nat) (hm : CSub 0xe07dac7 μ)
    (hn : TSub 0x100001e000330c11008 ν) :
    State.Moves μ ν s₀ (State.cutShard s i k b j) := by
  unfold State.cutShard
  try dsimp only
  with_reducible repeat' (first
    | assumption | intro _ | exact hm.sub (by decide) | exact hn.sub (by decide) | apply State.touch_mv
    | apply State.resetPartition_mv | apply State.setRun_mv | apply State.whdEvent_mv | apply State.writePlane_mv
    | apply State.touchPlanes_mv | apply State.Moves.ite | apply foldl_mv)

theorem State.sendFragment_mv (f : Fragment) (hm : CSub 0xc041000 μ) (hn : TSub 0x1000012000220800000 ν) :
    State.Moves μ ν s₀ (State.sendFragment s f) := by
  unfold State.sendFragment
  try dsimp only
  with_reducible repeat' (first
    | assumption | intro _ | exact hm.sub (by decide) | exact hn.sub (by decide)
    | exact hn.bit (by decide) | apply State.rinc_mv | apply State.whdEvent_mv | apply State.sendObject_mv
    | apply State.Moves.ite | apply foldl_mv | exact mem_of (by decide))

theorem State.finishCut_mv (i : Nat) (k : Cut) (hm : CSub 0xc05da03 μ) (hn : TSub 0x100001e000330c11008 ν) :
    State.Moves μ ν s₀ (State.finishCut s i k) := by
  unfold State.finishCut
  try dsimp only
  with_reducible repeat' (first
    | assumption | intro _ | exact hm.sub (by decide) | exact hn.sub (by decide)
    | exact hn.bit (by decide) | apply State.rput_mv | apply State.setRun_mv | apply State.tracePhase_mv
    | apply State.storeFragment_mv | apply State.checkReady_mv | apply State.anchorCheck_mv
    | apply State.sendFragment_mv | apply State.Moves.ite | apply foldl_mv | exact mem_of (by decide))

theorem State.cutOn_mv (i : Nat) (hm : CSub 0xe07dac7 μ) (hn : TSub 0x100001e000330c11008 ν) :
    State.Moves μ ν s₀ (State.cutOn s i) := by
  unfold State.cutOn
  try dsimp only
  with_reducible repeat' (first
    | assumption | intro _ | exact hm.sub (by decide) | apply State.cutShard_mv | apply State.finishCut_mv
    | apply State.Moves.ite | apply foldl_mv | split)

theorem State.cutsOn_mv (hm : CSub 0xe07dac7 μ) (hn : TSub 0x100001e000330c11008 ν) :
    State.Moves μ ν s₀ (State.cutsOn s) := by
  unfold State.cutsOn
  try dsimp only
  with_reducible repeat' (first
    | assumption | intro _ | apply State.cutOn_mv | apply foldl_mv)

theorem State.beginCut_mv (i : Nat) (step : Nat) (hm : CSub 0xe07dac7 μ) (hn : TSub 0x100001e000330c11008 ν) :
    State.Moves μ ν s₀ (State.beginCut s i step) := by
  unfold State.beginCut
  try dsimp only
  with_reducible repeat' (first
    | assumption | exact hm.sub (by decide) | exact hn.sub (by decide) | apply State.setRun_mv
    | apply State.tracePhase_mv | apply State.cutOn_mv)

theorem State.applyShard_mv (i : Nat) (l : Ledger) (step : Nat) (b : Nat) (j : Nat) (hm : CSub 0xc025803 μ)
    (hn : TSub 0x1000016000220800000 ν) :
    State.Moves μ ν s₀ (State.applyShard s i l step b j) := by
  unfold State.applyShard
  try dsimp only
  with_reducible repeat' (first
    | assumption | intro _ | exact hm.sub (by decide) | exact hn.sub (by decide)
    | exact hn.bit (by decide) | apply State.rinc_mv | apply State.whdEvent_mv | apply State.writePlane_mv
    | apply State.touchPlanes_mv | apply State.Moves.ite | split | refine State.mk_mv ?_ | exact mem_of (by decide))

theorem State.sendFitting_mv (i : Nat) (site : Nat) (key : ObjectKey) (digest : Nat) (body : List Byte)
    (hm : CSub 0xc041000 μ) (hn : TSub 0x1000012000220000000 ν) :
    State.Moves μ ν s₀ (State.sendFitting s i site key digest body) := by
  unfold State.sendFitting
  try dsimp only
  with_reducible repeat' (first
    | assumption | intro _ | exact hm.sub (by decide) | exact hn.sub (by decide)
    | exact hn.bit (by decide) | exact hm.bit (by decide) | apply State.whdEvent_mv
    | apply State.sendObject_mv | apply State.Moves.ite | split | rfl | exact mem_of (by decide))

theorem State.sendSeeds_mv (i : Nat) (site : Nat) (hm : CSub 0xc041000 μ) (hn : TSub 0x1000012000220000000 ν) :
    State.Moves μ ν s₀ (State.sendSeeds s i site) := by
  unfold State.sendSeeds
  try dsimp only
  with_reducible repeat' (first
    | assumption | intro _ | exact hm.sub (by decide) | exact hn.sub (by decide)
    | exact hn.bit (by decide) | exact hm.bit (by decide) | apply State.sendFitting_mv | apply step_mv
    | apply foldl_mv | apply foldl_mv2 | apply foldl_mv1 | split | rfl | exact mem_of (by decide))

theorem State.applyRound_mv (i : Nat) (step : Nat) (l : Ledger) (hm : CSub 0xc065803 μ)
    (hn : TSub 0x1000016000220800000 ν) :
    State.Moves μ ν s₀ (State.applyRound s i step l) := by
  unfold State.applyRound
  try dsimp only
  with_reducible repeat' (first
    | assumption | intro _ | exact hm.sub (by decide) | exact hn.sub (by decide)
    | exact hn.bit (by decide) | apply State.rput_mv | apply State.rinc_mv | apply State.onWell_mv
    | apply State.setRun_mv | apply State.tracePhase_mv | apply State.queueWxp_mv | apply State.dropObjects_mv
    | apply State.checkReady_mv | apply State.applyShard_mv | apply State.sendSeeds_mv | apply foldl_mv
    | exact mem_of (by decide))

theorem State.roundGate_mv (i : Nat) (step : Nat) (hm : CSub 0xe07dac7 μ) (hn : TSub 0x100001e000330c11008 ν) :
    State.Moves μ ν s₀ (State.roundGate s i step) := by
  unfold State.roundGate
  try dsimp only
  with_reducible repeat' (first
    | assumption | intro _ | exact hm.sub (by decide) | exact hn.sub (by decide)
    | exact hn.bit (by decide) | apply State.rinc_mv | apply State.setRun_mv | apply State.anchorGate_mv
    | apply State.beginCut_mv | apply State.applyRound_mv | apply State.Moves.ite | split | exact mem_of (by decide))

theorem State.roundsGate_mv (c : Nat) (step : Nat) (hm : CSub 0xe07dac7 μ) (hn : TSub 0x100001e000330c11008 ν) :
    State.Moves μ ν s₀ (State.roundsGate s c step) := by
  unfold State.roundsGate
  try dsimp only
  with_reducible repeat' (first
    | assumption | apply State.roundGate_mv | split)

theorem State.correctMaster_mv (b : Nat) (j : Nat) (hm : CSub 0xe03dbc7 μ) (hn : TSub 0x100001f000330c11008 ν) :
    State.Moves μ ν s₀ (State.correctMaster s b j) := by
  unfold State.correctMaster
  try dsimp only
  with_reducible repeat' (first
    | assumption | intro _ | exact hm.sub (by decide) | exact hn.sub (by decide) | apply State.logError_mv
    | apply State.resetPartition_mv | apply State.holdShard_mv | apply State.commitShard_mv | apply State.Moves.ite
    | split | refine State.mk_mv ?_)

theorem execMasterCorrectionCommit_mv (b : Nat) (j : Nat) (hm : CSub 0xe07dbc7 μ) (hn : TSub 0x100001f000330c11008 ν)
    :
    State.MovesO μ ν s₀ (execMasterCorrectionCommit b j s) := by
  unfold execMasterCorrectionCommit
  try dsimp only
  with_reducible repeat' (first
    | assumption | intro _ | exact hm.sub (by decide) | exact hn.sub (by decide) | apply State.cutsOn_mv
    | apply State.correctMaster_mv | apply State.Moves.ite | apply State.MovesO.next)

theorem execShardCommit_mv (b : Nat) (j : Nat) (hm : CSub 0xe07dbc7 μ) (hn : TSub 0x100001f800330e11308 ν) :
    State.MovesO μ ν s₀ (execShardCommit b j s) := by
  unfold execShardCommit
  try dsimp only
  with_reducible repeat' (first
    | assumption | intro _ | exact hm.sub (by decide) | exact hn.sub (by decide) | apply State.commitDue_mv
    | apply State.cutsOn_mv | apply State.Moves.ite | apply State.MovesO.next)

theorem execUpdateRuleRun_mv (b : Nat) (j : Nat) (hm : CSub 0x1e07dac7 μ) (hn : TSub 0x100001e800330c11008 ν) :
    State.MovesO μ ν s₀ (execUpdateRuleRun b j s) := by
  unfold execUpdateRuleRun
  try dsimp only
  with_reducible repeat' (first
    | assumption | intro _ | exact hm.sub (by decide) | exact hn.sub (by decide) | apply State.runRule_mv
    | apply State.cutsOn_mv | apply State.Moves.ite | apply State.MovesO.next)

theorem State.dropRound_mv (i : Nat) (hm : CSub 0x40000 μ) :
    State.Moves μ ν s₀ (State.dropRound s i) := by
  unfold State.dropRound
  try dsimp only
  with_reducible repeat' (first
    | assumption | apply State.onWell_mv)

theorem State.sendJoin_mv (i : Nat) (hm : CSub 0x40000 μ) :
    State.Moves μ ν s₀ (State.sendJoin s i) := by
  unfold State.sendJoin
  try dsimp only
  with_reducible repeat' (first
    | assumption | apply State.setRun_mv | apply State.queueWxp_mv)

theorem State.beginRound_mv (i : Nat) (hm : CSub 0x40000 μ) :
    State.Moves μ ν s₀ (State.beginRound s i) := by
  unfold State.beginRound
  try dsimp only
  with_reducible repeat' (first
    | assumption | intro _ | apply State.setRun_mv | apply State.setPeer_mv | apply State.dropRound_mv
    | apply State.sendJoin_mv | apply State.Moves.ite | apply foldl_mv)

theorem State.plantSeeds_mv (i : Nat) (hm : CSub 0x4803 μ) (hn : TSub 0x6000000800000 ν) :
    State.Moves μ ν s₀ (State.plantSeeds s i) := by
  unfold State.plantSeeds
  try dsimp only
  with_reducible repeat' (first
    | assumption | intro _ | exact hn.sub (by decide) | exact hn.bit (by decide) | apply State.rput_mv
    | apply State.writeAll_mv | apply State.writePlane_mv | apply foldl_mv | exact mem_of (by decide))

theorem State.plantMaster_mv (i : Nat) (keep : Bool) (hm : CSub 0x4803 μ) (hn : TSub 0x6000000000000 ν) :
    State.Moves μ ν s₀ (State.plantMaster s i keep) := by
  unfold State.plantMaster
  try dsimp only
  with_reducible repeat' (first
    | assumption | intro _ | apply State.writePlane_mv | apply State.Moves.ite | apply foldl_mv)

theorem State.endRoundStart_mv (i : Nat) (keep : Bool) (hm : CSub 0x44803 μ) (hn : TSub 0x6000000800000 ν) :
    State.Moves μ ν s₀ (State.endRoundStart s i keep) := by
  unfold State.endRoundStart
  try dsimp only
  with_reducible repeat' (first
    | assumption | intro _ | exact hm.sub (by decide) | exact hn.sub (by decide) | apply State.setRun_mv
    | apply State.queueWxp_mv | apply State.plantSeeds_mv | apply State.plantMaster_mv | apply State.Moves.ite
    | apply foldl_mv)

/-! ## Wxp -/

theorem State.showRtt_mv (x : Nat) (hn : TSub 0x1000000 ν) :
    State.Moves μ ν s₀ (State.showRtt s x) := by
  unfold State.showRtt
  try dsimp only
  with_reducible repeat' (first
    | assumption | exact hn.bit (by decide) | apply State.rput_mv | split | exact mem_of (by decide))

theorem State.hear_mv (p : WxpHeader) (x : Nat) (hm : CSub 0x40000 μ) (hn : TSub 0x1000000 ν) :
    State.Moves μ ν s₀ (State.hear s p x) := by
  unfold State.hear
  try dsimp only
  with_reducible repeat' (first
    | assumption | intro _ | exact hn.bit (by decide) | apply State.rput_mv | apply State.setPeer_mv
    | apply State.showRtt_mv | apply State.Moves.ite | exact mem_of (by decide))

theorem State.receive_mv (p : WxpHeader) (k : Nat → Nat → State → State) (h_k : ∀ z0 z1
    (y : State), State.Moves μ ν s₀ y → State.Moves μ ν s₀ (k z0 z1 y)) (hm : CSub 0x40000 μ)
    (hn : TSub 0x4000001400000 ν) :
    State.Moves μ ν s₀ (State.receive s p k) := by
  unfold State.receive
  try dsimp only
  with_reducible repeat' (first
    | assumption | intro _ | exact hn.sub (by decide) | exact hn.bit (by decide) | apply h_k
    | apply State.rinc_mv | apply State.rwrap_mv | apply State.hear_mv | apply State.Moves.ite | split
    | exact mem_of (by decide))

theorem State.exchange_mv (p : WxpHeader) (k : Nat → Nat → State → State) (h_k : ∀ z0 z1
    (y : State), State.Moves μ ν s₀ y → State.Moves μ ν s₀ (k z0 z1 y)) (hm : CSub 0x40000 μ)
    (hn : TSub 0x4000001400000 ν) :
    State.Moves μ ν s₀ (State.exchange s p k) := by
  unfold State.exchange
  try dsimp only
  with_reducible repeat' (first
    | assumption | intro _ | apply h_k | apply State.receive_mv | apply State.Moves.ite)

theorem State.anchorChecks_mv (hm : CSub 0xc05da03 μ) (hn : TSub 0x100001e000330c11008 ν) :
    State.Moves μ ν s₀ (State.anchorChecks s) := by
  unfold State.anchorChecks
  try dsimp only
  with_reducible repeat' (first
    | assumption | intro _ | exact hm.sub (by decide) | exact hn.sub (by decide)
    | exact hn.bit (by decide) | exact hm.bit (by decide) | apply State.anchorCheck_mv | apply foldl_mv
    | apply foldl_mv2 | apply foldl_mv1 | split | rfl | exact mem_of (by decide))

theorem State.refusePartner_mv (x : Nat) (hm : CSub 0xc05da03 μ) (hn : TSub 0x100001e000331c11008 ν) :
    State.Moves μ ν s₀ (State.refusePartner s x) := by
  unfold State.refusePartner
  try dsimp only
  with_reducible repeat' (first
    | assumption | intro _ | exact hm.sub (by decide) | exact hn.sub (by decide)
    | exact hn.bit (by decide) | exact hm.bit (by decide) | apply State.rput_mv | apply State.onWell_mv
    | apply State.dropObjects_mv | apply State.anchorChecks_mv | split | refine State.mk_mv ?_ | rfl
    | exact mem_of (by decide))

theorem execWxpHello_mv (p : WxpHeader) (digest : Word) (sites : Word) (hm : CSub 0xc05da03 μ)
    (hn : TSub 0x100001e000331c11008 ν) :
    State.MovesO μ ν s₀ (execWxpHello p digest sites s) := by
  unfold execWxpHello
  try dsimp only
  with_reducible repeat' (first
    | assumption | intro _ | exact hm.sub (by decide) | exact hn.sub (by decide)
    | exact hn.bit (by decide) | exact hm.bit (by decide) | apply State.rput_mv | apply State.queueWxp_mv
    | apply State.receive_mv | apply State.refusePartner_mv | apply State.Moves.ite | apply State.MovesO.next
    | apply State.MovesO.ite | split | rfl | exact mem_of (by decide))

theorem execHeartbeat_mv (p : WxpHeader) (hm : CSub 0x40000 μ) (hn : TSub 0x4000001400000 ν) :
    State.MovesO μ ν s₀ (execHeartbeat p s) := by
  unfold execHeartbeat
  try dsimp only
  with_reducible repeat' (first
    | assumption | intro _ | apply State.receive_mv | apply State.MovesO.next)

theorem execStatus_mv (p : WxpHeader) (hm : CSub 0x40000 μ) (hn : TSub 0x4000001400000 ν) :
    State.MovesO μ ν s₀ (execStatus p s) := by
  unfold execStatus
  try dsimp only
  with_reducible repeat' (first
    | assumption | intro _ | apply State.setRun_mv | apply State.receive_mv | apply State.Moves.ite
    | apply State.MovesO.next)

theorem execApplied_mv (p : WxpHeader) (digest : Word) (_attempt : Nat) (hm : CSub 0xc059200 μ)
    (hn : TSub 0x100001e000331c11008 ν) :
    State.MovesO μ ν s₀ (execApplied p digest _attempt s) := by
  unfold execApplied
  try dsimp only
  with_reducible repeat' (first
    | assumption | intro _ | exact hm.sub (by decide) | exact hn.sub (by decide) | apply State.faultRound_mv
    | apply State.exchange_mv | apply State.Moves.ite | apply State.MovesO.next | split)

theorem State.ackObject_mv (a : Assembly) (nak : Bool) (hm : CSub 0x40000 μ) :
    State.Moves μ ν s₀ (State.ackObject s a nak) := by
  unfold State.ackObject
  try dsimp only
  with_reducible repeat' (first
    | assumption | apply State.queueWxp_mv)

theorem State.setAssembly_mv (a : Assembly) (hm : CSub 0x40000 μ) :
    State.Moves μ ν s₀ (State.setAssembly s a) := by
  unfold State.setAssembly
  try dsimp only
  with_reducible repeat' (first
    | assumption | apply State.onWell_mv)

theorem State.acceptSeed_mv (i : Nat) (body : List Byte) (hm : CSub 0x40000 μ) :
    State.Moves μ ν s₀ (State.acceptSeed s i body) := by
  unfold State.acceptSeed
  try dsimp only
  with_reducible repeat' (first
    | assumption | apply State.setRun_mv)

theorem State.acceptObject_mv (a : Assembly) (body : List Byte) (hm : CSub 0xc05da03 μ)
    (hn : TSub 0x100001e000330c11008 ν) :
    State.Moves μ ν s₀ (State.acceptObject s a body) := by
  unfold State.acceptObject
  try dsimp only
  with_reducible repeat' (first
    | assumption | intro _ | exact hm.sub (by decide) | apply State.acceptLedger_mv
    | apply State.acceptFragment_mv | apply State.acceptSeed_mv | apply State.Moves.ite)

theorem State.completeObject_mv (a : Assembly) (hm : CSub 0xc05da03 μ) (hn : TSub 0x100001e000331c11008 ν) :
    State.Moves μ ν s₀ (State.completeObject s a) := by
  unfold State.completeObject
  try dsimp only
  with_reducible repeat' (first
    | assumption | intro _ | exact hm.sub (by decide) | exact hn.sub (by decide)
    | exact hn.bit (by decide) | apply State.rinc_mv | apply State.onWell_mv | apply State.ackObject_mv
    | apply State.setAssembly_mv | apply State.acceptObject_mv | apply State.Moves.ite | exact mem_of (by decide))

theorem State.takePiece_mv (i : Nat) (x : Nat) (round : Nat) (h : PieceHeader) (data : List Byte)
    (hm : CSub 0xc05da03 μ) (hn : TSub 0x100001e000331c11008 ν) :
    State.Moves μ ν s₀ (State.takePiece s i x round h data) := by
  unfold State.takePiece
  try dsimp only
  with_reducible repeat' (first
    | assumption | intro _ | exact hm.sub (by decide) | exact hn.bit (by decide) | apply State.rinc_mv
    | apply State.setRun_mv | apply State.ackObject_mv | apply State.setAssembly_mv | apply State.completeObject_mv
    | apply State.Moves.ite | exact mem_of (by decide))

theorem execPiece_mv (p : WxpHeader) (h : PieceHeader) (data : List Byte) (hm : CSub 0xc05da03 μ)
    (hn : TSub 0x100001e000331c11008 ν) :
    State.MovesO μ ν s₀ (execPiece p h data s) := by
  unfold execPiece
  try dsimp only
  with_reducible repeat' (first
    | assumption | intro _ | exact hm.sub (by decide) | exact hn.sub (by decide) | apply State.receive_mv
    | apply State.takePiece_mv | apply State.Moves.ite | apply State.MovesO.next)

theorem execPieceAckTimer_mv (site : Nat) (o : ObjectKey) (hm : CSub 0x40000 μ) :
    State.MovesO μ ν s₀ (execPieceAckTimer site o s) := by
  unfold execPieceAckTimer
  try dsimp only
  with_reducible repeat' (first
    | assumption | intro _ | apply State.ackObject_mv | apply State.setAssembly_mv | apply State.Moves.ite
    | apply State.MovesO.next | split)

theorem State.seedsSent_mv (i : Nat) (x : Nat) (hm : CSub 0x40000 μ) :
    State.Moves μ ν s₀ (State.seedsSent s i x) := by
  unfold State.seedsSent
  try dsimp only
  with_reducible repeat' (first
    | assumption | intro _ | apply State.setRun_mv | apply State.Moves.ite)

theorem execPieceAck_mv (p : WxpHeader) (o : ObjectKey) (nak : Bool) (bitmap : List Bool) (hm : CSub 0x40000 μ)
    (hn : TSub 0x4000001400000 ν) :
    State.MovesO μ ν s₀ (execPieceAck p o nak bitmap s) := by
  unfold execPieceAck
  try dsimp only
  with_reducible repeat' (first
    | assumption | intro _ | apply State.onWell_mv | apply State.dropObjects_mv | apply State.receive_mv
    | apply State.seedsSent_mv | apply State.Moves.ite | apply State.MovesO.next | split)

theorem State.answerObject_mv (i : Nat) (x : Nat) (key : ObjectKey) (digest : Nat) (body : List Byte)
    (hm : CSub 0xc041000 μ) (hn : TSub 0x1000012000220000000 ν) :
    State.Moves μ ν s₀ (State.answerObject s i x key digest body) := by
  unfold State.answerObject
  try dsimp only
  with_reducible repeat' (first
    | assumption | intro _ | exact hm.sub (by decide) | apply State.whdEvent_mv | apply State.sendObject_mv
    | apply State.Moves.ite)

theorem execLedgerReq_mv (p : WxpHeader) (hm : CSub 0xc041000 μ) (hn : TSub 0x1000016000221400000 ν) :
    State.MovesO μ ν s₀ (execLedgerReq p s) := by
  unfold execLedgerReq
  try dsimp only
  with_reducible repeat' (first
    | assumption | intro _ | exact hm.sub (by decide) | exact hn.sub (by decide) | apply State.exchange_mv
    | apply State.answerObject_mv | apply State.MovesO.next | split)

theorem execFetch_mv (p : WxpHeader) (entries : List FragKey) (hm : CSub 0xc041000 μ)
    (hn : TSub 0x1000016000221400000 ν) :
    State.MovesO μ ν s₀ (execFetch p entries s) := by
  unfold execFetch
  try dsimp only
  with_reducible repeat' (first
    | assumption | intro _ | exact hm.sub (by decide) | exact hn.sub (by decide) | apply State.exchange_mv
    | apply State.answerObject_mv | apply State.MovesO.next | apply foldl_mv | split)

theorem execJoin_mv (p : WxpHeader) (digest : Word) (hm : CSub 0xc05da03 μ) (hn : TSub 0x100001e000331c11008 ν) :
    State.MovesO μ ν s₀ (execJoin p digest s) := by
  unfold execJoin
  try dsimp only
  with_reducible repeat' (first
    | assumption | intro _ | exact hm.sub (by decide) | exact hn.sub (by decide)
    | exact hn.bit (by decide) | exact hm.bit (by decide) | apply State.setRun_mv | apply State.queueWxp_mv
    | apply State.sendSeeds_mv | apply State.receive_mv | apply State.refusePartner_mv | apply State.Moves.ite
    | apply State.MovesO.next | apply State.MovesO.ite | split | refine State.mk_mv ?_ | rfl | exact mem_of (by decide))

theorem State.markSent_mv (q : WxpOut) (hm : CSub 0x40000 μ) (hn : TSub 0x1000000 ν) :
    State.Moves μ ν s₀ (State.markSent s q) := by
  unfold State.markSent
  try dsimp only
  with_reducible repeat' (first
    | assumption | intro _ | exact hn.bit (by decide) | apply State.rinc_mv | apply State.onWell_mv
    | apply State.Moves.ite | split | exact mem_of (by decide))

theorem State.sendPacket_mv (q : WxpOut) (n : Nat) (hm : CSub 0x40800 μ) (hn : TSub 0x4000001000000 ν) :
    State.Moves μ ν s₀ (State.sendPacket s q n) := by
  unfold State.sendPacket
  try dsimp only
  with_reducible repeat' (first
    | assumption | exact hm.sub (by decide) | exact hn.sub (by decide) | exact hn.bit (by decide)
    | apply State.rwrap_mv | apply State.countEvent_mv | apply State.onWell_mv | apply State.setPeer_mv
    | apply State.markSent_mv | exact mem_of (by decide))

theorem State.pacedSend_mv (x : Nat) (hm : CSub 0xc059a00 μ) (hn : TSub 0x100001e000331c11008 ν) :
    State.Moves μ ν s₀ (State.pacedSend s x) := by
  unfold State.pacedSend
  try dsimp only
  with_reducible repeat' (first
    | assumption | intro _ | exact hm.sub (by decide) | exact hn.sub (by decide) | apply State.onWell_mv
    | apply State.faultRound_mv | apply State.sendPacket_mv | apply State.Moves.ite | split)

theorem execPacedSend_mv (site : Nat) (hm : CSub 0xc059a00 μ) (hn : TSub 0x100001e000331c11008 ν) :
    State.MovesO μ ν s₀ (execPacedSend site s) := by
  unfold execPacedSend
  try dsimp only
  with_reducible repeat' (first
    | assumption | apply State.pacedSend_mv | apply State.MovesO.next)

theorem State.failStreams_mv (x : Nat) (hm : CSub 0x60000 μ) :
    State.Moves μ ν s₀ (State.failStreams s x) := by
  unfold State.failStreams
  try dsimp only
  with_reducible repeat' (first
    | assumption | exact hm.sub (by decide) | apply State.dropObjects_mv | refine State.mk_mv ?_)

theorem execPieceResendTimeout_mv (site : Nat) (k : ObjectKey) (hm : CSub 0xc061000 μ)
    (hn : TSub 0x1000012000220000000 ν) :
    State.MovesO μ ν s₀ (execPieceResendTimeout site k s) := by
  unfold execPieceResendTimeout
  try dsimp only
  with_reducible repeat' (first
    | assumption | intro _ | exact hm.sub (by decide) | apply State.onWell_mv | apply State.whdEvent_mv
    | apply State.failStreams_mv | apply State.Moves.ite | apply State.MovesO.next | split)

theorem execHeartbeatTimer_mv (site : Nat) (hm : CSub 0x40000 μ) :
    State.MovesO μ ν s₀ (execHeartbeatTimer site s) := by
  unfold execHeartbeatTimer
  try dsimp only
  with_reducible repeat' (first
    | assumption | intro _ | apply State.setPeer_mv | apply State.queueWxp_mv | apply State.Moves.ite
    | apply State.MovesO.next | split)

theorem execPartnerSilent_mv (site : Nat) (hm : CSub 0xc07da03 μ) (hn : TSub 0x100001e000331c11008 ν) :
    State.MovesO μ ν s₀ (execPartnerSilent site s) := by
  unfold execPartnerSilent
  try dsimp only
  with_reducible repeat' (first
    | assumption | intro _ | exact hm.sub (by decide) | exact hn.sub (by decide)
    | exact hn.bit (by decide) | apply State.rput_mv | apply State.whdEvent_mv | apply State.dropObjects_mv
    | apply State.anchorChecks_mv | apply State.failStreams_mv | apply State.Moves.ite | apply State.MovesO.next
    | split | exact mem_of (by decide))

theorem execFetchTimeout_mv (bind : Nat) (hm : CSub 0xc059200 μ) (hn : TSub 0x100001a000330c11008 ν) :
    State.MovesO μ ν s₀ (execFetchTimeout bind s) := by
  unfold execFetchTimeout
  try dsimp only
  with_reducible repeat' (first
    | assumption | intro _ | exact hm.sub (by decide) | apply State.setRun_mv | apply State.faultRound_mv
    | apply State.sendFetch_mv | apply State.Moves.ite | apply State.MovesO.next | split)

theorem execJoinResend_mv (bind : Nat) (hm : CSub 0x40000 μ) :
    State.MovesO μ ν s₀ (execJoinResend bind s) := by
  unfold execJoinResend
  try dsimp only
  with_reducible repeat' (first
    | assumption | intro _ | apply State.sendJoin_mv | apply State.Moves.ite | apply State.MovesO.next)

theorem execFarPortControlFrame_mv (port : Nat) (k : FarFrame) (hm : CSub 0x40000 μ) (hn : TSub 0x4000001400000 ν) :
    State.MovesO μ ν s₀ (execFarPortControlFrame port k s) := by
  unfold execFarPortControlFrame
  try dsimp only
  with_reducible repeat' (first
    | assumption | intro _ | exact hm.sub (by decide) | exact hn.sub (by decide)
    | exact hn.bit (by decide) | exact hm.bit (by decide) | apply State.rinc_mv | apply State.rwrap_mv
    | apply State.onWell_mv | apply State.Moves.ite | apply State.MovesO.next | apply State.MovesO.ite | split
    | refine State.mk_mv ?_ | rfl | exact mem_of (by decide))

theorem execFarPortLinkChange_mv (port : Nat) (up : Bool) (hn : TSub 0x400000 ν) :
    State.MovesO μ ν s₀ (execFarPortLinkChange port up s) := by
  unfold execFarPortLinkChange
  try dsimp only
  with_reducible repeat' (first
    | assumption | intro _ | exact hn.bit (by decide) | apply State.rput_mv | apply State.Moves.ite
    | apply State.MovesO.next | exact mem_of (by decide))

/-! ## Gate -/

theorem State.clearHistory_mv (e : Nat) (hn : TSub 0x40 ν) :
    State.Moves μ ν s₀ (State.clearHistory s e) := by
  unfold State.clearHistory
  try dsimp only
  with_reducible repeat' (first
    | assumption | exact hn.bit (by decide) | apply State.rput_mv | exact mem_of (by decide))

theorem State.pushHistory_mv (e : Nat) (amax : Nat) (hn : TSub 0x40 ν) :
    State.Moves μ ν s₀ (State.pushHistory s e amax) := by
  unfold State.pushHistory
  try dsimp only
  with_reducible repeat' (first
    | assumption | exact hn.bit (by decide) | apply State.rput_mv | exact mem_of (by decide))

theorem State.stampGauge_mv (e : Nat) (attempt : Nat) (t : GaugeTotals) (hn : TSub 0x40 ν) :
    State.Moves μ ν s₀ (State.stampGauge s e attempt t) := by
  unfold State.stampGauge
  try dsimp only
  with_reducible repeat' (first
    | assumption | exact hn.bit (by decide) | apply State.rput_mv | exact mem_of (by decide))

theorem State.closeGauge_mv (attempt : Nat) (passed : Bool) (e : Nat) (hm : CSub 0x100 μ) (hn : TSub 0x40 ν) :
    State.Moves μ ν s₀ (State.closeGauge s attempt passed e) := by
  unfold State.closeGauge
  try dsimp only
  with_reducible repeat' (first
    | assumption | apply State.clearHistory_mv | apply State.pushHistory_mv | apply State.stampGauge_mv | split
    | refine State.mk_mv ?_)

theorem State.setRung_mv (c : Nat) (r : RungState) (hm : CSub 0x80 μ) (hn : TSub 0x40 ν) :
    State.Moves μ ν s₀ (State.setRung s c r) := by
  unfold State.setRung
  try dsimp only
  with_reducible repeat' (first
    | assumption | intro _ | exact hn.bit (by decide) | apply State.rput_mv | apply State.Moves.ite
    | apply foldl_mv | refine State.mk_mv ?_ | exact mem_of (by decide))

theorem State.promote_mv (c : Nat) (hm : CSub 0x80 μ) (hn : TSub 0x40 ν) :
    State.Moves μ ν s₀ (State.promote s c) := by
  unfold State.promote
  try dsimp only
  with_reducible repeat' (first
    | assumption | intro _ | apply State.setRung_mv | apply State.Moves.ite)

theorem State.gateRung_mv (c : Nat) (passed : Bool) (hm : CSub 0x80 μ) (hn : TSub 0x40 ν) :
    State.Moves μ ν s₀ (State.gateRung s c passed) := by
  unfold State.gateRung
  try dsimp only
  with_reducible repeat' (first
    | assumption | intro _ | exact hn.bit (by decide) | apply State.rput_mv | apply State.setRung_mv
    | apply State.promote_mv | apply State.Moves.ite | apply foldl_mv | split | exact mem_of (by decide))

theorem State.gaugeGate_mv (c : Nat) (attempt : Nat) (passed : Bool) (hm : CSub 0x180 μ) (hn : TSub 0x40 ν) :
    State.Moves μ ν s₀ (State.gaugeGate s c attempt passed) := by
  unfold State.gaugeGate
  try dsimp only
  with_reducible repeat' (first
    | assumption | intro _ | exact hm.sub (by decide) | apply State.closeGauge_mv | apply State.gateRung_mv
    | apply foldl_mv)

theorem State.sendFlags_mv (c : Nat) (ch : Nat) (ms : List (Nat × Nat)) (flags : Bool × Bool) (hm : CSub 0xc019804 μ)
    (hn : TSub 0x1000012800220210000 ν) :
    State.Moves μ ν s₀ (State.sendFlags s c ch ms flags) := by
  unfold State.sendFlags
  try dsimp only
  with_reducible repeat' (first
    | assumption | intro _ | apply State.sendFrame_mv | apply foldl_mv)

theorem execGateFlags_mv (f : Frame) (hm : CSub 0xc019804 μ) (hn : TSub 0x1000012800220210000 ν) :
    State.MovesO μ ν s₀ (execGateFlags f s) := by
  unfold execGateFlags
  try dsimp only
  with_reducible repeat' (first
    | assumption | intro _ | apply State.takeRequest_mv | apply State.Moves.ite | apply State.MovesO.next
    | refine State.mk_mv ?_)

theorem State.moveCounters_mv (c : Nat) (passed : Bool) (hn : TSub 0x8 ν) :
    State.Moves μ ν s₀ (State.moveCounters s c passed) := by
  unfold State.moveCounters
  try dsimp only
  with_reducible repeat' (first
    | assumption | intro _ | exact hn.bit (by decide) | apply State.rwrap_mv | apply State.Moves.ite
    | exact mem_of (by decide))

theorem State.gateCarries_mv (c : Nat) (step : Nat) (attempt : Nat) (passed : Bool) (hm : CSub 0x10000 μ) :
    State.Moves μ ν s₀ (State.gateCarries s c step attempt passed) := by
  unfold State.gateCarries
  try dsimp only
  with_reducible repeat' (first
    | assumption | intro _ | apply State.dropCarries_mv | apply State.Moves.ite)

theorem State.stampCounts_mv (c : Nat) (attempt : Nat) (hm : CSub 0x10000 μ) (hn : TSub 0x20000 ν) :
    State.Moves μ ν s₀ (State.stampCounts s c attempt) := by
  unfold State.stampCounts
  try dsimp only
  with_reducible repeat' (first
    | assumption | intro _ | exact hn.bit (by decide) | apply State.rput_mv | apply foldl_mv
    | refine State.mk_mv ?_ | exact fld_of_list (List.of_mem_zip (by with_reducible assumption)).1 (by decide)
    | exact hn.bit (bit_of_list (List.of_mem_zip (by with_reducible assumption)).1 (by decide))
    | exact mem_of (by decide))

theorem State.takeCasts_mv (c : Nat) (hm : CSub 0x20000 μ) :
    State.Moves μ ν s₀ (State.takeCasts s c) := by
  unfold State.takeCasts
  try dsimp only
  with_reducible repeat' (first
    | assumption | refine State.mk_mv ?_)

theorem State.gateContext_mv (g : Gate) (passed : Bool) (c : Nat) (step : Nat) (attempt : Nat) (hm : CSub 0xe07dac7 μ)
    (hn : TSub 0x100001e800330e31008 ν) :
    State.Moves μ ν s₀ (State.gateContext s g passed c step attempt) := by
  unfold State.gateContext
  try dsimp only
  with_reducible repeat' (first
    | assumption | intro _ | exact hm.sub (by decide) | exact hn.sub (by decide) | apply State.traceEvent_mv
    | apply State.traceTrigger_mv | apply State.releaseLeases_mv | apply State.updateGate_mv
    | apply State.roundsGate_mv | apply State.gateCarries_mv | apply State.stampCounts_mv | apply State.takeCasts_mv
    | apply State.Moves.ite | split | refine State.mk_mv ?_)

theorem State.releaseGate_mv (c : Nat) (passed : Bool) (hm : CSub 0x4 μ) :
    State.Moves μ ν s₀ (State.releaseGate s c passed) := by
  unfold State.releaseGate
  try dsimp only
  with_reducible repeat' (first
    | assumption | refine State.mk_mv ?_)

theorem State.gatePoison_mv (c : Nat) (step : Nat) (hm : CSub 0xc0192c4 μ) (hn : TSub 0x100001a000330c11008 ν) :
    State.Moves μ ν s₀ (State.gatePoison s c step) := by
  unfold State.gatePoison
  try dsimp only
  with_reducible repeat' (first
    | assumption | exact hm.sub (by decide) | exact hn.sub (by decide) | apply State.logError_mv
    | apply State.endContext_mv | apply State.consumePoison_mv | split)

theorem State.leaveGate_mv (g : Gate) (passed : Bool) (poisoned : Bool) (c : Nat) (step : Nat) (own : Bool × Bool)
    (hm : CSub 0xc0192c4 μ) (hn : TSub 0x100001a000330c11008 ν) :
    State.Moves μ ν s₀ (State.leaveGate s g passed poisoned c step own) := by
  unfold State.leaveGate
  try dsimp only
  with_reducible repeat' (first
    | assumption | intro _ | exact hm.sub (by decide) | exact hn.sub (by decide) | apply State.endContext_mv
    | apply State.releaseGate_mv | apply State.gatePoison_mv | apply State.Moves.ite)

theorem State.nextGate_mv (p : Nat) (hm : CSub 0x80 μ) :
    State.Moves μ ν s₀ (State.nextGate s p) := by
  unfold State.nextGate
  try dsimp only
  with_reducible repeat' (first
    | assumption | intro _ | apply State.beginGate_mv | apply State.Moves.ite | refine State.mk_mv ?_)

theorem State.decideGate_mv (p : Nat) (g : Gate) (parts : List Nat) (flags : Bool × Bool) (hm : CSub 0xe07dbc7 μ)
    (hn : TSub 0x100001e800330e31048 ν) :
    State.Moves μ ν s₀ (State.decideGate s p g parts flags) := by
  unfold State.decideGate
  try dsimp only
  with_reducible repeat' (first
    | assumption | intro _ | exact hm.sub (by decide) | exact hn.sub (by decide)
    | exact hn.bit (by decide) | exact hm.bit (by decide) | apply State.dueAudits_mv
    | apply State.gaugeGate_mv | apply State.moveCounters_mv | apply State.gateContext_mv | apply State.leaveGate_mv
    | apply State.nextGate_mv | apply State.Moves.ite | apply State.MovesO.next | apply State.MovesO.ite
    | apply foldl_mv | apply foldl_mv2 | apply foldl_mv1 | split | rfl | exact mem_of (by decide))

theorem execStepGateDecide_mv (p : Nat) (hm : CSub 0xe07dbc7 μ) (hn : TSub 0x100001e800330e31048 ν) :
    State.MovesO μ ν s₀ (execStepGateDecide p s) := by
  unfold execStepGateDecide
  try dsimp only
  with_reducible repeat' (first
    | assumption | intro _ | exact hm.sub (by decide) | exact hn.sub (by decide) | apply State.sendFlags_mv
    | apply State.nextGate_mv | apply State.decideGate_mv | apply State.Moves.ite | apply State.MovesO.next
    | apply foldl_mv | split | refine State.mk_mv ?_)

/-! ## Cistern -/

theorem State.onCistern_mv (f : Cistern → Cistern) (hm : CSub 0x80000 μ) :
    State.Moves μ ν s₀ (State.onCistern s f) := by
  unfold State.onCistern
  try dsimp only
  with_reducible repeat' (first
    | assumption | refine State.mk_mv ?_)

theorem State.onCis_mv (f : CisRun → CisRun) (hm : CSub 0x100000 μ) :
    State.Moves μ ν s₀ (State.onCis s f) := by
  unfold State.onCis
  try dsimp only
  with_reducible repeat' (first
    | assumption | refine State.mk_mv ?_)

theorem State.setSb_mv (k : Nat) (b : Superblock) (hm : CSub 0x80000 μ) :
    State.Moves μ ν s₀ (State.setSb s k b) := by
  unfold State.setSb
  try dsimp only
  with_reducible repeat' (first
    | assumption | apply State.onCistern_mv)

theorem State.program_mv (k : Nat) (u : SbUse) (hm : CSub 0x80000 μ) :
    State.Moves μ ν s₀ (State.program s k u) := by
  unfold State.program
  try dsimp only
  with_reducible repeat' (first
    | assumption | apply State.onCistern_mv | apply State.setSb_mv)

theorem State.allocate_mv (index : Nat) (n : Nat) (pos : Nat) (hm : CSub 0x80000 μ) :
    State.Moves μ ν s₀ (State.allocate s index n pos) := by
  unfold State.allocate
  try dsimp only
  with_reducible repeat' (first
    | assumption | intro _ | apply State.program_mv | apply foldl_mv | split)

theorem State.countNand_mv (n : Nat) (hm : CSub 0x80000 μ) :
    State.Moves μ ν s₀ (State.countNand s n) := by
  unfold State.countNand
  try dsimp only
  with_reducible repeat' (first
    | assumption | apply State.onCistern_mv)

theorem State.cisChanged_mv (hm : CSub 0xc001000 μ) (hn : TSub 0x1000012004220000000 ν) :
    State.Moves μ ν s₀ (State.cisChanged s) := by
  unfold State.cisChanged
  try dsimp only
  with_reducible repeat' (first
    | assumption | exact hn.sub (by decide) | exact hn.bit (by decide) | apply State.rput_mv
    | apply State.logError_mv | exact mem_of (by decide))

theorem State.freeEntry_mv (index : Nat) (hm : CSub 0x80000 μ) (hn : TSub 0x20000000000 ν) :
    State.Moves μ ν s₀ (State.freeEntry s index) := by
  unfold State.freeEntry
  try dsimp only
  with_reducible repeat' (first
    | assumption | exact hn.bit (by decide) | apply State.rreset_mv | apply State.onCistern_mv)

theorem State.releaseSbs_mv (index : Nat) (hm : CSub 0x80000 μ) :
    State.Moves μ ν s₀ (State.releaseSbs s index) := by
  unfold State.releaseSbs
  try dsimp only
  with_reducible repeat' (first
    | assumption | intro _ | apply State.setSb_mv | apply foldl_mv)

theorem State.finishCast_mv (k : CastJob) (reason : Nat) (hm : CSub 0x20240 μ) :
    State.Moves μ ν s₀ (State.finishCast s k reason) := by
  unfold State.finishCast
  try dsimp only
  with_reducible repeat' (first
    | assumption | exact hm.sub (by decide) | apply State.finishCmd_mv | split | refine State.mk_mv ?_)

theorem State.setCisReason_mv (reason : Nat) (hm : CSub 0x100000 μ) :
    State.Moves μ ν s₀ (State.setCisReason s reason) := by
  unfold State.setCisReason
  try dsimp only
  with_reducible repeat' (first
    | assumption | apply State.onCis_mv)

theorem State.ownerDone_mv (o : MouldOwner) (reason : Nat) (hm : CSub 0x120240 μ) :
    State.Moves μ ν s₀ (State.ownerDone s o reason) := by
  unfold State.ownerDone
  try dsimp only
  with_reducible repeat' (first
    | assumption | exact hm.sub (by decide) | apply State.finishCast_mv | apply State.setCisReason_mv | split)

theorem State.abortMould_mv (w : MouldWrite) (reason : Nat) (hm : CSub 0x1a0240 μ) (hn : TSub 0x20000000000 ν) :
    State.Moves μ ν s₀ (State.abortMould s w reason) := by
  unfold State.abortMould
  try dsimp only
  with_reducible repeat' (first
    | assumption | exact hm.sub (by decide) | apply State.onCis_mv | apply State.freeEntry_mv
    | apply State.releaseSbs_mv | apply State.ownerDone_mv)

theorem State.abortMoulds_mv (reason : Nat) (hm : CSub 0x1a0240 μ) (hn : TSub 0x20000000000 ν) :
    State.Moves μ ν s₀ (State.abortMoulds s reason) := by
  unfold State.abortMoulds
  try dsimp only
  with_reducible repeat' (first
    | assumption | intro _ | apply State.abortMould_mv | apply foldl_mv)

theorem State.checkReserve_mv (hm : CSub 0xc1a1240 μ) (hn : TSub 0x1000012024220000000 ν) :
    State.Moves μ ν s₀ (State.checkReserve s) := by
  unfold State.checkReserve
  try dsimp only
  with_reducible repeat' (first
    | assumption | intro _ | exact hm.sub (by decide) | exact hn.sub (by decide) | apply State.onCistern_mv
    | apply State.cisChanged_mv | apply State.abortMoulds_mv | apply State.Moves.ite)

theorem State.openMould_mv (w : MouldWrite) (hm : CSub 0xc1a1240 μ) (hn : TSub 0x1000012024220000000 ν) :
    State.Moves μ ν s₀ (State.openMould s w) := by
  unfold State.openMould
  try dsimp only
  with_reducible repeat' (first
    | assumption | exact hm.sub (by decide) | exact hn.bit (by decide) | apply State.rput_mv
    | apply State.onCistern_mv | apply State.onCis_mv | apply State.allocate_mv | apply State.countNand_mv
    | apply State.checkReserve_mv | exact mem_of (by decide))

theorem State.deleteMould_mv (index : Nat) (hm : CSub 0x80000 μ) (hn : TSub 0x20000000000 ν) :
    State.Moves μ ν s₀ (State.deleteMould s index) := by
  unfold State.deleteMould
  try dsimp only
  with_reducible repeat' (first
    | assumption | exact hn.bit (by decide) | apply State.rput_mv | apply State.onCistern_mv
    | apply State.releaseSbs_mv | exact mem_of (by decide))

theorem State.keepMoulds_mv (c : Nat) (hm : CSub 0x180000 μ) (hn : TSub 0x20000000000 ν) :
    State.Moves μ ν s₀ (State.keepMoulds s c) := by
  unfold State.keepMoulds
  try dsimp only
  with_reducible repeat' (first
    | assumption | intro _ | exact hm.sub (by decide) | apply State.onCis_mv | apply State.deleteMould_mv
    | apply State.Moves.ite | split)

theorem State.stampMould_mv (w : MouldWrite) (serial : Nat) (hn : TSub 0x20000000000 ν) :
    State.Moves μ ν s₀ (State.stampMould s w serial) := by
  unfold State.stampMould
  try dsimp only
  with_reducible repeat' (first
    | assumption | exact hn.bit (by decide) | apply State.rput_mv | exact mem_of (by decide))

theorem State.commitMould_mv (w : MouldWrite) (hm : CSub 0x1a0240 μ) (hn : TSub 0x20000000000 ν) :
    State.Moves μ ν s₀ (State.commitMould s w) := by
  unfold State.commitMould
  try dsimp only
  with_reducible repeat' (first
    | assumption | exact hm.sub (by decide) | apply State.onCistern_mv | apply State.onCis_mv
    | apply State.ownerDone_mv | apply State.keepMoulds_mv | apply State.stampMould_mv)

theorem execMouldCommit_mv (index : Nat) (hm : CSub 0x1a0240 μ) (hn : TSub 0x20000000000 ν) :
    State.MovesO μ ν s₀ (execMouldCommit index s) := by
  unfold execMouldCommit
  try dsimp only
  with_reducible repeat' (first
    | assumption | apply State.commitMould_mv | apply State.MovesO.next | split)

theorem State.eraseSbs_mv (index : Nat) (hm : CSub 0x80000 μ) :
    State.Moves μ ν s₀ (State.eraseSbs s index) := by
  unfold State.eraseSbs
  try dsimp only
  with_reducible repeat' (first
    | assumption | intro _ | apply State.setSb_mv | apply foldl_mv)

theorem execMouldEraseDone_mv (index : Nat) (hm : CSub 0xc1a1240 μ) (hn : TSub 0x1000012024220000000 ν) :
    State.MovesO μ ν s₀ (execMouldEraseDone index s) := by
  unfold execMouldEraseDone
  try dsimp only
  with_reducible repeat' (first
    | assumption | intro _ | exact hm.sub (by decide) | exact hn.sub (by decide) | apply State.freeEntry_mv
    | apply State.checkReserve_mv | apply State.eraseSbs_mv | apply State.Moves.ite | apply State.MovesO.next)

theorem State.markDue_mv (k : Nat) (hm : CSub 0x80000 μ) :
    State.Moves μ ν s₀ (State.markDue s k) := by
  unfold State.markDue
  try dsimp only
  with_reducible repeat' (first
    | assumption | apply State.setSb_mv)

theorem State.loseCodeword_mv (k : Nat) (index : Nat) (pos : Nat) (hm : CSub 0x1c081000 μ)
    (hn : TSub 0x1000012020220000000 ν) :
    State.Moves μ ν s₀ (State.loseCodeword s k index pos) := by
  unfold State.loseCodeword
  try dsimp only
  with_reducible repeat' (first
    | assumption | exact hm.sub (by decide) | exact hn.sub (by decide) | exact hn.bit (by decide)
    | apply State.rput_mv | apply State.draw_mv | apply State.logError_mv | apply State.onCistern_mv | split
    | exact mem_of (by decide))

theorem State.failCistern_mv (hm : CSub 0xc1a1240 μ) (hn : TSub 0x1000012024220000000 ν) :
    State.Moves μ ν s₀ (State.failCistern s) := by
  unfold State.failCistern
  try dsimp only
  with_reducible repeat' (first
    | assumption | intro _ | exact hm.sub (by decide) | exact hn.sub (by decide) | apply State.onCistern_mv
    | apply State.cisChanged_mv | apply State.setCisReason_mv | apply State.abortMoulds_mv | apply State.Moves.ite
    | split)

theorem State.loseImage_mv (w : Nat) (hm : CSub 0x80000 μ) :
    State.Moves μ ν s₀ (State.loseImage s w) := by
  unfold State.loseImage
  try dsimp only
  with_reducible repeat' (first
    | assumption | intro _ | exact hm.sub (by decide) | exact hm.bit (by decide) | apply State.onCistern_mv
    | apply State.Moves.ite | split | refine State.mk_mv ?_ | rfl | exact mem_of (by decide))

theorem State.loseItem_mv (k : Nat) (hm : CSub 0x1c1a1240 μ) (hn : TSub 0x1000012024220000000 ν) :
    State.Moves μ ν s₀ (State.loseItem s k) := by
  unfold State.loseItem
  try dsimp only
  with_reducible repeat' (first
    | assumption | intro _ | exact hm.sub (by decide) | exact hn.sub (by decide)
    | exact hn.bit (by decide) | exact hm.bit (by decide)
    | (refine mv_snd (by assumption) ?_; apply State.draw_mv) | apply State.draw_mv | apply State.logError_mv
    | apply State.loseCopy_mv | apply State.onCistern_mv | apply State.failCistern_mv | apply State.loseImage_mv
    | apply State.Moves.ite | split | refine State.mk_mv ?_ | rfl | exact mem_of (by decide))

theorem State.flashMet_mv (k : Nat) (r : FlashRead) (hm : CSub 0x1c1a1240 μ) (hn : TSub 0x1000012024220000000 ν) :
    State.Moves μ ν s₀ (State.flashMet s k r) := by
  unfold State.flashMet
  try dsimp only
  with_reducible repeat' (first
    | assumption | intro _ | exact hm.sub (by decide) | exact hn.sub (by decide)
    | exact hn.bit (by decide) | exact hm.bit (by decide) | apply State.logError_mv | apply State.markDue_mv
    | apply State.loseCodeword_mv | apply State.loseItem_mv | apply State.lost_mv | split | refine State.mk_mv ?_ | rfl
    | exact mem_of (by decide))

theorem State.cisOpStart_mv (op : Nat) (hm : CSub 0x100000 μ) (hn : TSub 0x2000000000000000 ν) :
    State.Moves μ ν s₀ (State.cisOpStart s op) := by
  unfold State.cisOpStart
  try dsimp only
  with_reducible repeat' (first
    | assumption | exact hn.bit (by decide) | apply State.rput_mv | apply State.onCis_mv
    | exact mem_of (by decide))

theorem execCisOpComplete_mv (hm : CSub 0x8100000 μ) (hn : TSub 0x1002000000200000000 ν) :
    State.MovesO μ ν s₀ (execCisOpComplete s) := by
  unfold execCisOpComplete
  try dsimp only
  with_reducible repeat' (first
    | assumption | exact hm.sub (by decide) | exact hn.sub (by decide) | exact hn.bit (by decide)
    | apply State.rput_mv | apply State.setEvt_mv | apply State.onCis_mv | apply State.MovesO.next | split
    | exact mem_of (by decide))

theorem execMouldWrite_mv (hm : CSub 0xc1a5a40 μ) (hn : TSub 0x1000016024220000000 ν) :
    State.MovesO μ ν s₀ (execMouldWrite s) := by
  unfold execMouldWrite
  try dsimp only
  with_reducible repeat' (first
    | assumption | intro _ | exact hm.sub (by decide) | exact hn.sub (by decide) | apply State.touch_mv
    | apply State.setCisReason_mv | apply State.openMould_mv | apply State.Moves.ite | apply State.MovesO.next | split)

theorem State.afterRead_mv (hm : CSub 0x180000 μ) (hn : TSub 0x20000000000 ν) :
    State.Moves μ ν s₀ (State.afterRead s) := by
  unfold State.afterRead
  try dsimp only
  with_reducible repeat' (first
    | assumption | intro _ | exact hm.sub (by decide) | apply State.onCis_mv | apply State.deleteMould_mv
    | apply State.Moves.ite | apply foldl_mv)

theorem State.countReads_mv (k : Nat) (n : Nat) (hm : CSub 0x80000 μ) :
    State.Moves μ ν s₀ (State.countReads s k n) := by
  unfold State.countReads
  try dsimp only
  with_reducible repeat' (first
    | assumption | apply State.setSb_mv)

theorem State.deliver_mv (a : Nat) (b : MouldBody) (hm : CSub 0x4803 μ) (hn : TSub 0x6000000000000 ν) :
    State.Moves μ ν s₀ (State.deliver s a b) := by
  unfold State.deliver
  try dsimp only
  with_reducible repeat' (first
    | assumption | intro _ | apply State.store_mv | apply foldl_mv)

theorem State.readSbs_mv (index : Nat) (hm : CSub 0x80000 μ) :
    State.Moves μ ν s₀ (State.readSbs s index) := by
  unfold State.readSbs
  try dsimp only
  with_reducible repeat' (first
    | assumption | intro _ | exact hm.sub (by decide) | exact hm.bit (by decide) | apply State.countReads_mv
    | apply foldl_mv | apply foldl_mv2 | apply foldl_mv1 | split | rfl | exact mem_of (by decide))

theorem execMouldRead_mv (hm : CSub 0x184803 μ) (hn : TSub 0x6020000000000 ν) :
    State.MovesO μ ν s₀ (execMouldRead s) := by
  unfold execMouldRead
  try dsimp only
  with_reducible repeat' (first
    | assumption | intro _ | exact hm.sub (by decide) | exact hn.sub (by decide)
    | apply State.setCisReason_mv | apply State.afterRead_mv | apply State.deliver_mv | apply State.readSbs_mv
    | apply State.Moves.ite | apply State.MovesO.next | split | exact mem_of (by decide))

theorem execMouldDelete_mv (hm : CSub 0x180000 μ) (hn : TSub 0x20000000000 ν) :
    State.MovesO μ ν s₀ (execMouldDelete s) := by
  unfold execMouldDelete
  try dsimp only
  with_reducible repeat' (first
    | assumption | intro _ | exact hm.sub (by decide) | apply State.setCisReason_mv | apply State.deleteMould_mv
    | apply State.Moves.ite | apply State.MovesO.next | split)

theorem State.patrolMark_mv (k : Nat) (hm : CSub 0x100000 μ) :
    State.Moves μ ν s₀ (State.patrolMark s k) := by
  unfold State.patrolMark
  try dsimp only
  with_reducible repeat' (first
    | assumption | intro _ | apply State.onCis_mv | apply State.Moves.ite)

theorem execCisPatrol_mv (k : Nat) (r : FlashRead) (hm : CSub 0x1c1a1240 μ) (hn : TSub 0x1000012024220000000 ν) :
    State.MovesO μ ν s₀ (execCisPatrol k r s) := by
  unfold execCisPatrol
  try dsimp only
  with_reducible repeat' (first
    | assumption | intro _ | exact hm.sub (by decide) | exact hn.sub (by decide) | apply State.flashMet_mv
    | apply State.countReads_mv | apply State.patrolMark_mv | apply State.Moves.ite | apply State.MovesO.next
    | apply State.MovesO.ite | rfl | exact mem_of (by decide))

theorem State.moveSb_mv (k : Nat) (q : Nat) (hm : CSub 0x80000 μ) :
    State.Moves μ ν s₀ (State.moveSb s k q) := by
  unfold State.moveSb
  try dsimp only
  with_reducible repeat' (first
    | assumption | apply State.setSb_mv | apply State.program_mv | apply State.countNand_mv)

theorem execCisRelocate_mv (k : Nat) (hm : CSub 0xc1a1240 μ) (hn : TSub 0x1000012024220000000 ν) :
    State.MovesO μ ν s₀ (execCisRelocate k s) := by
  unfold execCisRelocate
  try dsimp only
  with_reducible repeat' (first
    | assumption | intro _ | exact hm.sub (by decide) | apply State.checkReserve_mv | apply State.moveSb_mv
    | apply State.Moves.ite | apply State.MovesO.next | split)

theorem execCisWearLevel_mv (hm : CSub 0x80000 μ) :
    State.MovesO μ ν s₀ (execCisWearLevel s) := by
  unfold execCisWearLevel
  try dsimp only
  with_reducible repeat' (first
    | assumption | intro _ | apply State.moveSb_mv | apply State.Moves.ite | apply State.MovesO.next | split)

theorem State.takeSpare_mv (ch : Nat) (hm : CSub 0x80000 μ) :
    State.Moves μ ν s₀ (State.takeSpare s ch) := by
  unfold State.takeSpare
  try dsimp only
  with_reducible repeat' (first
    | assumption | intro _ | apply State.onCistern_mv | apply State.Moves.ite | split)

theorem execCisBlockRetired_mv (k : Nat) (ch : Nat) (hm : CSub 0xc1a1240 μ) (hn : TSub 0x1000012024220000000 ν) :
    State.MovesO μ ν s₀ (execCisBlockRetired k ch s) := by
  unfold execCisBlockRetired
  try dsimp only
  with_reducible repeat' (first
    | assumption | intro _ | exact hm.sub (by decide) | exact hn.sub (by decide) | apply State.logError_mv
    | apply State.onCistern_mv | apply State.checkReserve_mv | apply State.moveSb_mv | apply State.takeSpare_mv
    | apply State.Moves.ite | apply State.MovesO.next | split)

theorem execCisChannelLost_mv (ch : Option Nat) (hm : CSub 0xc1a1240 μ) (hn : TSub 0x1000012024220000000 ν) :
    State.MovesO μ ν s₀ (execCisChannelLost ch s) := by
  unfold execCisChannelLost
  try dsimp only
  with_reducible repeat' (first
    | assumption | intro _ | exact hm.sub (by decide) | apply State.onCistern_mv | apply State.failCistern_mv
    | apply State.Moves.ite | apply State.MovesO.next | split)

theorem State.recoverMoulds_mv (hm : CSub 0xc081000 μ) (hn : TSub 0x1000012024220000000 ν) :
    State.Moves μ ν s₀ (State.recoverMoulds s) := by
  unfold State.recoverMoulds
  try dsimp only
  with_reducible repeat' (first
    | assumption | intro _ | exact hm.sub (by decide) | exact hn.sub (by decide)
    | exact hn.bit (by decide) | apply State.rput_mv | apply State.logError_mv | apply State.freeEntry_mv
    | apply State.releaseSbs_mv | apply State.Moves.ite | apply foldl_mv | exact mem_of (by decide))

/-! ## Ras -/

theorem State.memState_mv (d : Nat) (v : Nat) (hm : CSub 0x8000000 μ) (hn : TSub 0x1000000000202000000 ν) :
    State.Moves μ ν s₀ (State.memState s d v) := by
  unfold State.memState
  try dsimp only
  with_reducible repeat' (first
    | assumption | intro _ | exact hn.sub (by decide) | exact hn.bit (by decide) | apply State.rput_mv
    | apply State.setEvt_mv | apply State.Moves.ite | exact mem_of (by decide))

theorem State.degrade_mv (d : Nat) (bank : Nat) (hm : CSub 0x8000000 μ) (hn : TSub 0x1000000000202000000 ν) :
    State.Moves μ ν s₀ (State.degrade s d bank) := by
  unfold State.degrade
  try dsimp only
  with_reducible repeat' (first
    | assumption | intro _ | exact hm.sub (by decide) | exact hn.sub (by decide)
    | exact hn.bit (by decide) | exact hm.bit (by decide) | apply State.memState_mv | apply State.Moves.ite
    | split | rfl | exact mem_of (by decide))

theorem State.repairRow_mv (d : Nat) (a : Nat) (row : Nat) (hm : CSub 0xc083000 μ) (hn : TSub 0x1000012000222000000 ν)
    :
    State.Moves μ ν s₀ (State.repairRow s d a row) := by
  unfold State.repairRow
  try dsimp only
  with_reducible repeat' (first
    | assumption | intro _ | exact hm.sub (by decide) | exact hn.sub (by decide)
    | exact hn.bit (by decide) | apply State.rinc_mv | apply State.logError_mv | apply State.writeItem_mv
    | apply State.degrade_mv | apply State.Moves.ite | refine State.mk_mv ?_ | exact mem_of (by decide))

theorem State.correctLine_mv (d : Nat) (a : Nat) (hm : CSub 0xc083000 μ) (hn : TSub 0x1000012000222000000 ν) :
    State.Moves μ ν s₀ (State.correctLine s d a) := by
  unfold State.correctLine
  try dsimp only
  with_reducible repeat' (first
    | assumption | intro _ | exact hn.bit (by decide) | apply State.rinc_mv | apply State.repairRow_mv
    | apply State.Moves.ite | refine State.mk_mv ?_ | exact mem_of (by decide))

theorem State.poisonLine_mv (d : Nat) (a : Nat) (hm : CSub 0xc001002 μ) (hn : TSub 0x1000012000222000000 ν) :
    State.Moves μ ν s₀ (State.poisonLine s d a) := by
  unfold State.poisonLine
  try dsimp only
  with_reducible repeat' (first
    | assumption | exact hm.sub (by decide) | exact hn.sub (by decide) | exact hn.bit (by decide)
    | exact hm.bit (by decide) | apply State.rput_mv | apply State.rinc_mv | apply State.logError_mv
    | refine State.mark_mv ?_ _ _ ?_ | exact mem_of (by decide))

theorem State.endPass_mv (d : Nat) (hm : CSub 0x2000 μ) (hn : TSub 0x2000000 ν) :
    State.Moves μ ν s₀ (State.endPass s d) := by
  unfold State.endPass
  try dsimp only
  with_reducible repeat' (first
    | assumption | exact hn.bit (by decide) | apply State.rwrap_mv | refine State.mk_mv ?_
    | exact mem_of (by decide))

omit h₀ in
theorem State.mistaken_mv {μ ν : Nat} {s₀ s : State} (h₀ : State.Moves μ ν s₀ s) (a : Nat) (hm : CSub 0x10000003 μ)  :
    State.Moves μ ν s₀ (s.mistaken a) := by
  unfold State.mistaken
  dsimp only
  refine State.mark_mv (State.draw_mv (foldl_mv h₀ fun t i _ h => ?_) (hm.sub rfl)) _ _ (hm.bit rfl)
  exact State.memory_mv (State.draw_mv h (hm.sub rfl)) (fun x => Memory.write_wf x _ _) id (hm.bit rfl) (hm.bit rfl)

theorem State.readLine_mv (d : Nat) (a : Nat) (bytes : Nat) (hm : CSub 0x1c083003 μ)
    (hn : TSub 0x1000012000222000000 ν) :
    State.Moves μ ν s₀ (State.readLine s d a bytes) := by
  unfold State.readLine
  try dsimp only
  with_reducible repeat' (first
    | assumption | intro _ | exact hm.sub (by decide) | exact hn.sub (by decide)
    | exact hn.bit (by decide) | exact hm.bit (by decide)
    | (refine mv_snd (by assumption) ?_; apply State.draw_mv) | apply State.draw_mv | apply State.correctLine_mv
    | apply State.poisonLine_mv | apply State.mistaken_mv | apply State.Moves.ite | split | rfl
    | exact mem_of (by decide))

theorem execMemPatrolRead_mv (addr : Nat) (r : LineVisit) (hm : CSub 0x1c083003 μ) (hn : TSub 0x1000012000222000000 ν)
    :
    State.MovesO μ ν s₀ (execMemPatrolRead addr r s) := by
  unfold execMemPatrolRead
  try dsimp only
  with_reducible repeat' (first
    | assumption | intro _ | exact hm.sub (by decide) | exact hn.sub (by decide)
    | exact hn.bit (by decide) | exact hm.bit (by decide) | apply State.rinc_mv | apply State.endPass_mv
    | apply State.readLine_mv | apply State.Moves.ite | apply State.MovesO.next | apply State.MovesO.ite | split
    | refine State.mk_mv ?_ | rfl | exact mem_of (by decide))

theorem execMemDeviceFailed_mv (u : MemUnit) (hm : CSub 0xc003000 μ) (hn : TSub 0x1000012000222000000 ν) :
    State.MovesO μ ν s₀ (execMemDeviceFailed u s) := by
  unfold execMemDeviceFailed
  try dsimp only
  with_reducible repeat' (first
    | assumption | intro _ | exact hm.sub (by decide) | exact hn.sub (by decide) | apply State.logError_mv
    | apply State.memState_mv | apply State.Moves.ite | apply State.MovesO.next | split | refine State.mk_mv ?_)

theorem State.beginTest_mv (t : Nat) (hm : CSub 0x2000000 μ) (hn : TSub 0x40000000 ν) :
    State.Moves μ ν s₀ (State.beginTest s t) := by
  unfold State.beginTest
  try dsimp only
  with_reducible repeat' (first
    | assumption | exact hn.bit (by decide) | apply State.rput_mv | refine State.mk_mv ?_
    | exact mem_of (by decide))

theorem execColumnTest_mv (tile : Nat) (hm : CSub 0x2000000 μ) (hn : TSub 0x40000000 ν) :
    State.MovesO μ ν s₀ (execColumnTest tile s) := by
  unfold execColumnTest
  try dsimp only
  with_reducible repeat' (first
    | assumption | intro _ | apply State.beginTest_mv | apply State.Moves.ite | apply State.MovesO.next)

theorem State.clearStrikes_mv (t : Nat) (hm : CSub 0xa000000 μ) (hn : TSub 0x1000000000200000300 ν) :
    State.Moves μ ν s₀ (State.clearStrikes s t) := by
  unfold State.clearStrikes
  try dsimp only
  with_reducible repeat' (first
    | assumption | intro _ | exact hm.sub (by decide) | exact hn.sub (by decide)
    | exact hn.bit (by decide) | apply State.rput_mv | apply State.censusMoved_mv | apply State.Moves.ite
    | refine State.mk_mv ?_ | exact mem_of (by decide))

theorem State.bypass_mv (t : Nat) (mask : Nat) (hm : CSub 0xe081000 μ) (hn : TSub 0x1000012000220000300 ν) :
    State.Moves μ ν s₀ (State.bypass s t mask) := by
  unfold State.bypass
  try dsimp only
  with_reducible repeat' (first
    | assumption | intro _ | exact hm.sub (by decide) | exact hn.sub (by decide)
    | exact hn.bit (by decide) | apply State.rput_mv | apply State.censusMoved_mv | apply State.applyBypass_mv
    | apply State.Moves.ite | refine State.mk_mv ?_ | exact mem_of (by decide))

theorem execColumnTestDone_mv (tile : Nat) (failed : Word) (hm : CSub 0xe081000 μ) (hn : TSub 0x1000012000260000300 ν)
    :
    State.MovesO μ ν s₀ (execColumnTestDone tile failed s) := by
  unfold execColumnTestDone
  try dsimp only
  with_reducible repeat' (first
    | assumption | intro _ | exact hm.sub (by decide) | exact hn.sub (by decide)
    | exact hn.bit (by decide) | apply State.rput_mv | apply State.clearStrikes_mv | apply State.bypass_mv
    | apply State.Moves.ite | apply State.MovesO.next | refine State.mk_mv ?_ | exact mem_of (by decide))

/-! ## Observe -/

theorem State.startSample_mv (i : Nat) (hm : CSub 0x800 μ) (hn : TSub 0x8000000000000 ν) :
    State.Moves μ ν s₀ (State.startSample s i) := by
  unfold State.startSample
  try dsimp only
  with_reducible repeat' (first
    | assumption | exact hn.bit (by decide) | apply State.rput_mv | refine State.mk_mv ?_
    | exact mem_of (by decide))

theorem State.writeSample_mv (i : Nat) (m : Sampler) (hm : CSub 0x4803 μ) (hn : TSub 0xe000000000000 ν) :
    State.Moves μ ν s₀ (State.writeSample s i m) := by
  unfold State.writeSample
  try dsimp only
  with_reducible repeat' (first
    | assumption | exact hn.sub (by decide) | exact hn.bit (by decide) | apply State.rwrap_mv
    | apply State.store_mv | refine State.mk_mv ?_ | exact mem_of (by decide))

theorem State.mergeSample_mv (i : Nat) (m : Sampler) (hm : CSub 0x800 μ) (hn : TSub 0x8000000000000 ν) :
    State.Moves μ ν s₀ (State.mergeSample s i m) := by
  unfold State.mergeSample
  try dsimp only
  with_reducible repeat' (first
    | assumption | exact hn.bit (by decide) | apply State.rinc_mv | refine State.mk_mv ?_
    | exact mem_of (by decide))

theorem State.endPeriod_mv (i : Nat) (m : Sampler) (hm : CSub 0x4803 μ) (hn : TSub 0xe000000000000 ν) :
    State.Moves μ ν s₀ (State.endPeriod s i m) := by
  unfold State.endPeriod
  try dsimp only
  with_reducible repeat' (first
    | assumption | intro _ | exact hm.sub (by decide) | exact hn.sub (by decide)
    | exact hn.bit (by decide) | apply State.rput_mv | apply State.writeSample_mv | apply State.mergeSample_mv
    | apply State.Moves.ite | exact mem_of (by decide))

theorem State.nextPeriod_mv (i : Nat) (hm : CSub 0x800 μ) :
    State.Moves μ ν s₀ (State.nextPeriod s i) := by
  unfold State.nextPeriod
  try dsimp only
  with_reducible repeat' (first
    | assumption | intro _ | exact hm.sub (by decide) | exact hm.bit (by decide) | apply State.Moves.ite
    | apply State.MovesO.next | apply State.MovesO.ite | split | refine State.mk_mv ?_ | rfl | exact mem_of (by decide))

theorem execSamplePeriodEnd_mv (i : Nat) (hm : CSub 0x4803 μ) (hn : TSub 0xe000000000000 ν) :
    State.MovesO μ ν s₀ (execSamplePeriodEnd i s) := by
  unfold execSamplePeriodEnd
  try dsimp only
  with_reducible repeat' (first
    | assumption | intro _ | exact hm.sub (by decide) | apply State.endPeriod_mv | apply State.nextPeriod_mv
    | apply State.Moves.ite | apply State.MovesO.next | split)

theorem State.startTrace_mv (d : Nat) (hm : CSub 0x1000 μ) (hn : TSub 0x10000000000000 ν) :
    State.Moves μ ν s₀ (State.startTrace s d) := by
  unfold State.startTrace
  try dsimp only
  with_reducible repeat' (first
    | assumption | exact hn.bit (by decide) | apply State.rput_mv | apply State.setTraceBuf_mv
    | exact mem_of (by decide))

theorem State.stopTrace_mv (d : Nat) (hm : CSub 0xc001000 μ) (hn : TSub 0x1000012000220000000 ν) :
    State.Moves μ ν s₀ (State.stopTrace s d) := by
  unfold State.stopTrace
  try dsimp only
  with_reducible repeat' (first
    | assumption | intro _ | apply State.traceFire_mv | apply State.Moves.ite)

theorem State.hostTrigger_mv (mask : Nat) (hm : CSub 0xc001000 μ) (hn : TSub 0x1000012000220000000 ν) :
    State.Moves μ ν s₀ (State.hostTrigger s mask) := by
  unfold State.hostTrigger
  try dsimp only
  with_reducible repeat' (first
    | assumption | intro _ | apply State.traceTrigger_mv | apply State.Moves.ite | apply foldl_mv)

theorem State.hostMark_mv (v : Nat) (hm : CSub 0x1000 μ) (hn : TSub 0x12000000000000 ν) :
    State.Moves μ ν s₀ (State.hostMark s v) := by
  unfold State.hostMark
  try dsimp only
  with_reducible repeat' (first
    | assumption | intro _ | apply State.traceWrite_mv | apply State.Moves.ite)

theorem State.armTrace_mv (d : Nat) (hm : CSub 0x1000 μ) (hn : TSub 0x10000000000000 ν) :
    State.Moves μ ν s₀ (State.armTrace s d) := by
  unfold State.armTrace
  try dsimp only
  with_reducible repeat' (first
    | assumption | intro _ | exact hn.bit (by decide) | apply State.rput_mv | apply State.setTraceBuf_mv
    | apply State.Moves.ite | exact mem_of (by decide))

theorem execLinkedTrigger_mv (session : Nat) (source : Nat) (hm : CSub 0xc001000 μ)
    (hn : TSub 0x1000012000220000000 ν) :
    State.MovesO μ ν s₀ (execLinkedTrigger session source s) := by
  unfold execLinkedTrigger
  try dsimp only
  with_reducible repeat' (first
    | assumption | intro _ | apply State.traceTrigger_mv | apply State.Moves.ite | apply State.MovesO.next
    | refine State.mk_mv ?_)

theorem State.exportRec_mv (d : Nat) (r : TraceRec) (hm : CSub 0x4803 μ) (hn : TSub 0x16000000000000 ν) :
    State.Moves μ ν s₀ (State.exportRec s d r) := by
  unfold State.exportRec
  try dsimp only
  with_reducible repeat' (first
    | assumption | exact hn.sub (by decide) | exact hn.bit (by decide) | apply State.rwrap_mv
    | apply State.store_mv | exact mem_of (by decide))

theorem State.exportGap_mv (d : Nat) (b : TraceBuf) (hm : CSub 0x5803 μ) (hn : TSub 0x16000000000000 ν) :
    State.Moves μ ν s₀ (State.exportGap s d b) := by
  unfold State.exportGap
  try dsimp only
  with_reducible repeat' (first
    | assumption | exact hm.sub (by decide) | exact hn.bit (by decide) | apply State.rinc_mv
    | apply State.setTraceBuf_mv | apply State.exportRec_mv | exact mem_of (by decide))

theorem State.exportNext_mv (d : Nat) (b : TraceBuf) (hm : CSub 0x5803 μ) (hn : TSub 0x16000000000000 ν) :
    State.Moves μ ν s₀ (State.exportNext s d b) := by
  unfold State.exportNext
  try dsimp only
  with_reducible repeat' (first
    | assumption | exact hm.sub (by decide) | apply State.setTraceBuf_mv | apply State.exportRec_mv | split)

theorem State.exportStall_mv (d : Nat) (b : TraceBuf) (hm : CSub 0xc001000 μ) (hn : TSub 0x1000012000220000000 ν) :
    State.Moves μ ν s₀ (State.exportStall s d b) := by
  unfold State.exportStall
  try dsimp only
  with_reducible repeat' (first
    | assumption | intro _ | exact hm.sub (by decide) | exact hn.bit (by decide) | apply State.rput_mv
    | apply State.setTraceBuf_mv | apply State.logError_mv | apply State.Moves.ite | exact mem_of (by decide))

theorem State.exportFrozen_mv (d : Nat) (b : TraceBuf) (hm : CSub 0x8005803 μ) (hn : TSub 0x1000016000200000000 ν) :
    State.Moves μ ν s₀ (State.exportFrozen s d b) := by
  unfold State.exportFrozen
  try dsimp only
  with_reducible repeat' (first
    | assumption | intro _ | exact hm.sub (by decide) | exact hn.sub (by decide)
    | exact hn.bit (by decide) | apply State.rput_mv | apply State.setEvt_mv | apply State.exportNext_mv
    | apply State.Moves.ite | exact mem_of (by decide))

theorem execTraceExport_mv (d : Nat) (hm : CSub 0xc005803 μ) (hn : TSub 0x1000016000220000000 ν) :
    State.MovesO μ ν s₀ (execTraceExport d s) := by
  unfold execTraceExport
  try dsimp only
  with_reducible repeat' (first
    | assumption | intro _ | exact hm.sub (by decide) | exact hn.sub (by decide) | apply State.exportGap_mv
    | apply State.exportNext_mv | apply State.exportStall_mv | apply State.exportFrozen_mv | apply State.Moves.ite
    | apply State.MovesO.next)

end Sys2Proof.Machine
end

