-- ==== Sys2Proof/Laws/Moves5.lean ====
section
/-!
SUPPORT. What the operations of Casts, Vector, Rows, Tables, EngineEvents and Launch may change: each one stays in
the relation `State.Moves` with the pieces and tables of its masks.
-/
set_option Elab.async false

namespace Sys2Proof.Machine

variable {μ ν : Nat} {s₀ s : State} (h₀ : State.Moves μ ν s₀ s)
include h₀

/-! ## Casts -/

theorem State.addCast_mv (k : CastJob) (hm : CSub 0x20000 μ) :
    State.Moves μ ν s₀ (State.addCast s k) := by
  unfold State.addCast
  try dsimp only
  with_reducible repeat' (first
    | assumption | refine State.mk_mv ?_)

theorem execUcast_mv (t : ThreadRef) (e : FormE) (hm : CSub 0xc01dacc μ) (hn : TSub 0x100001e800330c11008 ν) :
    State.MovesO μ ν s₀ (execUcast t e s) := by
  unfold execUcast
  try dsimp only
  with_reducible repeat' (first
    | assumption | apply engine_mv)

theorem startUcast_mv (c : EngCmd) (hm : CSub 0x20040 μ) :
    State.Moves μ ν s₀ (startUcast c s) := by
  unfold startUcast
  try dsimp only
  with_reducible repeat' (first
    | assumption | exact hm.sub (by decide) | apply State.endEarly_mv | apply State.addCast_mv | split)

theorem State.castReads_mv (k : CastJob) (step : Nat) (hm : CSub 0x4800 μ) (hn : TSub 0x6000000000000 ν) :
    State.Moves μ ν s₀ (State.castReads s k step) := by
  unfold State.castReads
  try dsimp only
  with_reducible repeat' (first
    | assumption | intro _ | apply State.touch_mv | apply foldl_mv)

theorem State.storeBacked_mv (a : Nat) (bs : List Byte) (hm : CSub 0x4803 μ) (hn : TSub 0x6000000000000 ν) :
    State.Moves μ ν s₀ (State.storeBacked s a bs) := by
  unfold State.storeBacked
  try dsimp only
  with_reducible repeat' (first
    | assumption | intro _ | apply State.store_mv | apply State.Moves.ite | apply foldl_mv)

theorem State.castRead_mv (k : CastJob) (hm : CSub 0x20000 μ) :
    State.Moves μ ν s₀ (State.castRead s k) := by
  unfold State.castRead
  try dsimp only
  with_reducible repeat' (first
    | assumption | refine State.mk_mv ?_)

theorem State.streamCast_mv (k : CastJob) (i : Nat) (rs : List Record) (manifest : List Byte) (hm : CSub 0xc061000 μ)
    (hn : TSub 0x1000012000220000000 ν) :
    State.Moves μ ν s₀ (State.streamCast s k i rs manifest) := by
  unfold State.streamCast
  try dsimp only
  with_reducible repeat' (first
    | assumption | intro _ | exact hm.sub (by decide) | exact hn.sub (by decide)
    | exact hn.bit (by decide) | exact hm.bit (by decide) | apply State.sendFitting_mv
    | apply State.Moves.ite | apply foldl_mv | apply foldl_mv2 | apply foldl_mv1 | split | refine State.mk_mv ?_ | rfl
    | exact fld_of_tab (by with_reducible assumption) | exact fld_of_list (by with_reducible assumption) (by decide)
    | exact fld_of_list (List.of_mem_zip (by with_reducible assumption)).1 (by decide)
    | exact hn.bit (bit_of_list (by with_reducible assumption) (by decide))
    | exact hn.bit (bit_of_list (List.of_mem_zip (by with_reducible assumption)).1 (by decide))
    | exact bit_of_tab (by with_reducible assumption) (by with_reducible assumption) | exact mem_of (by decide))

theorem State.castOut_mv (k : CastJob) (step : Nat) (rs : List Record) (m : List Byte) (hm : CSub 0xc1e5a43 μ)
    (hn : TSub 0x1000016024220000000 ν) :
    State.Moves μ ν s₀ (State.castOut s k step rs m) := by
  unfold State.castOut
  try dsimp only
  with_reducible repeat' (first
    | assumption | intro _ | exact hm.sub (by decide) | exact hn.sub (by decide) | apply State.finishCast_mv
    | apply State.openMould_mv | apply State.castReads_mv | apply State.storeBacked_mv | apply State.castRead_mv
    | apply State.streamCast_mv | apply State.Moves.ite | split)

theorem execCastComplete_mv (c : Nat) (hm : CSub 0xc1e5a43 μ) (hn : TSub 0x1000016024220000000 ν) :
    State.MovesO μ ν s₀ (execCastComplete c s) := by
  unfold execCastComplete
  try dsimp only
  with_reducible repeat' (first
    | assumption | intro _ | exact hm.sub (by decide) | apply State.finishCast_mv | apply State.castOut_mv
    | apply State.Moves.ite | apply State.MovesO.next | split)

/-! ## Vector -/

theorem State.touchBitmap_mv (o : Operand) (hm : CSub 0x4800 μ) (hn : TSub 0x6000000000000 ν) :
    State.Moves μ ν s₀ (State.touchBitmap s o) := by
  unfold State.touchBitmap
  try dsimp only
  with_reducible repeat' (first
    | assumption | intro _ | apply State.touch_mv | apply foldl_mv)

theorem State.storeBitmap_mv (o : Operand) (b : Nat → Nat → Bool) (poison : Bool) (hm : CSub 0x4803 μ)
    (hn : TSub 0x6000000000000 ν) :
    State.Moves μ ν s₀ (State.storeBitmap s o b poison) := by
  unfold State.storeBitmap
  try dsimp only
  with_reducible repeat' (first
    | assumption | intro _ | apply State.store_mv | apply foldl_mv)

omit h₀ in
theorem writeOutputs_mv {μ ν : Nat} {s₀ s : State} (h₀ : State.Moves μ ν s₀ s) (p : Producer) (l : List (Operand × List (List Val))) (hm : CSub 0x4903 μ) (hn : TSub 0x7000000000000 ν) :
    State.Moves μ ν s₀ (writeOutputs p l s).2.2 := by
  induction l generalizing s with
  | nil => exact h₀
  | cons e rest ih =>
    have h1 := fun o m => writeTensor_mv h₀ p o m (hm.sub rfl) (hn.sub rfl)
    unfold writeOutputs
    dsimp only
    split
    · exact h1 _ _
    · exact ih (h1 _ _)

theorem runVact_mv (c : EngCmd) (hm : CSub 0xc005903 μ) (hn : TSub 0x1000017000220000000 ν) :
    State.Moves μ ν s₀ (runVact c s).state := by
  unfold runVact
  try dsimp only
  with_reducible repeat' (first
    | assumption | intro _ | exact hm.sub (by decide) | exact hn.sub (by decide) | apply readAll_mv
    | apply State.storeBitmap_mv | apply writeOutputs_mv | apply State.Moves.ite)

theorem execVact_mv (t : ThreadRef) (e : FormE) (hm : CSub 0xc01dacc μ) (hn : TSub 0x100001e800330c11008 ν) :
    State.MovesO μ ν s₀ (execVact t e s) := by
  unfold execVact
  try dsimp only
  with_reducible repeat' (first
    | assumption | apply engine_mv)

theorem runVactb_mv (c : EngCmd) (hm : CSub 0xc005903 μ) (hn : TSub 0x1000017000220000000 ν) :
    State.Moves μ ν s₀ (runVactb c s).state := by
  unfold runVactb
  try dsimp only
  with_reducible repeat' (first
    | assumption | intro _ | exact hm.sub (by decide) | exact hn.sub (by decide) | apply readAll_mv
    | apply State.touchBitmap_mv | apply writeOutputs_mv | apply State.Moves.ite)

theorem execVactb_mv (t : ThreadRef) (e : FormE) (hm : CSub 0xc01dacc μ) (hn : TSub 0x100001e800330c11008 ν) :
    State.MovesO μ ν s₀ (execVactb t e s) := by
  unfold execVactb
  try dsimp only
  with_reducible repeat' (first
    | assumption | apply engine_mv)

theorem runVew_mv (c : EngCmd) (hm : CSub 0xc005903 μ) (hn : TSub 0x1000017000220000000 ν) :
    State.Moves μ ν s₀ (runVew c s).state := by
  unfold runVew
  try dsimp only
  with_reducible repeat' (first
    | assumption | exact hm.sub (by decide) | exact hn.sub (by decide) | apply writeTensor_mv
    | apply readAll_mv)

theorem execVew_mv (t : ThreadRef) (e : FormE) (hm : CSub 0xc01dacc μ) (hn : TSub 0x100001e800330c11008 ν) :
    State.MovesO μ ν s₀ (execVew t e s) := by
  unfold execVew
  try dsimp only
  with_reducible repeat' (first
    | assumption | apply engine_mv)

/-! ## Rows -/

theorem State.putRowRec_mv (c : EngCmd) (i : Nat) (r : RowRec) (hm : CSub 0x4803 μ) (hn : TSub 0x6000000000000 ν) :
    State.Moves μ ν s₀ (State.putRowRec s c i r) := by
  unfold State.putRowRec
  try dsimp only
  with_reducible repeat' (first
    | assumption | apply State.storeNat_mv)

theorem State.rowMismatch_mv (c : EngCmd) (i : Nat) (hm : CSub 0xc001000 μ) (hn : TSub 0x1000012000220000000 ν) :
    State.Moves μ ν s₀ (State.rowMismatch s c i) := by
  unfold State.rowMismatch
  try dsimp only
  with_reducible repeat' (first
    | assumption | apply State.logError_mv)

theorem State.rowMismatches_mv (c : EngCmd) (base : Nat) (bad : List Bool) (hm : CSub 0xc001000 μ)
    (hn : TSub 0x1000012000220000000 ν) :
    State.Moves μ ν s₀ (State.rowMismatches s c base bad) := by
  unfold State.rowMismatches
  try dsimp only
  with_reducible repeat' (first
    | assumption | intro _ | apply State.rowMismatch_mv | apply State.Moves.ite | apply foldl_mv)

theorem State.countRows_mv (c : EngCmd) (ops : List Operand) (hm : CSub 0x800 μ) (hn : TSub 0x1000000000000 ν) :
    State.Moves μ ν s₀ (State.countRows s c ops) := by
  unfold State.countRows
  try dsimp only
  with_reducible repeat' (first
    | assumption | exact hn.bit (by decide) | apply State.rwrap_mv | apply State.countEvent_mv
    | exact mem_of (by decide))

theorem rowInputs_mv (c : EngCmd) (ops : List Operand) (hm : CSub 0xc005800 μ) (hn : TSub 0x1000017000220000000 ν) :
    State.Moves μ ν s₀ (rowInputs c ops s).2 := by
  unfold rowInputs
  try dsimp only
  with_reducible repeat' (first
    | assumption | exact hm.sub (by decide) | exact hn.sub (by decide) | apply readAll_mv
    | apply State.countRows_mv)

theorem writeRows_mv (p : Producer) (o : Operand) (rows : List (Option (List Val))) (hm : CSub 0x4903 μ)
    (hn : TSub 0x7000000000000 ν) :
    State.Moves μ ν s₀ (writeRows s p o rows).2 := by
  unfold writeRows
  try dsimp only
  with_reducible repeat' (first
    | assumption | exact hm.sub (by decide) | exact hn.sub (by decide) | apply State.observeOut_mv
    | apply storeTensor_mv | apply addCensus_mv)

theorem runRnormF_mv (c : EngCmd) (hm : CSub 0xc005903 μ) (hn : TSub 0x1000017000220000000 ν) :
    State.Moves μ ν s₀ (runRnormF c s).state := by
  unfold runRnormF
  try dsimp only
  with_reducible repeat' (first
    | assumption | intro _ | exact hm.sub (by decide) | exact hn.sub (by decide) | apply writeTensor_mv
    | apply State.putRowRec_mv | apply rowInputs_mv | apply foldl_mv)

theorem execRnormF_mv (t : ThreadRef) (e : FormE) (hm : CSub 0xc01dacc μ) (hn : TSub 0x100001e800330c11008 ν) :
    State.MovesO μ ν s₀ (execRnormF t e s) := by
  unfold execRnormF
  try dsimp only
  with_reducible repeat' (first
    | assumption | apply engine_mv)

theorem runRnormB_mv (c : EngCmd) (hm : CSub 0x1c005903 μ) (hn : TSub 0x1000017000220000000 ν) :
    State.Moves μ ν s₀ (runRnormB c s).state := by
  unfold runRnormB
  try dsimp only
  with_reducible repeat' (first
    | assumption | exact hm.sub (by decide) | exact hn.sub (by decide) | apply State.draw_mv
    | apply State.rowMismatches_mv | apply rowInputs_mv | apply writeOutputs_mv | split)

theorem execRnormB_mv (t : ThreadRef) (e : FormE) (hm : CSub 0xc01dacc μ) (hn : TSub 0x100001e800330c11008 ν) :
    State.MovesO μ ν s₀ (execRnormB t e s) := by
  unfold execRnormB
  try dsimp only
  with_reducible repeat' (first
    | assumption | apply engine_mv)

theorem runRsmaxF_mv (c : EngCmd) (hm : CSub 0xc005903 μ) (hn : TSub 0x1000017000220000000 ν) :
    State.Moves μ ν s₀ (runRsmaxF c s).state := by
  unfold runRsmaxF
  try dsimp only
  with_reducible repeat' (first
    | assumption | intro _ | exact hm.sub (by decide) | exact hn.sub (by decide) | apply writeTensor_mv
    | apply State.touchBitmap_mv | apply State.putRowRec_mv | apply rowInputs_mv | apply State.Moves.ite
    | apply foldl_mv)

theorem execRsmaxF_mv (t : ThreadRef) (e : FormE) (hm : CSub 0xc01dacc μ) (hn : TSub 0x100001e800330c11008 ν) :
    State.MovesO μ ν s₀ (execRsmaxF t e s) := by
  unfold execRsmaxF
  try dsimp only
  with_reducible repeat' (first
    | assumption | apply engine_mv)

theorem runRsmaxB_mv (c : EngCmd) (hm : CSub 0x1c005903 μ) (hn : TSub 0x1000017000220000000 ν) :
    State.Moves μ ν s₀ (runRsmaxB c s).state := by
  unfold runRsmaxB
  try dsimp only
  with_reducible repeat' (first
    | assumption | intro _ | exact hm.sub (by decide) | exact hn.sub (by decide) | apply State.draw_mv
    | apply writeTensor_mv | apply State.touchBitmap_mv | apply State.rowMismatches_mv | apply rowInputs_mv
    | apply State.Moves.ite | split)

theorem execRsmaxB_mv (t : ThreadRef) (e : FormE) (hm : CSub 0xc01dacc μ) (hn : TSub 0x100001e800330c11008 ν) :
    State.MovesO μ ν s₀ (execRsmaxB t e s) := by
  unfold execRsmaxB
  try dsimp only
  with_reducible repeat' (first
    | assumption | apply engine_mv)

theorem runRmerge_mv (c : EngCmd) (hm : CSub 0x1c005903 μ) (hn : TSub 0x1000017000220000000 ν) :
    State.Moves μ ν s₀ (runRmerge c s).state := by
  unfold runRmerge
  try dsimp only
  with_reducible repeat' (first
    | assumption | intro _ | exact hm.sub (by decide) | exact hn.sub (by decide) | apply State.draw_mv
    | apply State.putRowRec_mv | apply State.rowMismatches_mv | apply rowInputs_mv | apply writeRows_mv
    | apply foldl_mv | split)

theorem execRmerge_mv (t : ThreadRef) (e : FormE) (hm : CSub 0xc01dacc μ) (hn : TSub 0x100001e800330c11008 ν) :
    State.MovesO μ ν s₀ (execRmerge t e s) := by
  unfold execRmerge
  try dsimp only
  with_reducible repeat' (first
    | assumption | apply engine_mv)

theorem runRstat_mv (c : EngCmd) (hm : CSub 0xc005803 μ) (hn : TSub 0x1000017000220000000 ν) :
    State.Moves μ ν s₀ (runRstat c s).state := by
  unfold runRstat
  try dsimp only
  with_reducible repeat' (first
    | assumption | intro _ | exact hm.sub (by decide) | exact hn.sub (by decide) | apply Done.plain_mv
    | apply State.putRowRec_mv | apply rowInputs_mv | apply foldl_mv)

theorem execRstat_mv (t : ThreadRef) (e : FormE) (hm : CSub 0xc01dacc μ) (hn : TSub 0x100001e800330c11008 ν) :
    State.MovesO μ ν s₀ (execRstat t e s) := by
  unfold execRstat
  try dsimp only
  with_reducible repeat' (first
    | assumption | apply engine_mv)

/-! ## Tables -/

theorem State.slotRefs_mv (unit : Nat × Nat) (slot : Nat) (hm : CSub 0x10000000 μ) :
    State.Moves μ ν s₀ (State.slotRefs s unit slot).2 := by
  unfold State.slotRefs
  try dsimp only
  with_reducible repeat' (first
    | assumption | intro _ | exact hm.sub (by decide) | exact hm.bit (by decide)
    | (refine mv_snd (by assumption) ?_; apply State.draw_mv) | apply State.draw_mv | apply State.Moves.ite | split
    | rfl | exact mem_of (by decide))

theorem State.loadSlot_mv (u : Nat × Nat) (slot : Nat) (t : Table) (hm : CSub 0x400 μ) :
    State.Moves μ ν s₀ (State.loadSlot s u slot t) := by
  unfold State.loadSlot
  try dsimp only
  with_reducible repeat' (first
    | assumption | refine State.mk_mv ?_)

theorem runTload_mv (c : EngCmd) (hm : CSub 0x1c01dec4 μ) (hn : TSub 0x100001e000330c11008 ν) :
    State.Moves μ ν s₀ (runTload c s).state := by
  unfold runTload
  try dsimp only
  with_reducible repeat' (first
    | assumption | intro _ | exact hm.sub (by decide) | exact hn.sub (by decide)
    | exact hn.bit (by decide) | exact hm.bit (by decide) | apply State.touch_mv
    | apply State.consumePoison_mv | apply Done.plain_mv | (refine mv_snd (by assumption) ?_; apply State.slotRefs_mv)
    | apply State.slotRefs_mv | apply State.loadSlot_mv | apply step_mv | apply State.Moves.ite | split
    | refine State.mk_mv ?_ | rfl | exact mem_of (by decide))

theorem execTload_mv (t : ThreadRef) (e : FormE) (hm : CSub 0xc01dacc μ) (hn : TSub 0x100001e800330c11008 ν) :
    State.MovesO μ ν s₀ (execTload t e s) := by
  unfold execTload
  try dsimp only
  with_reducible repeat' (first
    | assumption | apply engine_mv)

/-! ## EngineEvents -/

theorem execQueueAccept_mv (t : ThreadRef) (hm : CSub 0x44 μ) :
    State.MovesO μ ν s₀ (execQueueAccept t s) := by
  unfold execQueueAccept
  try dsimp only
  with_reducible repeat' (first
    | assumption | intro _ | exact hm.sub (by decide) | apply State.setThread_mv | apply State.accept_mv
    | apply State.Moves.ite | apply State.MovesO.next | split | refine State.mk_mv ?_)

theorem startOp_mv (c : EngCmd) (hm : CSub 0xc03d847 μ) (hn : TSub 0x1000016800220210000 ν) :
    State.Moves μ ν s₀ (startOp c s) := by
  unfold startOp
  try dsimp only
  with_reducible repeat' (first
    | assumption | intro _ | exact hm.sub (by decide) | exact hn.sub (by decide)
    | exact hn.bit (by decide) | exact hm.bit (by decide) | apply startGather_mv | apply startReduce_mv
    | apply startCshift_mv | apply startCsend_mv | apply startCrecv_mv | apply startUapply_mv | apply startUprefetch_mv
    | apply startUcast_mv | apply State.Moves.ite | split | refine State.mk_mv ?_ | rfl | exact mem_of (by decide))

theorem State.markStarted_mv (id : Nat) (hm : CSub 0x40 μ) :
    State.Moves μ ν s₀ (State.markStarted s id) := by
  unfold State.markStarted
  try dsimp only
  with_reducible repeat' (first
    | assumption | refine State.mk_mv ?_)

theorem execEngineCommandStart_mv (id : Nat) (hm : CSub 0x1c03dae7 μ) (hn : TSub 0x100001e800330e11008 ν) :
    State.MovesO μ ν s₀ (execEngineCommandStart id s) := by
  unfold execEngineCommandStart
  try dsimp only
  with_reducible repeat' (first
    | assumption | intro _ | exact hm.sub (by decide) | exact hn.sub (by decide)
    | exact hn.bit (by decide) | exact hm.bit (by decide) | apply State.traceTrigger_mv
    | apply State.engineUse_mv | apply engine_mv | apply State.traceCmd_mv | apply State.inputFault_mv
    | apply State.hintMoved_mv | apply State.lendWait_mv | apply startOp_mv | apply State.markStarted_mv
    | apply State.Moves.ite | apply State.MovesO.next | apply State.MovesO.ite | split | refine State.mk_mv ?_ | rfl
    | exact mem_of (by decide))

theorem State.mirrorRange_mv (a : Nat) (b : Nat) (n : Nat) (hm : CSub 0x4803 μ) (hn : TSub 0x6000000000000 ν) :
    State.Moves μ ν s₀ (State.mirrorRange s a b n) := by
  unfold State.mirrorRange
  try dsimp only
  with_reducible repeat' (first
    | assumption | intro _ | apply State.store_mv | apply foldl_mv)

theorem State.mirrorRanges_mv (c : EngCmd) (hm : CSub 0x4803 μ) (hn : TSub 0x6000000000000 ν) :
    State.Moves μ ν s₀ (State.mirrorRanges s c) := by
  unfold State.mirrorRanges
  try dsimp only
  with_reducible repeat' (first
    | assumption | intro _ | apply State.mirrorRange_mv | apply foldl_mv)

theorem runOp_mv (c : EngCmd) (found : ProductCheck) (hm : CSub 0x1e03dfc7 μ) (hn : TSub 0x100001f800338c11308 ν) :
    State.Moves μ ν s₀ (runOp c found s).state := by
  unfold runOp
  try dsimp only
  with_reducible repeat' (first
    | assumption | exact hm.sub (by decide) | exact hn.sub (by decide) | apply Done.plain_mv
    | apply runMma_mv | apply runTbuild_mv | apply runCmove_mv | apply runTmove_mv | apply runGather_mv
    | apply runReduce_mv | apply runTransfer_mv | apply runApply_mv | apply runVact_mv | apply runVactb_mv
    | apply runVew_mv | apply runRnormF_mv | apply runRnormB_mv | apply runRsmaxF_mv | apply runRsmaxB_mv
    | apply runRmerge_mv | apply runRstat_mv | apply runTload_mv | split)

theorem completeOp_mv (c : EngCmd) (found : ProductCheck) (hm : CSub 0x1e03dfc7 μ) (hn : TSub 0x100001f800338c11308 ν)
    :
    State.Moves μ ν s₀ (completeOp c found s).state := by
  unfold completeOp
  try dsimp only
  with_reducible repeat' (first
    | assumption | apply Done.plain_mv | apply runOp_mv | split | refine State.mk_mv ?_)

theorem mirrorDone_mv (c : EngCmd) (found : ProductCheck) (hm : CSub 0x1e03dfc7 μ) (hn : TSub 0x100001f800338c11308 ν)
    :
    State.MvOptD μ ν s₀ (mirrorDone c found s) := by
  unfold mirrorDone
  try dsimp only
  with_reducible repeat' (first
    | assumption | intro _ | exact hm.sub (by decide) | apply Done.plain_mv | apply keepOffChip_mv
    | apply runOp_mv | apply State.MvOptD.some | exact State.MvOptD.none | apply State.MvOptD.ite)

theorem State.pairEnd_mv (c : EngCmd) (d : Done) (hm : CSub 0xe019804 μ) (hn : TSub 0x1000012800230210300 ν) :
    State.Moves μ ν s₀ (State.pairEnd s c d) := by
  unfold State.pairEnd
  try dsimp only
  with_reducible repeat' (first
    | assumption | intro _ | exact hm.sub (by decide) | exact hn.sub (by decide) | apply State.pairFormed_mv
    | apply State.sendDigest_mv | split | refine State.mk_mv ?_)

theorem State.sampleBand_mv (c : EngCmd) (n : Nat) (b : Nat) (bytes : Nat) (hm : CSub 0x2000000 μ)
    (hn : TSub 0x10000000 ν) :
    State.Moves μ ν s₀ (State.sampleBand s c n b bytes) := by
  unfold State.sampleBand
  try dsimp only
  with_reducible repeat' (first
    | assumption | intro _ | exact hn.bit (by decide) | apply State.rinc_mv | apply State.Moves.ite | split
    | refine State.mk_mv ?_ | exact mem_of (by decide))

theorem State.sampleBands_mv (c : EngCmd) (hm : CSub 0x2000000 μ) (hn : TSub 0x10000000 ν) :
    State.Moves μ ν s₀ (State.sampleBands s c) := by
  unfold State.sampleBands
  try dsimp only
  with_reducible repeat' (first
    | assumption | intro _ | apply State.sampleBand_mv | apply foldl_mv | split)

theorem execAuditBandRun_mv (tile : Nat) (agree : Bool) (hm : CSub 0x1e001000 μ) (hn : TSub 0x1000012800230000300 ν) :
    State.MovesO μ ν s₀ (execAuditBandRun tile agree s) := by
  unfold execAuditBandRun
  try dsimp only
  with_reducible repeat' (first
    | assumption | intro _ | exact hm.sub (by decide) | exact hn.sub (by decide)
    | exact hn.bit (by decide) | apply State.rinc_mv | apply State.rwrap_mv | apply State.draw_mv
    | apply State.detect_mv | apply State.strikeTile_mv | apply State.Moves.ite | apply State.MovesO.next | split
    | refine State.mk_mv ?_ | exact mem_of (by decide))

theorem State.completeCmd_mv (c : EngCmd) (found : ProductCheck) (hm : CSub 0x1e03dfc7 μ)
    (hn : TSub 0x100001f800338e11308 ν) :
    State.Moves μ ν s₀ (State.completeCmd s c found) := by
  unfold State.completeCmd
  try dsimp only
  with_reducible repeat' (first
    | assumption | exact hm.sub (by decide) | exact hn.sub (by decide) | apply State.mirrorRanges_mv
    | apply completeOp_mv | apply State.pairEnd_mv | apply State.sampleBands_mv | apply State.finish_mv | split)

theorem execEngineCommandComplete_mv (id : Nat) (found : ProductCheck) (hm : CSub 0x1e03dfc7 μ)
    (hn : TSub 0x100001f800338e11308 ν) :
    State.MovesO μ ν s₀ (execEngineCommandComplete id found s) := by
  unfold execEngineCommandComplete
  try dsimp only
  with_reducible repeat' (first
    | assumption | intro _ | exact hm.sub (by decide) | exact hn.sub (by decide)
    | exact hn.bit (by decide) | exact hm.bit (by decide) | apply State.inputFault_mv
    | (refine State.MvOptD.of ?_ _ (by assumption); apply mirrorDone_mv) | apply mirrorDone_mv | apply State.pairEnd_mv
    | apply State.completeCmd_mv | apply State.finish_mv | apply State.Moves.ite | apply State.MovesO.next
    | apply State.MovesO.ite | apply State.MvOptD.some | exact State.MvOptD.none | apply State.MvOptD.ite | split
    | refine State.mk_mv ?_ | rfl | exact mem_of (by decide))

theorem execHandshakeTimeout_mv (region : Nat) (unit : Nat) (hm : CSub 0xe039ac4 μ)
    (hn : TSub 0x100001a040330c11008 ν) :
    State.MovesO μ ν s₀ (execHandshakeTimeout region unit s) := by
  unfold execHandshakeTimeout
  try dsimp only
  with_reducible repeat' (first
    | assumption | intro _ | exact hm.sub (by decide) | exact hn.sub (by decide) | apply State.logError_mv
    | apply State.resetPartition_mv | apply State.stopRegion_mv | apply State.Moves.ite | apply State.MovesO.next
    | split)

/-! ## Launch -/

theorem State.answerLaunch_mv (r : LaunchReq) (reason : Nat) (hm : CSub 0x204 μ) :
    State.Moves μ ν s₀ (State.answerLaunch s r reason) := by
  unfold State.answerLaunch
  try dsimp only
  with_reducible repeat' (first
    | assumption | intro _ | exact hm.sub (by decide) | apply State.finishCmd_mv | apply State.setThread_mv
    | apply State.Moves.ite | split)

theorem State.tellTwin_mv (r : LaunchReq) (reason : Nat) (hm : CSub 0x10 μ) :
    State.Moves μ ν s₀ (State.tellTwin s r reason) := by
  unfold State.tellTwin
  try dsimp only
  with_reducible repeat' (first
    | assumption | intro _ | apply State.Moves.ite | split | refine State.mk_mv ?_)

theorem State.decideLaunch_mv (r : LaunchReq) (hm : CSub 0x214 μ) :
    State.Moves μ ν s₀ (State.decideLaunch s r) := by
  unfold State.decideLaunch
  try dsimp only
  with_reducible repeat' (first
    | assumption | exact hm.sub (by decide) | apply State.answerLaunch_mv | apply State.tellTwin_mv | split
    | refine State.mk_mv ?_)

theorem State.answerTwin_mv (r : LaunchReq) (t : ThreadRef) (hm : CSub 0x214 μ) :
    State.Moves μ ν s₀ (State.answerTwin s r t) := by
  unfold State.answerTwin
  try dsimp only
  with_reducible repeat' (first
    | assumption | exact hm.sub (by decide) | apply State.answerLaunch_mv | split | refine State.mk_mv ?_)

theorem execLaunchAdmit_mv (hm : CSub 0xc0192d4 μ) (hn : TSub 0x100001a000330c11008 ν) :
    State.MovesO μ ν s₀ (execLaunchAdmit s) := by
  unfold execLaunchAdmit
  try dsimp only
  with_reducible repeat' (first
    | assumption | exact hm.sub (by decide) | apply State.insnFault_mv | apply State.decideLaunch_mv
    | apply State.answerTwin_mv | apply State.MovesO.next | split | refine State.mk_mv ?_)

theorem State.startThreads_mv (a : Arrival) (hm : CSub 0x4 μ) :
    State.Moves μ ν s₀ (State.startThreads s a) := by
  unfold State.startThreads
  try dsimp only
  with_reducible repeat' (first
    | assumption | intro _ | apply State.Moves.ite | split | refine State.mk_mv ?_)

theorem State.evict_mv (t : Nat) (hm : CSub 0x20 μ) :
    State.Moves μ ν s₀ (State.evict s t) := by
  unfold State.evict
  try dsimp only
  with_reducible repeat' (first
    | assumption | intro _ | apply State.Moves.ite | split | refine State.mk_mv ?_)

theorem execLaunchTileArrival_mv (tile : Nat) (hm : CSub 0x34 μ) :
    State.MovesO μ ν s₀ (execLaunchTileArrival tile s) := by
  unfold execLaunchTileArrival
  try dsimp only
  with_reducible repeat' (first
    | assumption | intro _ | exact hm.sub (by decide) | apply State.useCache_mv | apply State.startThreads_mv
    | apply State.Moves.ite | apply State.MovesO.next | split | refine State.mk_mv ?_)

theorem execContextCacheFill_mv (tile : Nat) (hm : CSub 0x34 μ) :
    State.MovesO μ ν s₀ (execContextCacheFill tile s) := by
  unfold execContextCacheFill
  try dsimp only
  with_reducible repeat' (first
    | assumption | intro _ | exact hm.sub (by decide) | exact hm.bit (by decide) | apply State.useCache_mv
    | apply State.startThreads_mv | apply State.evict_mv | apply State.Moves.ite | apply State.MovesO.next
    | apply State.MovesO.ite | split | refine State.mk_mv ?_ | rfl | exact mem_of (by decide))

end Sys2Proof.Machine
end

