-- ==== Sys2Proof/Laws/Moves6.lean ====
section
/-!
SUPPORT. What the operations of Fabric, Functions, Rings, Power, BarMap and Security may change: each one stays in
the relation `State.Moves` with the pieces and tables of its masks.
-/
set_option Elab.async false

namespace Sys2Proof.Machine

variable {μ ν : Nat} {s₀ s : State} (h₀ : State.Moves μ ν s₀ s)
include h₀

/-! ## Fabric -/

theorem State.portMoved_mv (p : Nat) (hm : CSub 0x8000000 μ) (hn : TSub 0x1000000000200200000 ν) :
    State.Moves μ ν s₀ (State.portMoved s p) := by
  unfold State.portMoved
  try dsimp only
  with_reducible repeat' (first
    | assumption | intro _ | exact hn.sub (by decide) | exact hn.bit (by decide) | apply State.rput_mv
    | apply State.setEvt_mv | apply State.Moves.ite | exact mem_of (by decide))

theorem State.rerouteOut_mv (id : Nat) (o : OutFrame) (hm : CSub 0xc009000 μ) (hn : TSub 0x1000012000220210000 ν) :
    State.Moves μ ν s₀ (State.rerouteOut s id o) := by
  unfold State.rerouteOut
  try dsimp only
  with_reducible repeat' (first
    | assumption | exact hm.sub (by decide) | exact hn.sub (by decide) | apply State.dropUnroutable_mv
    | apply State.enqueueFlits_mv | split | refine State.mk_mv ?_)

theorem State.forwardFlit_mv (f : Flit) (hm : CSub 0xc009000 μ) (hn : TSub 0x1000012000220210000 ν) :
    State.Moves μ ν s₀ (State.forwardFlit s f) := by
  unfold State.forwardFlit
  try dsimp only
  with_reducible repeat' (first
    | assumption | exact hm.sub (by decide) | exact hn.sub (by decide) | exact hn.bit (by decide)
    | apply State.dropUnroutable_mv | apply State.enqueueFlits_mv | split | refine State.mk_mv ?_)

theorem State.emptyPort_mv (p : Nat) (hm : CSub 0xc009000 μ) (hn : TSub 0x1000012000220210000 ν) :
    State.Moves μ ν s₀ (State.emptyPort s p) := by
  unfold State.emptyPort
  try dsimp only
  with_reducible repeat' (first
    | assumption | intro _ | exact hm.sub (by decide) | apply State.setPort_mv | apply State.rerouteOut_mv
    | apply State.forwardFlit_mv | apply foldl_mv)

theorem State.retrainPort_mv (p : Nat) (hm : CSub 0xc009000 μ) (hn : TSub 0x1000012000220210000 ν) :
    State.Moves μ ν s₀ (State.retrainPort s p) := by
  unfold State.retrainPort
  try dsimp only
  with_reducible repeat' (first
    | assumption | exact hm.sub (by decide) | exact hn.sub (by decide) | exact hn.bit (by decide)
    | apply State.rput_mv | apply State.rinc_mv | apply State.portMoved_mv | apply State.emptyPort_mv
    | exact mem_of (by decide))

theorem State.retrainFailed_mv (p : Nat) (hm : CSub 0xc009000 μ) (hn : TSub 0x1000012000220210000 ν) :
    State.Moves μ ν s₀ (State.retrainFailed s p) := by
  unfold State.retrainFailed
  try dsimp only
  with_reducible repeat' (first
    | assumption | exact hm.sub (by decide) | exact hn.sub (by decide) | apply State.logError_mv
    | apply State.retrainPort_mv)

theorem execPortTrainingDone_mv (port : Nat) (lanes : BitVec 4) (polarity : BitVec 4) (reversed : Bool)
    (hm : CSub 0xc009000 μ) (hn : TSub 0x1000012000220200000 ν) :
    State.MovesO μ ν s₀ (execPortTrainingDone port lanes polarity reversed s) := by
  unfold execPortTrainingDone
  try dsimp only
  with_reducible repeat' (first
    | assumption | intro _ | exact hm.sub (by decide) | exact hn.sub (by decide)
    | exact hn.bit (by decide) | apply State.rput_mv | apply State.logError_mv | apply State.setPort_mv
    | apply State.portMoved_mv | apply State.Moves.ite | apply State.MovesO.next | exact mem_of (by decide))

theorem State.disablePort_mv (p : Nat) (v : Bool) (hm : CSub 0xc009000 μ) (hn : TSub 0x1000012000220210000 ν) :
    State.Moves μ ν s₀ (State.disablePort s p v) := by
  unfold State.disablePort
  try dsimp only
  with_reducible repeat' (first
    | assumption | intro _ | exact hm.sub (by decide) | exact hn.sub (by decide)
    | exact hn.bit (by decide) | apply State.rput_mv | apply State.portMoved_mv | apply State.emptyPort_mv
    | apply State.Moves.ite | exact mem_of (by decide))

theorem State.sendFlit_mv (n : Nat) (hm : CSub 0x8800 μ) (hn : TSub 0x200000 ν) :
    State.Moves μ ν s₀ (State.sendFlit s n) := by
  unfold State.sendFlit
  try dsimp only
  with_reducible repeat' (first
    | assumption | intro _ | exact hm.sub (by decide) | exact hn.bit (by decide) | apply State.rinc_mv
    | apply State.countEvent_mv | apply State.setPort_mv | apply State.Moves.ite | split | exact mem_of (by decide))

theorem execFlitTransmit_mv (port : Nat) (hm : CSub 0x8800 μ) (hn : TSub 0x200000 ν) :
    State.MovesO μ ν s₀ (execFlitTransmit port s) := by
  unfold execFlitTransmit
  try dsimp only
  with_reducible repeat' (first
    | assumption | intro _ | apply State.sendFlit_mv | apply State.Moves.ite | apply State.MovesO.next)

theorem execC0Admit_mv (source : Nat) (hm : CSub 0xc019004 μ) (hn : TSub 0x1000012000220210000 ν) :
    State.MovesO μ ν s₀ (execC0Admit source s) := by
  unfold execC0Admit
  try dsimp only
  with_reducible repeat' (first
    | assumption | intro _ | exact hm.sub (by decide) | apply State.launchFrame_mv | apply State.setPolicer_mv
    | apply State.Moves.ite | apply State.MovesO.next | split)

theorem State.ackFlit_mv (q : PortFlit) (hm : CSub 0x18004 μ) :
    State.Moves μ ν s₀ (State.ackFlit s q) := by
  unfold State.ackFlit
  try dsimp only
  with_reducible repeat' (first
    | assumption | intro _ | exact hm.sub (by decide) | apply State.doneSending_mv | apply State.Moves.ite | split
    | refine State.mk_mv ?_)

theorem State.takeAck_mv (n : Nat) (ack : Nat) (hm : CSub 0x18004 μ) :
    State.Moves μ ν s₀ (State.takeAck s n ack) := by
  unfold State.takeAck
  try dsimp only
  with_reducible repeat' (first
    | assumption | intro _ | exact hm.sub (by decide) | apply State.setPort_mv | apply State.ackFlit_mv
    | apply State.Moves.ite | apply foldl_mv)

theorem State.resendBlocks_mv (n : Nat) (hm : CSub 0xc009000 μ) (hn : TSub 0x1000012000220210000 ν) :
    State.Moves μ ν s₀ (State.resendBlocks s n) := by
  unfold State.resendBlocks
  try dsimp only
  with_reducible repeat' (first
    | assumption | intro _ | exact hm.sub (by decide) | exact hn.bit (by decide) | apply State.rinc_mv
    | apply State.setPort_mv | apply State.retrainFailed_mv | apply State.Moves.ite | exact mem_of (by decide))

theorem execLinkAckTimeout_mv (port : Nat) (hm : CSub 0xc009000 μ) (hn : TSub 0x1000012000220210000 ν) :
    State.MovesO μ ν s₀ (execLinkAckTimeout port s) := by
  unfold execLinkAckTimeout
  try dsimp only
  with_reducible repeat' (first
    | assumption | intro _ | exact hm.sub (by decide) | exact hn.bit (by decide) | apply State.rinc_mv
    | apply State.setPort_mv | apply State.retrainFailed_mv | apply State.resendBlocks_mv | apply State.Moves.ite
    | apply State.MovesO.next | exact mem_of (by decide))

theorem State.deliverFrame_mv (f : Frame) (hm : CSub 0x8000 μ) (hn : TSub 0x10000 ν) :
    State.Moves μ ν s₀ (State.deliverFrame s f) := by
  unfold State.deliverFrame
  try dsimp only
  with_reducible repeat' (first
    | assumption | exact hn.bit (by decide) | apply State.rwrap_mv | refine State.mk_mv ?_
    | exact mem_of (by decide))

omit h₀ in
theorem State.drainFlow_mv {μ ν : Nat} {s₀ s : State} (h₀ : State.Moves μ ν s₀ s) (j : Nat) (k : FlowKey) (hm : CSub 0x8000 μ) (hn : TSub 0x10000 ν) :
    State.Moves μ ν s₀ (State.drainFlow j k s) := by
  induction j generalizing s with
  | zero => exact h₀
  | succ j ih =>
    unfold State.drainFlow
    dsimp only
    split
    · exact h₀
    · split
      · exact h₀
      · apply ih
        apply State.deliverFrame_mv <;> first | exact hm.sub rfl | exact hn.sub rfl | (with_reducible refine State.mk_mv ?_; exact h₀)

theorem State.orderFrame_mv (f : Frame) (hm : CSub 0x8000 μ) (hn : TSub 0x10000 ν) :
    State.Moves μ ν s₀ (State.orderFrame s f) := by
  unfold State.orderFrame
  try dsimp only
  with_reducible repeat' (first
    | assumption | intro _ | apply State.deliverFrame_mv | apply State.drainFlow_mv | apply State.Moves.ite | split
    | refine State.mk_mv ?_)

theorem State.rejectFrame_mv (f : Frame) (hm : CSub 0xc019804 μ) (hn : TSub 0x1000012800220210000 ν) :
    State.Moves μ ν s₀ (State.rejectFrame s f) := by
  unfold State.rejectFrame
  try dsimp only
  with_reducible repeat' (first
    | assumption | apply State.sendFrame_mv)

theorem State.arriveFrame_mv (f : Frame) (hm : CSub 0xc019804 μ) (hn : TSub 0x1000012800220210000 ν) :
    State.Moves μ ν s₀ (State.arriveFrame s f) := by
  unfold State.arriveFrame
  try dsimp only
  with_reducible repeat' (first
    | assumption | intro _ | exact hm.sub (by decide) | exact hn.sub (by decide)
    | exact hn.bit (by decide) | apply State.rinc_mv | apply State.deliverFrame_mv | apply State.orderFrame_mv
    | apply State.rejectFrame_mv | apply State.Moves.ite | exact mem_of (by decide))

theorem State.landFlit_mv (f : Flit) (hm : CSub 0xc019804 μ) (hn : TSub 0x1000012800220210000 ν) :
    State.Moves μ ν s₀ (State.landFlit s f) := by
  unfold State.landFlit
  try dsimp only
  with_reducible repeat' (first
    | assumption | intro _ | apply State.arriveFrame_mv | apply State.Moves.ite | split | refine State.mk_mv ?_)

theorem State.takeFlit_mv (n : Nat) (f : Flit) (hm : CSub 0xc019804 μ) (hn : TSub 0x1000012800220210000 ν) :
    State.Moves μ ν s₀ (State.takeFlit s n f) := by
  unfold State.takeFlit
  try dsimp only
  with_reducible repeat' (first
    | assumption | intro _ | exact hm.sub (by decide) | exact hn.sub (by decide)
    | exact hn.bit (by decide) | exact hm.bit (by decide) | apply State.rput_mv | apply State.rinc_mv
    | apply State.countEvent_mv | apply State.logError_mv | apply State.setPort_mv | apply State.forwardFlit_mv
    | apply State.landFlit_mv | apply State.Moves.ite | split | refine State.mk_mv ?_ | rfl | exact mem_of (by decide))

theorem State.takeLinkWord_mv (n : Nat) (b : LinkRead) (hm : CSub 0xc019004 μ) (hn : TSub 0x1000012000220210000 ν) :
    State.Moves μ ν s₀ (State.takeLinkWord s n b) := by
  unfold State.takeLinkWord
  try dsimp only
  with_reducible repeat' (first
    | assumption | intro _ | exact hm.sub (by decide) | apply State.setPort_mv | apply State.takeAck_mv
    | apply State.resendBlocks_mv | apply State.Moves.ite)

theorem State.takeBlock_mv (n : Nat) (k : LinkBlock) (hm : CSub 0xc019804 μ) (hn : TSub 0x1000012800220210000 ν) :
    State.Moves μ ν s₀ (State.takeBlock s n k) := by
  unfold State.takeBlock
  try dsimp only
  with_reducible repeat' (first
    | assumption | intro _ | exact hm.sub (by decide) | exact hn.sub (by decide)
    | exact hn.bit (by decide) | apply State.rinc_mv | apply State.setPort_mv | apply State.takeFlit_mv
    | apply State.takeLinkWord_mv | apply State.Moves.ite | apply foldl_mv | exact mem_of (by decide))

theorem execLinkBlockReceive_mv (port : Nat) (b : LinkBlock) (hm : CSub 0xc019804 μ)
    (hn : TSub 0x1000012800220210000 ν) :
    State.MovesO μ ν s₀ (execLinkBlockReceive port b s) := by
  unfold execLinkBlockReceive
  try dsimp only
  with_reducible repeat' (first
    | assumption | intro _ | apply State.takeBlock_mv | apply State.Moves.ite | apply State.MovesO.next)

theorem execFrameSeqTimeout_mv (src : Nat) (chan : Nat) (cls : Nat) (hm : CSub 0xc009000 μ)
    (hn : TSub 0x1000012000220010000 ν) :
    State.MovesO μ ν s₀ (execFrameSeqTimeout src chan cls s) := by
  unfold execFrameSeqTimeout
  try dsimp only
  with_reducible repeat' (first
    | assumption | intro _ | exact hm.sub (by decide) | exact hn.sub (by decide)
    | exact hn.bit (by decide) | apply State.rput_mv | apply State.rinc_mv | apply State.logError_mv
    | apply State.drainFlow_mv | apply State.Moves.ite | apply State.MovesO.next | split | refine State.mk_mv ?_
    | exact mem_of (by decide))

theorem State.sendHello_mv (ch : Nat) (m : Nat) (hm : CSub 0xc019804 μ) (hn : TSub 0x1000012800220210000 ν) :
    State.Moves μ ν s₀ (State.sendHello s ch m) := by
  unfold State.sendHello
  try dsimp only
  with_reducible repeat' (first
    | assumption | apply State.sendFrame_mv)

theorem State.newEpoch_mv (ch : Nat) (m : Nat) (e : Nat) (hm : CSub 0x8000 μ) :
    State.Moves μ ν s₀ (State.newEpoch s ch m e) := by
  unfold State.newEpoch
  try dsimp only
  with_reducible repeat' (first
    | assumption | refine State.mk_mv ?_)

theorem State.hearMember_mv (ch : Nat) (m : Nat) (e : Nat) (hm : CSub 0xc019a04 μ) (hn : TSub 0x100001a800730e11008 ν)
    :
    State.Moves μ ν s₀ (State.hearMember s ch m e) := by
  unfold State.hearMember
  try dsimp only
  with_reducible repeat' (first
    | assumption | intro _ | exact hm.sub (by decide) | exact hn.sub (by decide) | apply State.reachOn_mv
    | apply State.sendHello_mv | apply State.newEpoch_mv | apply State.Moves.ite | split | refine State.mk_mv ?_)

theorem execHello_mv (f : Frame) (hm : CSub 0xc019a04 μ) (hn : TSub 0x100001a800730e11008 ν) :
    State.MovesO μ ν s₀ (execHello f s) := by
  unfold execHello
  try dsimp only
  with_reducible repeat' (first
    | assumption | intro _ | exact hm.sub (by decide) | exact hn.sub (by decide)
    | (refine State.MvOpt.of ?_ _ (by assumption); apply State.popFrame_mv) | apply State.rejectFrame_mv
    | apply State.hearMember_mv | apply State.Moves.ite | apply State.MovesO.next | split)

theorem execReject_mv (f : Frame) (hm : CSub 0x8000 μ) (hn : TSub 0x10000 ν) :
    State.MovesO μ ν s₀ (execReject f s) := by
  unfold execReject
  try dsimp only
  with_reducible repeat' (first
    | assumption | exact hn.bit (by decide) | apply State.rput_mv | apply State.rinc_mv
    | (refine State.MvOpt.of ?_ _ (by assumption); apply State.popFrame_mv) | apply State.MovesO.next | split
    | exact mem_of (by decide))

theorem execChannelHelloTimeout_mv (chan : Nat) (hm : CSub 0xc001200 μ) (hn : TSub 0x100001a000730c11008 ν) :
    State.MovesO μ ν s₀ (execChannelHelloTimeout chan s) := by
  unfold execChannelHelloTimeout
  try dsimp only
  with_reducible repeat' (first
    | assumption | intro _ | exact hn.bit (by decide) | apply State.rput_mv | apply State.reachFault_mv
    | apply State.Moves.ite | apply State.MovesO.next | exact mem_of (by decide))

theorem execGrant_mv (f : Frame) (hm : CSub 0xc019804 μ) (hn : TSub 0x1000012800220210000 ν) :
    State.MovesO μ ν s₀ (execGrant f s) := by
  unfold execGrant
  try dsimp only
  with_reducible repeat' (first
    | assumption | intro _ | exact hm.sub (by decide) | exact hn.sub (by decide)
    | (refine State.MvOpt.of ?_ _ (by assumption); apply State.takeFrame_mv) | apply State.acceptContrib_mv
    | apply State.pumpWindow_mv | apply State.Moves.ite | apply State.MovesO.next | split | refine State.mk_mv ?_)

theorem execTokenPost_mv (f : Frame) (hm : CSub 0xc019804 μ) (hn : TSub 0x1000012800220210000 ν) :
    State.MovesO μ ν s₀ (execTokenPost f s) := by
  unfold execTokenPost
  try dsimp only
  with_reducible repeat' (first
    | assumption | exact hm.sub (by decide) | exact hn.sub (by decide) | apply State.postToken_mv
    | (refine State.MvOpt.of ?_ _ (by assumption); apply State.takeFrame_mv) | apply State.MovesO.next | split)

theorem execBulk_mv (f : Frame) (hm : CSub 0xc019804 μ) (hn : TSub 0x1000012800220210000 ν) :
    State.MovesO μ ν s₀ (execBulk f s) := by
  unfold execBulk
  try dsimp only
  with_reducible repeat' (first
    | assumption | apply State.takeFrame_mv | apply State.MovesO.next | apply State.MvOpt.getD)

theorem execD2dLinkDown_mv (link : Nat) (hm : CSub 0xc001000 μ) (hn : TSub 0x1000012000220000004 ν) :
    State.MovesO μ ν s₀ (execD2dLinkDown link s) := by
  unfold execD2dLinkDown
  try dsimp only
  with_reducible repeat' (first
    | assumption | intro _ | exact hm.sub (by decide) | exact hn.sub (by decide)
    | exact hn.bit (by decide) | apply State.rput_mv | apply State.logError_mv | apply State.d2dChanged_mv
    | apply State.Moves.ite | apply State.MovesO.next | exact d2dFld_mem _
    | exact hn.bit (d2dFld_bit _ (by decide)) | exact mem_of (by decide))

theorem execD2dLinkDegraded_mv (link : Nat) (hm : CSub 0xc001000 μ) (hn : TSub 0x1000012000220000004 ν) :
    State.MovesO μ ν s₀ (execD2dLinkDegraded link s) := by
  unfold execD2dLinkDegraded
  try dsimp only
  with_reducible repeat' (first
    | assumption | intro _ | exact hm.sub (by decide) | exact hn.sub (by decide) | apply State.rput_mv
    | apply State.logError_mv | apply State.d2dChanged_mv | apply State.Moves.ite | apply State.MovesO.next
    | exact d2dFld_mem _ | exact hn.bit (d2dFld_bit _ (by decide)))

theorem execHubLinkDown_mv (die : Nat) (hm : CSub 0xe0192c4 μ) (hn : TSub 0x100001a000330c1100c ν) :
    State.MovesO μ ν s₀ (execHubLinkDown die s) := by
  unfold execHubLinkDown
  try dsimp only
  with_reducible repeat' (first
    | assumption | intro _ | exact hm.sub (by decide) | exact hn.sub (by decide) | apply State.rput_mv
    | apply State.d2dChanged_mv | apply State.retireDie_mv | apply State.Moves.ite | apply State.MovesO.next
    | exact d2dFld_mem _ | exact hn.bit (d2dFld_bit _ (by decide)))

/-! ## Functions -/

theorem State.setRoles_mv (gs : List Nat) (hn : TSub 0x400 ν) :
    State.Moves μ ν s₀ (State.setRoles s gs) := by
  unfold State.setRoles
  try dsimp only
  with_reducible repeat' (first
    | assumption | intro _ | exact hn.bit (by decide) | apply State.rput_mv | apply foldl_mv
    | exact mem_of (by decide))

theorem State.beginChannel_mv (ch : Nat) (hm : CSub 0xc01d804 μ) (hn : TSub 0x1000016800220210000 ν) :
    State.Moves μ ν s₀ (State.beginChannel s ch) := by
  unfold State.beginChannel
  try dsimp only
  with_reducible repeat' (first
    | assumption | intro _ | exact hm.sub (by decide) | exact hn.sub (by decide)
    | exact hn.bit (by decide) | apply State.rput_mv | apply State.touch_mv | apply State.sendHello_mv
    | apply foldl_mv | refine State.mk_mv ?_ | exact mem_of (by decide))

theorem State.beginStart_mv (k : Kind) (i : Nat) (hm : CSub 0xc05d804 μ) (hn : TSub 0x100001e800330e11008 ν) :
    State.Moves μ ν s₀ (State.beginStart s k i) := by
  unfold State.beginStart
  try dsimp only
  with_reducible repeat' (first
    | assumption | exact hm.sub (by decide) | exact hn.sub (by decide) | exact hn.bit (by decide)
    | apply State.rput_mv | apply State.beginRound_mv | apply State.beginChannel_mv | split | exact Kind.stateFld_mem _
    | exact TSub.bit (hn.sub (b := 0x18000110c11008) (by decide)) (Kind.stateFld_bit _))

theorem State.deriveFirst_mv (b : Nat) (j : Nat) (hm : CSub 0x24903 μ) (hn : TSub 0x7000000000000 ν) :
    State.Moves μ ν s₀ (State.deriveFirst s b j) := by
  unfold State.deriveFirst
  try dsimp only
  with_reducible repeat' (first
    | assumption | intro _ | exact hm.sub (by decide) | exact hn.sub (by decide) | apply State.touch_mv
    | apply State.store_mv | apply State.observeWork_mv | apply State.setRetained_mv | apply State.Moves.ite
    | apply foldl_mv)

theorem State.startContext_mv (c : Nat) (hm : CSub 0x180 μ) (hn : TSub 0x40 ν) :
    State.Moves μ ν s₀ (State.startContext s c) := by
  unfold State.startContext
  try dsimp only
  with_reducible repeat' (first
    | assumption | intro _ | exact hm.sub (by decide) | exact hn.bit (by decide) | apply State.rput_mv
    | apply State.setRung_mv | apply foldl_mv | refine State.mk_mv ?_ | exact mem_of (by decide))

theorem State.startRing_mv (n : Nat) (hm : CSub 0x200 μ) (hn : TSub 0x100000000 ν) :
    State.Moves μ ν s₀ (State.startRing s n) := by
  unfold State.startRing
  try dsimp only
  with_reducible repeat' (first
    | assumption | intro _ | apply State.rput_mv | apply foldl_mv | refine State.mk_mv ?_
    | exact fld_of_list (by with_reducible assumption) (by decide)
    | exact hn.bit (bit_of_list (by with_reducible assumption) (by decide)))

theorem State.startWork_mv (k : Kind) (i : Nat) (hm : CSub 0x65b83 μ) (hn : TSub 0x1f000100800440 ν) :
    State.Moves μ ν s₀ (State.startWork s k i) := by
  unfold State.startWork
  try dsimp only
  with_reducible repeat' (first
    | assumption | intro _ | exact hm.sub (by decide) | exact hn.sub (by decide)
    | apply State.endRoundStart_mv | apply State.startSample_mv | apply State.startTrace_mv | apply State.setRoles_mv
    | apply State.deriveFirst_mv | apply State.startContext_mv | apply State.startRing_mv | apply foldl_mv | split
    | refine State.mk_mv ?_)

theorem State.functionStartDone_mv (k : Kind) (i : Nat) (hm : CSub 0xc065b83 μ) (hn : TSub 0x100001f000730c11448 ν) :
    State.Moves μ ν s₀ (State.functionStartDone s k i) := by
  unfold State.functionStartDone
  try dsimp only
  with_reducible repeat' (first
    | assumption | intro _ | exact hm.sub (by decide) | exact hn.sub (by decide) | apply State.reachOn_mv
    | apply State.startWork_mv | apply State.Moves.ite)

theorem execFunctionStartDone_mv (kind : Nat) (index : Nat) (hm : CSub 0xc065b83 μ)
    (hn : TSub 0x100001f000730c11448 ν) :
    State.MovesO μ ν s₀ (execFunctionStartDone kind index s) := by
  unfold execFunctionStartDone
  try dsimp only
  with_reducible repeat' (first
    | assumption | apply State.functionStartDone_mv | apply State.MovesO.next | split)

theorem State.answerEnables_mv (k : Kind) (i : Nat) (code : Nat) (hm : CSub 0x200 μ) (hn : TSub 0x100000000 ν) :
    State.Moves μ ν s₀ (State.answerEnables s k i code) := by
  unfold State.answerEnables
  try dsimp only
  with_reducible repeat' (first
    | assumption | intro _ | apply State.answerWaiter_mv | apply foldl_mv | refine State.mk_mv ?_)

theorem State.stopWork_mv (k : Kind) (i : Nat) (hm : CSub 0xc039000 μ) (hn : TSub 0x1000012000220000000 ν) :
    State.Moves μ ν s₀ (State.stopWork s k i) := by
  unfold State.stopWork
  try dsimp only
  with_reducible repeat' (first
    | assumption | exact hm.sub (by decide) | apply State.halt_mv | apply State.dropUpdates_mv
    | apply State.stopTrace_mv | split)

theorem State.stopNext_mv (c : Nat) (hm : CSub 0xc0392c4 μ) (hn : TSub 0x100001a000330c11008 ν) :
    State.Moves μ ν s₀ (State.stopNext s c) := by
  unfold State.stopNext
  try dsimp only
  with_reducible repeat' (first
    | assumption | intro _ | exact hm.sub (by decide) | exact hn.sub (by decide) | apply State.rput_mv
    | apply State.endThreads_mv | apply State.stopWork_mv | apply State.Moves.ite | split | refine State.mk_mv ?_
    | exact Kind.stateFld_mem _ | exact TSub.bit (hn.sub (b := 0x18000110c11008) (by decide)) (Kind.stateFld_bit _))

theorem State.clearFaults_mv (c : Nat) (hm : CSub 0xc001200 μ) (hn : TSub 0x100001a000730c11008 ν) :
    State.Moves μ ν s₀ (State.clearFaults s c) := by
  unfold State.clearFaults
  try dsimp only
  with_reducible repeat' (first
    | assumption | intro _ | apply State.reachOff_mv | apply State.Moves.ite | apply foldl_mv)

theorem State.stopContext_mv (c : Nat) (hm : CSub 0xc0392c4 μ) (hn : TSub 0x100001a000730c11008 ν) :
    State.Moves μ ν s₀ (State.stopContext s c) := by
  unfold State.stopContext
  try dsimp only
  with_reducible repeat' (first
    | assumption | intro _ | exact hm.sub (by decide) | exact hn.sub (by decide)
    | apply State.stopForFault_mv | apply State.stopNext_mv | apply State.clearFaults_mv | apply foldl_mv)

theorem State.beginStop_mv (k : Kind) (i : Nat) (hm : CSub 0xc0392c4 μ) (hn : TSub 0x100001a000730c11008 ν) :
    State.Moves μ ν s₀ (State.beginStop s k i) := by
  unfold State.beginStop
  try dsimp only
  with_reducible repeat' (first
    | assumption | exact hm.sub (by decide) | exact hn.sub (by decide) | exact hn.bit (by decide)
    | apply State.rput_mv | apply State.stopWork_mv | apply State.stopContext_mv | split | exact Kind.stateFld_mem _
    | exact Kind.endFld_mem _ _ (by with_reducible assumption)
    | exact TSub.bit (hn.sub (b := 0x18000110c11008) (by decide)) (Kind.stateFld_bit _)
    | exact TSub.bit (hn.sub (b := 0x18000110c11008) (by decide)) (Kind.endFld_bit _ _ (by with_reducible assumption)))

theorem State.startAbort_mv (k : Kind) (i : Nat) (hm : CSub 0xc07dbc7 μ) (hn : TSub 0x100001f000730c11448 ν) :
    State.Moves μ ν s₀ (State.startAbort s k i) := by
  unfold State.startAbort
  try dsimp only
  with_reducible repeat' (first
    | assumption | intro _ | exact hm.sub (by decide) | exact hn.sub (by decide) | apply State.startWork_mv
    | apply State.answerEnables_mv | apply State.beginStop_mv | apply State.Moves.ite | split | refine State.mk_mv ?_)

theorem execStartAbort_mv (kind : Nat) (index : Nat) (hm : CSub 0xc07dbc7 μ) (hn : TSub 0x100001f000730c11448 ν) :
    State.MovesO μ ν s₀ (execStartAbort kind index s) := by
  unfold execStartAbort
  try dsimp only
  with_reducible repeat' (first
    | assumption | apply State.startAbort_mv | apply State.MovesO.next | split)

theorem State.dropPort_mv (p : Nat) (hm : CSub 0x40000 μ) (hn : TSub 0x1000000 ν) :
    State.Moves μ ν s₀ (State.dropPort s p) := by
  unfold State.dropPort
  try dsimp only
  with_reducible repeat' (first
    | assumption | intro _ | apply State.onWell_mv | apply State.markSent_mv | apply foldl_mv)

theorem State.settleRung_mv (c : Nat) (hm : CSub 0x80 μ) (hn : TSub 0x40 ν) :
    State.Moves μ ν s₀ (State.settleRung s c) := by
  unfold State.settleRung
  try dsimp only
  with_reducible repeat' (first
    | assumption | apply State.setRung_mv | split)

theorem State.endWork_mv (k : Kind) (i : Nat) (hm : CSub 0xc079804 μ) (hn : TSub 0x1000012800221210000 ν) :
    State.Moves μ ν s₀ (State.endWork s k i) := by
  unfold State.endWork
  try dsimp only
  with_reducible repeat' (first
    | assumption | exact hm.sub (by decide) | exact hn.sub (by decide) | apply State.releaseLeases_mv
    | apply State.dropUpdates_mv | apply State.dropRound_mv | apply State.dropPort_mv | split)

theorem State.offWork_mv (k : Kind) (i : Nat) (hm : CSub 0xe081080 μ) (hn : TSub 0x1000012000220000740 ν) :
    State.Moves μ ν s₀ (State.offWork s k i) := by
  unfold State.offWork
  try dsimp only
  with_reducible repeat' (first
    | assumption | exact hm.sub (by decide) | exact hn.sub (by decide) | apply State.applyHeld_mv
    | apply State.setRoles_mv | apply State.settleRung_mv | split)

theorem State.noteRefused_mv (k : Kind) (i : Nat) (code : Nat) (hn : TSub 0x10000 ν) :
    State.Moves μ ν s₀ (State.noteRefused s k i code) := by
  unfold State.noteRefused
  try dsimp only
  with_reducible repeat' (first
    | assumption | intro _ | exact hn.sub (by decide) | exact hn.bit (by decide) | apply State.rput_mv
    | apply State.Moves.ite | split | rfl | exact mem_of (by decide))

theorem State.runLatched_mv (k : Kind) (i : Nat) (hm : CSub 0xc05da04 μ) (hn : TSub 0x100001e800730e11008 ν) :
    State.Moves μ ν s₀ (State.runLatched s k i) := by
  unfold State.runLatched
  try dsimp only
  with_reducible repeat' (first
    | assumption | intro _ | exact hm.sub (by decide) | exact hn.sub (by decide)
    | exact hn.bit (by decide) | exact hm.bit (by decide) | apply State.rput_mv | apply State.postEvent_mv
    | apply State.beginStart_mv | apply State.noteRefused_mv | apply State.Moves.ite | split | refine State.mk_mv ?_
    | rfl | exact Kind.stateFld_mem _ | exact Kind.pendFld_mem _ | exact Kind.handleFld_mem _
    | exact Kind.endFld_mem _ _ (by with_reducible assumption)
    | exact TSub.bit (hn.sub (b := 0x18000110c11008) (by decide)) (Kind.stateFld_bit _)
    | exact TSub.bit (hn.sub (b := 0x18000110c11008) (by decide)) (Kind.pendFld_bit _)
    | exact TSub.bit (hn.sub (b := 0x18000110c11008) (by decide)) (Kind.handleFld_bit _)
    | exact TSub.bit (hn.sub (b := 0x18000110c11008) (by decide)) (Kind.endFld_bit _ _ (by with_reducible assumption))
    | exact TSub.bit (hn.sub (b := 0x18000110c11008) (by decide)) (Kind.tab_bit _) | exact mem_of (by decide))

theorem State.stopOwner_mv (k : Kind) (i : Nat) (hm : CSub 0xc0392c4 μ) (hn : TSub 0x100001a000330c11008 ν) :
    State.Moves μ ν s₀ (State.stopOwner s k i) := by
  unfold State.stopOwner
  try dsimp only
  with_reducible repeat' (first
    | assumption | intro _ | apply State.stopNext_mv | apply State.Moves.ite | split)

theorem State.functionStopDone_mv (k : Kind) (i : Nat) (hm : CSub 0xe0fdac4 μ) (hn : TSub 0x100001e800731e11748 ν) :
    State.Moves μ ν s₀ (State.functionStopDone s k i) := by
  unfold State.functionStopDone
  try dsimp only
  with_reducible repeat' (first
    | assumption | intro _ | exact hm.sub (by decide) | exact hn.sub (by decide) | apply State.reachOff_mv
    | apply State.reachFault_mv | apply State.endThreads_mv | apply State.endWork_mv | apply State.offWork_mv
    | apply State.runLatched_mv | apply State.stopOwner_mv | apply State.Moves.ite)

theorem execFunctionStopDone_mv (kind : Nat) (index : Nat) (hm : CSub 0xe0fdac4 μ) (hn : TSub 0x100001e800731e11748 ν)
    :
    State.MovesO μ ν s₀ (execFunctionStopDone kind index s) := by
  unfold execFunctionStopDone
  try dsimp only
  with_reducible repeat' (first
    | assumption | apply State.functionStopDone_mv | apply State.MovesO.next | split)

theorem State.endReset_mv (c : Nat) (hm : CSub 0xc079a04 μ) (hn : TSub 0x100001a800731e11008 ν) :
    State.Moves μ ν s₀ (State.endReset s c) := by
  unfold State.endReset
  try dsimp only
  with_reducible repeat' (first
    | assumption | intro _ | exact hm.sub (by decide) | exact hn.sub (by decide) | apply State.reachFault_mv
    | apply State.endWork_mv | apply State.Moves.ite | apply foldl_mv)

theorem State.resetOver_mv (p : Nat) (hm : CSub 0x2000000 μ) :
    State.Moves μ ν s₀ (State.resetOver s p) := by
  unfold State.resetOver
  try dsimp only
  with_reducible repeat' (first
    | assumption | refine State.mk_mv ?_)

theorem execPartitionResetEnd_mv (p : Nat) (hm : CSub 0xe0f9e57 μ) (hn : TSub 0x100001a840731e15308 ν) :
    State.MovesO μ ν s₀ (execPartitionResetEnd p s) := by
  unfold execPartitionResetEnd
  try dsimp only
  with_reducible repeat' (first
    | assumption | intro _ | exact hm.sub (by decide) | exact hn.sub (by decide)
    | exact hn.bit (by decide) | apply State.rput_mv | apply State.reachFault_mv | apply State.resetRegion_mv
    | apply State.applyHeld_mv | apply State.endReset_mv | apply State.resetOver_mv | apply State.MovesO.next
    | apply foldl_mv | split | exact mem_of (by decide))

theorem State.enable_mv (k : Kind) (i : Nat) (level : Nat) (keep : Bool) (hm : CSub 0xc05da04 μ)
    (hn : TSub 0x100001e800330e11008 ν) :
    State.Moves μ ν s₀ (State.enable s k i level keep).2 := by
  unfold State.enable
  try dsimp only
  with_reducible repeat' (first
    | assumption | intro _ | exact hm.sub (by decide) | exact hn.sub (by decide)
    | exact hn.bit (by decide) | exact hm.bit (by decide) | apply State.rput_mv | apply State.beginStart_mv
    | apply State.noteRefused_mv | apply State.Moves.ite | split | refine State.mk_mv ?_ | rfl
    | exact Kind.stateFld_mem _ | exact Kind.pendFld_mem _ | exact Kind.handleFld_mem _
    | exact Kind.endFld_mem _ _ (by with_reducible assumption)
    | exact TSub.bit (hn.sub (b := 0x18000110c11008) (by decide)) (Kind.stateFld_bit _)
    | exact TSub.bit (hn.sub (b := 0x18000110c11008) (by decide)) (Kind.pendFld_bit _)
    | exact TSub.bit (hn.sub (b := 0x18000110c11008) (by decide)) (Kind.handleFld_bit _)
    | exact TSub.bit (hn.sub (b := 0x18000110c11008) (by decide)) (Kind.endFld_bit _ _ (by with_reducible assumption))
    | exact TSub.bit (hn.sub (b := 0x18000110c11008) (by decide)) (Kind.tab_bit _) | exact mem_of (by decide))

theorem State.disable_mv (k : Kind) (i : Nat) (hm : CSub 0xe0b92c4 μ) (hn : TSub 0x100001a000730c11748 ν) :
    State.Moves μ ν s₀ (State.disable s k i).2 := by
  unfold State.disable
  try dsimp only
  with_reducible repeat' (first
    | assumption | intro _ | exact hm.sub (by decide) | exact hn.sub (by decide) | apply State.rput_mv
    | apply State.postEvent_mv | apply State.beginStop_mv | apply State.offWork_mv | apply State.Moves.ite | split
    | refine State.mk_mv ?_ | exact Kind.stateFld_mem _ | exact Kind.pendFld_mem _
    | exact TSub.bit (hn.sub (b := 0x18000110c11008) (by decide)) (Kind.stateFld_bit _)
    | exact TSub.bit (hn.sub (b := 0x18000110c11008) (by decide)) (Kind.pendFld_bit _))

theorem State.waitOn_mv (k : Kind) (i : Nat) (cmd : Option Nat) (enable : Bool) (hm : CSub 0x200 μ) :
    State.Moves μ ν s₀ (State.waitOn s k i cmd enable) := by
  unfold State.waitOn
  try dsimp only
  with_reducible repeat' (first
    | assumption | refine State.mk_mv ?_)

omit h₀ in
theorem State.create_mv {μ ν : Nat} {s₀ s : State} (h₀ : State.Moves μ ν s₀ s) (k : Kind) (index j : Nat) (t : State) (e : s.create k index = .ok (j, t)) (hm : CSub 0x200 μ)  :
    State.Moves μ ν s₀ t := by
  unfold State.create at e
  dsimp only at e
  split at e
  · split at e
    · cases e
    · cases e; exact State.mk_mv h₀
  · split at e
    · cases e
    · cases e; exact State.mk_mv h₀

theorem State.forget_mv (k : Kind) (i : Nat) (hm : CSub 0x28000 μ) :
    State.Moves μ ν s₀ (State.forget s k i) := by
  unfold State.forget
  try dsimp only
  with_reducible repeat' (first
    | assumption | split | refine State.mk_mv ?_)

theorem State.destroy_mv (k : Kind) (i : Nat) (hm : CSub 0x28200 μ) (hn : TSub 0x18000110c11008 ν) :
    State.Moves μ ν s₀ (State.destroy s k i).2 := by
  unfold State.destroy
  try dsimp only
  with_reducible repeat' (first
    | assumption | exact hm.sub (by decide) | apply State.rput_mv | apply State.rreset_mv | apply State.forget_mv
    | split | refine State.mk_mv ?_ | exact Kind.handleFld_mem _
    | exact TSub.bit (hn.sub (b := 0x18000110c11008) (by decide)) (Kind.handleFld_bit _)
    | exact TSub.bit (hn.sub (b := 0x18000110c11008) (by decide)) (Kind.tab_bit _))

/-! ## Rings -/

theorem State.badEntry_mv (n : Nat) (code : Nat) (hn : TSub 0x100000000 ν) :
    State.Moves μ ν s₀ (State.badEntry s n code) := by
  unfold State.badEntry
  try dsimp only
  with_reducible repeat' (first
    | assumption | exact hn.bit (by decide) | apply State.rput_mv | apply State.rinc_mv | exact mem_of (by decide))

theorem State.badDoorbell_mv (n : Nat) (hm : CSub 0xc001000 μ) (hn : TSub 0x1000012000320000000 ν) :
    State.Moves μ ν s₀ (State.badDoorbell s n) := by
  unfold State.badDoorbell
  try dsimp only
  with_reducible repeat' (first
    | assumption | exact hn.sub (by decide) | apply State.logError_mv | apply State.badEntry_mv)

theorem State.cmdDoorbell_mv (n : Nat) (v : Nat) (hm : CSub 0xc001000 μ) (hn : TSub 0x1000012000320000000 ν) :
    State.Moves μ ν s₀ (State.cmdDoorbell s n v) := by
  unfold State.cmdDoorbell
  try dsimp only
  with_reducible repeat' (first
    | assumption | intro _ | exact hn.bit (by decide) | apply State.rput_mv | apply State.badDoorbell_mv
    | apply State.Moves.ite | exact mem_of (by decide))

theorem State.cplDoorbell_mv (n : Nat) (v : Nat) (hm : CSub 0xc001000 μ) (hn : TSub 0x1000012000320000000 ν) :
    State.Moves μ ν s₀ (State.cplDoorbell s n v) := by
  unfold State.cplDoorbell
  try dsimp only
  with_reducible repeat' (first
    | assumption | intro _ | exact hn.bit (by decide) | apply State.rput_mv | apply State.badDoorbell_mv
    | apply State.Moves.ite | exact mem_of (by decide))

theorem State.refuseEntry_mv (t : Taken) (code : Nat) (hm : CSub 0x200 μ) (hn : TSub 0x100000000 ν) :
    State.Moves μ ν s₀ (State.refuseEntry s t code) := by
  unfold State.refuseEntry
  try dsimp only
  with_reducible repeat' (first
    | assumption | apply State.finishCmd_mv | apply State.badEntry_mv)

theorem State.takeCommand_mv (n : Nat) (hm : CSub 0x4a00 μ) (hn : TSub 0x6000100000000 ν) :
    State.Moves μ ν s₀ (State.takeCommand s n) := by
  unfold State.takeCommand
  try dsimp only
  with_reducible repeat' (first
    | assumption | intro _ | exact hm.sub (by decide) | exact hn.sub (by decide)
    | exact hn.bit (by decide) | apply State.rwrap_mv | apply State.touch_mv | apply State.refuseEntry_mv
    | apply State.Moves.ite | refine State.mk_mv ?_ | exact mem_of (by decide))

theorem execRingCommandTake_mv (hm : CSub 0x4a00 μ) (hn : TSub 0x6000100000000 ν) :
    State.MovesO μ ν s₀ (execRingCommandTake s) := by
  unfold execRingCommandTake
  try dsimp only
  with_reducible repeat' (first
    | assumption | intro _ | apply State.takeCommand_mv | apply State.Moves.ite | apply State.MovesO.next | split)

theorem ringRow_mv (n : Nat) (op : Nat) (run : Taken → State → State) (h_run : ∀ z0
    (y : State), State.Moves μ ν s₀ y → State.Moves μ ν s₀ (run z0 y)) (hm : CSub 0x200 μ) :
    State.MovesO μ ν s₀ (ringRow n op run s) := by
  unfold ringRow
  try dsimp only
  with_reducible repeat' (first
    | assumption | intro _ | apply h_run | apply State.Moves.ite | apply State.MovesO.next | split
    | refine State.mk_mv ?_)

theorem execNop_mv (ring : Nat) (hm : CSub 0x200 μ) (hn : TSub 0x100000000 ν) :
    State.MovesO μ ν s₀ (execNop ring s) := by
  unfold execNop
  try dsimp only
  with_reducible repeat' (first
    | assumption | intro _ | apply State.finishCmd_mv | apply State.refuseEntry_mv | apply ringRow_mv
    | apply State.Moves.ite)

theorem execLaunch_mv (ring : Nat) (hm : CSub 0x210 μ) (hn : TSub 0x100000000 ν) :
    State.MovesO μ ν s₀ (execLaunch ring s) := by
  unfold execLaunch
  try dsimp only
  with_reducible repeat' (first
    | assumption | intro _ | exact hm.sub (by decide) | apply State.addLaunch_mv | apply State.refuseEntry_mv
    | apply ringRow_mv | apply State.Moves.ite)

theorem execCreate_mv (ring : Nat) (hm : CSub 0x200 μ) (hn : TSub 0x100000000 ν) :
    State.MovesO μ ν s₀ (execCreate ring s) := by
  unfold execCreate
  try dsimp only
  with_reducible repeat' (first
    | assumption | intro _ | apply State.finishCmd_mv | apply State.refuseEntry_mv | apply ringRow_mv
    | (refine State.create_mv ?_ _ _ _ _ (by with_reducible assumption) ?_) | apply State.Moves.ite | split)

theorem ctlRow_mv (n : Nat) (op : Nat) (run : Kind → Nat → Taken → State → State) (h_run : ∀ z0 z1 z2
    (y : State), State.Moves μ ν s₀ y → State.Moves μ ν s₀ (run z0 z1 z2 y)) (hm : CSub 0x200 μ)
    (hn : TSub 0x100000000 ν) :
    State.MovesO μ ν s₀ (ctlRow n op run s) := by
  unfold ctlRow
  try dsimp only
  with_reducible repeat' (first
    | assumption | intro _ | apply h_run | apply State.finishCmd_mv | apply State.refuseEntry_mv | apply ringRow_mv
    | apply State.Moves.ite | split)

omit h₀ in
theorem State.settleCtl_mv {μ ν : Nat} {s₀ : State} {r : Option Nat × State} (h₀ : State.Moves μ ν s₀ r.2) (k : Kind) (i : Nat) (t : Taken) (e : Bool) (hm : CSub 0x200 μ)  :
    State.Moves μ ν s₀ (State.settleCtl r k i t e) := by
  unfold State.settleCtl
  split
  · apply State.finishCmd_mv h₀ <;> first | exact hm.sub rfl | exact hn.sub rfl
  · apply State.waitOn_mv h₀ <;> first | exact hm.sub rfl | exact hn.sub rfl

theorem execEnable_mv (ring : Nat) (hm : CSub 0xc05da04 μ) (hn : TSub 0x100001e800330e11008 ν) :
    State.MovesO μ ν s₀ (execEnable ring s) := by
  unfold execEnable
  try dsimp only
  with_reducible repeat' (first
    | assumption | intro _ | exact hm.sub (by decide) | exact hn.sub (by decide) | apply State.enable_mv
    | apply ctlRow_mv | apply State.settleCtl_mv)

theorem execDisable_mv (ring : Nat) (hm : CSub 0xe0b92c4 μ) (hn : TSub 0x100001a000730c11748 ν) :
    State.MovesO μ ν s₀ (execDisable ring s) := by
  unfold execDisable
  try dsimp only
  with_reducible repeat' (first
    | assumption | intro _ | exact hm.sub (by decide) | exact hn.sub (by decide) | apply State.disable_mv
    | apply ctlRow_mv | apply State.settleCtl_mv)

theorem execDestroy_mv (ring : Nat) (hm : CSub 0x28200 μ) (hn : TSub 0x18000110c11008 ν) :
    State.MovesO μ ν s₀ (execDestroy ring s) := by
  unfold execDestroy
  try dsimp only
  with_reducible repeat' (first
    | assumption | intro _ | exact hm.sub (by decide) | exact hn.sub (by decide) | apply State.finishCmd_mv
    | apply State.destroy_mv | apply ctlRow_mv)

theorem execCast_mv (ring : Nat) (hm : CSub 0x20200 μ) (hn : TSub 0x100000000 ν) :
    State.MovesO μ ν s₀ (execCast ring s) := by
  unfold execCast
  try dsimp only
  with_reducible repeat' (first
    | assumption | intro _ | exact hm.sub (by decide) | apply State.finishCmd_mv | apply State.addCast_mv
    | apply State.refuseEntry_mv | apply ringRow_mv | apply State.Moves.ite | split)

theorem State.signalRing_mv (n : Nat) (hm : CSub 0x8000200 μ) (hn : TSub 0x1000000000000000000 ν) :
    State.Moves μ ν s₀ (State.signalRing s n) := by
  unfold State.signalRing
  try dsimp only
  with_reducible repeat' (first
    | assumption | exact hm.sub (by decide) | apply State.sendMsix_mv | refine State.mk_mv ?_)

theorem State.noteEntry_mv (n : Nat) (hm : CSub 0x8000200 μ) (hn : TSub 0x1000000000000000000 ν) :
    State.Moves μ ν s₀ (State.noteEntry s n) := by
  unfold State.noteEntry
  try dsimp only
  with_reducible repeat' (first
    | assumption | intro _ | apply State.signalRing_mv | apply State.Moves.ite | refine State.mk_mv ?_)

theorem State.postEntry_mv (n : Nat) (tag : Nat) (handle : Nat) (reason : Nat) (kind : Nat) (state : Nat) (ring : Nat)
    (hm : CSub 0x8004a03 μ) (hn : TSub 0x1000006000100000000 ν) :
    State.Moves μ ν s₀ (State.postEntry s n tag handle reason kind state ring) := by
  unfold State.postEntry
  try dsimp only
  with_reducible repeat' (first
    | assumption | exact hm.sub (by decide) | exact hn.sub (by decide) | exact hn.bit (by decide)
    | apply State.rwrap_mv | apply State.store_mv | apply State.noteEntry_mv | exact mem_of (by decide))

theorem execCompletionPost_mv (ring : Nat) (hm : CSub 0x8004a03 μ) (hn : TSub 0x1000006000100000000 ν) :
    State.MovesO μ ν s₀ (execCompletionPost ring s) := by
  unfold execCompletionPost
  try dsimp only
  with_reducible repeat' (first
    | assumption | intro _ | apply State.postEntry_mv | apply State.Moves.ite | apply State.MovesO.next | split
    | refine State.mk_mv ?_)

theorem execFunctionEventPost_mv (hm : CSub 0x8004a03 μ) (hn : TSub 0x1000006000100000000 ν) :
    State.MovesO μ ν s₀ (execFunctionEventPost s) := by
  unfold execFunctionEventPost
  try dsimp only
  with_reducible repeat' (first
    | assumption | intro _ | apply State.postEntry_mv | apply State.Moves.ite | apply State.MovesO.next | split
    | refine State.mk_mv ?_)

theorem execInterruptModerationTimeout_mv (ring : Nat) (hm : CSub 0x8000200 μ) (hn : TSub 0x1000000000000000000 ν) :
    State.MovesO μ ν s₀ (execInterruptModerationTimeout ring s) := by
  unfold execInterruptModerationTimeout
  try dsimp only
  with_reducible repeat' (first
    | assumption | intro _ | apply State.signalRing_mv | apply State.Moves.ite | apply State.MovesO.next | split)

omit h₀ in
theorem State.ringControl_mv {μ ν : Nat} {s₀ s : State} (h₀ : State.Moves μ ν s₀ s) (i : Nat) (on : Bool) (hm : CSub 0xe0fdac4 μ) (hn : TSub 0x100001e800730e11748 ν) :
    State.Moves μ ν s₀ (s.ringControl i on) := by
  have h : State.Moves μ ν s₀ (if on then s.enable .ring i 1 false else s.disable .ring i).2 := by
    split
    · exact State.enable_mv h₀ _ _ _ _ (hm.sub rfl) (hn.sub rfl)
    · exact State.disable_mv h₀ _ _ (hm.sub rfl) (hn.sub rfl)
  unfold State.ringControl
  split
  · exact mv_snd (by assumption) h
  · exact State.rput_mv (mv_snd (by assumption) h) _ _ _ (mem_of (by decide)) (hn.bit rfl)
  · apply State.waitOn_mv (mv_snd (by assumption) h) <;> first | exact hm.sub rfl | exact hn.sub rfl

/-! ## Power -/

theorem State.onPower_mv (f : Power → Power) (hm : CSub 0x800000 μ) :
    State.Moves μ ν s₀ (State.onPower s f) := by
  unfold State.onPower
  try dsimp only
  with_reducible repeat' (first
    | assumption | refine State.mk_mv ?_)

theorem State.powerFlag_mv (f : Fld) (v : Bool) (h_f : f ∈ Tab.fields f.tab) (t_f : ν.testBit f.tab.ctorIdx = true)
    (hm : CSub 0x8000000 μ) (hn : TSub 0x1000000100200000000 ν) :
    State.Moves μ ν s₀ (State.powerFlag s f v) := by
  unfold State.powerFlag
  try dsimp only
  with_reducible repeat' (first
    | assumption | intro _ | exact hn.sub (by decide) | exact hn.bit (by decide) | apply State.rput_mv
    | apply State.setEvt_mv | apply State.Moves.ite | exact mem_of (by decide))

theorem State.timeFlag_mv (f : Fld) (v : Bool) (h_f : f ∈ Tab.fields f.tab) (t_f : ν.testBit f.tab.ctorIdx = true)
    (hm : CSub 0x8000000 μ) (hn : TSub 0x1000000400200000000 ν) :
    State.Moves μ ν s₀ (State.timeFlag s f v) := by
  unfold State.timeFlag
  try dsimp only
  with_reducible repeat' (first
    | assumption | intro _ | exact hn.sub (by decide) | exact hn.bit (by decide) | apply State.rput_mv
    | apply State.setEvt_mv | apply State.Moves.ite | exact mem_of (by decide))

theorem State.inputFlag_mv (f : Fld) (v : Bool) (mv : Nat) (h_f : f ∈ Tab.fields f.tab)
    (t_f : ν.testBit f.tab.ctorIdx = true) (hm : CSub 0xc001000 μ) (hn : TSub 0x1000012100220000000 ν) :
    State.Moves μ ν s₀ (State.inputFlag s f v mv) := by
  unfold State.inputFlag
  try dsimp only
  with_reducible repeat' (first
    | assumption | intro _ | exact hm.sub (by decide) | exact hn.sub (by decide)
    | exact hn.bit (by decide) | apply State.setEvt_mv | apply State.logError_mv | apply State.powerFlag_mv
    | apply State.Moves.ite | exact mem_of (by decide))

theorem execInputBandChange_mv (mv : Nat) (hm : CSub 0xc001000 μ) (hn : TSub 0x1000012300220000000 ν) :
    State.MovesO μ ν s₀ (execInputBandChange mv s) := by
  unfold execInputBandChange
  try dsimp only
  with_reducible repeat' (first
    | assumption | intro _ | exact hn.sub (by decide) | exact hn.bit (by decide) | apply State.rput_mv
    | apply State.inputFlag_mv | apply State.Moves.ite | apply State.MovesO.next | exact mem_of (by decide))

theorem execRailStep_mv (region : Nat) (hm : CSub 0x800000 μ) (hn : TSub 0x40000000000 ν) :
    State.MovesO μ ν s₀ (execRailStep region s) := by
  unfold execRailStep
  try dsimp only
  with_reducible repeat' (first
    | assumption | intro _ | exact hn.bit (by decide) | apply State.rput_mv | apply State.onPower_mv
    | apply State.Moves.ite | apply State.MovesO.next | exact mem_of (by decide))

theorem State.setStop_mv (g : Nat) (v : Bool) (hm : CSub 0x31c57 μ) (hn : TSub 0x40000004000 ν) :
    State.Moves μ ν s₀ (State.setStop s g v) := by
  unfold State.setStop
  try dsimp only
  with_reducible repeat' (first
    | assumption | intro _ | exact hm.sub (by decide) | exact hn.sub (by decide)
    | exact hn.bit (by decide) | exact hm.bit (by decide) | apply State.rput_mv | apply State.wipeRegion_mv
    | apply State.clearUnits_mv | apply State.stopRegion_mv | apply State.resetRegion_mv | apply State.Moves.ite
    | split | rfl | exact mem_of (by decide))

theorem State.wipeCluster_mv (c : Nat) (hm : CSub 0x403 μ) :
    State.Moves μ ν s₀ (State.wipeCluster s c) := by
  unfold State.wipeCluster
  try dsimp only
  with_reducible repeat' (first
    | assumption | intro _ | exact hm.sub (by decide) | apply State.wipe_mv | apply foldl_mv
    | refine State.mk_mv ?_)

theorem State.setCgate_mv (g : Nat) (mask : Nat) (hm : CSub 0xc03 μ) (hn : TSub 0x40000000000 ν) :
    State.Moves μ ν s₀ (State.setCgate s g mask) := by
  unfold State.setCgate
  try dsimp only
  with_reducible repeat' (first
    | assumption | intro _ | exact hm.sub (by decide) | exact hn.bit (by decide) | apply State.rput_mv
    | apply State.stopSamples_mv | apply State.wipeCluster_mv | apply State.Moves.ite | apply foldl_mv
    | exact mem_of (by decide))

theorem State.countEnergy_mv (watts : Nat) (hm : CSub 0x800800 μ) (hn : TSub 0x4000000000000 ν) :
    State.Moves μ ν s₀ (State.countEnergy s watts) := by
  unfold State.countEnergy
  try dsimp only
  with_reducible repeat' (first
    | assumption | exact hm.sub (by decide) | exact hn.bit (by decide) | apply State.rwrap_mv
    | apply State.countEvent_mv | apply State.onPower_mv | exact mem_of (by decide))

theorem execCapTick_mv (power : Nat) (hm : CSub 0x8800800 μ) (hn : TSub 0x1000004300200000000 ν) :
    State.MovesO μ ν s₀ (execCapTick power s) := by
  unfold execCapTick
  try dsimp only
  with_reducible repeat' (first
    | assumption | intro _ | exact hm.sub (by decide) | exact hn.sub (by decide)
    | exact hn.bit (by decide) | apply State.rput_mv | apply State.onPower_mv | apply State.powerFlag_mv
    | apply State.countEnergy_mv | apply State.Moves.ite | apply State.MovesO.next | exact mem_of (by decide))

theorem execCapUnmet_mv (hm : CSub 0xc001000 μ) (hn : TSub 0x1000012100220000000 ν) :
    State.MovesO μ ν s₀ (execCapUnmet s) := by
  unfold execCapUnmet
  try dsimp only
  with_reducible repeat' (first
    | assumption | intro _ | exact hm.sub (by decide) | exact hn.sub (by decide)
    | exact hn.bit (by decide) | apply State.logError_mv | apply State.powerFlag_mv | apply State.Moves.ite
    | apply State.MovesO.next | split | exact mem_of (by decide))

theorem State.setCeiling_mv (g : Nat) (v : Nat) (hm : CSub 0x800000 μ) :
    State.Moves μ ν s₀ (State.setCeiling s g v) := by
  unfold State.setCeiling
  try dsimp only
  with_reducible repeat' (first
    | assumption | apply State.onPower_mv)

theorem execThermalTick_mv (region : Nat) (tj : Nat) (hm : CSub 0xc801000 μ) (hn : TSub 0x1000012140220000000 ν) :
    State.MovesO μ ν s₀ (execThermalTick region tj s) := by
  unfold execThermalTick
  try dsimp only
  with_reducible repeat' (first
    | assumption | intro _ | exact hm.sub (by decide) | exact hn.sub (by decide)
    | exact hn.bit (by decide) | apply State.rput_mv | apply State.logError_mv | apply State.powerFlag_mv
    | apply State.setCeiling_mv | apply State.Moves.ite | apply State.MovesO.next | exact mem_of (by decide))

theorem execRefLost_mv (hm : CSub 0xc001000 μ) (hn : TSub 0x1000012400220000000 ν) :
    State.MovesO μ ν s₀ (execRefLost s) := by
  unfold execRefLost
  try dsimp only
  with_reducible repeat' (first
    | assumption | intro _ | exact hm.sub (by decide) | exact hn.sub (by decide)
    | exact hn.bit (by decide) | apply State.logError_mv | apply State.timeFlag_mv | apply State.Moves.ite
    | apply State.MovesO.next | exact mem_of (by decide))

theorem execRefReturn_mv (hm : CSub 0x8000000 μ) (hn : TSub 0x1000000400200000000 ν) :
    State.MovesO μ ν s₀ (execRefReturn s) := by
  unfold execRefReturn
  try dsimp only
  with_reducible repeat' (first
    | assumption | intro _ | exact hn.bit (by decide) | apply State.timeFlag_mv | apply State.Moves.ite
    | apply State.MovesO.next | exact mem_of (by decide))

theorem State.settleTime_mv (hm : CSub 0xc801000 μ) (hn : TSub 0x1020012400220000000 ν) :
    State.Moves μ ν s₀ (State.settleTime s) := by
  unfold State.settleTime
  try dsimp only
  with_reducible repeat' (first
    | assumption | intro _ | exact hm.sub (by decide) | exact hn.sub (by decide)
    | exact hn.bit (by decide) | apply State.rput_mv | apply State.logError_mv | apply State.onPower_mv
    | apply State.timeFlag_mv | apply State.Moves.ite | exact mem_of (by decide))

theorem State.correct_mv (ns : Int) (hm : CSub 0xc801000 μ) (hn : TSub 0x1020012400220000000 ν) :
    State.Moves μ ν s₀ (State.correct s ns) := by
  unfold State.correct
  try dsimp only
  with_reducible repeat' (first
    | assumption | exact hm.sub (by decide) | apply State.onPower_mv | apply State.settleTime_mv)

theorem State.adjust_mv (v : Nat) (hm : CSub 0xc801000 μ) (hn : TSub 0x1020012400220000000 ν) :
    State.Moves μ ν s₀ (State.adjust s v) := by
  unfold State.adjust
  try dsimp only
  with_reducible repeat' (first
    | assumption | intro _ | apply State.correct_mv | apply State.Moves.ite)

theorem execTbsSlewDone_mv (hm : CSub 0x8000000 μ) (hn : TSub 0x1000000400200000000 ν) :
    State.MovesO μ ν s₀ (execTbsSlewDone s) := by
  unfold execTbsSlewDone
  try dsimp only
  with_reducible repeat' (first
    | assumption | intro _ | exact hn.bit (by decide) | apply State.timeFlag_mv | apply State.Moves.ite
    | apply State.MovesO.next | exact mem_of (by decide))

theorem State.ptpStamp_mv (port : Nat) (hm : CSub 0x40000 μ) :
    State.Moves μ ν s₀ (State.ptpStamp s port) := by
  unfold State.ptpStamp
  try dsimp only
  with_reducible repeat' (first
    | assumption | intro _ | exact hm.sub (by decide) | exact hm.bit (by decide) | split
    | refine State.mk_mv ?_ | rfl | exact mem_of (by decide))

theorem execPtpEventMessage_mv (port : Nat) (correction : Int) (locked : Bool) (hm : CSub 0xc841000 μ)
    (hn : TSub 0x1020012400220000000 ν) :
    State.MovesO μ ν s₀ (execPtpEventMessage port correction locked s) := by
  unfold execPtpEventMessage
  try dsimp only
  with_reducible repeat' (first
    | assumption | intro _ | exact hm.sub (by decide) | exact hn.sub (by decide)
    | exact hn.bit (by decide) | exact hm.bit (by decide) | apply State.timeFlag_mv | apply State.correct_mv
    | apply State.ptpStamp_mv | apply State.Moves.ite | apply State.MovesO.next | apply State.MovesO.ite | split | rfl
    | exact mem_of (by decide))

theorem State.countSumps_mv (hm : CSub 0x800 μ) (hn : TSub 0x1000000000000 ν) :
    State.Moves μ ν s₀ (State.countSumps s) := by
  unfold State.countSumps
  try dsimp only
  with_reducible repeat' (first
    | assumption | intro _ | exact hn.bit (by decide) | apply State.rwrap_mv | apply State.countEvent_mv
    | apply State.Moves.ite | apply foldl_mv | exact mem_of (by decide))

theorem State.tick_mv (hm : CSub 0x800800 μ) (hn : TSub 0x20001000000000000 ν) :
    State.Moves μ ν s₀ (State.tick s) := by
  unfold State.tick
  try dsimp only
  with_reducible repeat' (first
    | assumption | intro _ | exact hm.sub (by decide) | exact hn.sub (by decide)
    | exact hn.bit (by decide) | apply State.rwrap_mv | apply State.onPower_mv | apply State.countSumps_mv
    | apply State.Moves.ite | exact mem_of (by decide))

/-! ## BarMap -/

theorem State.snapshot_mv (t : Tab) (hm : CSub 0x200 μ) :
    State.Moves μ ν s₀ (State.snapshot s t) := by
  unfold State.snapshot
  try dsimp only
  with_reducible repeat' (first
    | assumption | split | refine State.mk_mv ?_)

theorem State.slotWord_mv (unit : Nat) (i : Nat) (slot : Nat) (hm : CSub 0x10000000 μ) :
    State.Moves μ ν s₀ (State.slotWord s unit i slot).2 := by
  unfold State.slotWord
  try dsimp only
  with_reducible repeat' (first
    | assumption | intro _ | exact hm.sub (by decide) | exact hm.bit (by decide)
    | (refine mv_snd (by assumption) ?_; apply State.slotRefs_mv) | apply State.slotRefs_mv | split
    | refine State.mk_mv ?_ | rfl | exact mem_of (by decide))

theorem State.censusWord_mv (i : Nat) (w : Nat) (hm : CSub 0x200 μ) :
    State.Moves μ ν s₀ (State.censusWord s i w).2 := by
  unfold State.censusWord
  try dsimp only
  with_reducible repeat' (first
    | assumption | intro _ | exact hm.sub (by decide) | exact hm.bit (by decide) | apply State.Moves.ite
    | split | refine State.mk_mv ?_ | rfl | exact mem_of (by decide))

theorem State.barWord_mv (off : Nat) (hm : CSub 0x10000200 μ) :
    State.Moves μ ν s₀ (State.barWord s off).2 := by
  unfold State.barWord
  try dsimp only
  with_reducible repeat' (first
    | assumption | intro _ | exact hm.sub (by decide) | exact hm.bit (by decide)
    | (refine mv_snd (by assumption) ?_; apply State.draw_mv) | apply State.draw_mv | apply State.adjust_mv
    | (refine mv_snd (by assumption) ?_; apply State.slotWord_mv) | apply State.slotWord_mv
    | (refine mv_snd (by assumption) ?_; apply State.censusWord_mv) | apply State.censusWord_mv | split
    | refine State.mk_mv ?_ | rfl | exact mem_of (by decide))

/-! ## Security -/

omit h₀ in
theorem State.onSec_mv {μ ν : Nat} {s₀ s : State} (h₀ : State.Moves μ ν s₀ s) (f : Security → Security) (h_f : ∀ c, (f c).op = c.op) (hm : CSub 0x400000 μ)  :
    State.Moves μ ν s₀ (s.onSec f) :=
  State.mk_mv h₀ (ho := h_f _)

omit h₀ in
theorem State.onSec_none {μ ν : Nat} {s₀ s : State} (h₀ : State.Moves μ ν s₀ s) (f : Security → Security) (h_f : ∀ c, (f c).op = none) (hm : CSub 0x400000 μ)  :
    State.Moves μ ν s₀ (s.onSec f) :=
  State.sec_mv h₀ _ (fun o e => by rw [h_f] at e; cases e) (hm.bit rfl)

omit h₀ in
theorem State.secRefusal_floor {s : State} {addr len arg : Nat} (h : s.secRefusal opRaiseFloor addr len arg = none) :
    s.fuses.svnFloor < arg := by
  unfold State.secRefusal at h
  split at h
  · cases h
  · split at h
    · cases h
    · split at h
      · cases h
      · simp_all [State.secLimits, opRaiseFloor, opFwUpdate, opCfgWrite]

omit h₀ in
theorem State.secStart_mv {μ ν : Nat} {s₀ s : State} (h₀ : State.Moves μ ν s₀ s) (op : Nat) (hm : CSub 0x400000 μ) (hn : TSub 0x2000000000 ν) : State.Moves μ ν s₀ (s.secStart op) := by
  refine State.rput_mv (State.sec_mv h₀ _ ?_ (hm.bit rfl)) _ _ _ (mem_of (by decide)) (hn.bit rfl)
  intro o e e1 e2 _
  cases e
  dsimp only at e1 e2
  subst e1
  exact Nat.le_of_lt (State.secRefusal_floor e2)

omit h₀ in
theorem State.secReason_mv {μ ν : Nat} {s₀ s : State} (h₀ : State.Moves μ ν s₀ s) (reason : Nat) (hm : CSub 0x400000 μ)  : State.Moves μ ν s₀ (s.secReason reason) := by
  refine State.sec_mv h₀ _ ?_ (hm.bit rfl)
  intro o e e1 e2 _
  cases ho : s.security.op with
  | none => simp [ho] at e
  | some x => simp [ho] at e; subst e; cases e2

theorem State.writeImage_mv (img : List Byte) (hm : CSub 0x80000 μ) :
    State.Moves μ ν s₀ (State.writeImage s img) := by
  unfold State.writeImage
  try dsimp only
  with_reducible repeat' (first
    | assumption | apply State.writeItem_mv | apply State.onCistern_mv | apply State.countNand_mv)

theorem execFwUpdate_mv (hm : CSub 0xc485800 μ) (hn : TSub 0x1000016000220000000 ν) :
    State.MovesO μ ν s₀ (execFwUpdate s) := by
  unfold execFwUpdate
  try dsimp only
  with_reducible repeat' (first
    | assumption | exact hm.sub (by decide) | exact hn.sub (by decide) | apply State.logError_mv
    | apply State.touch_mv | apply State.secReason_mv | apply State.writeImage_mv | apply State.MovesO.next | split)

theorem execCfgWrite_mv (hm : CSub 0x484800 μ) (hn : TSub 0x6000000000000 ν) :
    State.MovesO μ ν s₀ (execCfgWrite s) := by
  unfold execCfgWrite
  try dsimp only
  with_reducible repeat' (first
    | assumption | intro _ | exact hm.sub (by decide) | apply State.touch_mv | apply State.onCistern_mv
    | apply State.countNand_mv | apply State.secReason_mv | apply State.Moves.ite | apply State.MovesO.next | split)

theorem execCfgErase_mv (hm : CSub 0x480000 μ) :
    State.MovesO μ ν s₀ (execCfgErase s) := by
  unfold execCfgErase
  try dsimp only
  with_reducible repeat' (first
    | assumption | intro _ | exact hm.sub (by decide) | apply State.onCistern_mv | apply State.countNand_mv
    | apply State.secReason_mv | apply State.Moves.ite | apply State.MovesO.next | split)

theorem execDebugUnlock_mv (hm : CSub 0xc401000 μ) (hn : TSub 0x1000012001220000000 ν) :
    State.MovesO μ ν s₀ (execDebugUnlock s) := by
  unfold execDebugUnlock
  try dsimp only
  with_reducible repeat' (first
    | assumption | exact hm.sub (by decide) | exact hn.sub (by decide) | exact hn.bit (by decide)
    | apply State.rput_mv | apply State.logError_mv | apply State.secReason_mv | apply State.MovesO.next | split
    | exact mem_of (by decide))

omit h₀ in
theorem State.secRunning_some {s : State} {op : Nat} {o : OpRun} (h : s.secRunning op = some o) :
    s.security.op = some o ∧ o.op = op ∧ o.reason = none := by
  unfold State.secRunning at h
  rw [Option.filter_eq_some_iff] at h
  simpa using h

omit h₀ in
/-- The floor that a running operation burns is not below the present one. -/
theorem State.burn_mv {μ ν : Nat} {s₀ s : State} (h₀ : State.Moves μ ν s₀ s) (o : OpRun) (ho : s.security.op = some o) (hop : o.op = opRaiseFloor) (hr : o.reason = none)
    (hm : CSub 0x200000 μ) : State.Moves μ ν s₀ { s with fuses := { s.fuses with svnFloor := o.arg } } := by
  refine State.fuses_mv h₀ _ (hm.bit rfl) (fun x => ⟨x.floor o ho hop hr, fun o' e _ _ => ?_⟩) (le_refl _) id
  rw [ho] at e
  cases e
  exact le_refl _

omit h₀ in
theorem execRaiseFloor_mv {μ ν : Nat} {s₀ s : State} (h₀ : State.Moves μ ν s₀ s) (hm : CSub 0x600000 μ)  : State.MovesO μ ν s₀ (execRaiseFloor s) := by
  unfold execRaiseFloor
  refine .next ?_
  split
  · exact h₀
  · rename_i o heq
    obtain ⟨ho, hop, hr⟩ := State.secRunning_some heq
    split
    · exact State.secReason_mv h₀ _ (hm.sub rfl)
    · exact State.secReason_mv (State.burn_mv h₀ o ho hop hr (hm.sub rfl)) _ (hm.sub rfl)

theorem State.holdKey_mv (hm : CSub 0x480000 μ) :
    State.Moves μ ν s₀ (State.holdKey s) := by
  unfold State.holdKey
  try dsimp only
  with_reducible repeat' (first
    | assumption | intro _ | exact hm.sub (by decide) | apply State.writeItem_mv
    | (with_reducible refine State.onSec_mv ?_ _ (fun _ => by with_reducible rfl) ?_)
    | (with_reducible refine State.onSec_none ?_ _ (fun _ => by with_reducible rfl) ?_) | split)

theorem State.burnEpoch_mv (hm : CSub 0x680000 μ) :
    State.Moves μ ν s₀ (State.burnEpoch s) := by
  unfold State.burnEpoch
  try dsimp only
  with_reducible repeat' (first
    | assumption | intro _ | exact hm.sub (by decide) | exact hm.bit (by decide) | apply State.writeBoth_mv
    | (with_reducible refine State.onSec_mv ?_ _ (fun _ => by with_reducible rfl) ?_)
    | (with_reducible refine State.onSec_none ?_ _ (fun _ => by with_reducible rfl) ?_) | split | refine State.mk_mv ?_
    | refine State.epoch_mv ?_ ?_ | rfl | exact mem_of (by decide))

theorem execRekey_mv (hm : CSub 0xc681000 μ) (hn : TSub 0x1000012000220000000 ν) :
    State.MovesO μ ν s₀ (execRekey s) := by
  unfold execRekey
  try dsimp only
  with_reducible repeat' (first
    | assumption | intro _ | exact hm.sub (by decide) | apply State.logError_mv | apply State.secReason_mv
    | apply State.holdKey_mv | apply State.burnEpoch_mv | apply State.Moves.ite | apply State.MovesO.next | split)

theorem execIdentityKeyDerived_mv (hm : CSub 0x480000 μ) :
    State.MovesO μ ν s₀ (execIdentityKeyDerived s) := by
  unfold execIdentityKeyDerived
  try dsimp only
  with_reducible repeat' (first
    | assumption | intro _ | apply State.holdKey_mv | apply State.Moves.ite | apply State.MovesO.next)

theorem State.restore_mv (hm : CSub 0xc1a1240 μ) (hn : TSub 0x1000012020220000000 ν) :
    State.Moves μ ν s₀ (State.restore s) := by
  unfold State.restore
  try dsimp only
  with_reducible repeat' (first
    | assumption | intro _ | exact hm.sub (by decide) | exact hn.sub (by decide) | apply State.logError_mv
    | apply State.writeBoth_mv | apply State.onCistern_mv | apply State.abortMoulds_mv | apply State.deleteMould_mv
    | apply State.Moves.ite | apply foldl_mv)

theorem execFactoryRestore_mv (hm : CSub 0xc5a1240 μ) (hn : TSub 0x1000012020220000000 ν) :
    State.MovesO μ ν s₀ (execFactoryRestore s) := by
  unfold execFactoryRestore
  try dsimp only
  with_reducible repeat' (first
    | assumption | intro _ | exact hm.sub (by decide) | apply State.secReason_mv | apply State.restore_mv
    | apply State.Moves.ite | apply State.MovesO.next | split)

theorem State.leaveHostLoad_mv (hm : CSub 0x8400000 μ) (hn : TSub 0x1000000000a80000000 ν) :
    State.Moves μ ν s₀ (State.leaveHostLoad s) := by
  unfold State.leaveHostLoad
  try dsimp only
  with_reducible repeat' (first
    | assumption | exact hm.sub (by decide) | exact hn.sub (by decide) | exact hn.bit (by decide)
    | apply State.rput_mv | apply State.setEvt_mv
    | (with_reducible refine State.onSec_mv ?_ _ (fun _ => by with_reducible rfl) ?_) | exact mem_of (by decide))

theorem execSecOpComplete_mv (hm : CSub 0x8400000 μ) (hn : TSub 0x1000000002a80000000 ν) :
    State.MovesO μ ν s₀ (execSecOpComplete s) := by
  unfold execSecOpComplete
  try dsimp only
  with_reducible repeat' (first
    | assumption | intro _ | exact hm.sub (by decide) | exact hn.sub (by decide)
    | exact hn.bit (by decide) | apply State.rput_mv | apply State.setEvt_mv
    | (with_reducible refine State.onSec_none ?_ _ (fun _ => by with_reducible rfl) ?_) | apply State.leaveHostLoad_mv
    | apply State.Moves.ite | apply State.MovesO.next | split | exact mem_of (by decide))

theorem execPresenceAssert_mv (hm : CSub 0x400000 μ) (hn : TSub 0x1000000000 ν) :
    State.MovesO μ ν s₀ (execPresenceAssert s) := by
  unfold execPresenceAssert
  try dsimp only
  with_reducible repeat' (first
    | assumption | intro _ | exact hn.bit (by decide) | apply State.rput_mv
    | (with_reducible refine State.onSec_mv ?_ _ (fun _ => by with_reducible rfl) ?_) | apply State.Moves.ite
    | apply State.MovesO.next | exact mem_of (by decide))

theorem execPresenceDeassert_mv (hm : CSub 0x400000 μ) :
    State.MovesO μ ν s₀ (execPresenceDeassert s) := by
  unfold execPresenceDeassert
  try dsimp only
  with_reducible repeat' (first
    | assumption | intro _ | (with_reducible refine State.onSec_mv ?_ _ (fun _ => by with_reducible rfl) ?_)
    | apply State.Moves.ite | apply State.MovesO.next)

theorem execPresenceWindowExpire_mv (hn : TSub 0x1000000000 ν) :
    State.MovesO μ ν s₀ (execPresenceWindowExpire s) := by
  unfold execPresenceWindowExpire
  try dsimp only
  with_reducible repeat' (first
    | assumption | intro _ | exact hn.bit (by decide) | apply State.rput_mv | apply State.Moves.ite
    | apply State.MovesO.next | exact mem_of (by decide))

theorem execSealBroken_mv (hm : CSub 0xc201000 μ) (hn : TSub 0x1000012000220000000 ν) :
    State.MovesO μ ν s₀ (execSealBroken s) := by
  unfold execSealBroken
  try dsimp only
  with_reducible repeat' (first
    | assumption | intro _ | exact hm.sub (by decide) | exact hn.sub (by decide)
    | exact hn.bit (by decide) | exact hm.bit (by decide) | apply State.setEvt_mv | apply State.logError_mv
    | apply State.Moves.ite | apply State.MovesO.next | refine State.seal_mv ?_ ?_ | exact mem_of (by decide))

theorem execDebugAccess_mv (r : DebugRequest) (hm : CSub 0x400000 μ) :
    State.MovesO μ ν s₀ (execDebugAccess r s) := by
  unfold execDebugAccess
  try dsimp only
  with_reducible repeat' (first
    | assumption | intro _ | (with_reducible refine State.onSec_mv ?_ _ (fun _ => by with_reducible rfl) ?_)
    | apply State.Moves.ite | apply State.MovesO.next)

theorem execDebugHalt_mv (low : Bool) (hm : CSub 0x400000 μ) :
    State.MovesO μ ν s₀ (execDebugHalt low s) := by
  unfold execDebugHalt
  try dsimp only
  with_reducible repeat' (first
    | assumption | intro _ | (with_reducible refine State.onSec_mv ?_ _ (fun _ => by with_reducible rfl) ?_)
    | apply State.Moves.ite | apply State.MovesO.next)

theorem execDynamicAddressAssignment_mv (addr : BitVec 7) (hm : CSub 0x400000 μ) :
    State.MovesO μ ν s₀ (execDynamicAddressAssignment addr s) := by
  unfold execDynamicAddressAssignment
  try dsimp only
  with_reducible repeat' (first
    | assumption | intro _ | (with_reducible refine State.onSec_mv ?_ _ (fun _ => by with_reducible rfl) ?_)
    | apply State.Moves.ite | apply State.MovesO.next)

end Sys2Proof.Machine
end

