-- ==== Sys2Proof/Laws/Moves7.lean ====
section
/-!
SUPPORT. What the operations of Registers, Boot, HostLink, Scalar and Spdm may change: each one stays in
the relation `State.Moves` with the pieces and tables of its masks.
-/
set_option Elab.async false

namespace Sys2Proof.Machine

variable {μ ν : Nat} {s₀ s : State} (h₀ : State.Moves μ ν s₀ s)
include h₀

/-! ## Registers -/

theorem State.writeFld_mv (off : Bool) (w : BarWrite) (i : Nat) (f : Fld) (h_f : f ∈ Tab.fields f.tab)
    (t_f : ν.testBit f.tab.ctorIdx = true) :
    State.Moves μ ν s₀ (State.writeFld s off w i f) := by
  unfold State.writeFld
  try dsimp only
  with_reducible repeat' (first
    | assumption | intro _ | apply State.rput_mv | apply State.Moves.ite | split)

theorem State.clearHistoryNow_mv (e : Nat) (hm : CSub 0x100 μ) (hn : TSub 0x40 ν) :
    State.Moves μ ν s₀ (State.clearHistoryNow s e) := by
  unfold State.clearHistoryNow
  try dsimp only
  with_reducible repeat' (first
    | assumption | intro _ | apply State.clearHistory_mv | apply State.Moves.ite | split | refine State.mk_mv ?_)

theorem State.hostRung_mv (c : Nat) (r : Nat) (hm : CSub 0x80 μ) (hn : TSub 0x40 ν) :
    State.Moves μ ν s₀ (State.hostRung s c r) := by
  unfold State.hostRung
  try dsimp only
  with_reducible repeat' (first
    | assumption | intro _ | apply State.setRung_mv | apply State.Moves.ite)

theorem State.evtAgain_mv (hm : CSub 0x8000000 μ) (hn : TSub 0x1000000000000000000 ν) :
    State.Moves μ ν s₀ (State.evtAgain s) := by
  unfold State.evtAgain
  try dsimp only
  with_reducible repeat' (first
    | assumption | intro _ | apply State.sendMsix_mv | apply State.Moves.ite)

theorem State.unmask_mv (v : Nat) (hm : CSub 0x8000000 μ) (hn : TSub 0x1000000000000000000 ν) :
    State.Moves μ ν s₀ (State.unmask s v) := by
  unfold State.unmask
  try dsimp only
  with_reducible repeat' (first
    | assumption | intro _ | exact hn.bit (by decide) | apply State.rput_mv | apply State.sendMsix_mv
    | apply State.Moves.ite | exact mem_of (by decide))

theorem State.supplyWrite_mv (w : BarWrite) (g : Nat) (hm : CSub 0x31c57 μ) (hn : TSub 0x40000004000 ν) :
    State.Moves μ ν s₀ (State.supplyWrite s w g) := by
  unfold State.supplyWrite
  try dsimp only
  with_reducible repeat' (first
    | assumption | intro _ | exact hm.sub (by decide) | exact hn.sub (by decide)
    | exact hn.bit (by decide) | exact hm.bit (by decide) | apply State.setStop_mv | apply State.setCgate_mv
    | apply State.Moves.ite | split | rfl | exact mem_of (by decide))

theorem State.afterWrite_mv (old : State) (off : Bool) (w : BarWrite) (t : Tab) (i : Nat) (hm : CSub 0xedfdfd7 μ)
    (hn : TSub 0x102201ec62770eb5748 ν) :
    State.Moves μ ν s₀ (State.afterWrite s old off w t i) := by
  unfold State.afterWrite
  try dsimp only
  with_reducible repeat' (first
    | assumption | intro _ | exact hm.sub (by decide) | exact hn.sub (by decide)
    | exact hn.bit (by decide) | apply State.rput_mv | apply State.sendMsix_mv | apply State.resetPartition_mv
    | apply State.cisOpStart_mv | apply State.beginTest_mv | apply State.armTrace_mv | apply State.retrainPort_mv
    | apply State.disablePort_mv | apply State.ringControl_mv | apply State.settleTime_mv | apply State.snapshot_mv
    | apply State.secStart_mv | apply State.clearHistoryNow_mv | apply State.hostRung_mv | apply State.evtAgain_mv
    | apply State.unmask_mv | apply State.supplyWrite_mv | apply State.Moves.ite | split | exact mem_of (by decide))

theorem State.startBusy_mv (w : BarWrite) (t : Tab) (hm : CSub 0xc001000 μ) (hn : TSub 0x1000012000220000000 ν) :
    State.MvOpt μ ν s₀ (State.startBusy s w t) := by
  unfold State.startBusy
  try dsimp only
  with_reducible repeat' (first
    | assumption | intro _ | apply State.logError_mv | apply State.MvOpt.some | exact State.MvOpt.none
    | apply State.MvOpt.ite | split)

theorem State.writeEntry_mv (w : BarWrite) (t : Tab) (i : Nat) (t_t : ν.testBit t.ctorIdx = true)
    (hm : CSub 0xedfdfd7 μ) (hn : TSub 0x102201ec62770eb5749 ν) :
    State.Moves μ ν s₀ (State.writeEntry s w t i) := by
  unfold State.writeEntry
  try dsimp only
  with_reducible repeat' (first
    | assumption | intro _ | exact hm.sub (by decide) | exact hn.sub (by decide)
    | exact hn.bit (by decide) | apply State.rinc_mv | apply State.refuse_mv | apply State.writeFld_mv
    | apply State.afterWrite_mv | (refine State.MvOpt.of ?_ _ (by assumption); apply State.startBusy_mv)
    | apply State.Moves.ite | apply foldl_mv | split | exact fld_of_tab (by with_reducible assumption)
    | exact bit_of_tab (by with_reducible assumption) (by with_reducible assumption) | exact mem_of (by decide))

theorem State.barWrite_mv (off : Nat) (width : Nat) (v : Nat) (hm : CSub 0xedfdfd7 μ)
    (hn : TSub 0x1ffffffffffffffffff ν) :
    State.Moves μ ν s₀ (State.barWrite s off width v) := by
  unfold State.barWrite
  try dsimp only
  with_reducible repeat' (first
    | assumption | intro _ | exact hm.sub (by decide) | exact hn.sub (by decide) | apply State.refuse_mv
    | apply State.hostTrigger_mv | apply State.hostMark_mv | apply State.cmdDoorbell_mv | apply State.cplDoorbell_mv
    | apply State.adjust_mv | apply State.writeEntry_mv | apply State.Moves.ite | split
    | exact hn.bit (Tab.bit_all _))

theorem State.earlyWrite_mv (off : Nat) (width : Nat) (v : Nat) (hn : TSub 0x100000000 ν) :
    State.Moves μ ν s₀ (State.earlyWrite s off width v) := by
  unfold State.earlyWrite
  try dsimp only
  with_reducible repeat' (first
    | assumption | intro _ | exact hn.bit (by decide) | apply State.rput_mv | apply State.Moves.ite | split
    | exact mem_of (by decide))

theorem State.hostWrite_mv (off : Nat) (width : Nat) (v : Nat) (hm : CSub 0xedfdfd7 μ)
    (hn : TSub 0x1ffffffffffffffffff ν) :
    State.Moves μ ν s₀ (State.hostWrite s off width v) := by
  unfold State.hostWrite
  try dsimp only
  with_reducible repeat' (first
    | assumption | intro _ | exact hn.sub (by decide) | apply State.barWrite_mv | apply State.earlyWrite_mv
    | apply State.Moves.ite)

theorem State.onHostWrite_mv (f : State → State) (h_f : ∀ (y : State), State.Moves μ ν s₀ y → State.Moves μ ν s₀
    (f y)) :
    State.Moves μ ν s₀ (State.onHostWrite s f) := by
  unfold State.onHostWrite
  try dsimp only
  with_reducible repeat' (first
    | assumption | intro _ | apply h_f | apply State.Moves.ite)

theorem State.hostRead_mv (off : Nat) (clears : List Fld) (h_clears : ∀ y ∈ clears, y ∈ Tab.fields y.tab)
    (t_clears : ∀ y ∈ clears, ν.testBit y.tab.ctorIdx = true) (hm : CSub 0x11000200 μ) :
    State.Moves μ ν s₀ (State.hostRead s off clears) := by
  unfold State.hostRead
  try dsimp only
  with_reducible repeat' (first
    | assumption | intro _ | exact hm.sub (by decide) | (refine h_clears _ ?_; with_reducible assumption)
    | (refine t_clears _ ?_; with_reducible assumption) | apply State.rput_mv | apply State.barWord_mv
    | apply State.Moves.ite | apply foldl_mv | refine State.mk_mv ?_)

theorem execRegisterWrite_mv (off : Nat) (width : Nat) (v : Word) (hm : CSub 0xedfdfd7 μ)
    (hn : TSub 0x1ffffffffffffffffff ν) :
    State.MovesO μ ν s₀ (execRegisterWrite off width v s) := by
  unfold execRegisterWrite
  try dsimp only
  with_reducible repeat' (first
    | assumption | apply State.hostWrite_mv | apply State.MovesO.next)

theorem execHubRwlRefusedRead_mv (hm : CSub 0x11000200 μ) (hn : TSub 0x1 ν) :
    State.MovesO μ ν s₀ (execHubRwlRefusedRead s) := by
  unfold execHubRwlRefusedRead
  try dsimp only
  with_reducible repeat' (first
    | assumption | intro _ | apply State.hostRead_mv | apply State.MovesO.next
    | exact fld_of_list (by with_reducible assumption) (by decide)
    | exact hn.bit (bit_of_list (by with_reducible assumption) (by decide)))

theorem execHubEvtCtrlRead_mv (hm : CSub 0x11000200 μ) (hn : TSub 0x400000000 ν) :
    State.MovesO μ ν s₀ (execHubEvtCtrlRead s) := by
  unfold execHubEvtCtrlRead
  try dsimp only
  with_reducible repeat' (first
    | assumption | intro _ | apply State.hostRead_mv | apply State.MovesO.next
    | exact fld_of_list (by with_reducible assumption) (by decide)
    | exact hn.bit (bit_of_list (by with_reducible assumption) (by decide)))

theorem execPwrInputRead_mv (hm : CSub 0x11000200 μ) (hn : TSub 0x200000000000 ν) :
    State.MovesO μ ν s₀ (execPwrInputRead s) := by
  unfold execPwrInputRead
  try dsimp only
  with_reducible repeat' (first
    | assumption | intro _ | apply State.hostRead_mv | apply State.MovesO.next
    | exact fld_of_list (by with_reducible assumption) (by decide)
    | exact hn.bit (bit_of_list (by with_reducible assumption) (by decide)))

theorem execHubEvtStatusWrite_mv (v : Word) (hm : CSub 0xedfdfd7 μ) (hn : TSub 0x1ffffffffffffffffff ν) :
    State.MovesO μ ν s₀ (execHubEvtStatusWrite v s) := by
  unfold execHubEvtStatusWrite
  try dsimp only
  with_reducible repeat' (first
    | assumption | apply State.hostWrite_mv | apply State.MovesO.next)

theorem execTsqCtxSel_mv (v : Word) (hm : CSub 0xedfdfd7 μ) (hn : TSub 0x1ffffffffffffffffff ν) :
    State.MovesO μ ν s₀ (execTsqCtxSel v s) := by
  unfold execTsqCtxSel
  try dsimp only
  with_reducible repeat' (first
    | assumption | apply State.hostWrite_mv | apply State.MovesO.next)

theorem execGauSel_mv (v : Word) (hm : CSub 0xedfdfd7 μ) (hn : TSub 0x1ffffffffffffffffff ν) :
    State.MovesO μ ν s₀ (execGauSel v s) := by
  unfold execGauSel
  try dsimp only
  with_reducible repeat' (first
    | assumption | apply State.hostWrite_mv | apply State.MovesO.next)

theorem execUpuBindSel_mv (v : Word) (hm : CSub 0xedfdfd7 μ) (hn : TSub 0x1ffffffffffffffffff ν) :
    State.MovesO μ ν s₀ (execUpuBindSel v s) := by
  unfold execUpuBindSel
  try dsimp only
  with_reducible repeat' (first
    | assumption | apply State.hostWrite_mv | apply State.MovesO.next)

theorem execColStepSel_mv (v : Word) (hm : CSub 0xedfdfd7 μ) (hn : TSub 0x1ffffffffffffffffff ν) :
    State.MovesO μ ν s₀ (execColStepSel v s) := by
  unfold execColStepSel
  try dsimp only
  with_reducible repeat' (first
    | assumption | apply State.hostWrite_mv | apply State.MovesO.next)

theorem execFabChanSel_mv (v : Word) (hm : CSub 0xedfdfd7 μ) (hn : TSub 0x1ffffffffffffffffff ν) :
    State.MovesO μ ν s₀ (execFabChanSel v s) := by
  unfold execFabChanSel
  try dsimp only
  with_reducible repeat' (first
    | assumption | apply State.hostWrite_mv | apply State.MovesO.next)

theorem execWhdRoundSel_mv (v : Word) (hm : CSub 0xedfdfd7 μ) (hn : TSub 0x1ffffffffffffffffff ν) :
    State.MovesO μ ν s₀ (execWhdRoundSel v s) := by
  unfold execWhdRoundSel
  try dsimp only
  with_reducible repeat' (first
    | assumption | apply State.hostWrite_mv | apply State.MovesO.next)

theorem execCisMouldSel_mv (v : Word) (hm : CSub 0xedfdfd7 μ) (hn : TSub 0x1ffffffffffffffffff ν) :
    State.MovesO μ ν s₀ (execCisMouldSel v s) := by
  unfold execCisMouldSel
  try dsimp only
  with_reducible repeat' (first
    | assumption | apply State.hostWrite_mv | apply State.MovesO.next)

theorem execObsSampleSel_mv (v : Word) (hm : CSub 0xedfdfd7 μ) (hn : TSub 0x1ffffffffffffffffff ν) :
    State.MovesO μ ν s₀ (execObsSampleSel v s) := by
  unfold execObsSampleSel
  try dsimp only
  with_reducible repeat' (first
    | assumption | apply State.hostWrite_mv | apply State.MovesO.next)

theorem execClearHistory_mv (entry : Nat) (hm : CSub 0x100 μ) (hn : TSub 0x40 ν) :
    State.MovesO μ ν s₀ (execClearHistory entry s) := by
  unfold execClearHistory
  try dsimp only
  with_reducible repeat' (first
    | assumption | intro _ | apply State.clearHistoryNow_mv | apply State.onHostWrite_mv | apply State.Moves.ite
    | apply State.MovesO.next)

theorem execGauRungSet_mv (v : Word) (hm : CSub 0xedfdfd7 μ) (hn : TSub 0x1ffffffffffffffffff ν) :
    State.MovesO μ ν s₀ (execGauRungSet v s) := by
  unfold execGauRungSet
  try dsimp only
  with_reducible repeat' (first
    | assumption | apply State.hostWrite_mv | apply State.MovesO.next)

theorem execRasPartReset_mv (part : Nat) (hm : CSub 0xedfdfd7 μ) (hn : TSub 0x102201ec62770eb5749 ν) :
    State.MovesO μ ν s₀ (execRasPartReset part s) := by
  unfold execRasPartReset
  try dsimp only
  with_reducible repeat' (first
    | assumption | intro _ | exact hn.bit (by decide) | apply State.writeEntry_mv | apply State.onHostWrite_mv
    | apply State.Moves.ite | apply State.MovesO.next)

theorem execRasTestStart_mv (v : Word) (hm : CSub 0xedfdfd7 μ) (hn : TSub 0x1ffffffffffffffffff ν) :
    State.MovesO μ ν s₀ (execRasTestStart v s) := by
  unfold execRasTestStart
  try dsimp only
  with_reducible repeat' (first
    | assumption | apply State.hostWrite_mv | apply State.MovesO.next)

theorem execRasLogTailWrite_mv (v : BitVec 16) (hm : CSub 0xedfdfd7 μ) (hn : TSub 0x102201ec62770eb5749 ν) :
    State.MovesO μ ν s₀ (execRasLogTailWrite v s) := by
  unfold execRasLogTailWrite
  try dsimp only
  with_reducible repeat' (first
    | assumption | intro _ | exact hn.bit (by decide) | apply State.writeEntry_mv | apply State.onHostWrite_mv
    | apply State.MovesO.next)

theorem execPwrRegionStop_mv (region : Nat) (v : Bool) (hm : CSub 0xedfdfd7 μ) (hn : TSub 0x102201ec62770eb5749 ν) :
    State.MovesO μ ν s₀ (execPwrRegionStop region v s) := by
  unfold execPwrRegionStop
  try dsimp only
  with_reducible repeat' (first
    | assumption | intro _ | exact hn.bit (by decide) | apply State.writeEntry_mv | apply State.onHostWrite_mv
    | apply State.Moves.ite | apply State.MovesO.next)

theorem execPwrRegionCgate_mv (region : Nat) (mask : Byte) (hm : CSub 0xedfdfd7 μ) (hn : TSub 0x102201ec62770eb5749 ν)
    :
    State.MovesO μ ν s₀ (execPwrRegionCgate region mask s) := by
  unfold execPwrRegionCgate
  try dsimp only
  with_reducible repeat' (first
    | assumption | intro _ | exact hn.bit (by decide) | apply State.writeEntry_mv | apply State.onHostWrite_mv
    | apply State.Moves.ite | apply State.MovesO.next)

theorem execTbsAdj_mv (v : Word) (hm : CSub 0xedfdfd7 μ) (hn : TSub 0x1ffffffffffffffffff ν) :
    State.MovesO μ ν s₀ (execTbsAdj v s) := by
  unfold execTbsAdj
  try dsimp only
  with_reducible repeat' (first
    | assumption | apply State.hostWrite_mv | apply State.MovesO.next)

theorem execObsMarkTrigger_mv (mask : BitVec 4) (hm : CSub 0xc001000 μ) (hn : TSub 0x1000012000220000000 ν) :
    State.MovesO μ ν s₀ (execObsMarkTrigger mask s) := by
  unfold execObsMarkTrigger
  try dsimp only
  with_reducible repeat' (first
    | assumption | intro _ | exact hm.sub (by decide) | exact hn.sub (by decide)
    | exact hn.bit (by decide) | exact hm.bit (by decide) | apply State.hostTrigger_mv
    | apply State.onHostWrite_mv | apply State.MovesO.next | apply State.MovesO.ite | split | rfl
    | exact mem_of (by decide))

theorem execHostMark_mv (v : Half) (hm : CSub 0x1000 μ) (hn : TSub 0x12000000000000 ν) :
    State.MovesO μ ν s₀ (execHostMark v s) := by
  unfold execHostMark
  try dsimp only
  with_reducible repeat' (first
    | assumption | intro _ | exact hm.sub (by decide) | exact hn.sub (by decide)
    | exact hn.bit (by decide) | exact hm.bit (by decide) | apply State.hostMark_mv
    | apply State.onHostWrite_mv | apply State.MovesO.next | apply State.MovesO.ite | split | rfl
    | exact mem_of (by decide))

theorem execTraceArm_mv (session : Nat) (hm : CSub 0x1000 μ) (hn : TSub 0x10000000000000 ν) :
    State.MovesO μ ν s₀ (execTraceArm session s) := by
  unfold execTraceArm
  try dsimp only
  with_reducible repeat' (first
    | assumption | intro _ | exact hm.sub (by decide) | exact hn.sub (by decide)
    | exact hn.bit (by decide) | exact hm.bit (by decide) | apply State.armTrace_mv
    | apply State.onHostWrite_mv | apply State.Moves.ite | apply State.MovesO.next | apply State.MovesO.ite | split
    | rfl | exact mem_of (by decide))

theorem execFabPortRetrain_mv (port : Nat) (hm : CSub 0xc009000 μ) (hn : TSub 0x1000012000220210000 ν) :
    State.MovesO μ ν s₀ (execFabPortRetrain port s) := by
  unfold execFabPortRetrain
  try dsimp only
  with_reducible repeat' (first
    | assumption | intro _ | exact hm.sub (by decide) | exact hn.sub (by decide)
    | exact hn.bit (by decide) | exact hm.bit (by decide) | apply State.retrainPort_mv
    | apply State.onHostWrite_mv | apply State.Moves.ite | apply State.MovesO.next | apply State.MovesO.ite | split
    | rfl | exact mem_of (by decide))

theorem execFabPortDisable_mv (port : Nat) (v : Bool) (hm : CSub 0xc009000 μ) (hn : TSub 0x1000012000220210000 ν) :
    State.MovesO μ ν s₀ (execFabPortDisable port v s) := by
  unfold execFabPortDisable
  try dsimp only
  with_reducible repeat' (first
    | assumption | intro _ | exact hm.sub (by decide) | exact hn.sub (by decide)
    | exact hn.bit (by decide) | exact hm.bit (by decide) | apply State.disablePort_mv
    | apply State.onHostWrite_mv | apply State.Moves.ite | apply State.MovesO.next | apply State.MovesO.ite | split
    | rfl | exact mem_of (by decide))

theorem execRingEnable_mv (ring : Nat) (hm : CSub 0xe0fdac4 μ) (hn : TSub 0x100001e800730e11748 ν) :
    State.MovesO μ ν s₀ (execRingEnable ring s) := by
  unfold execRingEnable
  try dsimp only
  with_reducible repeat' (first
    | assumption | intro _ | exact hn.bit (by decide) | apply State.rput_mv | apply State.ringControl_mv
    | apply State.Moves.ite | apply State.MovesO.next | exact mem_of (by decide))

theorem execRingDisable_mv (ring : Nat) (hm : CSub 0xe0fdac4 μ) (hn : TSub 0x100001e800730e11748 ν) :
    State.MovesO μ ν s₀ (execRingDisable ring s) := by
  unfold execRingDisable
  try dsimp only
  with_reducible repeat' (first
    | assumption | intro _ | apply State.ringControl_mv | apply State.onHostWrite_mv | apply State.Moves.ite
    | apply State.MovesO.next)

theorem execCmdTailDoorbell_mv (ring : Nat) (v : Half) (hm : CSub 0xc001000 μ) (hn : TSub 0x1000012000320000000 ν) :
    State.MovesO μ ν s₀ (execCmdTailDoorbell ring v s) := by
  unfold execCmdTailDoorbell
  try dsimp only
  with_reducible repeat' (first
    | assumption | intro _ | apply State.cmdDoorbell_mv | apply State.onHostWrite_mv | apply State.Moves.ite
    | apply State.MovesO.next)

theorem execCplHeadDoorbell_mv (ring : Nat) (v : Half) (hm : CSub 0xc001000 μ) (hn : TSub 0x1000012000320000000 ν) :
    State.MovesO μ ν s₀ (execCplHeadDoorbell ring v s) := by
  unfold execCplHeadDoorbell
  try dsimp only
  with_reducible repeat' (first
    | assumption | intro _ | apply State.cplDoorbell_mv | apply State.onHostWrite_mv | apply State.Moves.ite
    | apply State.MovesO.next)

theorem execSysrd_mv (t : ThreadRef) (f : FormS) (hm : CSub 0x1c01dacc μ) (hn : TSub 0x100001e800330c11008 ν) :
    State.MovesO μ ν s₀ (execSysrd t f s) := by
  unfold execSysrd
  try dsimp only
  with_reducible repeat' (first
    | assumption | intro _ | exact hm.sub (by decide) | exact hn.sub (by decide) | apply State.insnFault_mv
    | apply State.retire_mv | apply scalar_mv | apply State.barWord_mv | split)

theorem execSyswr_mv (t : ThreadRef) (f : FormS) (hm : CSub 0xedfdfdf μ) (hn : TSub 0x1ffffffffffffffffff ν) :
    State.MovesO μ ν s₀ (execSyswr t f s) := by
  unfold execSyswr
  try dsimp only
  with_reducible repeat' (first
    | assumption | intro _ | exact hm.sub (by decide) | exact hn.sub (by decide) | apply State.insnFault_mv
    | apply State.retire_mv | apply scalar_mv | apply State.barWrite_mv | split)

/-! ## Boot -/

omit h₀ in
/-- Power is lost: memory behind the host and the system flash's own records are all that stay (17, R536). -/
theorem State.lost_mv {μ ν : Nat} {s₀ s : State} (h₀ : State.Moves μ ν s₀ s) (hm : CSub 0x1fffffff μ) (hn : TSub 0x1ffffffffffffffffff ν) : State.Moves μ ν s₀ s.lost := by
  have h1 := State.memory_mv h₀ (mem := s.mem.filter fun c => decide (hostBase ≤ c.1)) (poison := s.poison.filter fun l => decide (hostBase ≤ l * 64))
    (fun x => Memory.filter_wf x _) (fun x => x.sublist List.filter_sublist) (hm.bit rfl) (hm.bit rfl)
  have h2 := State.drop_mv h1 (fun e => decide (e.1.tab = .mould)) (fun k v hk => by
    exact absurd (hn.bit (i := k.tab.ctorIdx) (by cases k.tab <;> rfl)) (by rw [hk]; decide))
  have h3 := State.sec_mv h2 { s.security with op := none } (fun o e => by cases e) (hm.bit rfl)
  exact State.mk_mv h3 (ho := rfl)

theorem State.choose_mv (n : Nat) (hm : CSub 0x10000000 μ) :
    State.Moves μ ν s₀ (State.choose s n).2 := by
  unfold State.choose
  try dsimp only
  with_reducible repeat' (first
    | assumption | apply State.draw_mv)

theorem State.cutUpdate_mv (o : OpRun) (hm : CSub 0x10080000 μ) :
    State.Moves μ ν s₀ (State.cutUpdate s o) := by
  unfold State.cutUpdate
  try dsimp only
  with_reducible repeat' (first
    | assumption | intro _ | exact hm.sub (by decide) | apply State.onCistern_mv | apply State.writeImage_mv
    | apply State.choose_mv | apply State.Moves.ite | split)

theorem State.cutCfg_mv (new : CfgStore) (hm : CSub 0x10080000 μ) :
    State.Moves μ ν s₀ (State.cutCfg s new) := by
  unfold State.cutCfg
  try dsimp only
  with_reducible repeat' (first
    | assumption | intro _ | exact hm.sub (by decide) | apply State.onCistern_mv | apply State.choose_mv
    | apply State.Moves.ite)

omit h₀ in
theorem State.choose_fuses (s : State) (n : Nat) : (s.choose n).2.fuses = s.fuses ∧ (s.choose n).2.security = s.security := ⟨rfl, rfl⟩

omit h₀ in
theorem State.cutSecOp_mv {μ ν : Nat} {s₀ s : State} (h₀ : State.Moves μ ν s₀ s) (hm : CSub 0x10680000 μ)  : State.Moves μ ν s₀ s.cutSecOp := by
  unfold State.cutSecOp
  dsimp only
  split
  · exact h₀
  · rename_i o ho
    split
    · exact h₀
    · rename_i hr
      have hc := State.choose_mv h₀ 2 (hm.sub rfl)
      repeat' (first
        | with_reducible assumption | exact hm.sub rfl | exact hn.sub rfl
        | with_reducible apply State.cutUpdate_mv | with_reducible apply State.cutCfg_mv | with_reducible apply State.burnEpoch_mv
        | with_reducible apply State.writeItem_mv | with_reducible apply State.onCistern_mv
        | exact State.burn_mv hc o ho (by with_reducible assumption) (by simpa using hr) (hm.sub rfl)
        | split)

theorem State.tornMark_mv (cause : StopCause) (hm : CSub 0x80000 μ) :
    State.Moves μ ν s₀ (State.tornMark s cause) := by
  unfold State.tornMark
  try dsimp only
  with_reducible repeat' (first
    | assumption | intro _ | apply State.writeBoth_mv | apply State.onCistern_mv | apply State.Moves.ite)

theorem State.stopModule_mv (cause : StopCause) (hm : CSub 0x1fffffff μ) (hn : TSub 0x1ffffffffffffffffff ν) :
    State.Moves μ ν s₀ (State.stopModule s cause) := by
  unfold State.stopModule
  try dsimp only
  with_reducible repeat' (first
    | assumption | exact hm.sub (by decide) | exact hn.bit (by decide) | apply State.rput_mv
    | apply State.onPower_mv | apply State.lost_mv | apply State.cutSecOp_mv | exact mem_of (by decide))

theorem execPowerFail_mv (mv : Nat) (hm : CSub 0x1fffffff μ) (hn : TSub 0x1ffffffffffffffffff ν) :
    State.MovesO μ ν s₀ (execPowerFail mv s) := by
  unfold execPowerFail
  try dsimp only
  with_reducible repeat' (first
    | assumption | intro _ | exact hm.sub (by decide) | apply State.onPower_mv | apply State.stopModule_mv
    | apply State.Moves.ite | apply State.MovesO.next)

theorem execOverVoltageStop_mv (mv : Nat) (hm : CSub 0x1fffffff μ) (hn : TSub 0x1ffffffffffffffffff ν) :
    State.MovesO μ ν s₀ (execOverVoltageStop mv s) := by
  unfold execOverVoltageStop
  try dsimp only
  with_reducible repeat' (first
    | assumption | intro _ | apply State.stopModule_mv | apply State.Moves.ite | apply State.MovesO.next)

theorem execThermtrip_mv (hm : CSub 0x1fffffff μ) (hn : TSub 0x1ffffffffffffffffff ν) :
    State.MovesO μ ν s₀ (execThermtrip s) := by
  unfold execThermtrip
  try dsimp only
  with_reducible repeat' (first
    | assumption | intro _ | exact hm.sub (by decide) | apply State.onPower_mv | apply State.stopModule_mv
    | apply State.Moves.ite | apply State.MovesO.next)

theorem execHoldUpEnd_mv (hm : CSub 0x1fffffff μ) (hn : TSub 0x1ffffffffffffffffff ν) :
    State.MovesO μ ν s₀ (execHoldUpEnd s) := by
  unfold execHoldUpEnd
  try dsimp only
  with_reducible repeat' (first
    | assumption | exact hm.sub (by decide) | apply State.onPower_mv | apply State.lost_mv
    | apply State.tornMark_mv | apply State.MovesO.next | split)

theorem execPowerGood_mv (hm : CSub 0x1fffffff μ) (hn : TSub 0x1ffffffffffffffffff ν) :
    State.MovesO μ ν s₀ (execPowerGood s) := by
  unfold execPowerGood
  try dsimp only
  with_reducible repeat' (first
    | assumption | intro _ | exact hm.sub (by decide) | apply State.onPower_mv | apply State.lost_mv
    | apply State.Moves.ite | apply State.MovesO.next)

theorem State.moduleReset_mv (hm : CSub 0x1fffffff μ) (hn : TSub 0x1ffffffffffffffffff ν) :
    State.Moves μ ν s₀ (State.moduleReset s) := by
  unfold State.moduleReset
  try dsimp only
  with_reducible repeat' (first
    | assumption | exact hm.sub (by decide) | exact hn.bit (by decide) | apply State.rput_mv
    | apply State.lost_mv | apply State.cutSecOp_mv | apply State.tornMark_mv | exact mem_of (by decide))

theorem execPerstNAssert_mv (long : Bool) (hm : CSub 0x1fffffff μ) (hn : TSub 0x1ffffffffffffffffff ν) :
    State.MovesO μ ν s₀ (execPerstNAssert long s) := by
  unfold execPerstNAssert
  try dsimp only
  with_reducible repeat' (first
    | assumption | intro _ | exact hm.sub (by decide) | apply State.onPower_mv | apply State.moduleReset_mv
    | apply State.Moves.ite | apply State.MovesO.next)

theorem execPerstNDeassert_mv (hm : CSub 0x800000 μ) :
    State.MovesO μ ν s₀ (execPerstNDeassert s) := by
  unfold execPerstNDeassert
  try dsimp only
  with_reducible repeat' (first
    | assumption | apply State.onPower_mv | apply State.MovesO.next)

theorem State.enterHostLoad_mv (reason : Nat) (hm : CSub 0xc001000 μ) (hn : TSub 0x1000012000aa0000000 ν) :
    State.Moves μ ν s₀ (State.enterHostLoad s reason) := by
  unfold State.enterHostLoad
  try dsimp only
  with_reducible repeat' (first
    | assumption | exact hm.sub (by decide) | exact hn.sub (by decide) | exact hn.bit (by decide)
    | apply State.rput_mv | apply State.setEvt_mv | apply State.logError_mv | exact mem_of (by decide))

theorem State.reportStop_mv (hm : CSub 0xc081000 μ) (hn : TSub 0x1000012000220000000 ν) :
    State.Moves μ ν s₀ (State.reportStop s) := by
  unfold State.reportStop
  try dsimp only
  with_reducible repeat' (first
    | assumption | exact hm.sub (by decide) | apply State.logError_mv | apply State.onCistern_mv | split)

theorem State.lostRecord_mv (fresh : SysValue) (hm : CSub 0xc081000 μ) (hn : TSub 0x1000012000220000000 ν) :
    State.Moves μ ν s₀ (State.lostRecord s fresh) := by
  unfold State.lostRecord
  try dsimp only
  with_reducible repeat' (first
    | assumption | intro _ | exact hm.sub (by decide) | apply State.logError_mv | apply State.writeItem_mv
    | apply State.Moves.ite | split)

theorem State.readRecords_mv (hm : CSub 0xe081000 μ) (hn : TSub 0x1000012000220000000 ν) :
    State.Moves μ ν s₀ (State.readRecords s) := by
  unfold State.readRecords
  try dsimp only
  with_reducible repeat' (first
    | assumption | intro _ | exact hm.sub (by decide) | apply State.lostRecord_mv | apply State.Moves.ite
    | refine State.mk_mv ?_)

theorem State.firmwareRuns_mv (hm : CSub 0xe5a1240 μ) (hn : TSub 0x1000092024a20000000 ν) :
    State.Moves μ ν s₀ (State.firmwareRuns s) := by
  unfold State.firmwareRuns
  try dsimp only
  with_reducible repeat' (first
    | assumption | intro _ | exact hm.sub (by decide) | exact hn.sub (by decide)
    | exact hn.bit (by decide) | apply State.rput_mv | apply State.recoverMoulds_mv
    | (with_reducible refine State.onSec_mv ?_ _ (fun _ => by with_reducible rfl) ?_) | apply State.restore_mv
    | apply State.reportStop_mv | apply State.readRecords_mv | apply State.Moves.ite | exact mem_of (by decide))

theorem State.rebuildCensus_mv (hn : TSub 0x100 ν) :
    State.Moves μ ν s₀ (State.rebuildCensus s) := by
  unfold State.rebuildCensus
  try dsimp only
  with_reducible repeat' (first
    | assumption | intro _ | exact hn.bit (by decide) | apply State.rput_mv | apply foldl_mv
    | exact mem_of (by decide))

theorem State.setSplit_mv (v : Nat) (hn : TSub 0x400 ν) :
    State.Moves μ ν s₀ (State.setSplit s v) := by
  unfold State.setSplit
  try dsimp only
  with_reducible repeat' (first
    | assumption | intro _ | exact hn.sub (by decide) | exact hn.bit (by decide) | apply State.rput_mv
    | apply foldl_mv | apply foldl_mv2 | apply foldl_mv1 | split | rfl | exact mem_of (by decide))

theorem State.beginSelfTest_mv (hn : TSub 0x500 ν) :
    State.Moves μ ν s₀ (State.beginSelfTest s) := by
  unfold State.beginSelfTest
  try dsimp only
  with_reducible repeat' (first
    | assumption | intro _ | exact hn.sub (by decide) | exact hn.bit (by decide)
    | apply State.rebuildCensus_mv | apply State.setSplit_mv | split | rfl | exact mem_of (by decide))

theorem State.trainMemory_mv (hm : CSub 0x3 μ) (hn : TSub 0x2000000 ν) :
    State.Moves μ ν s₀ (State.trainMemory s) := by
  unfold State.trainMemory
  try dsimp only
  with_reducible repeat' (first
    | assumption | intro _ | exact hm.sub (by decide) | exact hn.sub (by decide)
    | exact hn.bit (by decide) | exact hm.bit (by decide) | apply State.rput_mv | apply State.wipe_mv
    | apply State.Moves.ite | apply foldl_mv | apply foldl_mv2 | apply foldl_mv1 | split | rfl
    | exact mem_of (by decide))

theorem State.applyEntry_mv (b : List Byte) (i : Nat) (hm : CSub 0x1edfdfd7 μ) (hn : TSub 0x1ffffffffffffffffff ν) :
    State.Moves μ ν s₀ (State.applyEntry s b i) := by
  unfold State.applyEntry
  try dsimp only
  with_reducible repeat' (first
    | assumption | exact hm.sub (by decide) | apply State.barWrite_mv)

theorem State.applyCfg_mv (hm : CSub 0x1edfdfd7 μ) (hn : TSub 0x1ffffffffffffffffff ν) :
    State.Moves μ ν s₀ (State.applyCfg s) := by
  unfold State.applyCfg
  try dsimp only
  with_reducible repeat' (first
    | assumption | intro _ | exact hm.sub (by decide) | exact hn.sub (by decide)
    | exact hn.bit (by decide) | apply State.rput_mv | apply State.logError_mv
    | (with_reducible refine State.onSec_mv ?_ _ (fun _ => by with_reducible rfl) ?_) | apply State.applyEntry_mv
    | apply State.Moves.ite | apply foldl_mv | split | exact mem_of (by decide))

theorem State.orderDone_mv (n : Nat) (hm : CSub 0x400000 μ) (hn : TSub 0x800000000 ν) :
    State.Moves μ ν s₀ (State.orderDone s n) := by
  unfold State.orderDone
  try dsimp only
  with_reducible repeat' (first
    | assumption | exact hn.bit (by decide) | apply State.rput_mv
    | (with_reducible refine State.onSec_mv ?_ _ (fun _ => by with_reducible rfl) ?_) | exact mem_of (by decide))

theorem State.orderWork_mv (n : Nat) (hm : CSub 0x1edfdfd7 μ) (hn : TSub 0x1ffffffffffffffffff ν) :
    State.Moves μ ν s₀ (State.orderWork s n) := by
  unfold State.orderWork
  try dsimp only
  with_reducible repeat' (first
    | assumption | intro _ | exact hm.sub (by decide) | exact hn.sub (by decide)
    | exact hn.bit (by decide) | exact hm.bit (by decide) | apply State.rput_mv | apply State.firmwareRuns_mv
    | apply State.setSplit_mv | apply State.beginSelfTest_mv | apply State.trainMemory_mv | apply State.applyCfg_mv
    | split | refine State.mk_mv ?_ | rfl | exact hn.bit (Tab.bit_all _) | exact mem_of (by decide))

theorem execBootOrderComplete_mv (order : Nat) (hm : CSub 0x1edfdfd7 μ) (hn : TSub 0x1ffffffffffffffffff ν) :
    State.MovesO μ ν s₀ (execBootOrderComplete order s) := by
  unfold execBootOrderComplete
  try dsimp only
  with_reducible repeat' (first
    | assumption | intro _ | exact hm.sub (by decide) | exact hn.sub (by decide)
    | (with_reducible refine State.onSec_mv ?_ _ (fun _ => by with_reducible rfl) ?_) | apply State.enterHostLoad_mv
    | apply State.orderDone_mv | apply State.orderWork_mv | apply State.Moves.ite | apply State.MovesO.next | split)

/-! ## HostLink -/

theorem State.onLink_mv (f : HostLink → HostLink) (hm : CSub 0x1000000 μ) :
    State.Moves μ ν s₀ (State.onLink s f) := by
  unfold State.onLink
  try dsimp only
  with_reducible repeat' (first
    | assumption | refine State.mk_mv ?_)

theorem State.linkField_mv (f : Fld) (v : Nat) (h_f : f ∈ Tab.fields f.tab) (t_f : ν.testBit f.tab.ctorIdx = true)
    (hm : CSub 0x8000000 μ) (hn : TSub 0x1000000000200000000 ν) :
    State.Moves μ ν s₀ (State.linkField s f v) := by
  unfold State.linkField
  try dsimp only
  with_reducible repeat' (first
    | assumption | intro _ | exact hn.sub (by decide) | exact hn.bit (by decide) | apply State.rput_mv
    | apply State.setEvt_mv | apply State.Moves.ite | exact mem_of (by decide))

theorem State.ideFlags_mv (hm : CSub 0x8000000 μ) (hn : TSub 0x1000000000280000000 ν) :
    State.Moves μ ν s₀ (State.ideFlags s) := by
  unfold State.ideFlags
  try dsimp only
  with_reducible repeat' (first
    | assumption | exact hn.sub (by decide) | exact hn.bit (by decide) | apply State.linkField_mv
    | exact mem_of (by decide))

theorem State.dropKeys_mv (hm : CSub 0x9000000 μ) (hn : TSub 0x1000000000280000000 ν) :
    State.Moves μ ν s₀ (State.dropKeys s) := by
  unfold State.dropKeys
  try dsimp only
  with_reducible repeat' (first
    | assumption | exact hm.sub (by decide) | apply State.onLink_mv | apply State.ideFlags_mv)

theorem State.setLink_mv (width : Nat) (speed : Nat) (hm : CSub 0x8000000 μ) (hn : TSub 0x1000000000280000000 ν) :
    State.Moves μ ν s₀ (State.setLink s width speed) := by
  unfold State.setLink
  try dsimp only
  with_reducible repeat' (first
    | assumption | exact hn.sub (by decide) | exact hn.bit (by decide) | apply State.linkField_mv
    | exact mem_of (by decide))

theorem execHostLinkTrained_mv (width : Nat) (speed : Nat) (hm : CSub 0x8000000 μ) (hn : TSub 0x1000000000280000000 ν)
    :
    State.MovesO μ ν s₀ (execHostLinkTrained width speed s) := by
  unfold execHostLinkTrained
  try dsimp only
  with_reducible repeat' (first
    | assumption | intro _ | exact hn.bit (by decide) | apply State.rinc_mv | apply State.setLink_mv
    | apply State.Moves.ite | apply State.MovesO.next | exact mem_of (by decide))

theorem execHostLinkDown_mv (hm : CSub 0xd001000 μ) (hn : TSub 0x10000120002a0000000 ν) :
    State.MovesO μ ν s₀ (execHostLinkDown s) := by
  unfold execHostLinkDown
  try dsimp only
  with_reducible repeat' (first
    | assumption | intro _ | exact hm.sub (by decide) | exact hn.sub (by decide) | apply State.logError_mv
    | apply State.dropKeys_mv | apply State.setLink_mv | apply State.Moves.ite | apply State.MovesO.next)

theorem execHostLinkDegraded_mv (width : Nat) (speed : Nat) (hm : CSub 0xd001000 μ)
    (hn : TSub 0x10000120002a0000000 ν) :
    State.MovesO μ ν s₀ (execHostLinkDegraded width speed s) := by
  unfold execHostLinkDegraded
  try dsimp only
  with_reducible repeat' (first
    | assumption | intro _ | exact hm.sub (by decide) | exact hn.sub (by decide)
    | exact hn.bit (by decide) | apply State.rinc_mv | apply State.setEvt_mv | apply State.logError_mv
    | apply State.dropKeys_mv | apply State.setLink_mv | apply State.Moves.ite | apply State.MovesO.next
    | exact mem_of (by decide))

theorem execCxlCacheMemEnable_mv (cache : Bool) (mem : Bool) (dec : List HdmDecoder) (hm : CSub 0x9000000 μ)
    (hn : TSub 0x1000000000280000000 ν) :
    State.MovesO μ ν s₀ (execCxlCacheMemEnable cache mem dec s) := by
  unfold execCxlCacheMemEnable
  try dsimp only
  with_reducible repeat' (first
    | assumption | intro _ | exact hm.sub (by decide) | exact hn.sub (by decide)
    | exact hn.bit (by decide) | apply State.onLink_mv | apply State.linkField_mv | apply State.Moves.ite
    | apply State.MovesO.next | exact mem_of (by decide))

theorem State.admitLine_mv (l : Nat) (hm : CSub 0x4000 μ) :
    State.Moves μ ν s₀ (State.admitLine s l) := by
  unfold State.admitLine
  try dsimp only
  with_reducible repeat' (first
    | assumption | intro _ | apply State.Moves.ite | split | refine State.mk_mv ?_)

theorem execHdmRead_mv (addr : Nat) (hm : CSub 0x1004800 μ) (hn : TSub 0x6000000000000 ν) :
    State.MovesO μ ν s₀ (execHdmRead addr s) := by
  unfold execHdmRead
  try dsimp only
  with_reducible repeat' (first
    | assumption | intro _ | exact hm.sub (by decide) | exact hn.bit (by decide) | apply State.rwrap_mv
    | apply State.countBytes_mv | apply State.onLink_mv | apply State.admitLine_mv | apply State.MovesO.next
    | apply State.MovesO.ite | exact State.MovesO.fault | split | exact mem_of (by decide))

theorem execHdmWrite_mv (addr : Nat) (data : List Byte) (poison : Bool) (cached : Bool) (hm : CSub 0x4803 μ)
    (hn : TSub 0x6000000000000 ν) :
    State.MovesO μ ν s₀ (execHdmWrite addr data poison cached s) := by
  unfold execHdmWrite
  try dsimp only
  with_reducible repeat' (first
    | assumption | intro _ | exact hm.sub (by decide) | exact hn.bit (by decide) | apply State.rwrap_mv
    | apply State.store_mv | apply State.admitLine_mv | apply State.Moves.ite | apply State.MovesO.next
    | apply State.MovesO.ite | exact State.MovesO.fault | split | exact mem_of (by decide))

theorem State.setKeys_mv (i : IdeStream) (d : IdeDir) (k : IdeKeys) (hm : CSub 0x9000000 μ)
    (hn : TSub 0x1000000000280000000 ν) :
    State.Moves μ ν s₀ (State.setKeys s i d k) := by
  unfold State.setKeys
  try dsimp only
  with_reducible repeat' (first
    | assumption | exact hm.sub (by decide) | apply State.onLink_mv | apply State.ideFlags_mv)

theorem State.keyAnswer_mv (error : Option Nat) (hm : CSub 0x400000 μ) :
    State.Moves μ ν s₀ (State.keyAnswer s error) := by
  unfold State.keyAnswer
  try dsimp only
  with_reducible repeat' (first
    | assumption | (with_reducible refine State.onSec_mv ?_ _ (fun _ => by with_reducible rfl) ?_))

theorem execKeyProg_mv (i : IdeStream) (d : IdeDir) (slot : Bool) (hm : CSub 0x9400000 μ)
    (hn : TSub 0x1000000000280000000 ν) :
    State.MovesO μ ν s₀ (execKeyProg i d slot s) := by
  unfold execKeyProg
  try dsimp only
  with_reducible repeat' (first
    | assumption | intro _ | exact hm.sub (by decide) | apply State.setKeys_mv | apply State.keyAnswer_mv
    | apply State.Moves.ite | apply State.MovesO.next)

theorem execKSetGo_mv (i : IdeStream) (d : IdeDir) (hm : CSub 0x9000000 μ) (hn : TSub 0x1000000000280000000 ν) :
    State.MovesO μ ν s₀ (execKSetGo i d s) := by
  unfold execKSetGo
  try dsimp only
  with_reducible repeat' (first
    | assumption | intro _ | apply State.setKeys_mv | apply State.Moves.ite | apply State.MovesO.next | split)

theorem execIdeKeySwitch_mv (i : IdeStream) (hm : CSub 0x9000000 μ) (hn : TSub 0x1000000000280000000 ν) :
    State.MovesO μ ν s₀ (execIdeKeySwitch i s) := by
  unfold execIdeKeySwitch
  try dsimp only
  with_reducible repeat' (first
    | assumption | intro _ | apply State.setKeys_mv | apply State.Moves.ite | apply State.MovesO.next)

theorem State.dropStream_mv (i : IdeStream) (hm : CSub 0x9000000 μ) (hn : TSub 0x1000000000280000000 ν) :
    State.Moves μ ν s₀ (State.dropStream s i) := by
  unfold State.dropStream
  try dsimp only
  with_reducible repeat' (first
    | assumption | exact hm.sub (by decide) | apply State.onLink_mv | apply State.ideFlags_mv)

theorem execCxlItemReceive_mv (i : IdeStream) (item : IdeItem) (hm : CSub 0xd001000 μ)
    (hn : TSub 0x10000120002a0000000 ν) :
    State.MovesO μ ν s₀ (execCxlItemReceive i item s) := by
  unfold execCxlItemReceive
  try dsimp only
  with_reducible repeat' (first
    | assumption | intro _ | exact hm.sub (by decide) | exact hn.sub (by decide)
    | exact hn.bit (by decide) | apply State.rinc_mv | apply State.setEvt_mv | apply State.logError_mv
    | apply State.setKeys_mv | apply State.dropStream_mv | apply State.Moves.ite | apply State.MovesO.next
    | exact mem_of (by decide))

/-! ## Scalar -/

theorem execIadd_mv (t : ThreadRef) (f : FormS) (hm : CSub 0xc01dacc μ) (hn : TSub 0x100001e800330c11008 ν) :
    State.MovesO μ ν s₀ (execIadd t f s) := by
  unfold execIadd
  try dsimp only
  with_reducible repeat' (first
    | assumption | apply regWrite_mv)

theorem execIlogic_mv (t : ThreadRef) (f : FormS) (hm : CSub 0xc01dacc μ) (hn : TSub 0x100001e800330c11008 ν) :
    State.MovesO μ ν s₀ (execIlogic t f s) := by
  unfold execIlogic
  try dsimp only
  with_reducible repeat' (first
    | assumption | apply regWrite_mv)

theorem execIshift_mv (t : ThreadRef) (f : FormS) (hm : CSub 0xc01dacc μ) (hn : TSub 0x100001e800330c11008 ν) :
    State.MovesO μ ν s₀ (execIshift t f s) := by
  unfold execIshift
  try dsimp only
  with_reducible repeat' (first
    | assumption | apply regWrite_mv)

theorem execIcmp_mv (t : ThreadRef) (f : FormS) (hm : CSub 0xc01dacc μ) (hn : TSub 0x100001e800330c11008 ν) :
    State.MovesO μ ν s₀ (execIcmp t f s) := by
  unfold execIcmp
  try dsimp only
  with_reducible repeat' (first
    | assumption | intro _ | exact hm.sub (by decide) | apply State.retire_mv | apply scalar_mv)

theorem execImovi_mv (t : ThreadRef) (f : FormS) (hm : CSub 0xc01dacc μ) (hn : TSub 0x100001e800330c11008 ν) :
    State.MovesO μ ν s₀ (execImovi t f s) := by
  unfold execImovi
  try dsimp only
  with_reducible repeat' (first
    | assumption | apply regWrite_mv)

theorem execPlogic_mv (t : ThreadRef) (f : FormS) (hm : CSub 0xc01dacc μ) (hn : TSub 0x100001e800330c11008 ν) :
    State.MovesO μ ν s₀ (execPlogic t f s) := by
  unfold execPlogic
  try dsimp only
  with_reducible repeat' (first
    | assumption | intro _ | exact hm.sub (by decide) | apply State.retire_mv | apply scalar_mv)

theorem execF32_mv (t : ThreadRef) (f : FormS) (hm : CSub 0xc01dacc μ) (hn : TSub 0x100001e800330c11008 ν) :
    State.MovesO μ ν s₀ (execF32 t f s) := by
  unfold execF32
  try dsimp only
  with_reducible repeat' (first
    | assumption | apply regWrite_mv)

theorem execF64_mv (t : ThreadRef) (f : FormS) (hm : CSub 0xc01dacc μ) (hn : TSub 0x100001e800330c11008 ν) :
    State.MovesO μ ν s₀ (execF64 t f s) := by
  unfold execF64
  try dsimp only
  with_reducible repeat' (first
    | assumption | apply regWrite_mv)

theorem execFcvt_mv (t : ThreadRef) (f : FormS) (hm : CSub 0xc01dacc μ) (hn : TSub 0x100001e800330c11008 ν) :
    State.MovesO μ ν s₀ (execFcvt t f s) := by
  unfold execFcvt
  try dsimp only
  with_reducible repeat' (first
    | assumption | apply regWrite_mv)

theorem writeSpecial_mv (t : ThreadRef) (n : Nat) (v : Word) (th : Thread) (hm : CSub 0xc0192c4 μ)
    (hn : TSub 0x100001a000330c11008 ν) :
    State.Moves μ ν s₀ (writeSpecial t n v th s) := by
  unfold writeSpecial
  try dsimp only
  with_reducible repeat' (first
    | assumption | intro _ | exact hm.sub (by decide) | apply State.insnFault_mv | apply State.retire_mv
    | apply State.Moves.ite | split)

theorem execMovs_mv (t : ThreadRef) (f : FormS) (hm : CSub 0xc01dacc μ) (hn : TSub 0x100001e800330c11008 ν) :
    State.MovesO μ ν s₀ (execMovs t f s) := by
  unfold execMovs
  try dsimp only
  with_reducible repeat' (first
    | assumption | intro _ | exact hm.sub (by decide) | exact hn.sub (by decide) | apply State.retire_mv
    | apply scalar_mv | apply writeSpecial_mv | apply State.Moves.ite)

theorem execBr_mv (t : ThreadRef) (f : FormS) (hm : CSub 0xc01dacc μ) (hn : TSub 0x100001e800330c11008 ν) :
    State.MovesO μ ν s₀ (execBr t f s) := by
  unfold execBr
  try dsimp only
  with_reducible repeat' (first
    | assumption | intro _ | exact hm.sub (by decide) | apply State.setThread_mv | apply scalar_mv)

theorem execJmp_mv (t : ThreadRef) (f : FormS) (hm : CSub 0xc01dacc μ) (hn : TSub 0x100001e800330c11008 ν) :
    State.MovesO μ ν s₀ (execJmp t f s) := by
  unfold execJmp
  try dsimp only
  with_reducible repeat' (first
    | assumption | intro _ | exact hm.sub (by decide) | exact hn.sub (by decide) | apply State.setThread_mv
    | apply State.insnFault_mv | apply scalar_mv | apply State.Moves.ite)

theorem execCall_mv (t : ThreadRef) (f : FormS) (hm : CSub 0xc01dacc μ) (hn : TSub 0x100001e800330c11008 ν) :
    State.MovesO μ ν s₀ (execCall t f s) := by
  unfold execCall
  try dsimp only
  with_reducible repeat' (first
    | assumption | intro _ | exact hm.sub (by decide) | apply State.setThread_mv | apply scalar_mv)

theorem execExit_mv (t : ThreadRef) (f : FormS) (hm : CSub 0xc01dacc μ) (hn : TSub 0x100001e800330c11008 ν) :
    State.MovesO μ ν s₀ (execExit t f s) := by
  unfold execExit
  try dsimp only
  with_reducible repeat' (first
    | assumption | intro _ | exact hm.sub (by decide) | apply State.endThread_mv | apply scalar_mv)

/-! ## Spdm -/

theorem State.onSpdm_mv (f : Spdm → Spdm) (hm : CSub 0x400000 μ) :
    State.Moves μ ν s₀ (State.onSpdm s f) := by
  unfold State.onSpdm
  try dsimp only
  with_reducible repeat' (first
    | assumption | (with_reducible refine State.onSec_mv ?_ _ (fun _ => by with_reducible rfl) ?_))

theorem State.answer_mv (q : SpdmRef) (code : Nat) (error : Option Nat) (bs : List Byte) (sig : Option (List Byte))
    (hm : CSub 0x400000 μ) :
    State.Moves μ ν s₀ (State.answer s q code error bs sig) := by
  unfold State.answer
  try dsimp only
  with_reducible repeat' (first
    | assumption | apply State.onSpdm_mv)

theorem State.spdmError_mv (q : SpdmRef) (code : Nat) (e : Nat) (hm : CSub 0x400000 μ) :
    State.Moves μ ν s₀ (State.spdmError s q code e) := by
  unfold State.spdmError
  try dsimp only
  with_reducible repeat' (first
    | assumption | apply State.answer_mv)

theorem State.onRequest_mv (q : SpdmRef) (code : Nat) (agreed : Bool) (body : State → State) (h_body : ∀
    (y : State), State.Moves μ ν s₀ y → State.Moves μ ν s₀ (body y)) (hm : CSub 0x400000 μ) :
    State.Moves μ ν s₀ (State.onRequest s q code agreed body) := by
  unfold State.onRequest
  try dsimp only
  with_reducible repeat' (first
    | assumption | intro _ | apply h_body | apply State.spdmError_mv | apply State.Moves.ite)

theorem execGetVersion_mv (q : SpdmRef) (hm : CSub 0x400000 μ) :
    State.MovesO μ ν s₀ (execGetVersion q s) := by
  unfold execGetVersion
  try dsimp only
  with_reducible repeat' (first
    | assumption | intro _ | apply State.onSpdm_mv | apply State.answer_mv | apply State.onRequest_mv
    | apply State.MovesO.next)

theorem execGetCapabilities_mv (q : SpdmRef) (hm : CSub 0x400000 μ) :
    State.MovesO μ ν s₀ (execGetCapabilities q s) := by
  unfold execGetCapabilities
  try dsimp only
  with_reducible repeat' (first
    | assumption | intro _ | apply State.answer_mv | apply State.onRequest_mv | apply State.MovesO.next)

theorem execNegotiateAlgorithms_mv (q : SpdmRef) (version : Nat) (supported : Bool) (hm : CSub 0x400000 μ) :
    State.MovesO μ ν s₀ (execNegotiateAlgorithms q version supported s) := by
  unfold execNegotiateAlgorithms
  try dsimp only
  with_reducible repeat' (first
    | assumption | intro _ | apply State.onSpdm_mv | apply State.answer_mv | apply State.spdmError_mv
    | apply State.onRequest_mv | apply State.Moves.ite | apply State.MovesO.next)

theorem execGetDigests_mv (q : SpdmRef) (hm : CSub 0x400000 μ) :
    State.MovesO μ ν s₀ (execGetDigests q s) := by
  unfold execGetDigests
  try dsimp only
  with_reducible repeat' (first
    | assumption | intro _ | apply State.answer_mv | apply State.onRequest_mv | apply State.MovesO.next)

theorem execGetCertificate_mv (q : SpdmRef) (slot : Nat) (offset : Nat) (len : Nat) (hm : CSub 0x400000 μ) :
    State.MovesO μ ν s₀ (execGetCertificate q slot offset len s) := by
  unfold execGetCertificate
  try dsimp only
  with_reducible repeat' (first
    | assumption | intro _ | apply State.answer_mv | apply State.spdmError_mv | apply State.onRequest_mv
    | apply State.Moves.ite | apply State.MovesO.next | split)

theorem State.signedAnswer_mv (q : SpdmRef) (code : Nat) (nonce : List Byte) (bs : List Byte) (hm : CSub 0x400000 μ) :
    State.Moves μ ν s₀ (State.signedAnswer s q code nonce bs) := by
  unfold State.signedAnswer
  try dsimp only
  with_reducible repeat' (first
    | assumption | intro _ | apply State.answer_mv | apply State.spdmError_mv | apply State.Moves.ite)

theorem execChallenge_mv (q : SpdmRef) (slot : Nat) (nonce : List Byte) (hm : CSub 0x400000 μ) :
    State.MovesO μ ν s₀ (execChallenge q slot nonce s) := by
  unfold execChallenge
  try dsimp only
  with_reducible repeat' (first
    | assumption | intro _ | apply State.spdmError_mv | apply State.onRequest_mv | apply State.signedAnswer_mv
    | apply State.MovesO.next | split)

theorem execGetMeasurements_mv (q : SpdmRef) (index : Nat) (signed : Bool) (nonce : List Byte) (hm : CSub 0x400000 μ)
    :
    State.MovesO μ ν s₀ (execGetMeasurements q index signed nonce s) := by
  unfold execGetMeasurements
  try dsimp only
  with_reducible repeat' (first
    | assumption | intro _ | apply State.answer_mv | apply State.spdmError_mv | apply State.onRequest_mv
    | apply State.signedAnswer_mv | apply State.Moves.ite | apply State.MovesO.next)

theorem execKeyExchange_mv (q : SpdmRef) (session : Nat) (ok : Bool) (hm : CSub 0x400000 μ) :
    State.MovesO μ ν s₀ (execKeyExchange q session ok s) := by
  unfold execKeyExchange
  try dsimp only
  with_reducible repeat' (first
    | assumption | intro _ | apply State.onSpdm_mv | apply State.spdmError_mv | apply State.onRequest_mv
    | apply State.signedAnswer_mv | apply State.Moves.ite | apply State.MovesO.next)

theorem execFinish_mv (q : SpdmRef) (session : Nat) (ok : Bool) (hm : CSub 0x400000 μ) :
    State.MovesO μ ν s₀ (execFinish q session ok s) := by
  unfold execFinish
  try dsimp only
  with_reducible repeat' (first
    | assumption | intro _ | apply State.onSpdm_mv | apply State.answer_mv | apply State.spdmError_mv
    | apply State.Moves.ite | apply State.MovesO.next | split)

theorem State.inSession_mv (q : SpdmRef) (session : Nat) (code : Nat) (body : State → State) (h_body : ∀
    (y : State), State.Moves μ ν s₀ y → State.Moves μ ν s₀ (body y)) (hm : CSub 0x400000 μ) :
    State.Moves μ ν s₀ (State.inSession s q session code body) := by
  unfold State.inSession
  try dsimp only
  with_reducible repeat' (first
    | assumption | intro _ | apply h_body | apply State.spdmError_mv | apply State.onRequest_mv | apply State.Moves.ite)

theorem execSpdmHeartbeat_mv (q : SpdmRef) (session : Nat) (hm : CSub 0x400000 μ) :
    State.MovesO μ ν s₀ (execSpdmHeartbeat q session s) := by
  unfold execSpdmHeartbeat
  try dsimp only
  with_reducible repeat' (first
    | assumption | intro _ | apply State.answer_mv | apply State.inSession_mv | apply State.MovesO.next)

theorem execKeyUpdate_mv (q : SpdmRef) (session : Nat) (hm : CSub 0x400000 μ) :
    State.MovesO μ ν s₀ (execKeyUpdate q session s) := by
  unfold execKeyUpdate
  try dsimp only
  with_reducible repeat' (first
    | assumption | intro _ | apply State.answer_mv | apply State.inSession_mv | apply State.MovesO.next)

theorem execEndSession_mv (q : SpdmRef) (session : Nat) (hm : CSub 0x400000 μ) :
    State.MovesO μ ν s₀ (execEndSession q session s) := by
  unfold execEndSession
  try dsimp only
  with_reducible repeat' (first
    | assumption | intro _ | apply State.onSpdm_mv | apply State.answer_mv | apply State.inSession_mv
    | apply State.MovesO.next)

theorem execSetCertificate_mv (q : SpdmRef) (slot : Nat) (chain : List Byte) (hm : CSub 0xc481000 μ)
    (hn : TSub 0x1000012000220000000 ν) :
    State.MovesO μ ν s₀ (execSetCertificate q slot chain s) := by
  unfold execSetCertificate
  try dsimp only
  with_reducible repeat' (first
    | assumption | intro _ | exact hm.sub (by decide) | apply State.logError_mv | apply State.writeItem_mv
    | apply State.answer_mv | apply State.spdmError_mv | apply State.onRequest_mv | apply State.Moves.ite
    | apply State.MovesO.next | apply State.MovesO.ite)

end Sys2Proof.Machine
end

