-- ==== Sys2Proof/WellFormed.lean ====
section
/-!
DEFINITION. Which commands are well formed: every operand names something that the spec gives the block and fits the field
that carries it. Instruction words, register values and handles are well formed whatever their bits: what the spec does
with a word that it reserves, or with a value out of range, is the command's meaning.
-/
namespace Sys2Proof

/-- A frame fits its headers (09, R286, R289): the class, the ids and every header field at its width, and a poison bit for each flit
that its 40-byte header and body fill. -/
def Frame.wf (f : Frame) : Bool :=
  decide (f.cls < 4 ∧ f.src < 16384 ∧ f.dest < 16384 ∧ f.channel < 32768 ∧ f.op < 256 ∧ f.member < 8192 ∧
    f.shard < 4294967296 ∧ f.segment < 65536 ∧ f.gen < 65536) &&
  decide (f.step < 18446744073709551616 ∧ f.attempt < 4294967296 ∧ f.opid < 4294967296 ∧ f.seq < 4294967296 ∧
    f.status < 256 ∧ f.srcEpoch < 256 ∧ f.dstEpoch < 256) &&
  decide (f.poison.length = (f.body.length + 40 + 243) / 244) && (f.cls != 0 || decide (f.body.length ≤ 24))

/-- A flit fits its header (09, R286). -/
def Flit.wf (f : Flit) : Bool :=
  f.idle || decide (f.cls < 4 ∧ f.dest < 16384 ∧ f.src < 16384 ∧ f.channel < 32768 ∧ f.hops < 32 ∧
    1 ≤ f.payload.length ∧ f.payload.length ≤ 244)

/-- A link block is five flits of 256 bytes and a link word of 40 bits, in two codewords (09, R284). -/
def LinkBlock.wf (b : LinkBlock) : Bool := decide (b.bytes.length = 1285 ∧ b.uncorrectable ≤ 2)

/-- A WXP header's fields at their widths (10, R338). -/
def WxpHeader.wf (p : WxpHeader) : Bool :=
  decide (p.port < 2 ∧ p.srcSite < 256 ∧ p.dstSite < 256 ∧ p.srcModule < 16384 ∧ p.round < 4294967296 ∧
    p.seq < 4294967296 ∧ p.txTime < 18446744073709551616 ∧ p.echoTime < 18446744073709551616 ∧ p.echoHold < 4294967296 ∧
    p.reason < 256)

/-- An object's name fits a piece header (10, R339). -/
def ObjectKey.wf (o : ObjectKey) : Bool :=
  decide (o.kind < 256 ∧ o.origin < 256 ∧ o.round < 4294967296 ∧ o.tensor < 16777216 ∧ o.shard < 4294967296)

/-- A piece header's fields at their widths (10, R339). -/
def PieceHeader.wf (h : PieceHeader) : Bool :=
  decide (h.kind < 256 ∧ h.origin < 256 ∧ h.piece < 65536 ∧ h.pieces < 65536 ∧ h.tensor < 16777216 ∧
    h.shard < 4294967296 ∧ h.bytes < 4294967296)

/-- An entry of a FETCH (10, R338). -/
def FragKey.wf (k : FragKey) : Bool := decide (k.origin < 256 ∧ k.tensor < 16777216 ∧ k.shard < 4294967296)

/-- The units of the two tiers: 16 stacks of 32 pseudo-channels and 16 LPDDR devices (11, R353, R355). -/
def MemUnit.wf : MemUnit → Bool
  | .stack k => decide (k < 16)
  | .pseudoChannel k p => decide (k < 16 ∧ p < 32)
  | .lpddr n => decide (n < 16)

/-- A debug request names an address of the 48-bit space or a die (15, R500; 11, R351). -/
def DebugRequest.wf : DebugRequest → Bool
  | .halt | .resume | .step => true
  | .readMemory a | .store a => decide (a < 281474976710656)
  | .writeMemory a _ => decide (a < 281474976710656)
  | .scan d => decide (d < 5)

/-- A find of the product checks names columns of the 64 that an array has (04, R124; 13, R418). -/
def ProductCheck.wf : ProductCheck → Bool
  | .agree => true
  | .residue j => decide (j < 64)
  | .checksum errors _ => errors.all fun e => decide (e.1 < 64)

/-- Is a command well formed? -/
def Instr.wf : Instr → Bool
  | .iadd _ _ => true
  | .ilogic _ _ => true
  | .ishift _ _ => true
  | .icmp _ _ => true
  | .imovi _ _ => true
  | .plogic _ _ => true
  | .f32 _ _ => true
  | .f64 _ _ => true
  | .fcvt _ _ => true
  | .movs _ _ => true
  | .br _ _ => true
  | .jmp _ _ => true
  | .call _ _ => true
  | .exit _ _ => true
  | .tspawn _ _ => true
  | .sgate _ _ => true
  | .ld _ _ => true
  | .st _ _ => true
  | .fence _ _ => true
  | .aadd _ f => decide (f.fn = 0)
  | .amin _ f => decide (f.fn = 1)
  | .amax _ f => decide (f.fn = 2)
  | .aswap _ f => decide (f.fn = 3)
  | .acas _ f => decide (f.fn = 4)
  | .dload _ _ => true
  | .dsave _ _ => true
  | .dsetf _ _ => true
  | .dgetf _ _ => true
  | .dcopy _ _ => true
  | .twait _ _ => true
  | .tpost _ _ => true
  | .tset _ _ => true
  | .tget _ _ => true
  | .mma _ _ => true
  | .tbuild _ _ => true
  | .tload _ _ => true
  | .vact _ _ => true
  | .vactb _ _ => true
  | .vew _ _ => true
  | .rnormF _ _ => true
  | .rnormB _ _ => true
  | .rsmaxF _ _ => true
  | .rsmaxB _ _ => true
  | .rmerge _ _ => true
  | .rstat _ _ => true
  | .cmove _ _ => true
  | .tmove _ _ => true
  | .cgather _ _ => true
  | .creduce _ _ => true
  | .cshift _ _ => true
  | .csend _ _ => true
  | .crecv _ _ => true
  | .uapply _ _ => true
  | .uprefetch _ _ => true
  | .ucast _ _ => true
  | .gread _ _ => true
  | .grung _ _ => true
  | .xstat _ _ => true
  | .sysrd _ _ => true
  | .syswr _ _ => true
  | .fwcall _ _ => true
  | .queueAccept _ => true
  | .engineCommandStart _ => true
  | .engineCommandComplete _ found => found.wf
  | .handshakeTimeout region unit => decide (region < 32 ∧ unit < 65536)
  | .launchAdmit => true
  | .launchTileArrival tile => decide (tile < 1024)
  | .contextCacheFill tile => decide (tile < 1024)
  | .stepGateDecide part => decide (part < 32)
  | .stateFetch bind shard => decide (bind < 8192 ∧ shard < 1048576)
  | .updateRuleRun bind shard => decide (bind < 8192 ∧ shard < 1048576)
  | .shardCommit bind shard => decide (bind < 8192 ∧ shard < 1048576)
  | .masterCorrectionCommit bind shard => decide (bind < 8192 ∧ shard < 1048576)
  | .driftAudit region => decide (region < 32)
  | .rootJobStart bind shard => decide (bind < 8192 ∧ shard < 1048576)
  | .rootJobDone bind shard => decide (bind < 8192 ∧ shard < 1048576)
  | .castComplete ctx => decide (ctx < 65536)
  | .sumpWrite region => decide (region < 32)
  | .gatherServe chan member shard => decide (chan < 32768 ∧ member < 8192 ∧ shard < 1048576)
  | .contributionLineGrant die => decide (die < 4)
  | .reductionDeadline chan shard => decide (chan < 32768 ∧ shard < 1048576)
  | .reductionAbandon chan shard => decide (chan < 32768 ∧ shard < 1048576)
  | .leaseTimeout chan member shard gen => decide (chan < 32768 ∧ member < 8192 ∧ shard < 1048576 ∧ gen < 65536)
  | .contribUnaccepted _ shard => decide (shard < 1048576)
  | .gatherTimeout _ shard => decide (shard < 1048576)
  | .gatherReq f => f.wf && decide (f.op = 1)
  | .gatherData f => f.wf && decide (f.op = 2)
  | .leaseRelease f => f.wf && decide (f.op = 3)
  | .contribution f => f.wf && decide (f.op = 4)
  | .shift f => f.wf && decide (f.op = 5)
  | .send f => f.wf && decide (f.op = 6)
  | .grant f => f.wf && decide (f.op = 7)
  | .hello f => f.wf && decide (f.op = 8)
  | .reject f => f.wf && decide (f.op = 9)
  | .tokenPost f => f.wf && decide (f.op = 10)
  | .gateFlags f => f.wf && decide (f.op = 11)
  | .digest f => f.wf && decide (f.op = 12)
  | .bulk f => f.wf && decide (f.op = 13)
  | .c0Admit source => decide (source ≤ 1026)
  | .flitTransmit port => decide (port < 32)
  | .linkBlockReceive port b => decide (port < 32) && b.wf
  | .linkAckTimeout port => decide (port < 32)
  | .portTrainingDone port _ _ _ => decide (port < 32)
  | .frameSeqTimeout src chan cls => decide (src < 16384 ∧ chan < 32768 ∧ cls < 4)
  | .channelHelloTimeout chan => decide (chan < 32768)
  | .d2dLinkDown link => decide (link < 4)
  | .d2dLinkDegraded link => decide (link < 8)
  | .hubLinkDown die => decide (die < 4)
  | .wxpHello p _ _ => p.wf
  | .piece p h data => p.wf && h.wf && decide (data.length ≤ 8192)
  | .pieceAck p o _ bitmap => p.wf && o.wf && decide (bitmap.length ≤ 65535)
  | .ledgerReq p => p.wf
  | .fetch p entries => p.wf && decide (entries.length ≤ 256) && entries.all FragKey.wf
  | .applied p _ attempt => p.wf && decide (attempt < 256)
  | .join p _ => p.wf
  | .heartbeat p => p.wf
  | .status p => p.wf
  | .pacedSend site => decide (site < 64)
  | .pieceResendTimeout site o => decide (site < 64) && o.wf
  | .pieceAckTimer site o => decide (site < 64) && o.wf
  | .heartbeatTimer site => decide (site < 64)
  | .partnerSilent site => decide (site < 64)
  | .fetchTimeout bind => decide (bind < 64)
  | .joinResend bind => decide (bind < 64)
  | .farPortControlFrame port _ => decide (port < 2)
  | .ptpEventMessage port _ _ => decide (port < 2)
  | .memPatrolRead addr r => decide (addr % 64 = 0) && (match r.met with
    | .wrong bytes => decide (bytes ≤ 72)
    | .linkCorrected => true)
  | .memDeviceFailed u => u.wf
  | .auditBandRun tile _ => decide (tile < 1024)
  | .pairTimeout tile number => decide (tile < 1056 ∧ number < 18446744073709551616)
  | .columnTest tile => decide (tile < 1024)
  | .columnTestDone tile _ => decide (tile < 1024)
  | .launch ring => decide (ring < 128)
  | .nop ring => decide (ring < 128)
  | .create ring => decide (ring < 128)
  | .enable ring => decide (ring < 128)
  | .disable ring => decide (ring < 128)
  | .destroy ring => decide (ring < 128)
  | .cast ring => decide (ring < 128)
  | .functionStartDone kind index => decide (1 ≤ kind ∧ kind ≤ 9 ∧ index < 65536)
  | .startAbort kind index => decide (1 ≤ kind ∧ kind ≤ 9 ∧ index < 65536)
  | .functionStopDone kind index => decide (1 ≤ kind ∧ kind ≤ 9 ∧ index < 65536)
  | .ringCommandTake => true
  | .completionPost ring => decide (ring < 128)
  | .functionEventPost => true
  | .interruptModerationTimeout ring => decide (ring < 128)
  | .ringEnable ring => decide (ring < 128)
  | .ringDisable ring => decide (ring < 128)
  | .cmdTailDoorbell ring _ => decide (ring < 128)
  | .cplHeadDoorbell ring _ => decide (ring < 128)
  | .hubEvtStatusWrite _ => true
  | .hubEvtCtrlRead => true
  | .hubRwlRefusedRead => true
  | .registerWrite off width _ => decide (off < 1048576 ∧ (width = 4 ∨ width = 8) ∧ off % width = 0)
  | .tsqCtxSel _ => true
  | .gauSel _ => true
  | .upuBindSel _ => true
  | .colStepSel _ => true
  | .fabChanSel _ => true
  | .whdRoundSel _ => true
  | .cisMouldSel _ => true
  | .obsSampleSel _ => true
  | .clearHistory entry => decide (entry < 16384)
  | .gauRungSet _ => true
  | .rasPartReset part => decide (part < 32)
  | .rasTestStart _ => true
  | .rasLogTailWrite _ => true
  | .fabPortRetrain port => decide (port < 32)
  | .fabPortDisable port _ => decide (port < 32)
  | .pwrRegionStop region _ => decide (region < 32)
  | .pwrRegionCgate region _ => decide (region < 32)
  | .pwrInputRead => true
  | .tbsAdj _ => true
  | .obsMarkTrigger _ => true
  | .hostMark _ => true
  | .traceArm session => decide (session < 4)
  | .linkedTrigger session source => decide (session < 4 ∧ source < 4)
  | .traceExport session => decide (session < 4)
  | .samplePeriodEnd session => decide (session < 64)
  | .fwUpdate => true
  | .cfgWrite => true
  | .cfgErase => true
  | .debugUnlock => true
  | .raiseFloor => true
  | .rekey => true
  | .factoryRestore => true
  | .secOpComplete => true
  | .mouldRead => true
  | .mouldWrite => true
  | .mouldDelete => true
  | .cisOpComplete => true
  | .mouldCommit mould => decide (mould < 4096)
  | .cisPatrol sb _ => decide (sb < 32768)
  | .cisRelocate sb => decide (sb < 32768)
  | .cisWearLevel => true
  | .cisBlockRetired sb channel => decide (sb < 32768 ∧ channel < 16)
  | .cisChannelLost channel => channel.all fun c => decide (c < 16)
  | .powerGood => true
  | .identityKeyDerived => true
  | .perstNAssert _ => true
  | .perstNDeassert => true
  | .hostLinkTrained width speed => decide (width ∈ [1, 2, 4, 8, 16] ∧ 1 ≤ speed ∧ speed ≤ 3)
  | .hostLinkDown => true
  | .hostLinkDegraded width speed => decide (width ∈ [1, 2, 4, 8, 16] ∧ 1 ≤ speed ∧ speed ≤ 3)
  | .hdmRead addr => decide (addr % 64 = 0)
  | .hdmWrite addr data _ _ => decide (addr % 64 = 0 ∧ data.length = 64)
  | .cxlItemReceive _ _ => true
  | .keyProg _ _ _ => true
  | .kSetGo _ _ => true
  | .ideKeySwitch _ => true
  | .getVersion _ => true
  | .getCapabilities _ => true
  | .negotiateAlgorithms _ _ _ => true
  | .getDigests _ => true
  | .getCertificate _ slot offset len => decide (slot < 8 ∧ offset < 65536 ∧ len < 65536)
  | .challenge _ slot nonce => decide (slot < 256 ∧ nonce.length = 32)
  | .getMeasurements _ index signed nonce => decide (index < 256) && (!signed || decide (nonce.length = 32))
  | .keyExchange _ session _ => decide (session < 4294967296)
  | .finish _ session _ => decide (session < 4294967296)
  | .spdmHeartbeat _ session => decide (session < 4294967296)
  | .keyUpdate _ session => decide (session < 4294967296)
  | .endSession _ session => decide (session < 4294967296)
  | .setCertificate _ slot _ => decide (slot < 8)
  | .inputBandChange mv => decide (mv < 65536)
  | .powerFail mv => decide (mv < 65536)
  | .overVoltageStop mv => decide (mv < 65536)
  | .thermtrip => true
  | .capTick power => decide (power < 65536)
  | .capUnmet => true
  | .thermalTick region tj => decide (region < 32 ∧ tj < 256)
  | .railStep region => decide (region < 32)
  | .refLost => true
  | .refReturn => true
  | .presenceAssert => true
  | .presenceWindowExpire => true
  | .sealBroken => true
  | .bootOrderComplete order => decide (1 ≤ order ∧ order ≤ 10)
  | .partitionResetEnd part => decide (part < 32)
  | .holdUpEnd => true
  | .mouldEraseDone mould => decide (mould < 4096)
  | .tbsSlewDone => true
  | .presenceDeassert => true
  | .farPortLinkChange port _ => decide (port < 2)
  | .debugAccess r => r.wf
  | .debugHalt _ => true
  | .dynamicAddressAssignment _ => true
  | .cxlCacheMemEnable _ _ dec => decide (dec.length ≤ 2)

end Sys2Proof
end

