-- ==== Sys2Proof/Laws/PerInstr.lean ====
section
/-!
SUPPORT. Statements made for each command by itself. The family Shape: every number among a well-formed command's operands lies below
the count of what it numbers (tiles, bindings, rings, sites, members and so on), so that it names one of them. The family Words: the words of
a thread's instruction spell it.
-/

set_option Elab.async false

namespace Sys2Proof

/-- The numbers of a frame's headers, each with its bound (09, R286, R289). -/
def Frame.numbers (f : Frame) : List (Nat × Nat) :=
  [(f.cls, 4), (f.src, 16384), (f.dest, 16384), (f.channel, 32768), (f.op, 256), (f.member, 8192), (f.segment, 65536), (f.gen, 65536),
    (f.status, 256), (f.srcEpoch, 256), (f.dstEpoch, 256)]

theorem Frame.numbers_small (f : Frame) (h : f.wf = true) : ∀ q ∈ f.numbers, q.1 < q.2 := by
  intro q hq; simp [Frame.wf] at h; simp [Frame.numbers] at hq; rcases hq with rfl | rfl | rfl | rfl | rfl | rfl | rfl | rfl | rfl | rfl | rfl <;> simp <;> omega

/-- The numbers of a packet header, each with its bound (10, R338). -/
def WxpHeader.numbers (p : WxpHeader) : List (Nat × Nat) :=
  [(p.port, 2), (p.srcSite, 256), (p.dstSite, 256), (p.srcModule, 16384), (p.reason, 256)]

theorem WxpHeader.numbers_small (p : WxpHeader) (h : p.wf = true) : ∀ q ∈ p.numbers, q.1 < q.2 := by
  intro q hq; simp [WxpHeader.wf] at h; simp [WxpHeader.numbers] at hq; rcases hq with rfl | rfl | rfl | rfl | rfl <;> simp <;> omega

/-- The numbers of a check's find: its columns (13, R418). -/
def ProductCheck.numbers : ProductCheck → List (Nat × Nat)
  | .agree => []
  | .residue j => [(j, 64)]
  | .checksum errors _ => errors.map fun e => (e.1, 64)

theorem ProductCheck.numbers_small (f : ProductCheck) (h : f.wf = true) : ∀ q ∈ f.numbers, q.1 < q.2 := by
  intro q hq
  cases f <;> simp [ProductCheck.wf] at h <;> simp [ProductCheck.numbers] at hq
  · subst hq; exact h
  · obtain ⟨j, ⟨δ, hj⟩, rfl⟩ := hq; exact h j δ hj

namespace Laws.Shape

/-- The numbers among a command's operands, each with the count of what it numbers. -/
def numbers (i : Instr) : List (Nat × Nat) :=
  match i with
  | .iadd _ _ => []
  | .ilogic _ _ => []
  | .ishift _ _ => []
  | .icmp _ _ => []
  | .imovi _ _ => []
  | .plogic _ _ => []
  | .f32 _ _ => []
  | .f64 _ _ => []
  | .fcvt _ _ => []
  | .movs _ _ => []
  | .br _ _ => []
  | .jmp _ _ => []
  | .call _ _ => []
  | .exit _ _ => []
  | .tspawn _ _ => []
  | .sgate _ _ => []
  | .ld _ _ => []
  | .st _ _ => []
  | .fence _ _ => []
  | .aadd _ _ => []
  | .amin _ _ => []
  | .amax _ _ => []
  | .aswap _ _ => []
  | .acas _ _ => []
  | .dload _ _ => []
  | .dsave _ _ => []
  | .dsetf _ _ => []
  | .dgetf _ _ => []
  | .dcopy _ _ => []
  | .twait _ _ => []
  | .tpost _ _ => []
  | .tset _ _ => []
  | .tget _ _ => []
  | .mma _ _ => []
  | .tbuild _ _ => []
  | .tload _ _ => []
  | .vact _ _ => []
  | .vactb _ _ => []
  | .vew _ _ => []
  | .rnormF _ _ => []
  | .rnormB _ _ => []
  | .rsmaxF _ _ => []
  | .rsmaxB _ _ => []
  | .rmerge _ _ => []
  | .rstat _ _ => []
  | .cmove _ _ => []
  | .tmove _ _ => []
  | .cgather _ _ => []
  | .creduce _ _ => []
  | .cshift _ _ => []
  | .csend _ _ => []
  | .crecv _ _ => []
  | .uapply _ _ => []
  | .uprefetch _ _ => []
  | .ucast _ _ => []
  | .gread _ _ => []
  | .grung _ _ => []
  | .xstat _ _ => []
  | .sysrd _ _ => []
  | .syswr _ _ => []
  | .fwcall _ _ => []
  | .queueAccept _ => []
  | .engineCommandStart _ => []
  | .engineCommandComplete _ found => found.numbers
  | .handshakeTimeout region unit => [(region, 32), (unit, 65536)]
  | .launchAdmit => []
  | .launchTileArrival tile => [(tile, 1024)]
  | .contextCacheFill tile => [(tile, 1024)]
  | .stepGateDecide part => [(part, 32)]
  | .stateFetch bind shard => [(bind, 8192), (shard, 1048576)]
  | .updateRuleRun bind shard => [(bind, 8192), (shard, 1048576)]
  | .shardCommit bind shard => [(bind, 8192), (shard, 1048576)]
  | .masterCorrectionCommit bind shard => [(bind, 8192), (shard, 1048576)]
  | .driftAudit region => [(region, 32)]
  | .rootJobStart bind shard => [(bind, 8192), (shard, 1048576)]
  | .rootJobDone bind shard => [(bind, 8192), (shard, 1048576)]
  | .castComplete ctx => [(ctx, 65536)]
  | .sumpWrite region => [(region, 32)]
  | .gatherServe chan member shard => [(chan, 32768), (member, 8192), (shard, 1048576)]
  | .contributionLineGrant die => [(die, 4)]
  | .reductionDeadline chan shard => [(chan, 32768), (shard, 1048576)]
  | .reductionAbandon chan shard => [(chan, 32768), (shard, 1048576)]
  | .leaseTimeout chan member shard gen => [(chan, 32768), (member, 8192), (shard, 1048576), (gen, 65536)]
  | .contribUnaccepted _ shard => [(shard, 1048576)]
  | .gatherTimeout _ shard => [(shard, 1048576)]
  | .gatherReq f => f.numbers
  | .gatherData f => f.numbers
  | .leaseRelease f => f.numbers
  | .contribution f => f.numbers
  | .shift f => f.numbers
  | .send f => f.numbers
  | .grant f => f.numbers
  | .hello f => f.numbers
  | .reject f => f.numbers
  | .tokenPost f => f.numbers
  | .gateFlags f => f.numbers
  | .digest f => f.numbers
  | .bulk f => f.numbers
  | .c0Admit source => [(source, 1027)]
  | .flitTransmit port => [(port, 32)]
  | .linkBlockReceive port _ => [(port, 32)]
  | .linkAckTimeout port => [(port, 32)]
  | .portTrainingDone port _ _ _ => [(port, 32)]
  | .frameSeqTimeout src chan cls => [(src, 16384), (chan, 32768), (cls, 4)]
  | .channelHelloTimeout chan => [(chan, 32768)]
  | .d2dLinkDown link => [(link, 4)]
  | .d2dLinkDegraded link => [(link, 8)]
  | .hubLinkDown die => [(die, 4)]
  | .wxpHello p _ _ => p.numbers
  | .piece p _ _ => p.numbers
  | .pieceAck p _ _ _ => p.numbers
  | .ledgerReq p => p.numbers
  | .fetch p _ => p.numbers
  | .applied p _ attempt => p.numbers ++ [(attempt, 256)]
  | .join p _ => p.numbers
  | .heartbeat p => p.numbers
  | .status p => p.numbers
  | .pacedSend site => [(site, 64)]
  | .pieceResendTimeout site _ => [(site, 64)]
  | .pieceAckTimer site _ => [(site, 64)]
  | .heartbeatTimer site => [(site, 64)]
  | .partnerSilent site => [(site, 64)]
  | .fetchTimeout bind => [(bind, 64)]
  | .joinResend bind => [(bind, 64)]
  | .farPortControlFrame port _ => [(port, 2)]
  | .ptpEventMessage port _ _ => [(port, 2)]
  | .memPatrolRead _ _ => []
  | .memDeviceFailed _ => []
  | .auditBandRun tile _ => [(tile, 1024)]
  | .pairTimeout tile number => [(tile, 1056), (number, 18446744073709551616)]
  | .columnTest tile => [(tile, 1024)]
  | .columnTestDone tile _ => [(tile, 1024)]
  | .launch ring => [(ring, 128)]
  | .nop ring => [(ring, 128)]
  | .create ring => [(ring, 128)]
  | .enable ring => [(ring, 128)]
  | .disable ring => [(ring, 128)]
  | .destroy ring => [(ring, 128)]
  | .cast ring => [(ring, 128)]
  | .functionStartDone kind index => [(kind, 10), (index, 65536)]
  | .startAbort kind index => [(kind, 10), (index, 65536)]
  | .functionStopDone kind index => [(kind, 10), (index, 65536)]
  | .ringCommandTake => []
  | .completionPost ring => [(ring, 128)]
  | .functionEventPost => []
  | .interruptModerationTimeout ring => [(ring, 128)]
  | .ringEnable ring => [(ring, 128)]
  | .ringDisable ring => [(ring, 128)]
  | .cmdTailDoorbell ring _ => [(ring, 128)]
  | .cplHeadDoorbell ring _ => [(ring, 128)]
  | .hubEvtStatusWrite _ => []
  | .hubEvtCtrlRead => []
  | .hubRwlRefusedRead => []
  | .registerWrite off _ _ => [(off, 1048576)]
  | .tsqCtxSel _ => []
  | .gauSel _ => []
  | .upuBindSel _ => []
  | .colStepSel _ => []
  | .fabChanSel _ => []
  | .whdRoundSel _ => []
  | .cisMouldSel _ => []
  | .obsSampleSel _ => []
  | .clearHistory entry => [(entry, 16384)]
  | .gauRungSet _ => []
  | .rasPartReset part => [(part, 32)]
  | .rasTestStart _ => []
  | .rasLogTailWrite _ => []
  | .fabPortRetrain port => [(port, 32)]
  | .fabPortDisable port _ => [(port, 32)]
  | .pwrRegionStop region _ => [(region, 32)]
  | .pwrRegionCgate region _ => [(region, 32)]
  | .pwrInputRead => []
  | .tbsAdj _ => []
  | .obsMarkTrigger _ => []
  | .hostMark _ => []
  | .traceArm session => [(session, 4)]
  | .linkedTrigger session source => [(session, 4), (source, 4)]
  | .traceExport session => [(session, 4)]
  | .samplePeriodEnd session => [(session, 64)]
  | .fwUpdate => []
  | .cfgWrite => []
  | .cfgErase => []
  | .debugUnlock => []
  | .raiseFloor => []
  | .rekey => []
  | .factoryRestore => []
  | .secOpComplete => []
  | .mouldRead => []
  | .mouldWrite => []
  | .mouldDelete => []
  | .cisOpComplete => []
  | .mouldCommit mould => [(mould, 4096)]
  | .cisPatrol sb _ => [(sb, 32768)]
  | .cisRelocate sb => [(sb, 32768)]
  | .cisWearLevel => []
  | .cisBlockRetired sb channel => [(sb, 32768), (channel, 16)]
  | .cisChannelLost _ => []
  | .powerGood => []
  | .identityKeyDerived => []
  | .perstNAssert _ => []
  | .perstNDeassert => []
  | .hostLinkTrained _ speed => [(speed, 4)]
  | .hostLinkDown => []
  | .hostLinkDegraded _ speed => [(speed, 4)]
  | .hdmRead _ => []
  | .hdmWrite _ _ _ _ => []
  | .cxlItemReceive _ _ => []
  | .keyProg _ _ _ => []
  | .kSetGo _ _ => []
  | .ideKeySwitch _ => []
  | .getVersion _ => []
  | .getCapabilities _ => []
  | .negotiateAlgorithms _ _ _ => []
  | .getDigests _ => []
  | .getCertificate _ slot offset len => [(slot, 8), (offset, 65536), (len, 65536)]
  | .challenge _ slot _ => [(slot, 256)]
  | .getMeasurements _ index _ _ => [(index, 256)]
  | .keyExchange _ session _ => [(session, 4294967296)]
  | .finish _ session _ => [(session, 4294967296)]
  | .spdmHeartbeat _ session => [(session, 4294967296)]
  | .keyUpdate _ session => [(session, 4294967296)]
  | .endSession _ session => [(session, 4294967296)]
  | .setCertificate _ slot _ => [(slot, 8)]
  | .inputBandChange mv => [(mv, 65536)]
  | .powerFail mv => [(mv, 65536)]
  | .overVoltageStop mv => [(mv, 65536)]
  | .thermtrip => []
  | .capTick power => [(power, 65536)]
  | .capUnmet => []
  | .thermalTick region tj => [(region, 32), (tj, 256)]
  | .railStep region => [(region, 32)]
  | .refLost => []
  | .refReturn => []
  | .presenceAssert => []
  | .presenceWindowExpire => []
  | .sealBroken => []
  | .bootOrderComplete order => [(order, 11)]
  | .partitionResetEnd part => [(part, 32)]
  | .holdUpEnd => []
  | .mouldEraseDone mould => [(mould, 4096)]
  | .tbsSlewDone => []
  | .presenceDeassert => []
  | .farPortLinkChange port _ => [(port, 2)]
  | .debugAccess _ => []
  | .debugHalt _ => []
  | .dynamicAddressAssignment _ => []
  | .cxlCacheMemEnable _ _ _ => []

/-- The numbers of a well-formed command are below their counts. -/
def Statement (i : Instr) : Prop := i.wf = true → ∀ q ∈ numbers i, q.1 < q.2

theorem iadd (t : ThreadRef) (f : FormS) : Statement (.iadd t f) := fun _ _ hp => absurd hp List.not_mem_nil
theorem ilogic (t : ThreadRef) (f : FormS) : Statement (.ilogic t f) := fun _ _ hp => absurd hp List.not_mem_nil
theorem ishift (t : ThreadRef) (f : FormS) : Statement (.ishift t f) := fun _ _ hp => absurd hp List.not_mem_nil
theorem icmp (t : ThreadRef) (f : FormS) : Statement (.icmp t f) := fun _ _ hp => absurd hp List.not_mem_nil
theorem imovi (t : ThreadRef) (f : FormS) : Statement (.imovi t f) := fun _ _ hp => absurd hp List.not_mem_nil
theorem plogic (t : ThreadRef) (f : FormS) : Statement (.plogic t f) := fun _ _ hp => absurd hp List.not_mem_nil
theorem f32 (t : ThreadRef) (f : FormS) : Statement (.f32 t f) := fun _ _ hp => absurd hp List.not_mem_nil
theorem f64 (t : ThreadRef) (f : FormS) : Statement (.f64 t f) := fun _ _ hp => absurd hp List.not_mem_nil
theorem fcvt (t : ThreadRef) (f : FormS) : Statement (.fcvt t f) := fun _ _ hp => absurd hp List.not_mem_nil
theorem movs (t : ThreadRef) (f : FormS) : Statement (.movs t f) := fun _ _ hp => absurd hp List.not_mem_nil
theorem br (t : ThreadRef) (f : FormS) : Statement (.br t f) := fun _ _ hp => absurd hp List.not_mem_nil
theorem jmp (t : ThreadRef) (f : FormS) : Statement (.jmp t f) := fun _ _ hp => absurd hp List.not_mem_nil
theorem call (t : ThreadRef) (f : FormS) : Statement (.call t f) := fun _ _ hp => absurd hp List.not_mem_nil
theorem exit (t : ThreadRef) (f : FormS) : Statement (.exit t f) := fun _ _ hp => absurd hp List.not_mem_nil
theorem tspawn (t : ThreadRef) (f : FormS) : Statement (.tspawn t f) := fun _ _ hp => absurd hp List.not_mem_nil
theorem sgate (t : ThreadRef) (f : FormS) : Statement (.sgate t f) := fun _ _ hp => absurd hp List.not_mem_nil
theorem ld (t : ThreadRef) (f : FormS) : Statement (.ld t f) := fun _ _ hp => absurd hp List.not_mem_nil
theorem st (t : ThreadRef) (f : FormS) : Statement (.st t f) := fun _ _ hp => absurd hp List.not_mem_nil
theorem fence (t : ThreadRef) (f : FormS) : Statement (.fence t f) := fun _ _ hp => absurd hp List.not_mem_nil
theorem aadd (t : ThreadRef) (f : FormS) : Statement (.aadd t f) := fun _ _ hp => absurd hp List.not_mem_nil
theorem amin (t : ThreadRef) (f : FormS) : Statement (.amin t f) := fun _ _ hp => absurd hp List.not_mem_nil
theorem amax (t : ThreadRef) (f : FormS) : Statement (.amax t f) := fun _ _ hp => absurd hp List.not_mem_nil
theorem aswap (t : ThreadRef) (f : FormS) : Statement (.aswap t f) := fun _ _ hp => absurd hp List.not_mem_nil
theorem acas (t : ThreadRef) (f : FormS) : Statement (.acas t f) := fun _ _ hp => absurd hp List.not_mem_nil
theorem dload (t : ThreadRef) (f : FormS) : Statement (.dload t f) := fun _ _ hp => absurd hp List.not_mem_nil
theorem dsave (t : ThreadRef) (f : FormS) : Statement (.dsave t f) := fun _ _ hp => absurd hp List.not_mem_nil
theorem dsetf (t : ThreadRef) (f : FormS) : Statement (.dsetf t f) := fun _ _ hp => absurd hp List.not_mem_nil
theorem dgetf (t : ThreadRef) (f : FormS) : Statement (.dgetf t f) := fun _ _ hp => absurd hp List.not_mem_nil
theorem dcopy (t : ThreadRef) (f : FormS) : Statement (.dcopy t f) := fun _ _ hp => absurd hp List.not_mem_nil
theorem twait (t : ThreadRef) (f : FormS) : Statement (.twait t f) := fun _ _ hp => absurd hp List.not_mem_nil
theorem tpost (t : ThreadRef) (f : FormS) : Statement (.tpost t f) := fun _ _ hp => absurd hp List.not_mem_nil
theorem tset (t : ThreadRef) (f : FormS) : Statement (.tset t f) := fun _ _ hp => absurd hp List.not_mem_nil
theorem tget (t : ThreadRef) (f : FormS) : Statement (.tget t f) := fun _ _ hp => absurd hp List.not_mem_nil
theorem mma (t : ThreadRef) (e : FormE) : Statement (.mma t e) := fun _ _ hp => absurd hp List.not_mem_nil
theorem tbuild (t : ThreadRef) (e : FormE) : Statement (.tbuild t e) := fun _ _ hp => absurd hp List.not_mem_nil
theorem tload (t : ThreadRef) (e : FormE) : Statement (.tload t e) := fun _ _ hp => absurd hp List.not_mem_nil
theorem vact (t : ThreadRef) (e : FormE) : Statement (.vact t e) := fun _ _ hp => absurd hp List.not_mem_nil
theorem vactb (t : ThreadRef) (e : FormE) : Statement (.vactb t e) := fun _ _ hp => absurd hp List.not_mem_nil
theorem vew (t : ThreadRef) (e : FormE) : Statement (.vew t e) := fun _ _ hp => absurd hp List.not_mem_nil
theorem rnormF (t : ThreadRef) (e : FormE) : Statement (.rnormF t e) := fun _ _ hp => absurd hp List.not_mem_nil
theorem rnormB (t : ThreadRef) (e : FormE) : Statement (.rnormB t e) := fun _ _ hp => absurd hp List.not_mem_nil
theorem rsmaxF (t : ThreadRef) (e : FormE) : Statement (.rsmaxF t e) := fun _ _ hp => absurd hp List.not_mem_nil
theorem rsmaxB (t : ThreadRef) (e : FormE) : Statement (.rsmaxB t e) := fun _ _ hp => absurd hp List.not_mem_nil
theorem rmerge (t : ThreadRef) (e : FormE) : Statement (.rmerge t e) := fun _ _ hp => absurd hp List.not_mem_nil
theorem rstat (t : ThreadRef) (e : FormE) : Statement (.rstat t e) := fun _ _ hp => absurd hp List.not_mem_nil
theorem cmove (t : ThreadRef) (e : FormE) : Statement (.cmove t e) := fun _ _ hp => absurd hp List.not_mem_nil
theorem tmove (t : ThreadRef) (e : FormE) : Statement (.tmove t e) := fun _ _ hp => absurd hp List.not_mem_nil
theorem cgather (t : ThreadRef) (e : FormE) : Statement (.cgather t e) := fun _ _ hp => absurd hp List.not_mem_nil
theorem creduce (t : ThreadRef) (e : FormE) : Statement (.creduce t e) := fun _ _ hp => absurd hp List.not_mem_nil
theorem cshift (t : ThreadRef) (e : FormE) : Statement (.cshift t e) := fun _ _ hp => absurd hp List.not_mem_nil
theorem csend (t : ThreadRef) (e : FormE) : Statement (.csend t e) := fun _ _ hp => absurd hp List.not_mem_nil
theorem crecv (t : ThreadRef) (e : FormE) : Statement (.crecv t e) := fun _ _ hp => absurd hp List.not_mem_nil
theorem uapply (t : ThreadRef) (e : FormE) : Statement (.uapply t e) := fun _ _ hp => absurd hp List.not_mem_nil
theorem uprefetch (t : ThreadRef) (e : FormE) : Statement (.uprefetch t e) := fun _ _ hp => absurd hp List.not_mem_nil
theorem ucast (t : ThreadRef) (e : FormE) : Statement (.ucast t e) := fun _ _ hp => absurd hp List.not_mem_nil
theorem gread (t : ThreadRef) (f : FormS) : Statement (.gread t f) := fun _ _ hp => absurd hp List.not_mem_nil
theorem grung (t : ThreadRef) (f : FormS) : Statement (.grung t f) := fun _ _ hp => absurd hp List.not_mem_nil
theorem xstat (t : ThreadRef) (f : FormS) : Statement (.xstat t f) := fun _ _ hp => absurd hp List.not_mem_nil
theorem sysrd (t : ThreadRef) (f : FormS) : Statement (.sysrd t f) := fun _ _ hp => absurd hp List.not_mem_nil
theorem syswr (t : ThreadRef) (f : FormS) : Statement (.syswr t f) := fun _ _ hp => absurd hp List.not_mem_nil
theorem fwcall (t : ThreadRef) (f : FormS) : Statement (.fwcall t f) := fun _ _ hp => absurd hp List.not_mem_nil
theorem queueAccept (t : ThreadRef) : Statement (.queueAccept t) := fun _ _ hp => absurd hp List.not_mem_nil
theorem engineCommandStart (id : Nat) : Statement (.engineCommandStart id) := fun _ _ hp => absurd hp List.not_mem_nil
theorem engineCommandComplete (id : Nat) (found : ProductCheck) : Statement (.engineCommandComplete id found) :=
  fun h => ProductCheck.numbers_small found h
theorem handshakeTimeout (region unit : Nat) : Statement (.handshakeTimeout region unit) := by
  intro h q hq; simp only [numbers, List.mem_cons, List.not_mem_nil, or_false] at hq; simp [Instr.wf] at h
  rcases hq with rfl | rfl <;> dsimp only <;> omega
theorem launchAdmit : Statement .launchAdmit := fun _ _ hp => absurd hp List.not_mem_nil
theorem launchTileArrival (tile : Nat) : Statement (.launchTileArrival tile) := by
  intro h q hq; rw [List.mem_singleton.1 hq]; simp [Instr.wf] at h; dsimp only; omega
theorem contextCacheFill (tile : Nat) : Statement (.contextCacheFill tile) := by
  intro h q hq; rw [List.mem_singleton.1 hq]; simp [Instr.wf] at h; dsimp only; omega
theorem stepGateDecide (part : Nat) : Statement (.stepGateDecide part) := by
  intro h q hq; rw [List.mem_singleton.1 hq]; simp [Instr.wf] at h; dsimp only; omega
theorem stateFetch (bind shard : Nat) : Statement (.stateFetch bind shard) := by
  intro h q hq; simp only [numbers, List.mem_cons, List.not_mem_nil, or_false] at hq; simp [Instr.wf] at h
  rcases hq with rfl | rfl <;> dsimp only <;> omega
theorem updateRuleRun (bind shard : Nat) : Statement (.updateRuleRun bind shard) := by
  intro h q hq; simp only [numbers, List.mem_cons, List.not_mem_nil, or_false] at hq; simp [Instr.wf] at h
  rcases hq with rfl | rfl <;> dsimp only <;> omega
theorem shardCommit (bind shard : Nat) : Statement (.shardCommit bind shard) := by
  intro h q hq; simp only [numbers, List.mem_cons, List.not_mem_nil, or_false] at hq; simp [Instr.wf] at h
  rcases hq with rfl | rfl <;> dsimp only <;> omega
theorem masterCorrectionCommit (bind shard : Nat) : Statement (.masterCorrectionCommit bind shard) := by
  intro h q hq; simp only [numbers, List.mem_cons, List.not_mem_nil, or_false] at hq; simp [Instr.wf] at h
  rcases hq with rfl | rfl <;> dsimp only <;> omega
theorem driftAudit (region : Nat) : Statement (.driftAudit region) := by
  intro h q hq; rw [List.mem_singleton.1 hq]; simp [Instr.wf] at h; dsimp only; omega
theorem rootJobStart (bind shard : Nat) : Statement (.rootJobStart bind shard) := by
  intro h q hq; simp only [numbers, List.mem_cons, List.not_mem_nil, or_false] at hq; simp [Instr.wf] at h
  rcases hq with rfl | rfl <;> dsimp only <;> omega
theorem rootJobDone (bind shard : Nat) : Statement (.rootJobDone bind shard) := by
  intro h q hq; simp only [numbers, List.mem_cons, List.not_mem_nil, or_false] at hq; simp [Instr.wf] at h
  rcases hq with rfl | rfl <;> dsimp only <;> omega
theorem castComplete (ctx : Nat) : Statement (.castComplete ctx) := by
  intro h q hq; rw [List.mem_singleton.1 hq]; simp [Instr.wf] at h; dsimp only; omega
theorem sumpWrite (region : Nat) : Statement (.sumpWrite region) := by
  intro h q hq; rw [List.mem_singleton.1 hq]; simp [Instr.wf] at h; dsimp only; omega
theorem gatherServe (chan member shard : Nat) : Statement (.gatherServe chan member shard) := by
  intro h q hq; simp only [numbers, List.mem_cons, List.not_mem_nil, or_false] at hq; simp [Instr.wf] at h
  rcases hq with rfl | rfl | rfl <;> dsimp only <;> omega
theorem contributionLineGrant (die : Nat) : Statement (.contributionLineGrant die) := by
  intro h q hq; rw [List.mem_singleton.1 hq]; simp [Instr.wf] at h; dsimp only; omega
theorem reductionDeadline (chan shard : Nat) : Statement (.reductionDeadline chan shard) := by
  intro h q hq; simp only [numbers, List.mem_cons, List.not_mem_nil, or_false] at hq; simp [Instr.wf] at h
  rcases hq with rfl | rfl <;> dsimp only <;> omega
theorem reductionAbandon (chan shard : Nat) : Statement (.reductionAbandon chan shard) := by
  intro h q hq; simp only [numbers, List.mem_cons, List.not_mem_nil, or_false] at hq; simp [Instr.wf] at h
  rcases hq with rfl | rfl <;> dsimp only <;> omega
theorem leaseTimeout (chan member shard gen : Nat) : Statement (.leaseTimeout chan member shard gen) := by
  intro h q hq; simp only [numbers, List.mem_cons, List.not_mem_nil, or_false] at hq; simp [Instr.wf] at h
  rcases hq with rfl | rfl | rfl | rfl <;> dsimp only <;> omega
theorem contribUnaccepted (id shard : Nat) : Statement (.contribUnaccepted id shard) := by
  intro h q hq; rw [List.mem_singleton.1 hq]; simp [Instr.wf] at h; dsimp only; omega
theorem gatherTimeout (id shard : Nat) : Statement (.gatherTimeout id shard) := by
  intro h q hq; rw [List.mem_singleton.1 hq]; simp [Instr.wf] at h; dsimp only; omega
theorem gatherReq (f : Frame) : Statement (.gatherReq f) := fun h => f.numbers_small (Bool.and_eq_true_iff.1 h).1
theorem gatherData (f : Frame) : Statement (.gatherData f) := fun h => f.numbers_small (Bool.and_eq_true_iff.1 h).1
theorem leaseRelease (f : Frame) : Statement (.leaseRelease f) := fun h => f.numbers_small (Bool.and_eq_true_iff.1 h).1
theorem contribution (f : Frame) : Statement (.contribution f) := fun h => f.numbers_small (Bool.and_eq_true_iff.1 h).1
theorem shift (f : Frame) : Statement (.shift f) := fun h => f.numbers_small (Bool.and_eq_true_iff.1 h).1
theorem send (f : Frame) : Statement (.send f) := fun h => f.numbers_small (Bool.and_eq_true_iff.1 h).1
theorem grant (f : Frame) : Statement (.grant f) := fun h => f.numbers_small (Bool.and_eq_true_iff.1 h).1
theorem hello (f : Frame) : Statement (.hello f) := fun h => f.numbers_small (Bool.and_eq_true_iff.1 h).1
theorem reject (f : Frame) : Statement (.reject f) := fun h => f.numbers_small (Bool.and_eq_true_iff.1 h).1
theorem tokenPost (f : Frame) : Statement (.tokenPost f) := fun h => f.numbers_small (Bool.and_eq_true_iff.1 h).1
theorem gateFlags (f : Frame) : Statement (.gateFlags f) := fun h => f.numbers_small (Bool.and_eq_true_iff.1 h).1
theorem digest (f : Frame) : Statement (.digest f) := fun h => f.numbers_small (Bool.and_eq_true_iff.1 h).1
theorem bulk (f : Frame) : Statement (.bulk f) := fun h => f.numbers_small (Bool.and_eq_true_iff.1 h).1
theorem c0Admit (source : Nat) : Statement (.c0Admit source) := by
  intro h q hq; rw [List.mem_singleton.1 hq]; simp [Instr.wf] at h; dsimp only; omega
theorem flitTransmit (port : Nat) : Statement (.flitTransmit port) := by
  intro h q hq; rw [List.mem_singleton.1 hq]; simp [Instr.wf] at h; dsimp only; omega
theorem linkBlockReceive (port : Nat) (b : LinkBlock) : Statement (.linkBlockReceive port b) := by
  intro h q hq; rw [List.mem_singleton.1 hq]; simp [Instr.wf] at h; dsimp only; omega
theorem linkAckTimeout (port : Nat) : Statement (.linkAckTimeout port) := by
  intro h q hq; rw [List.mem_singleton.1 hq]; simp [Instr.wf] at h; dsimp only; omega
theorem portTrainingDone (port : Nat) (lanes polarity : BitVec 4) (reversed : Bool) : Statement (.portTrainingDone port lanes polarity reversed) := by
  intro h q hq; rw [List.mem_singleton.1 hq]; simp [Instr.wf] at h; dsimp only; omega
theorem frameSeqTimeout (src chan cls : Nat) : Statement (.frameSeqTimeout src chan cls) := by
  intro h q hq; simp only [numbers, List.mem_cons, List.not_mem_nil, or_false] at hq; simp [Instr.wf] at h
  rcases hq with rfl | rfl | rfl <;> dsimp only <;> omega
theorem channelHelloTimeout (chan : Nat) : Statement (.channelHelloTimeout chan) := by
  intro h q hq; rw [List.mem_singleton.1 hq]; simp [Instr.wf] at h; dsimp only; omega
theorem d2dLinkDown (link : Nat) : Statement (.d2dLinkDown link) := by
  intro h q hq; rw [List.mem_singleton.1 hq]; simp [Instr.wf] at h; dsimp only; omega
theorem d2dLinkDegraded (link : Nat) : Statement (.d2dLinkDegraded link) := by
  intro h q hq; rw [List.mem_singleton.1 hq]; simp [Instr.wf] at h; dsimp only; omega
theorem hubLinkDown (die : Nat) : Statement (.hubLinkDown die) := by
  intro h q hq; rw [List.mem_singleton.1 hq]; simp [Instr.wf] at h; dsimp only; omega
theorem wxpHello (p : WxpHeader) (digest sites : Word) : Statement (.wxpHello p digest sites) := fun h => p.numbers_small h
theorem piece (p : WxpHeader) (h : PieceHeader) (data : List Byte) : Statement (.piece p h data) := fun h => p.numbers_small (by simp [Instr.wf] at h; simp [h])
theorem pieceAck (p : WxpHeader) (o : ObjectKey) (nak : Bool) (bitmap : List Bool) : Statement (.pieceAck p o nak bitmap) := fun h => p.numbers_small (by simp [Instr.wf] at h; simp [h])
theorem ledgerReq (p : WxpHeader) : Statement (.ledgerReq p) := fun h => p.numbers_small h
theorem fetch (p : WxpHeader) (entries : List FragKey) : Statement (.fetch p entries) := fun h => p.numbers_small (by simp [Instr.wf] at h; simp [h])
theorem applied (p : WxpHeader) (digest : Word) (attempt : Nat) : Statement (.applied p digest attempt) := by
  intro h q hq; simp only [numbers, List.mem_append, List.mem_cons, List.not_mem_nil, or_false] at hq; simp [Instr.wf] at h
  rcases hq with hq | rfl
  · exact p.numbers_small (by simp [h]) q hq
  all_goals (dsimp only; omega)
theorem join (p : WxpHeader) (digest : Word) : Statement (.join p digest) := fun h => p.numbers_small h
theorem heartbeat (p : WxpHeader) : Statement (.heartbeat p) := fun h => p.numbers_small h
theorem status (p : WxpHeader) : Statement (.status p) := fun h => p.numbers_small h
theorem pacedSend (site : Nat) : Statement (.pacedSend site) := by
  intro h q hq; rw [List.mem_singleton.1 hq]; simp [Instr.wf] at h; dsimp only; omega
theorem pieceResendTimeout (site : Nat) (o : ObjectKey) : Statement (.pieceResendTimeout site o) := by
  intro h q hq; rw [List.mem_singleton.1 hq]; simp [Instr.wf] at h; dsimp only; omega
theorem pieceAckTimer (site : Nat) (o : ObjectKey) : Statement (.pieceAckTimer site o) := by
  intro h q hq; rw [List.mem_singleton.1 hq]; simp [Instr.wf] at h; dsimp only; omega
theorem heartbeatTimer (site : Nat) : Statement (.heartbeatTimer site) := by
  intro h q hq; rw [List.mem_singleton.1 hq]; simp [Instr.wf] at h; dsimp only; omega
theorem partnerSilent (site : Nat) : Statement (.partnerSilent site) := by
  intro h q hq; rw [List.mem_singleton.1 hq]; simp [Instr.wf] at h; dsimp only; omega
theorem fetchTimeout (bind : Nat) : Statement (.fetchTimeout bind) := by
  intro h q hq; rw [List.mem_singleton.1 hq]; simp [Instr.wf] at h; dsimp only; omega
theorem joinResend (bind : Nat) : Statement (.joinResend bind) := by
  intro h q hq; rw [List.mem_singleton.1 hq]; simp [Instr.wf] at h; dsimp only; omega
theorem farPortControlFrame (port : Nat) (k : FarFrame) : Statement (.farPortControlFrame port k) := by
  intro h q hq; rw [List.mem_singleton.1 hq]; simp [Instr.wf] at h; dsimp only; omega
theorem ptpEventMessage (port : Nat) (correction : Int) (locked : Bool) : Statement (.ptpEventMessage port correction locked) := by
  intro h q hq; rw [List.mem_singleton.1 hq]; simp [Instr.wf] at h; dsimp only; omega
theorem memPatrolRead (addr : Nat) (r : LineVisit) : Statement (.memPatrolRead addr r) := fun _ _ hp => absurd hp List.not_mem_nil
theorem memDeviceFailed (u : MemUnit) : Statement (.memDeviceFailed u) := fun _ _ hp => absurd hp List.not_mem_nil
theorem auditBandRun (tile : Nat) (agree : Bool) : Statement (.auditBandRun tile agree) := by
  intro h q hq; rw [List.mem_singleton.1 hq]; simp [Instr.wf] at h; dsimp only; omega
theorem pairTimeout (tile number : Nat) : Statement (.pairTimeout tile number) := by
  intro h q hq; simp only [numbers, List.mem_cons, List.not_mem_nil, or_false] at hq; simp [Instr.wf] at h
  rcases hq with rfl | rfl <;> dsimp only <;> omega
theorem columnTest (tile : Nat) : Statement (.columnTest tile) := by
  intro h q hq; rw [List.mem_singleton.1 hq]; simp [Instr.wf] at h; dsimp only; omega
theorem columnTestDone (tile : Nat) (failed : Word) : Statement (.columnTestDone tile failed) := by
  intro h q hq; rw [List.mem_singleton.1 hq]; simp [Instr.wf] at h; dsimp only; omega
theorem launch (ring : Nat) : Statement (.launch ring) := by
  intro h q hq; rw [List.mem_singleton.1 hq]; simp [Instr.wf] at h; dsimp only; omega
theorem nop (ring : Nat) : Statement (.nop ring) := by
  intro h q hq; rw [List.mem_singleton.1 hq]; simp [Instr.wf] at h; dsimp only; omega
theorem create (ring : Nat) : Statement (.create ring) := by
  intro h q hq; rw [List.mem_singleton.1 hq]; simp [Instr.wf] at h; dsimp only; omega
theorem enable (ring : Nat) : Statement (.enable ring) := by
  intro h q hq; rw [List.mem_singleton.1 hq]; simp [Instr.wf] at h; dsimp only; omega
theorem disable (ring : Nat) : Statement (.disable ring) := by
  intro h q hq; rw [List.mem_singleton.1 hq]; simp [Instr.wf] at h; dsimp only; omega
theorem destroy (ring : Nat) : Statement (.destroy ring) := by
  intro h q hq; rw [List.mem_singleton.1 hq]; simp [Instr.wf] at h; dsimp only; omega
theorem cast (ring : Nat) : Statement (.cast ring) := by
  intro h q hq; rw [List.mem_singleton.1 hq]; simp [Instr.wf] at h; dsimp only; omega
theorem functionStartDone (kind index : Nat) : Statement (.functionStartDone kind index) := by
  intro h q hq; simp only [numbers, List.mem_cons, List.not_mem_nil, or_false] at hq; simp [Instr.wf] at h
  rcases hq with rfl | rfl <;> dsimp only <;> omega
theorem startAbort (kind index : Nat) : Statement (.startAbort kind index) := by
  intro h q hq; simp only [numbers, List.mem_cons, List.not_mem_nil, or_false] at hq; simp [Instr.wf] at h
  rcases hq with rfl | rfl <;> dsimp only <;> omega
theorem functionStopDone (kind index : Nat) : Statement (.functionStopDone kind index) := by
  intro h q hq; simp only [numbers, List.mem_cons, List.not_mem_nil, or_false] at hq; simp [Instr.wf] at h
  rcases hq with rfl | rfl <;> dsimp only <;> omega
theorem ringCommandTake : Statement .ringCommandTake := fun _ _ hp => absurd hp List.not_mem_nil
theorem completionPost (ring : Nat) : Statement (.completionPost ring) := by
  intro h q hq; rw [List.mem_singleton.1 hq]; simp [Instr.wf] at h; dsimp only; omega
theorem functionEventPost : Statement .functionEventPost := fun _ _ hp => absurd hp List.not_mem_nil
theorem interruptModerationTimeout (ring : Nat) : Statement (.interruptModerationTimeout ring) := by
  intro h q hq; rw [List.mem_singleton.1 hq]; simp [Instr.wf] at h; dsimp only; omega
theorem ringEnable (ring : Nat) : Statement (.ringEnable ring) := by
  intro h q hq; rw [List.mem_singleton.1 hq]; simp [Instr.wf] at h; dsimp only; omega
theorem ringDisable (ring : Nat) : Statement (.ringDisable ring) := by
  intro h q hq; rw [List.mem_singleton.1 hq]; simp [Instr.wf] at h; dsimp only; omega
theorem cmdTailDoorbell (ring : Nat) (v : Half) : Statement (.cmdTailDoorbell ring v) := by
  intro h q hq; rw [List.mem_singleton.1 hq]; simp [Instr.wf] at h; dsimp only; omega
theorem cplHeadDoorbell (ring : Nat) (v : Half) : Statement (.cplHeadDoorbell ring v) := by
  intro h q hq; rw [List.mem_singleton.1 hq]; simp [Instr.wf] at h; dsimp only; omega
theorem hubEvtStatusWrite (v : Word) : Statement (.hubEvtStatusWrite v) := fun _ _ hp => absurd hp List.not_mem_nil
theorem hubEvtCtrlRead : Statement .hubEvtCtrlRead := fun _ _ hp => absurd hp List.not_mem_nil
theorem hubRwlRefusedRead : Statement .hubRwlRefusedRead := fun _ _ hp => absurd hp List.not_mem_nil
theorem registerWrite (off width : Nat) (v : Word) : Statement (.registerWrite off width v) := by
  intro h q hq; rw [List.mem_singleton.1 hq]; simp [Instr.wf] at h; dsimp only; omega
theorem tsqCtxSel (v : Word) : Statement (.tsqCtxSel v) := fun _ _ hp => absurd hp List.not_mem_nil
theorem gauSel (v : Word) : Statement (.gauSel v) := fun _ _ hp => absurd hp List.not_mem_nil
theorem upuBindSel (v : Word) : Statement (.upuBindSel v) := fun _ _ hp => absurd hp List.not_mem_nil
theorem colStepSel (v : Word) : Statement (.colStepSel v) := fun _ _ hp => absurd hp List.not_mem_nil
theorem fabChanSel (v : Word) : Statement (.fabChanSel v) := fun _ _ hp => absurd hp List.not_mem_nil
theorem whdRoundSel (v : Word) : Statement (.whdRoundSel v) := fun _ _ hp => absurd hp List.not_mem_nil
theorem cisMouldSel (v : Word) : Statement (.cisMouldSel v) := fun _ _ hp => absurd hp List.not_mem_nil
theorem obsSampleSel (v : Word) : Statement (.obsSampleSel v) := fun _ _ hp => absurd hp List.not_mem_nil
theorem clearHistory (entry : Nat) : Statement (.clearHistory entry) := by
  intro h q hq; rw [List.mem_singleton.1 hq]; simp [Instr.wf] at h; dsimp only; omega
theorem gauRungSet (v : Word) : Statement (.gauRungSet v) := fun _ _ hp => absurd hp List.not_mem_nil
theorem rasPartReset (part : Nat) : Statement (.rasPartReset part) := by
  intro h q hq; rw [List.mem_singleton.1 hq]; simp [Instr.wf] at h; dsimp only; omega
theorem rasTestStart (v : Word) : Statement (.rasTestStart v) := fun _ _ hp => absurd hp List.not_mem_nil
theorem rasLogTailWrite (v : BitVec 16) : Statement (.rasLogTailWrite v) := fun _ _ hp => absurd hp List.not_mem_nil
theorem fabPortRetrain (port : Nat) : Statement (.fabPortRetrain port) := by
  intro h q hq; rw [List.mem_singleton.1 hq]; simp [Instr.wf] at h; dsimp only; omega
theorem fabPortDisable (port : Nat) (v : Bool) : Statement (.fabPortDisable port v) := by
  intro h q hq; rw [List.mem_singleton.1 hq]; simp [Instr.wf] at h; dsimp only; omega
theorem pwrRegionStop (region : Nat) (v : Bool) : Statement (.pwrRegionStop region v) := by
  intro h q hq; rw [List.mem_singleton.1 hq]; simp [Instr.wf] at h; dsimp only; omega
theorem pwrRegionCgate (region : Nat) (mask : Byte) : Statement (.pwrRegionCgate region mask) := by
  intro h q hq; rw [List.mem_singleton.1 hq]; simp [Instr.wf] at h; dsimp only; omega
theorem pwrInputRead : Statement .pwrInputRead := fun _ _ hp => absurd hp List.not_mem_nil
theorem tbsAdj (v : Word) : Statement (.tbsAdj v) := fun _ _ hp => absurd hp List.not_mem_nil
theorem obsMarkTrigger (mask : BitVec 4) : Statement (.obsMarkTrigger mask) := fun _ _ hp => absurd hp List.not_mem_nil
theorem hostMark (v : Half) : Statement (.hostMark v) := fun _ _ hp => absurd hp List.not_mem_nil
theorem traceArm (session : Nat) : Statement (.traceArm session) := by
  intro h q hq; rw [List.mem_singleton.1 hq]; simp [Instr.wf] at h; dsimp only; omega
theorem linkedTrigger (session source : Nat) : Statement (.linkedTrigger session source) := by
  intro h q hq; simp only [numbers, List.mem_cons, List.not_mem_nil, or_false] at hq; simp [Instr.wf] at h
  rcases hq with rfl | rfl <;> dsimp only <;> omega
theorem traceExport (session : Nat) : Statement (.traceExport session) := by
  intro h q hq; rw [List.mem_singleton.1 hq]; simp [Instr.wf] at h; dsimp only; omega
theorem samplePeriodEnd (session : Nat) : Statement (.samplePeriodEnd session) := by
  intro h q hq; rw [List.mem_singleton.1 hq]; simp [Instr.wf] at h; dsimp only; omega
theorem fwUpdate : Statement .fwUpdate := fun _ _ hp => absurd hp List.not_mem_nil
theorem cfgWrite : Statement .cfgWrite := fun _ _ hp => absurd hp List.not_mem_nil
theorem cfgErase : Statement .cfgErase := fun _ _ hp => absurd hp List.not_mem_nil
theorem debugUnlock : Statement .debugUnlock := fun _ _ hp => absurd hp List.not_mem_nil
theorem raiseFloor : Statement .raiseFloor := fun _ _ hp => absurd hp List.not_mem_nil
theorem rekey : Statement .rekey := fun _ _ hp => absurd hp List.not_mem_nil
theorem factoryRestore : Statement .factoryRestore := fun _ _ hp => absurd hp List.not_mem_nil
theorem secOpComplete : Statement .secOpComplete := fun _ _ hp => absurd hp List.not_mem_nil
theorem mouldRead : Statement .mouldRead := fun _ _ hp => absurd hp List.not_mem_nil
theorem mouldWrite : Statement .mouldWrite := fun _ _ hp => absurd hp List.not_mem_nil
theorem mouldDelete : Statement .mouldDelete := fun _ _ hp => absurd hp List.not_mem_nil
theorem cisOpComplete : Statement .cisOpComplete := fun _ _ hp => absurd hp List.not_mem_nil
theorem mouldCommit (mould : Nat) : Statement (.mouldCommit mould) := by
  intro h q hq; rw [List.mem_singleton.1 hq]; simp [Instr.wf] at h; dsimp only; omega
theorem cisPatrol (sb : Nat) (r : FlashRead) : Statement (.cisPatrol sb r) := by
  intro h q hq; rw [List.mem_singleton.1 hq]; simp [Instr.wf] at h; dsimp only; omega
theorem cisRelocate (sb : Nat) : Statement (.cisRelocate sb) := by
  intro h q hq; rw [List.mem_singleton.1 hq]; simp [Instr.wf] at h; dsimp only; omega
theorem cisWearLevel : Statement .cisWearLevel := fun _ _ hp => absurd hp List.not_mem_nil
theorem cisBlockRetired (sb channel : Nat) : Statement (.cisBlockRetired sb channel) := by
  intro h q hq; simp only [numbers, List.mem_cons, List.not_mem_nil, or_false] at hq; simp [Instr.wf] at h
  rcases hq with rfl | rfl <;> dsimp only <;> omega
theorem cisChannelLost (channel : Option Nat) : Statement (.cisChannelLost channel) := fun _ _ hp => absurd hp List.not_mem_nil
theorem powerGood : Statement .powerGood := fun _ _ hp => absurd hp List.not_mem_nil
theorem identityKeyDerived : Statement .identityKeyDerived := fun _ _ hp => absurd hp List.not_mem_nil
theorem perstNAssert (long : Bool) : Statement (.perstNAssert long) := fun _ _ hp => absurd hp List.not_mem_nil
theorem perstNDeassert : Statement .perstNDeassert := fun _ _ hp => absurd hp List.not_mem_nil
theorem hostLinkTrained (width speed : Nat) : Statement (.hostLinkTrained width speed) := by
  intro h q hq; rw [List.mem_singleton.1 hq]; simp [Instr.wf] at h; dsimp only; omega
theorem hostLinkDown : Statement .hostLinkDown := fun _ _ hp => absurd hp List.not_mem_nil
theorem hostLinkDegraded (width speed : Nat) : Statement (.hostLinkDegraded width speed) := by
  intro h q hq; rw [List.mem_singleton.1 hq]; simp [Instr.wf] at h; dsimp only; omega
theorem hdmRead (addr : Nat) : Statement (.hdmRead addr) := fun _ _ hp => absurd hp List.not_mem_nil
theorem hdmWrite (addr : Nat) (data : List Byte) (poison cached : Bool) : Statement (.hdmWrite addr data poison cached) := fun _ _ hp => absurd hp List.not_mem_nil
theorem cxlItemReceive (st : IdeStream) (item : IdeItem) : Statement (.cxlItemReceive st item) := fun _ _ hp => absurd hp List.not_mem_nil
theorem keyProg (st : IdeStream) (d : IdeDir) (slot : Bool) : Statement (.keyProg st d slot) := fun _ _ hp => absurd hp List.not_mem_nil
theorem kSetGo (st : IdeStream) (d : IdeDir) : Statement (.kSetGo st d) := fun _ _ hp => absurd hp List.not_mem_nil
theorem ideKeySwitch (st : IdeStream) : Statement (.ideKeySwitch st) := fun _ _ hp => absurd hp List.not_mem_nil
theorem getVersion (q : SpdmRef) : Statement (.getVersion q) := fun _ _ hp => absurd hp List.not_mem_nil
theorem getCapabilities (q : SpdmRef) : Statement (.getCapabilities q) := fun _ _ hp => absurd hp List.not_mem_nil
theorem negotiateAlgorithms (q : SpdmRef) (version : Nat) (supported : Bool) : Statement (.negotiateAlgorithms q version supported) := fun _ _ hp => absurd hp List.not_mem_nil
theorem getDigests (q : SpdmRef) : Statement (.getDigests q) := fun _ _ hp => absurd hp List.not_mem_nil
theorem getCertificate (q : SpdmRef) (slot offset len : Nat) : Statement (.getCertificate q slot offset len) := by
  intro h q hq; simp only [numbers, List.mem_cons, List.not_mem_nil, or_false] at hq; simp [Instr.wf] at h
  rcases hq with rfl | rfl | rfl <;> dsimp only <;> omega
theorem challenge (q : SpdmRef) (slot : Nat) (nonce : List Byte) : Statement (.challenge q slot nonce) := by
  intro h q hq; rw [List.mem_singleton.1 hq]; simp [Instr.wf] at h; dsimp only; omega
theorem getMeasurements (q : SpdmRef) (index : Nat) (signed : Bool) (nonce : List Byte) : Statement (.getMeasurements q index signed nonce) := by
  intro h q hq; rw [List.mem_singleton.1 hq]; simp [Instr.wf] at h; dsimp only; omega
theorem keyExchange (q : SpdmRef) (session : Nat) (ok : Bool) : Statement (.keyExchange q session ok) := by
  intro h q hq; rw [List.mem_singleton.1 hq]; simp [Instr.wf] at h; dsimp only; omega
theorem finish (q : SpdmRef) (session : Nat) (ok : Bool) : Statement (.finish q session ok) := by
  intro h q hq; rw [List.mem_singleton.1 hq]; simp [Instr.wf] at h; dsimp only; omega
theorem spdmHeartbeat (q : SpdmRef) (session : Nat) : Statement (.spdmHeartbeat q session) := by
  intro h q hq; rw [List.mem_singleton.1 hq]; simp [Instr.wf] at h; dsimp only; omega
theorem keyUpdate (q : SpdmRef) (session : Nat) : Statement (.keyUpdate q session) := by
  intro h q hq; rw [List.mem_singleton.1 hq]; simp [Instr.wf] at h; dsimp only; omega
theorem endSession (q : SpdmRef) (session : Nat) : Statement (.endSession q session) := by
  intro h q hq; rw [List.mem_singleton.1 hq]; simp [Instr.wf] at h; dsimp only; omega
theorem setCertificate (q : SpdmRef) (slot : Nat) (chain : List Byte) : Statement (.setCertificate q slot chain) := by
  intro h q hq; rw [List.mem_singleton.1 hq]; simp [Instr.wf] at h; dsimp only; omega
theorem inputBandChange (mv : Nat) : Statement (.inputBandChange mv) := by
  intro h q hq; rw [List.mem_singleton.1 hq]; simp [Instr.wf] at h; dsimp only; omega
theorem powerFail (mv : Nat) : Statement (.powerFail mv) := by
  intro h q hq; rw [List.mem_singleton.1 hq]; simp [Instr.wf] at h; dsimp only; omega
theorem overVoltageStop (mv : Nat) : Statement (.overVoltageStop mv) := by
  intro h q hq; rw [List.mem_singleton.1 hq]; simp [Instr.wf] at h; dsimp only; omega
theorem thermtrip : Statement .thermtrip := fun _ _ hp => absurd hp List.not_mem_nil
theorem capTick (power : Nat) : Statement (.capTick power) := by
  intro h q hq; rw [List.mem_singleton.1 hq]; simp [Instr.wf] at h; dsimp only; omega
theorem capUnmet : Statement .capUnmet := fun _ _ hp => absurd hp List.not_mem_nil
theorem thermalTick (region tj : Nat) : Statement (.thermalTick region tj) := by
  intro h q hq; simp only [numbers, List.mem_cons, List.not_mem_nil, or_false] at hq; simp [Instr.wf] at h
  rcases hq with rfl | rfl <;> dsimp only <;> omega
theorem railStep (region : Nat) : Statement (.railStep region) := by
  intro h q hq; rw [List.mem_singleton.1 hq]; simp [Instr.wf] at h; dsimp only; omega
theorem refLost : Statement .refLost := fun _ _ hp => absurd hp List.not_mem_nil
theorem refReturn : Statement .refReturn := fun _ _ hp => absurd hp List.not_mem_nil
theorem presenceAssert : Statement .presenceAssert := fun _ _ hp => absurd hp List.not_mem_nil
theorem presenceWindowExpire : Statement .presenceWindowExpire := fun _ _ hp => absurd hp List.not_mem_nil
theorem sealBroken : Statement .sealBroken := fun _ _ hp => absurd hp List.not_mem_nil
theorem bootOrderComplete (order : Nat) : Statement (.bootOrderComplete order) := by
  intro h q hq; rw [List.mem_singleton.1 hq]; simp [Instr.wf] at h; dsimp only; omega
theorem partitionResetEnd (part : Nat) : Statement (.partitionResetEnd part) := by
  intro h q hq; rw [List.mem_singleton.1 hq]; simp [Instr.wf] at h; dsimp only; omega
theorem holdUpEnd : Statement .holdUpEnd := fun _ _ hp => absurd hp List.not_mem_nil
theorem mouldEraseDone (mould : Nat) : Statement (.mouldEraseDone mould) := by
  intro h q hq; rw [List.mem_singleton.1 hq]; simp [Instr.wf] at h; dsimp only; omega
theorem tbsSlewDone : Statement .tbsSlewDone := fun _ _ hp => absurd hp List.not_mem_nil
theorem presenceDeassert : Statement .presenceDeassert := fun _ _ hp => absurd hp List.not_mem_nil
theorem farPortLinkChange (port : Nat) (up : Bool) : Statement (.farPortLinkChange port up) := by
  intro h q hq; rw [List.mem_singleton.1 hq]; simp [Instr.wf] at h; dsimp only; omega
theorem debugAccess (r : DebugRequest) : Statement (.debugAccess r) := fun _ _ hp => absurd hp List.not_mem_nil
theorem debugHalt (low : Bool) : Statement (.debugHalt low) := fun _ _ hp => absurd hp List.not_mem_nil
theorem dynamicAddressAssignment (addr : BitVec 7) : Statement (.dynamicAddressAssignment addr) := fun _ _ hp => absurd hp List.not_mem_nil
theorem cxlCacheMemEnable (cache mem : Bool) (dec : List HdmDecoder) : Statement (.cxlCacheMemEnable cache mem dec) := fun _ _ hp => absurd hp List.not_mem_nil

end Laws.Shape
namespace Laws.Words

/-- The words of a well-formed instruction of a thread spell it (12, R372 to R374, R384). -/
def Statement (i : Instr) : Prop :=
  i.wf = true → i.words ≠ [] → ∃ t, insnOf t (i.words.getD 0 0) (i.words.getD 1 0) = some i

theorem iadd (t : ThreadRef) (f : FormS) : Statement (.iadd t f) := fun _ _ => ⟨t, insnOf_S t f 0x00 _⟩
theorem ilogic (t : ThreadRef) (f : FormS) : Statement (.ilogic t f) := fun _ _ => ⟨t, insnOf_S t f 0x01 _⟩
theorem ishift (t : ThreadRef) (f : FormS) : Statement (.ishift t f) := fun _ _ => ⟨t, insnOf_S t f 0x02 _⟩
theorem icmp (t : ThreadRef) (f : FormS) : Statement (.icmp t f) := fun _ _ => ⟨t, insnOf_S t f 0x03 _⟩
theorem imovi (t : ThreadRef) (f : FormS) : Statement (.imovi t f) := fun _ _ => ⟨t, insnOf_S t f 0x04 _⟩
theorem plogic (t : ThreadRef) (f : FormS) : Statement (.plogic t f) := fun _ _ => ⟨t, insnOf_S t f 0x08 _⟩
theorem f32 (t : ThreadRef) (f : FormS) : Statement (.f32 t f) := fun _ _ => ⟨t, insnOf_S t f 0x05 _⟩
theorem f64 (t : ThreadRef) (f : FormS) : Statement (.f64 t f) := fun _ _ => ⟨t, insnOf_S t f 0x06 _⟩
theorem fcvt (t : ThreadRef) (f : FormS) : Statement (.fcvt t f) := fun _ _ => ⟨t, insnOf_S t f 0x07 _⟩
theorem movs (t : ThreadRef) (f : FormS) : Statement (.movs t f) := fun _ _ => ⟨t, insnOf_S t f 0x09 _⟩
theorem br (t : ThreadRef) (f : FormS) : Statement (.br t f) := fun _ _ => ⟨t, insnOf_S t f 0x10 _⟩
theorem jmp (t : ThreadRef) (f : FormS) : Statement (.jmp t f) := fun _ _ => ⟨t, insnOf_S t f 0x11 _⟩
theorem call (t : ThreadRef) (f : FormS) : Statement (.call t f) := fun _ _ => ⟨t, insnOf_S t f 0x12 _⟩
theorem exit (t : ThreadRef) (f : FormS) : Statement (.exit t f) := fun _ _ => ⟨t, insnOf_S t f 0x13 _⟩
theorem tspawn (t : ThreadRef) (f : FormS) : Statement (.tspawn t f) := fun _ _ => ⟨t, insnOf_S t f 0x14 _⟩
theorem sgate (t : ThreadRef) (f : FormS) : Statement (.sgate t f) := fun _ _ => ⟨t, insnOf_S t f 0x15 _⟩
theorem ld (t : ThreadRef) (f : FormS) : Statement (.ld t f) := fun _ _ => ⟨t, insnOf_S t f 0x18 _⟩
theorem st (t : ThreadRef) (f : FormS) : Statement (.st t f) := fun _ _ => ⟨t, insnOf_S t f 0x19 _⟩
theorem fence (t : ThreadRef) (f : FormS) : Statement (.fence t f) := fun _ _ => ⟨t, insnOf_S t f 0x1A _⟩
theorem aadd (t : ThreadRef) (f : FormS) : Statement (.aadd t f) := fun h _ => ⟨t, insnOf_atom t f _ 0 _ (of_decide_eq_true h) rfl⟩
theorem amin (t : ThreadRef) (f : FormS) : Statement (.amin t f) := fun h _ => ⟨t, insnOf_atom t f _ 1 _ (of_decide_eq_true h) rfl⟩
theorem amax (t : ThreadRef) (f : FormS) : Statement (.amax t f) := fun h _ => ⟨t, insnOf_atom t f _ 2 _ (of_decide_eq_true h) rfl⟩
theorem aswap (t : ThreadRef) (f : FormS) : Statement (.aswap t f) := fun h _ => ⟨t, insnOf_atom t f _ 3 _ (of_decide_eq_true h) rfl⟩
theorem acas (t : ThreadRef) (f : FormS) : Statement (.acas t f) := fun h _ => ⟨t, insnOf_atom t f _ 4 _ (of_decide_eq_true h) rfl⟩
theorem dload (t : ThreadRef) (f : FormS) : Statement (.dload t f) := fun _ _ => ⟨t, insnOf_S t f 0x20 _⟩
theorem dsave (t : ThreadRef) (f : FormS) : Statement (.dsave t f) := fun _ _ => ⟨t, insnOf_S t f 0x21 _⟩
theorem dsetf (t : ThreadRef) (f : FormS) : Statement (.dsetf t f) := fun _ _ => ⟨t, insnOf_S t f 0x22 _⟩
theorem dgetf (t : ThreadRef) (f : FormS) : Statement (.dgetf t f) := fun _ _ => ⟨t, insnOf_S t f 0x23 _⟩
theorem dcopy (t : ThreadRef) (f : FormS) : Statement (.dcopy t f) := fun _ _ => ⟨t, insnOf_S t f 0x24 _⟩
theorem twait (t : ThreadRef) (f : FormS) : Statement (.twait t f) := fun _ _ => ⟨t, insnOf_S t f 0x28 _⟩
theorem tpost (t : ThreadRef) (f : FormS) : Statement (.tpost t f) := fun _ _ => ⟨t, insnOf_S t f 0x29 _⟩
theorem tset (t : ThreadRef) (f : FormS) : Statement (.tset t f) := fun _ _ => ⟨t, insnOf_S t f 0x2A _⟩
theorem tget (t : ThreadRef) (f : FormS) : Statement (.tget t f) := fun _ _ => ⟨t, insnOf_S t f 0x2B _⟩
theorem mma (t : ThreadRef) (e : FormE) : Statement (.mma t e) := fun _ _ => ⟨t, insnOf_E t e 0x30⟩
theorem tbuild (t : ThreadRef) (e : FormE) : Statement (.tbuild t e) := fun _ _ => ⟨t, insnOf_E t e 0x31⟩
theorem tload (t : ThreadRef) (e : FormE) : Statement (.tload t e) := fun _ _ => ⟨t, insnOf_E t e 0x32⟩
theorem vact (t : ThreadRef) (e : FormE) : Statement (.vact t e) := fun _ _ => ⟨t, insnOf_E t e 0x40⟩
theorem vactb (t : ThreadRef) (e : FormE) : Statement (.vactb t e) := fun _ _ => ⟨t, insnOf_E t e 0x41⟩
theorem vew (t : ThreadRef) (e : FormE) : Statement (.vew t e) := fun _ _ => ⟨t, insnOf_E t e 0x42⟩
theorem rnormF (t : ThreadRef) (e : FormE) : Statement (.rnormF t e) := fun _ _ => ⟨t, insnOf_E t e 0x48⟩
theorem rnormB (t : ThreadRef) (e : FormE) : Statement (.rnormB t e) := fun _ _ => ⟨t, insnOf_E t e 0x49⟩
theorem rsmaxF (t : ThreadRef) (e : FormE) : Statement (.rsmaxF t e) := fun _ _ => ⟨t, insnOf_E t e 0x4A⟩
theorem rsmaxB (t : ThreadRef) (e : FormE) : Statement (.rsmaxB t e) := fun _ _ => ⟨t, insnOf_E t e 0x4B⟩
theorem rmerge (t : ThreadRef) (e : FormE) : Statement (.rmerge t e) := fun _ _ => ⟨t, insnOf_E t e 0x4C⟩
theorem rstat (t : ThreadRef) (e : FormE) : Statement (.rstat t e) := fun _ _ => ⟨t, insnOf_E t e 0x4D⟩
theorem cmove (t : ThreadRef) (e : FormE) : Statement (.cmove t e) := fun _ _ => ⟨t, insnOf_E t e 0x50⟩
theorem tmove (t : ThreadRef) (e : FormE) : Statement (.tmove t e) := fun _ _ => ⟨t, insnOf_E t e 0x51⟩
theorem cgather (t : ThreadRef) (e : FormE) : Statement (.cgather t e) := fun _ _ => ⟨t, insnOf_E t e 0x52⟩
theorem creduce (t : ThreadRef) (e : FormE) : Statement (.creduce t e) := fun _ _ => ⟨t, insnOf_E t e 0x58⟩
theorem cshift (t : ThreadRef) (e : FormE) : Statement (.cshift t e) := fun _ _ => ⟨t, insnOf_E t e 0x59⟩
theorem csend (t : ThreadRef) (e : FormE) : Statement (.csend t e) := fun _ _ => ⟨t, insnOf_E t e 0x60⟩
theorem crecv (t : ThreadRef) (e : FormE) : Statement (.crecv t e) := fun _ _ => ⟨t, insnOf_E t e 0x61⟩
theorem uapply (t : ThreadRef) (e : FormE) : Statement (.uapply t e) := fun _ _ => ⟨t, insnOf_E t e 0x68⟩
theorem uprefetch (t : ThreadRef) (e : FormE) : Statement (.uprefetch t e) := fun _ _ => ⟨t, insnOf_E t e 0x69⟩
theorem ucast (t : ThreadRef) (e : FormE) : Statement (.ucast t e) := fun _ _ => ⟨t, insnOf_E t e 0x6A⟩
theorem gread (t : ThreadRef) (f : FormS) : Statement (.gread t f) := fun _ _ => ⟨t, insnOf_S t f 0x70 _⟩
theorem grung (t : ThreadRef) (f : FormS) : Statement (.grung t f) := fun _ _ => ⟨t, insnOf_S t f 0x71 _⟩
theorem xstat (t : ThreadRef) (f : FormS) : Statement (.xstat t f) := fun _ _ => ⟨t, insnOf_S t f 0x74 _⟩
theorem sysrd (t : ThreadRef) (f : FormS) : Statement (.sysrd t f) := fun _ _ => ⟨t, insnOf_S t f 0x78 _⟩
theorem syswr (t : ThreadRef) (f : FormS) : Statement (.syswr t f) := fun _ _ => ⟨t, insnOf_S t f 0x79 _⟩
theorem fwcall (t : ThreadRef) (f : FormS) : Statement (.fwcall t f) := fun _ _ => ⟨t, insnOf_S t f 0x7C _⟩
theorem queueAccept (t : ThreadRef) : Statement (.queueAccept t) := fun _ h => absurd rfl h
theorem engineCommandStart (id : Nat) : Statement (.engineCommandStart id) := fun _ h => absurd rfl h
theorem engineCommandComplete (id : Nat) (found : ProductCheck) : Statement (.engineCommandComplete id found) := fun _ h => absurd rfl h
theorem handshakeTimeout (region unit : Nat) : Statement (.handshakeTimeout region unit) := fun _ h => absurd rfl h
theorem launchAdmit : Statement .launchAdmit := fun _ h => absurd rfl h
theorem launchTileArrival (tile : Nat) : Statement (.launchTileArrival tile) := fun _ h => absurd rfl h
theorem contextCacheFill (tile : Nat) : Statement (.contextCacheFill tile) := fun _ h => absurd rfl h
theorem stepGateDecide (part : Nat) : Statement (.stepGateDecide part) := fun _ h => absurd rfl h
theorem stateFetch (bind shard : Nat) : Statement (.stateFetch bind shard) := fun _ h => absurd rfl h
theorem updateRuleRun (bind shard : Nat) : Statement (.updateRuleRun bind shard) := fun _ h => absurd rfl h
theorem shardCommit (bind shard : Nat) : Statement (.shardCommit bind shard) := fun _ h => absurd rfl h
theorem masterCorrectionCommit (bind shard : Nat) : Statement (.masterCorrectionCommit bind shard) := fun _ h => absurd rfl h
theorem driftAudit (region : Nat) : Statement (.driftAudit region) := fun _ h => absurd rfl h
theorem rootJobStart (bind shard : Nat) : Statement (.rootJobStart bind shard) := fun _ h => absurd rfl h
theorem rootJobDone (bind shard : Nat) : Statement (.rootJobDone bind shard) := fun _ h => absurd rfl h
theorem castComplete (ctx : Nat) : Statement (.castComplete ctx) := fun _ h => absurd rfl h
theorem sumpWrite (region : Nat) : Statement (.sumpWrite region) := fun _ h => absurd rfl h
theorem gatherServe (chan member shard : Nat) : Statement (.gatherServe chan member shard) := fun _ h => absurd rfl h
theorem contributionLineGrant (die : Nat) : Statement (.contributionLineGrant die) := fun _ h => absurd rfl h
theorem reductionDeadline (chan shard : Nat) : Statement (.reductionDeadline chan shard) := fun _ h => absurd rfl h
theorem reductionAbandon (chan shard : Nat) : Statement (.reductionAbandon chan shard) := fun _ h => absurd rfl h
theorem leaseTimeout (chan member shard gen : Nat) : Statement (.leaseTimeout chan member shard gen) := fun _ h => absurd rfl h
theorem contribUnaccepted (id shard : Nat) : Statement (.contribUnaccepted id shard) := fun _ h => absurd rfl h
theorem gatherTimeout (id shard : Nat) : Statement (.gatherTimeout id shard) := fun _ h => absurd rfl h
theorem gatherReq (f : Frame) : Statement (.gatherReq f) := fun _ h => absurd rfl h
theorem gatherData (f : Frame) : Statement (.gatherData f) := fun _ h => absurd rfl h
theorem leaseRelease (f : Frame) : Statement (.leaseRelease f) := fun _ h => absurd rfl h
theorem contribution (f : Frame) : Statement (.contribution f) := fun _ h => absurd rfl h
theorem shift (f : Frame) : Statement (.shift f) := fun _ h => absurd rfl h
theorem send (f : Frame) : Statement (.send f) := fun _ h => absurd rfl h
theorem grant (f : Frame) : Statement (.grant f) := fun _ h => absurd rfl h
theorem hello (f : Frame) : Statement (.hello f) := fun _ h => absurd rfl h
theorem reject (f : Frame) : Statement (.reject f) := fun _ h => absurd rfl h
theorem tokenPost (f : Frame) : Statement (.tokenPost f) := fun _ h => absurd rfl h
theorem gateFlags (f : Frame) : Statement (.gateFlags f) := fun _ h => absurd rfl h
theorem digest (f : Frame) : Statement (.digest f) := fun _ h => absurd rfl h
theorem bulk (f : Frame) : Statement (.bulk f) := fun _ h => absurd rfl h
theorem c0Admit (source : Nat) : Statement (.c0Admit source) := fun _ h => absurd rfl h
theorem flitTransmit (port : Nat) : Statement (.flitTransmit port) := fun _ h => absurd rfl h
theorem linkBlockReceive (port : Nat) (b : LinkBlock) : Statement (.linkBlockReceive port b) := fun _ h => absurd rfl h
theorem linkAckTimeout (port : Nat) : Statement (.linkAckTimeout port) := fun _ h => absurd rfl h
theorem portTrainingDone (port : Nat) (lanes polarity : BitVec 4) (reversed : Bool) : Statement (.portTrainingDone port lanes polarity reversed) := fun _ h => absurd rfl h
theorem frameSeqTimeout (src chan cls : Nat) : Statement (.frameSeqTimeout src chan cls) := fun _ h => absurd rfl h
theorem channelHelloTimeout (chan : Nat) : Statement (.channelHelloTimeout chan) := fun _ h => absurd rfl h
theorem d2dLinkDown (link : Nat) : Statement (.d2dLinkDown link) := fun _ h => absurd rfl h
theorem d2dLinkDegraded (link : Nat) : Statement (.d2dLinkDegraded link) := fun _ h => absurd rfl h
theorem hubLinkDown (die : Nat) : Statement (.hubLinkDown die) := fun _ h => absurd rfl h
theorem wxpHello (p : WxpHeader) (digest sites : Word) : Statement (.wxpHello p digest sites) := fun _ h => absurd rfl h
theorem piece (p : WxpHeader) (h : PieceHeader) (data : List Byte) : Statement (.piece p h data) := fun _ h => absurd rfl h
theorem pieceAck (p : WxpHeader) (o : ObjectKey) (nak : Bool) (bitmap : List Bool) : Statement (.pieceAck p o nak bitmap) := fun _ h => absurd rfl h
theorem ledgerReq (p : WxpHeader) : Statement (.ledgerReq p) := fun _ h => absurd rfl h
theorem fetch (p : WxpHeader) (entries : List FragKey) : Statement (.fetch p entries) := fun _ h => absurd rfl h
theorem applied (p : WxpHeader) (digest : Word) (attempt : Nat) : Statement (.applied p digest attempt) := fun _ h => absurd rfl h
theorem join (p : WxpHeader) (digest : Word) : Statement (.join p digest) := fun _ h => absurd rfl h
theorem heartbeat (p : WxpHeader) : Statement (.heartbeat p) := fun _ h => absurd rfl h
theorem status (p : WxpHeader) : Statement (.status p) := fun _ h => absurd rfl h
theorem pacedSend (site : Nat) : Statement (.pacedSend site) := fun _ h => absurd rfl h
theorem pieceResendTimeout (site : Nat) (o : ObjectKey) : Statement (.pieceResendTimeout site o) := fun _ h => absurd rfl h
theorem pieceAckTimer (site : Nat) (o : ObjectKey) : Statement (.pieceAckTimer site o) := fun _ h => absurd rfl h
theorem heartbeatTimer (site : Nat) : Statement (.heartbeatTimer site) := fun _ h => absurd rfl h
theorem partnerSilent (site : Nat) : Statement (.partnerSilent site) := fun _ h => absurd rfl h
theorem fetchTimeout (bind : Nat) : Statement (.fetchTimeout bind) := fun _ h => absurd rfl h
theorem joinResend (bind : Nat) : Statement (.joinResend bind) := fun _ h => absurd rfl h
theorem farPortControlFrame (port : Nat) (k : FarFrame) : Statement (.farPortControlFrame port k) := fun _ h => absurd rfl h
theorem ptpEventMessage (port : Nat) (correction : Int) (locked : Bool) : Statement (.ptpEventMessage port correction locked) := fun _ h => absurd rfl h
theorem memPatrolRead (addr : Nat) (r : LineVisit) : Statement (.memPatrolRead addr r) := fun _ h => absurd rfl h
theorem memDeviceFailed (u : MemUnit) : Statement (.memDeviceFailed u) := fun _ h => absurd rfl h
theorem auditBandRun (tile : Nat) (agree : Bool) : Statement (.auditBandRun tile agree) := fun _ h => absurd rfl h
theorem pairTimeout (tile number : Nat) : Statement (.pairTimeout tile number) := fun _ h => absurd rfl h
theorem columnTest (tile : Nat) : Statement (.columnTest tile) := fun _ h => absurd rfl h
theorem columnTestDone (tile : Nat) (failed : Word) : Statement (.columnTestDone tile failed) := fun _ h => absurd rfl h
theorem launch (ring : Nat) : Statement (.launch ring) := fun _ h => absurd rfl h
theorem nop (ring : Nat) : Statement (.nop ring) := fun _ h => absurd rfl h
theorem create (ring : Nat) : Statement (.create ring) := fun _ h => absurd rfl h
theorem enable (ring : Nat) : Statement (.enable ring) := fun _ h => absurd rfl h
theorem disable (ring : Nat) : Statement (.disable ring) := fun _ h => absurd rfl h
theorem destroy (ring : Nat) : Statement (.destroy ring) := fun _ h => absurd rfl h
theorem cast (ring : Nat) : Statement (.cast ring) := fun _ h => absurd rfl h
theorem functionStartDone (kind index : Nat) : Statement (.functionStartDone kind index) := fun _ h => absurd rfl h
theorem startAbort (kind index : Nat) : Statement (.startAbort kind index) := fun _ h => absurd rfl h
theorem functionStopDone (kind index : Nat) : Statement (.functionStopDone kind index) := fun _ h => absurd rfl h
theorem ringCommandTake : Statement .ringCommandTake := fun _ h => absurd rfl h
theorem completionPost (ring : Nat) : Statement (.completionPost ring) := fun _ h => absurd rfl h
theorem functionEventPost : Statement .functionEventPost := fun _ h => absurd rfl h
theorem interruptModerationTimeout (ring : Nat) : Statement (.interruptModerationTimeout ring) := fun _ h => absurd rfl h
theorem ringEnable (ring : Nat) : Statement (.ringEnable ring) := fun _ h => absurd rfl h
theorem ringDisable (ring : Nat) : Statement (.ringDisable ring) := fun _ h => absurd rfl h
theorem cmdTailDoorbell (ring : Nat) (v : Half) : Statement (.cmdTailDoorbell ring v) := fun _ h => absurd rfl h
theorem cplHeadDoorbell (ring : Nat) (v : Half) : Statement (.cplHeadDoorbell ring v) := fun _ h => absurd rfl h
theorem hubEvtStatusWrite (v : Word) : Statement (.hubEvtStatusWrite v) := fun _ h => absurd rfl h
theorem hubEvtCtrlRead : Statement .hubEvtCtrlRead := fun _ h => absurd rfl h
theorem hubRwlRefusedRead : Statement .hubRwlRefusedRead := fun _ h => absurd rfl h
theorem registerWrite (off width : Nat) (v : Word) : Statement (.registerWrite off width v) := fun _ h => absurd rfl h
theorem tsqCtxSel (v : Word) : Statement (.tsqCtxSel v) := fun _ h => absurd rfl h
theorem gauSel (v : Word) : Statement (.gauSel v) := fun _ h => absurd rfl h
theorem upuBindSel (v : Word) : Statement (.upuBindSel v) := fun _ h => absurd rfl h
theorem colStepSel (v : Word) : Statement (.colStepSel v) := fun _ h => absurd rfl h
theorem fabChanSel (v : Word) : Statement (.fabChanSel v) := fun _ h => absurd rfl h
theorem whdRoundSel (v : Word) : Statement (.whdRoundSel v) := fun _ h => absurd rfl h
theorem cisMouldSel (v : Word) : Statement (.cisMouldSel v) := fun _ h => absurd rfl h
theorem obsSampleSel (v : Word) : Statement (.obsSampleSel v) := fun _ h => absurd rfl h
theorem clearHistory (entry : Nat) : Statement (.clearHistory entry) := fun _ h => absurd rfl h
theorem gauRungSet (v : Word) : Statement (.gauRungSet v) := fun _ h => absurd rfl h
theorem rasPartReset (part : Nat) : Statement (.rasPartReset part) := fun _ h => absurd rfl h
theorem rasTestStart (v : Word) : Statement (.rasTestStart v) := fun _ h => absurd rfl h
theorem rasLogTailWrite (v : BitVec 16) : Statement (.rasLogTailWrite v) := fun _ h => absurd rfl h
theorem fabPortRetrain (port : Nat) : Statement (.fabPortRetrain port) := fun _ h => absurd rfl h
theorem fabPortDisable (port : Nat) (v : Bool) : Statement (.fabPortDisable port v) := fun _ h => absurd rfl h
theorem pwrRegionStop (region : Nat) (v : Bool) : Statement (.pwrRegionStop region v) := fun _ h => absurd rfl h
theorem pwrRegionCgate (region : Nat) (mask : Byte) : Statement (.pwrRegionCgate region mask) := fun _ h => absurd rfl h
theorem pwrInputRead : Statement .pwrInputRead := fun _ h => absurd rfl h
theorem tbsAdj (v : Word) : Statement (.tbsAdj v) := fun _ h => absurd rfl h
theorem obsMarkTrigger (mask : BitVec 4) : Statement (.obsMarkTrigger mask) := fun _ h => absurd rfl h
theorem hostMark (v : Half) : Statement (.hostMark v) := fun _ h => absurd rfl h
theorem traceArm (session : Nat) : Statement (.traceArm session) := fun _ h => absurd rfl h
theorem linkedTrigger (session source : Nat) : Statement (.linkedTrigger session source) := fun _ h => absurd rfl h
theorem traceExport (session : Nat) : Statement (.traceExport session) := fun _ h => absurd rfl h
theorem samplePeriodEnd (session : Nat) : Statement (.samplePeriodEnd session) := fun _ h => absurd rfl h
theorem fwUpdate : Statement .fwUpdate := fun _ h => absurd rfl h
theorem cfgWrite : Statement .cfgWrite := fun _ h => absurd rfl h
theorem cfgErase : Statement .cfgErase := fun _ h => absurd rfl h
theorem debugUnlock : Statement .debugUnlock := fun _ h => absurd rfl h
theorem raiseFloor : Statement .raiseFloor := fun _ h => absurd rfl h
theorem rekey : Statement .rekey := fun _ h => absurd rfl h
theorem factoryRestore : Statement .factoryRestore := fun _ h => absurd rfl h
theorem secOpComplete : Statement .secOpComplete := fun _ h => absurd rfl h
theorem mouldRead : Statement .mouldRead := fun _ h => absurd rfl h
theorem mouldWrite : Statement .mouldWrite := fun _ h => absurd rfl h
theorem mouldDelete : Statement .mouldDelete := fun _ h => absurd rfl h
theorem cisOpComplete : Statement .cisOpComplete := fun _ h => absurd rfl h
theorem mouldCommit (mould : Nat) : Statement (.mouldCommit mould) := fun _ h => absurd rfl h
theorem cisPatrol (sb : Nat) (r : FlashRead) : Statement (.cisPatrol sb r) := fun _ h => absurd rfl h
theorem cisRelocate (sb : Nat) : Statement (.cisRelocate sb) := fun _ h => absurd rfl h
theorem cisWearLevel : Statement .cisWearLevel := fun _ h => absurd rfl h
theorem cisBlockRetired (sb channel : Nat) : Statement (.cisBlockRetired sb channel) := fun _ h => absurd rfl h
theorem cisChannelLost (channel : Option Nat) : Statement (.cisChannelLost channel) := fun _ h => absurd rfl h
theorem powerGood : Statement .powerGood := fun _ h => absurd rfl h
theorem identityKeyDerived : Statement .identityKeyDerived := fun _ h => absurd rfl h
theorem perstNAssert (long : Bool) : Statement (.perstNAssert long) := fun _ h => absurd rfl h
theorem perstNDeassert : Statement .perstNDeassert := fun _ h => absurd rfl h
theorem hostLinkTrained (width speed : Nat) : Statement (.hostLinkTrained width speed) := fun _ h => absurd rfl h
theorem hostLinkDown : Statement .hostLinkDown := fun _ h => absurd rfl h
theorem hostLinkDegraded (width speed : Nat) : Statement (.hostLinkDegraded width speed) := fun _ h => absurd rfl h
theorem hdmRead (addr : Nat) : Statement (.hdmRead addr) := fun _ h => absurd rfl h
theorem hdmWrite (addr : Nat) (data : List Byte) (poison cached : Bool) : Statement (.hdmWrite addr data poison cached) := fun _ h => absurd rfl h
theorem cxlItemReceive (st : IdeStream) (item : IdeItem) : Statement (.cxlItemReceive st item) := fun _ h => absurd rfl h
theorem keyProg (st : IdeStream) (d : IdeDir) (slot : Bool) : Statement (.keyProg st d slot) := fun _ h => absurd rfl h
theorem kSetGo (st : IdeStream) (d : IdeDir) : Statement (.kSetGo st d) := fun _ h => absurd rfl h
theorem ideKeySwitch (st : IdeStream) : Statement (.ideKeySwitch st) := fun _ h => absurd rfl h
theorem getVersion (q : SpdmRef) : Statement (.getVersion q) := fun _ h => absurd rfl h
theorem getCapabilities (q : SpdmRef) : Statement (.getCapabilities q) := fun _ h => absurd rfl h
theorem negotiateAlgorithms (q : SpdmRef) (version : Nat) (supported : Bool) : Statement (.negotiateAlgorithms q version supported) := fun _ h => absurd rfl h
theorem getDigests (q : SpdmRef) : Statement (.getDigests q) := fun _ h => absurd rfl h
theorem getCertificate (q : SpdmRef) (slot offset len : Nat) : Statement (.getCertificate q slot offset len) := fun _ h => absurd rfl h
theorem challenge (q : SpdmRef) (slot : Nat) (nonce : List Byte) : Statement (.challenge q slot nonce) := fun _ h => absurd rfl h
theorem getMeasurements (q : SpdmRef) (index : Nat) (signed : Bool) (nonce : List Byte) : Statement (.getMeasurements q index signed nonce) := fun _ h => absurd rfl h
theorem keyExchange (q : SpdmRef) (session : Nat) (ok : Bool) : Statement (.keyExchange q session ok) := fun _ h => absurd rfl h
theorem finish (q : SpdmRef) (session : Nat) (ok : Bool) : Statement (.finish q session ok) := fun _ h => absurd rfl h
theorem spdmHeartbeat (q : SpdmRef) (session : Nat) : Statement (.spdmHeartbeat q session) := fun _ h => absurd rfl h
theorem keyUpdate (q : SpdmRef) (session : Nat) : Statement (.keyUpdate q session) := fun _ h => absurd rfl h
theorem endSession (q : SpdmRef) (session : Nat) : Statement (.endSession q session) := fun _ h => absurd rfl h
theorem setCertificate (q : SpdmRef) (slot : Nat) (chain : List Byte) : Statement (.setCertificate q slot chain) := fun _ h => absurd rfl h
theorem inputBandChange (mv : Nat) : Statement (.inputBandChange mv) := fun _ h => absurd rfl h
theorem powerFail (mv : Nat) : Statement (.powerFail mv) := fun _ h => absurd rfl h
theorem overVoltageStop (mv : Nat) : Statement (.overVoltageStop mv) := fun _ h => absurd rfl h
theorem thermtrip : Statement .thermtrip := fun _ h => absurd rfl h
theorem capTick (power : Nat) : Statement (.capTick power) := fun _ h => absurd rfl h
theorem capUnmet : Statement .capUnmet := fun _ h => absurd rfl h
theorem thermalTick (region tj : Nat) : Statement (.thermalTick region tj) := fun _ h => absurd rfl h
theorem railStep (region : Nat) : Statement (.railStep region) := fun _ h => absurd rfl h
theorem refLost : Statement .refLost := fun _ h => absurd rfl h
theorem refReturn : Statement .refReturn := fun _ h => absurd rfl h
theorem presenceAssert : Statement .presenceAssert := fun _ h => absurd rfl h
theorem presenceWindowExpire : Statement .presenceWindowExpire := fun _ h => absurd rfl h
theorem sealBroken : Statement .sealBroken := fun _ h => absurd rfl h
theorem bootOrderComplete (order : Nat) : Statement (.bootOrderComplete order) := fun _ h => absurd rfl h
theorem partitionResetEnd (part : Nat) : Statement (.partitionResetEnd part) := fun _ h => absurd rfl h
theorem holdUpEnd : Statement .holdUpEnd := fun _ h => absurd rfl h
theorem mouldEraseDone (mould : Nat) : Statement (.mouldEraseDone mould) := fun _ h => absurd rfl h
theorem tbsSlewDone : Statement .tbsSlewDone := fun _ h => absurd rfl h
theorem presenceDeassert : Statement .presenceDeassert := fun _ h => absurd rfl h
theorem farPortLinkChange (port : Nat) (up : Bool) : Statement (.farPortLinkChange port up) := fun _ h => absurd rfl h
theorem debugAccess (r : DebugRequest) : Statement (.debugAccess r) := fun _ h => absurd rfl h
theorem debugHalt (low : Bool) : Statement (.debugHalt low) := fun _ h => absurd rfl h
theorem dynamicAddressAssignment (addr : BitVec 7) : Statement (.dynamicAddressAssignment addr) := fun _ h => absurd rfl h
theorem cxlCacheMemEnable (cache mem : Bool) (dec : List HdmDecoder) : Statement (.cxlCacheMemEnable cache mem dec) := fun _ h => absurd rfl h

end Laws.Words

end Sys2Proof
end

