-- ==== Sys2Proof/Tests/Slice0.lean ====
section
/-!
SUPPORT. Small tests: ill-formed commands that the checks refuse, and for each statement states and operands that meet its
hypotheses, at the edges of their ranges, with a field or two of what follows. Expected results are worked by hand from the
rules that the statements cite.
-/

set_option Elab.async false

namespace Sys2Proof.Tests

open Sys2Proof.Machine

/-! ## Builders -/

/-- The next state of a command, or the state itself where there is none. -/
def run (c : Instr) (s : State) : State :=
  match exec c s with
  | .next u => u
  | _ => s

/-- Does a command answer a next state? -/
def ends (c : Instr) (s : State) : Bool :=
  match exec c s with
  | .next _ => true
  | _ => false

def t0 : ThreadRef := ⟨0, 0⟩
def t1 : ThreadRef := ⟨0, 2047⟩

/-- A READY thread of context 0 at address 0x1000. -/
def th0 : Thread :=
  { status := .ready, asking := none, pc := 0x1000, g := ((Vector.replicate 32 0).set 1 0x2000).set 2 3, d := Vector.replicate 16 0, p := 0
    k := Vector.replicate 16 0, opid := 7, ctx := 0x10000000, step := 5, attempt := 9 }

def withThread (t : ThreadRef) (th : Thread) (s : State) : State :=
  { s with tsq := { s.tsq with threads := put t th s.tsq.threads } }

/-- A module that is ready, with its link up and context 0 ON in partition 0. -/
def ready : State :=
  ((((State.reset.rput SecBoot.READY 0 1).rput HubLink.WIDTH 0 16).rput HubLink.SPEED 0 2).rput Ctx.STATE 0 2).rput Part.STATE 0 2

/-- The module with one thread. -/
def sT : State := withThread t0 th0 ready

def fS : FormS := ⟨false, false, 0, 3, 1, 2, 0, 0⟩
def fE : FormE := ⟨false, false, 0, 0, 1, 2, 3, false, 0, 0, false, 0, 4, 5, 6, false, 0, 0⟩


/-! ## Ill-formed commands -/

def frm (op : Nat) : Frame :=
  { cls := 3, src := 9, dest := 0, channel := 5, op := op, coded := false, member := 1, shard := 0, segment := 0, gen := 0, step := 0
    attempt := 0, opid := 0, seq := 0, status := 0, srcEpoch := 0, dstEpoch := 0, body := [], poison := [false] }
def flt : Flit := ⟨3, false, true, true, false, 0, 9, 5, 0, [0]⟩
def blk : LinkBlock := ⟨List.replicate 1285 0, 0, 0⟩
def wxp : WxpHeader := ⟨0, 0, true, false, false, 0, 1, 0, 0, 0, 0, 0, 0, 0, 0, 64⟩
def pieceH : PieceHeader := ⟨1, 1, 0, 1, 0, 0, 0, 0⟩
def objK : ObjectKey := ⟨1, 1, 0, 0, 0⟩

theorem wf_smoke_well_formed : (frm 1).wf = true ∧ blk.wf = true ∧ wxp.wf = true ∧ pieceH.wf = true ∧ objK.wf = true ∧
    (MemUnit.pseudoChannel 15 31).wf = true ∧ (DebugRequest.scan 4).wf = true ∧ (Instr.registerWrite 0xFFFF8 8 0).wf = true ∧
    flt.wf = true ∧ (Instr.memPatrolRead 64 ⟨true, .wrong 72⟩).wf = true ∧ (Instr.acas t0 { fS with fn := 4 }).wf = true := by decide +kernel

theorem wf_refuses_frames : ∀ f ∈ [{ frm 1 with cls := 4 }, { frm 1 with src := 16384 }, { frm 1 with dest := 16384 },
    { frm 1 with channel := 32768 }, { frm 1 with op := 256 }, { frm 1 with member := 8192 }, { frm 1 with shard := 4294967296 },
    { frm 1 with segment := 65536 }, { frm 1 with gen := 65536 }], (Instr.gatherReq f).wf = false := by decide

theorem wf_refuses_tags : ∀ f ∈ [{ frm 1 with step := 18446744073709551616 }, { frm 1 with attempt := 4294967296 },
    { frm 1 with opid := 4294967296 }, { frm 1 with seq := 4294967296 }, { frm 1 with status := 256 }, { frm 1 with srcEpoch := 256 },
    { frm 1 with dstEpoch := 256 }, { frm 1 with poison := [] },
    { frm 1 with cls := 0, body := List.replicate 25 0 }], (Instr.gatherReq f).wf = false := by decide +kernel

theorem wf_refuses_other_ops : ∀ c ∈ [Instr.gatherReq (frm 2), .gatherData (frm 1), .leaseRelease (frm 1), .contribution (frm 1),
    .shift (frm 1), .send (frm 1), .grant (frm 1), .hello (frm 1), .reject (frm 1), .tokenPost (frm 1), .gateFlags (frm 1),
    .digest (frm 1), .bulk (frm 1)], c.wf = false := by decide

theorem wf_refuses_flits : ∀ x ∈ [{ flt with cls := 4 }, { flt with dest := 16384 }, { flt with src := 16384 },
    { flt with channel := 32768 }, { flt with hops := 32 }, { flt with payload := [] }, { flt with payload := List.replicate 245 0 }],
    x.wf = false := by decide +kernel

theorem wf_refuses_blocks : ∀ c ∈ [Instr.linkBlockReceive 0 { blk with bytes := [0] }, .linkBlockReceive 0 { blk with uncorrectable := 3 },
    .linkBlockReceive 32 blk], c.wf = false := by decide +kernel

theorem wf_refuses_atomics : ∀ c ∈ [Instr.aadd t0 { fS with fn := 1 }, .amin t0 fS, .amax t0 fS, .aswap t0 fS, .acas t0 fS],
    c.wf = false := by decide

theorem wf_refuses_packets : ∀ p ∈ [{ wxp with port := 2 }, { wxp with srcSite := 256 }, { wxp with dstSite := 256 },
    { wxp with srcModule := 16384 }, { wxp with round := 4294967296 }, { wxp with seq := 4294967296 }, { wxp with txTime := 18446744073709551616 },
    { wxp with echoTime := 18446744073709551616 }, { wxp with echoHold := 4294967296 }, { wxp with reason := 256 }],
    ∀ c ∈ [Instr.wxpHello p 0 0, .piece p pieceH [], .pieceAck p objK false [], .ledgerReq p, .fetch p [], .applied p 0 0, .join p 0,
      .heartbeat p, .status p], c.wf = false := by decide

theorem wf_refuses_objects : ∀ o ∈ [{ objK with kind := 256 }, { objK with origin := 256 }, { objK with round := 4294967296 },
    { objK with tensor := 16777216 }, { objK with shard := 4294967296 }],
    (Instr.pieceAck wxp o false []).wf = false ∧ (Instr.pieceResendTimeout 0 o).wf = false ∧ (Instr.pieceAckTimer 0 o).wf = false := by
  decide

theorem wf_refuses_pieces : ∀ h ∈ [{ pieceH with kind := 256 }, { pieceH with origin := 256 }, { pieceH with piece := 65536 },
    { pieceH with pieces := 65536 }, { pieceH with tensor := 16777216 }, { pieceH with shard := 4294967296 },
    { pieceH with bytes := 4294967296 }], (Instr.piece wxp h []).wf = false := by decide

theorem wf_refuses_entries : ∀ e ∈ [FragKey.mk 256 0 0, ⟨0, 16777216, 0⟩, ⟨0, 0, 4294967296⟩], (Instr.fetch wxp [e]).wf = false := by decide

theorem wf_refuses_lengths : (∀ data : List Byte, data.length = 8193 → (Instr.piece wxp pieceH data).wf = false) ∧
    (∀ es : List FragKey, es.length = 257 → (Instr.fetch wxp es).wf = false) ∧
    ∀ bits : List Bool, bits.length = 65536 → (Instr.pieceAck wxp objK false bits).wf = false := by
  refine ⟨fun d h => ?_, fun e h => ?_, fun b h => ?_⟩ <;> simp [Instr.wf, h]

theorem wf_refuses_products : ∀ c ∈ [ProductCheck.residue 64, .checksum [(63, 1), (64, -1)] false],
    (Instr.engineCommandComplete 0 c).wf = false ∧ (Instr.engineCommandComplete 0 (.residue 63)).wf = true := by decide

theorem wf_refuses_units : ∀ c ∈ [Instr.memDeviceFailed (.stack 16), .memDeviceFailed (.pseudoChannel 16 0),
    .memDeviceFailed (.pseudoChannel 0 32), .memDeviceFailed (.lpddr 16), .memPatrolRead 1 ⟨false, .wrong 0⟩, .memPatrolRead 0 ⟨false, .wrong 73⟩, .memPatrolRead 32 ⟨true, .linkCorrected⟩, .debugAccess (.scan 5),
    .debugAccess (.readMemory (281474976710656)), .debugAccess (.writeMemory (281474976710656) 0), .debugAccess (.store (281474976710656)),
    .handshakeTimeout 32 0, .handshakeTimeout 0 65536, .launchTileArrival 1024, .contextCacheFill 1024, .stepGateDecide 32,
    .driftAudit 32, .castComplete 65536, .sumpWrite 32, .contributionLineGrant 4, .c0Admit 1027, .flitTransmit 32, .linkAckTimeout 32,
    .portTrainingDone 32 0 0 false, .d2dLinkDown 4, .d2dLinkDegraded 8, .hubLinkDown 4], c.wf = false := by decide

theorem wf_refuses_shards : ∀ c ∈ [Instr.stateFetch 8192 0, .stateFetch 0 1048576, .updateRuleRun 8192 0, .updateRuleRun 0 1048576,
    .shardCommit 8192 0, .shardCommit 0 1048576, .masterCorrectionCommit 8192 0, .masterCorrectionCommit 0 1048576,
    .rootJobStart 8192 0, .rootJobStart 0 1048576, .rootJobDone 8192 0, .rootJobDone 0 1048576, .gatherServe 32768 0 0,
    .gatherServe 0 8192 0, .gatherServe 0 0 1048576, .reductionDeadline 32768 0, .reductionDeadline 0 1048576,
    .reductionAbandon 32768 0, .reductionAbandon 0 1048576, .leaseTimeout 32768 0 0 0, .leaseTimeout 0 8192 0 0,
    .leaseTimeout 0 0 1048576 0, .leaseTimeout 0 0 0 65536, .contribUnaccepted 0 1048576, .gatherTimeout 0 1048576,
    .frameSeqTimeout 16384 0 0, .frameSeqTimeout 0 32768 0, .frameSeqTimeout 0 0 4, .channelHelloTimeout 32768], c.wf = false := by
  decide

theorem wf_refuses_wellhead : ∀ c ∈ [Instr.applied wxp 0 256, .pacedSend 64, .pieceResendTimeout 64 objK, .pieceAckTimer 64 objK,
    .heartbeatTimer 64, .partnerSilent 64, .fetchTimeout 64, .joinResend 64, .farPortControlFrame 2 .other, .ptpEventMessage 2 0 true,
    .farPortLinkChange 2 true, .auditBandRun 1024 true, .pairTimeout 1056 0, .pairTimeout 0 (18446744073709551616), .columnTest 1024,
    .columnTestDone 1024 0], c.wf = false := by decide

theorem wf_refuses_rings : ∀ c ∈ [Instr.launch 128, .nop 128, .create 128, .enable 128, .disable 128, .destroy 128, .cast 128,
    .functionStartDone 0 0, .functionStartDone 10 0, .functionStartDone 1 65536, .startAbort 0 0, .startAbort 10 0, .startAbort 1 65536,
    .functionStopDone 0 0, .functionStopDone 10 0, .functionStopDone 1 65536, .completionPost 128, .interruptModerationTimeout 128,
    .ringEnable 128, .ringDisable 128, .cmdTailDoorbell 128 0, .cplHeadDoorbell 128 0], c.wf = false := by decide

theorem wf_refuses_registers : ∀ c ∈ [Instr.registerWrite 1048576 8 0, .registerWrite 0 2 0, .registerWrite 4 8 0,
    .clearHistory 16384, .rasPartReset 32, .fabPortRetrain 32, .fabPortDisable 32 true, .pwrRegionStop 32 true, .pwrRegionCgate 32 0,
    .traceArm 4, .linkedTrigger 4 0, .linkedTrigger 0 4, .traceExport 4, .samplePeriodEnd 64, .mouldCommit 4096, .mouldEraseDone 4096,
    .cisPatrol 32768 .clean, .cisRelocate 32768, .cisBlockRetired 32768 0, .cisBlockRetired 0 16, .cisChannelLost (some 16),
    .bootOrderComplete 0, .bootOrderComplete 11, .partitionResetEnd 32], c.wf = false := by decide

theorem wf_refuses_links : ∀ c ∈ [Instr.hostLinkTrained 3 1, .hostLinkTrained 8 0, .hostLinkTrained 8 4, .hostLinkDegraded 3 1,
    .hostLinkDegraded 8 0, .hostLinkDegraded 8 4, .hdmRead 1, .hdmWrite 0 [] false false, .hdmWrite 1 (List.replicate 64 0) false false,
    .getCertificate ⟨false, 0⟩ 8 0 0, .getCertificate ⟨false, 0⟩ 0 65536 0, .getCertificate ⟨false, 0⟩ 0 0 65536,
    .challenge ⟨false, 0⟩ 256 (List.replicate 32 0), .challenge ⟨false, 0⟩ 0 [], .getMeasurements ⟨false, 0⟩ 256 false [],
    .getMeasurements ⟨false, 0⟩ 0 true [], .keyExchange ⟨false, 0⟩ (4294967296) true, .finish ⟨false, 0⟩ (4294967296) true,
    .spdmHeartbeat ⟨false, 0⟩ (4294967296), .keyUpdate ⟨false, 0⟩ (4294967296), .endSession ⟨false, 0⟩ (4294967296), .setCertificate ⟨false, 0⟩ 8 [],
    .inputBandChange 65536, .powerFail 65536, .overVoltageStop 65536, .capTick 65536, .thermalTick 32 0, .thermalTick 0 256,
    .railStep 32, .cxlCacheMemEnable true true [⟨0, 1, 1⟩, ⟨0, 1, 1⟩, ⟨0, 1, 1⟩]], c.wf = false := by decide
/-! ## Instruction words -/

/-- IADD g3 = g1 - g2 under predicate 5, bit by bit from form S: opcode 0x00, PE, PI, DST, SRC1, SRC2, FN. -/
theorem test_word_iadd : insnOf t0 (0b0#1 ++ 0b0000000#7 ++ 0b1#1 ++ 0b0#1 ++ 0b101#3 ++ 0b00011#5 ++ 0b00001#5 ++ 0b00010#5 ++
    0b0001#4 ++ 0xFFFFFFFE#32) 0 = some (.iadd t0 ⟨true, false, 5, 3, 1, 2, 1, 0xFFFFFFFE⟩) := by decide
/-- Opcode 0x1B with FN 4 is ACAS, with FN 5 no instruction; 0x14 is TSPAWN, 0x7C FWCALL, and 0x7F reserved. -/
theorem test_word_opcodes : insnOf t0 0x1B00C22400000000 0 = some (.acas t0 ⟨false, false, 0, 3, 1, 2, 4, 0⟩) ∧
    insnOf t0 0x1B00C22500000000 0 = none ∧ insnOf t0 0x1400C22000000000 0 = some (.tspawn t0 fS) ∧
    insnOf t0 0x7C00C22000000000 0 = some (.fwcall t0 fS) ∧ insnOf t0 0x7F00000000000000 0 = none := by decide
/-- MMA and UCAST, bit by bit from form E: opcode, PE to PI, DA to DD, WE, WK, WV, SE, SK, GS, GT, SA, SAE. -/
theorem test_word_mma : insnOf t0 (0b1#1 ++ 0b0110000#7 ++ 0b0#1 ++ 0b0#1 ++ 0b000#3 ++ 0b0001#4 ++ 0b0010#4 ++ 0b0011#4 ++
    0b1111#4 ++ 0b1#1 ++ 0b1001#4 ++ 0b10001#5 ++ 0b1#1 ++ 0b0110#4 ++ 0b00100#5 ++ 0b00101#5 ++ 0b00110#5 ++ 0b1#1 ++ 0b0000#4) 0x80 =
    some (.mma t0 ⟨false, false, 0, 1, 2, 3, 15, true, 9, 17, true, 6, 4, 5, 6, true, 0, 0x80⟩) := by decide
/-- Bit [63] and the opcode agree: an engine's opcode with the bit clear, and a scalar one with it set, spell nothing. -/
theorem test_word_widths : insnOf t0 0x3000000000000000 0 = none ∧ insnOf t0 0x8000000000000000 0 = none ∧
    insnOf t0 0xEA00000000000000 7 = some (.ucast t0 { (formE 0 7) with w1 := 7 }) ∧ insnBytes 0xEA00000000000000 = 16 ∧
    insnBytes 0x7C00C22000000000 = 8 := by decide

/-! ## Scalar instructions -/

theorem witness_issues : sT.Issues t0 th0 8 false false 0 0 :=
  ⟨rfl, rfl, rfl, by decide, by decide, by decide, by decide, by decide⟩

/-- A level 1 context whose thread passes a predicate test. -/
def sP : State := withThread t0 { th0 with p := 0x80 } (ready.rput Ctx.PRIV 0 1)

theorem witness_issues_predicated : sP.Issues t0 { th0 with p := 0x80 } 16 true false 7 1 :=
  ⟨rfl, rfl, rfl, by decide, by decide, by decide, by decide, by decide⟩

/-- The value that an instruction leaves in g3 from two operands. -/
def g3 (c : ThreadRef → FormS → Instr) (fn : BitVec 4) (a b : Word) : Word :=
  let th := (th0.setReg 1 a).setReg 2 b
  (((run (c t0 { fS with fn := fn }) (withThread t0 th sT)).thread? t0).map (·.reg 3)).getD 0

theorem test_iadd_wraps : g3 .iadd 0 0xFFFFFFFFFFFFFFFF 2 = 1 := by decide
theorem test_iadd_high_signed : g3 .iadd 3 0xFFFFFFFFFFFFFFFF 2 = 0xFFFFFFFFFFFFFFFF := by decide
theorem test_ilogic_and_not : g3 .ilogic 3 0xFF 0x0F = 0xF0 := by decide
theorem test_ishift_count_64 : g3 .ishift 0 5 64 = 5 := by decide
theorem test_ishift_arithmetic : g3 .ishift 2 0x8000000000000000 63 = 0xFFFFFFFFFFFFFFFF := by decide
theorem test_imovi_high : g3 .imovi 1 0 0 = 0 := by decide
theorem test_f32_adds : g3 .f32 0 0x3F800000 0x40000000 = 0x40400000 := by decide +kernel
theorem test_f64_halves : g3 .f64 3 0x3FF0000000000000 0x4000000000000000 = 0x3FE0000000000000 := by decide +kernel
theorem test_fcvt_nan : g3 .fcvt 2 0x7FC00000 0 = 0 := by decide +kernel
theorem test_fcvt_end : g3 .fcvt 4 0x7FF0000000000000 0 = 0x7FFFFFFFFFFFFFFF := by decide +kernel
theorem test_movs_step : g3 (fun t f => .movs t { f with imm := 2 }) 0 0 0 = 5 := by decide

/-- Predicate 3 after an instruction on two operands. -/
def p3 (c : ThreadRef → FormS → Instr) (fn : BitVec 4) (a b : Word) : Bool :=
  let th := (th0.setReg 1 a).setReg 2 b
  (((run (c t0 { fS with fn := fn }) (withThread t0 th sT)).thread? t0).map (·.pred 3)).getD false

theorem test_icmp_signed : p3 .icmp 2 0xFFFFFFFFFFFFFFFF 0 = true := by decide
theorem test_icmp_unsigned : p3 .icmp 4 0xFFFFFFFFFFFFFFFF 0 = false := by decide
theorem test_plogic_bit : p3 (fun t f => .plogic t { f with imm := 63 }) 4 0x8000000000000000 0 = true := by decide

/-- The address of the next instruction. -/
def pcAfter (c : Instr) (th : Thread) (s : State) : Word := (((run c (withThread t0 th s)).thread? t0).map (·.pc)).getD 0

theorem test_br_back : pcAfter (.br t0 { fS with imm := 0xFFFFFFFF }) th0 sT = 0xFF8 := by decide
theorem test_jmp : pcAfter (.jmp t0 fS) (th0.setReg 1 0x2000) sT = 0x2000 := by decide
theorem test_call_returns : g3 (fun t f => .call t { f with imm := 2 }) 0 0 0 = 0x1008 := by decide
theorem test_predicate_fails_before_level : pcAfter (.fwcall t0 { fS with pe := true }) th0 sT = 0x1008 := by decide
theorem test_predicate_fails_engine : pcAfter (.mma t0 { fE with pe := true }) th0 sT = 0x1010 := by decide

/-! ## Memory, descriptor and token instructions -/

/-- The last word of HBM, and the word before a hole. -/
def topWord : Nat := 0x00BFFFFFFFF8

theorem witness_load : sT.rangeOpen 0 (th0.reg 1).toNat 8 = true ∧ (th0.reg 1).toNat % 32 = 0 ∧ sT.poisoned (th0.reg 1).toNat 32 = false ∧
    sT.rangeOpen 0 topWord 8 = true ∧ topWord % 8 = 0 ∧ sT.rangeOpen 0 (topWord + 8) 1 = false := by decide

theorem witness_store : Memory.wf sT.mem = true ∧ sT.deadLine ((th0.reg 1).toNat / 64 * 64) = false ∧ sT.rangeOpen 0 0x2000 32 = true := by decide

/-- A word of memory that holds 5. -/
def sM : State := { sT with mem := [(0x2000, 5)] }

theorem test_ld_sign : (((run (.ld t0 { fS with fn := 4 }) { sT with mem := [(0x2000, 0x80)] }).thread? t0).map (·.reg 3)) =
    some 0xFFFFFFFFFFFFFF80 := by decide
theorem test_st_bytes : (run (.st t0 { fS with fn := 1 }) sM).mem = [(0x2000, 3)] := by decide
theorem test_dload : (((run (.dload t0 fS) sM).thread? t0).map (·.desc 3)) = some 5 := by decide
theorem test_dsave_clears : (run (.dsave t0 fS) sM).mem = [] := by decide
theorem test_aadd : (run (.aadd t0 fS) sM).mem = [(0x2000, 8)] ∧ (((run (.aadd t0 fS) sM).thread? t0).map (·.reg 3)) = some 5 := by decide
theorem test_amin : (run (.amin t0 fS) sM).mem = [(0x2000, 3)] := by decide
theorem test_amax : (run (.amax t0 fS) sM).mem = [(0x2000, 5)] := by decide
theorem test_aswap : (run (.aswap t0 fS) sM).mem = [(0x2000, 3)] := by decide
theorem witness_acas : sM.peekNat 0x2000 8 = 5 ∧ (th0.setReg 3 5).reg 3 = 5 ∧ th0.reg 3 ≠ 5 := by decide
theorem test_acas_equal : (run (.acas t0 fS) (withThread t0 (th0.setReg 3 5) sM)).mem = [(0x2000, 3)] := by decide
theorem test_acas_other : (run (.acas t0 fS) sM).mem = [(0x2000, 5)] := by decide
theorem test_fence : pcAfter (.fence t0 { fS with fn := 3 }) th0 sT = 0x1008 := by decide

theorem test_dsetf_cut : (((run (.dsetf t0 { fS with fn := 2, imm := 0x1FFF }) sT).thread? t0).map (·.desc 3)) =
    some (0x3FFF <<< 64) := by decide
theorem test_dsetf_group : (((run (.dsetf t0 { fS with fn := 1, imm := 0xFFFFDFFF }) sT).thread? t0).map (·.desc 3)) =
    some (0x3FFF <<< 48) := by decide
theorem test_dgetf : (((run (.dgetf t0 { fS with fn := 9 }) (withThread t0 (th0.setDesc 1 (0xABCD <<< 224)) sT)).thread? t0).map (·.reg 3)) =
    some 0xABCD := by decide
theorem test_dcopy : (((run (.dcopy t0 fS) (withThread t0 (th0.setDesc 1 6) sT)).thread? t0).map (·.desc 3)) = some 6 := by decide

theorem test_tset : (((run (.tset t0 fS) sT).thread? t0).map (·.token 3)) = some 0x2000 := by decide
theorem test_tget : (((run (.tget t0 fS) (withThread t0 (th0.setToken 1 4) sT)).thread? t0).map (·.reg 3)) = some 4 := by decide
theorem witness_twait : ((0 : Half) - 0x80000001).toNat < 2 ^ 31 ∧ 2 ^ 31 ≤ ((0 : Half) - 0x80000000).toNat := by decide
theorem test_twait_waits : (((run (.twait t0 fS) sT).thread? t0).map (·.status)) = some (.waitTok 3 3) := by decide
theorem test_twait_goes : (((run (.twait t0 { fS with src2 := 0 }) sT).thread? t0).map (·.status)) = some .ready := by decide

/-- A thread that posts to slot 2,047 of its tile, with and without a thread there. -/
def thPost : Thread := th0.setReg 1 (0x7FF <<< 16)
def sPost : State := withThread t1 th0 (withThread t0 thPost sT)

theorem witness_tpost : sPost.Issues t0 thPost 8 false false 0 0 ∧ sPost.thread? t1 = some th0 ∧ th0.ctx = thPost.ctx ∧
    (withThread t0 thPost sT).thread? t1 = none :=
  ⟨⟨rfl, rfl, rfl, by decide, by decide, by decide, by decide, by decide⟩, rfl, rfl, rfl⟩
theorem test_tpost : (((run (.tpost t0 { fS with imm := 15 }) sPost).thread? t1).map (·.token 15)) = some 3 := by decide
theorem test_tpost_dropped : (run (.tpost t0 fS) (withThread t0 thPost sT)).rget TileCnt.POST_DROPPED 0 = 1 := by decide

/-- A context with one gauge entry and an exchange binding that is ON. -/
def sX : State :=
  let s := ((((sT.rput Ctx.GAUGE_COUNT 0 1).rput Gau.TRIP_RUN 0 3).rput Round.STATE 63 2).rput Round.CONTEXT 63 0).rput Round.APPLIED 63 8
  { s with hub := { s.hub with allocated := [(.round, 63)] } }

theorem witness_gread : 0 < sX.rget Ctx.GAUGE_COUNT 0 := by decide
theorem witness_xstat : ∀ m, m < 64 →
    ((sX.isAllocated .round m = true ∧ sX.isOn .round m = true ∧ sX.rget Round.CONTEXT m = 0) ↔ m = 63) := by decide
theorem witness_xstat_none : ∀ m, m < 64 →
    ¬ (sT.isAllocated .round m = true ∧ sT.isOn .round m = true ∧ sT.rget Round.CONTEXT m = 0) := by decide
theorem test_gread : (((run (.gread t0 { fS with fn := 7 }) sX).thread? t0).map (·.reg 3)) = some 3 := by decide
theorem test_grung : (((run (.grung t0 fS) sX).thread? t0).map (·.reg 3)) = some 1 := by decide
theorem test_xstat : (((run (.xstat t0 { fS with fn := 1 }) sX).thread? t0).map (·.reg 3)) = some 8 := by decide
theorem test_xstat_none : (((run (.xstat t0 fS) sT).thread? t0).map (·.reg 3)) = some (BitVec.allOnes 64) := by decide

/-! ## Ends, launches, gates and faults of threads -/

/-- A command in a queue. -/
def cmd0 : EngCmd :=
  { id := 5, op := .vew, thread := t0, ctx := 0x10000000, opid := 7, step := 5, attempt := 9, issued := 0, rung := 0, check := 0, wait := none
    signal := none, signal2 := none, record := none, da := 0, da1 := 0, db := 0, db1 := 0, dc := 0, dc1 := 0, dc2 := 0, dd := 0
    gs := 0, gt := 0, lr := 0, w1 := 0, l1 := none, pairNo := none, mirror := false, started := false }

def withCmds (cs : List EngCmd) (s : State) : State := { s with tsq := { s.tsq with cmds := cs } }

theorem witness_exit : (∀ c ∈ (withCmds [cmd0] sT).tsq.cmds, c.thread = t0 → c.started = false) ∧
    ∃ c ∈ (withCmds [cmd0, { cmd0 with id := 6, started := true }] sT).tsq.cmds, c.thread = t0 ∧ c.started = true :=
  ⟨by decide, _, List.mem_cons_of_mem _ (List.mem_singleton.2 rfl), rfl, rfl⟩
theorem test_exit_frees : ((run (.exit t0 fS) (withCmds [cmd0] sT)).thread? t0).isNone = true ∧
    (run (.exit t0 fS) (withCmds [cmd0] sT)).tsq.cmds = [] := by decide
theorem test_exit_waits : (((run (.exit t0 fS) (withCmds [{ cmd0 with started := true }] sT)).thread? t0).map (·.status)) =
    some .ended := by decide

theorem witness_tspawn : sT.rangeOpen 0 0x2000 48 = true ∧ 0x2000 % 16 = 0 ∧ sT.poisoned 0x2000 48 = false := by decide
theorem test_tspawn : (((run (.tspawn t0 fS) sT).thread? t0).map (·.asking)) = some (some 3) ∧
    (run (.tspawn t0 fS) sT).tsq.launches.length = 1 := by decide

/-- A partition whose gate has begun. -/
def gate0 : Gate := ⟨[(0, false)], [], []⟩
def sG : State := { sT with tsq := { sT.tsq with gates := [(0, gate0)] } }

theorem witness_sgate : look 0 sT.tsq.gates = none ∧ look 0 sG.tsq.gates = some gate0 := ⟨rfl, rfl⟩
theorem test_sgate : look 0 (run (.sgate t0 fS) sT).tsq.gates = some gate0 ∧
    (((run (.sgate t0 fS) (withThread t0 (th0.setReg 1 3) sT)).thread? t0).map (·.status)) = some (.waitGate 3 true true) := by decide

/-- A level 1 context. -/
def sL : State := withThread t0 th0 (ready.rput Ctx.PRIV 0 1)

theorem witness_sysrd : sL.Issues t0 th0 8 false false 0 1 ∧ placeOf 0x400 = .reg .hubLink 0 0 ∧ placeOf 0x3FFFFF8 = .empty :=
  ⟨⟨rfl, rfl, rfl, by decide, by decide, by decide, by decide, by decide⟩, by decide, by decide⟩
theorem test_sysrd : (((run (.sysrd t0 { fS with fn := 8, src1 := 0, imm := 0x400 }) sL).thread? t0).map (·.reg 3)) =
    some (BitVec.ofNat 64 (sL.entry .hubLink 0 % 2 ^ 64)) := by decide
theorem test_syswr_reserved : pcAfter (.syswr t0 { fS with src1 := 0, imm := 0x3FFFFF8 }) th0 sL = 0x1008 := by decide

theorem witness_faults : sT.isOn .context th0.ctxIx = true ∧ sT.isEnding .context th0.ctxIx = false ∧
    (sT.rget RasLog.HEAD + 65536 - sT.rget RasLog.TAIL) % 65536 < 1022 ∧
    5 ≤ ({ fS with fn := 13 } : FormS).fn.toNat % 8 ∧ sT.levelOf th0.ctxIx = 0 ∧
    sT.rangeOpen 0 (((th0.setReg 1 0xC000000000).reg 1).toNat) 1 = false ∧
    sT.rangeOpen 0 0x2001 2 = true ∧ 0x2001 % 2 ≠ 0 ∧ 0x2004 % 8 ≠ 0 ∧ sT.rget Ctx.GAUGE_COUNT 0 ≤ 0 := by decide
/-- Where a fault leaves the thread's context, its cause, and the type and the reason of its record. -/
def fault (c : Instr) (th : Thread) : Nat × Nat × Option (Nat × Nat) :=
  let u := run c (withThread t0 th sT)
  (u.fstate .context 0, u.rget Ctx.END_REASON 0, (u.rasLog.head?).map fun e => (e.2.type, e.2.reason))
theorem test_fault_code : fault (.iadd t0 { fS with fn := 13 }) th0 = (3, 0x1D, some (0x10, 0x1D)) := by decide
theorem test_fault_level : fault (.fwcall t0 fS) th0 = (3, 0x1D, some (0x11, 0x02)) ∧
    fault (.sysrd t0 fS) th0 = (3, 0x1D, some (0x11, 0x02)) ∧ fault (.syswr t0 fS) th0 = (3, 0x1D, some (0x11, 0x02)) ∧
    fault (.movs t0 { fS with fn := 1, imm := 1 }) th0 = (3, 0x1D, some (0x11, 0x02)) := by decide
theorem test_fault_address : fault (.ld t0 fS) (th0.setReg 1 0xC000000000) = (3, 0x1D, some (0x12, 0x62)) := by decide
theorem test_fault_misaligned : fault (.st t0 { fS with fn := 1 }) (th0.setReg 1 0x2001) = (3, 0x1D, some (0x13, 0x1D)) ∧
    fault (.jmp t0 fS) (th0.setReg 1 0x2004) = (3, 0x1D, some (0x13, 0x1D)) := by decide
theorem test_fault_gauge : fault (.gread t0 fS) th0 = (3, 0x1D, some (0x14, 0x1D)) := by decide

/-! ## Engine commands -/

/-- A plain tensor of a format at an address. -/
def plainAt (base fmt rows cols pitch : Nat) : Desc :=
  BitVec.ofNat 256 (base + fmt * 2 ^ 48 + rows * 2 ^ 128 + cols * 2 ^ 152 + pitch * 2 ^ 224)

/-- A thread of tile 0 whose descriptors name tensors of one element in its basin: BF16 in d8 and d9, FP32 in all others. -/
def thE : Thread :=
  let desc := fun (i : Nat) => plainAt (basinOf 0 + 0x10000 + 0x1000 * i) (if i = 8 ∨ i = 9 then 1 else 0) 1 1 64
  { th0 with d := Vector.ofFn fun i => desc i.val, g := ((th0.g.set 4 (BitVec.ofNat 64 (basinOf 0 + 0x40000))).set 5
    (BitVec.ofNat 64 (basinOf 0 + 0x50000))).set 7 0x100000000 }

def sE : State := withThread t0 thE (ready.rput Ctx.PRIV 0 1)

/-- The form with which each operation is issued here. -/
def formOf (op : EngOp) : FormE :=
  match op with
  | .mma => { fE with da := 8, db := 9 }
  | .tbuild => { fE with w1 := 1 }
  | .cgather => { fE with gt := 7, w1 := 1 <<< 26 }
  | _ => fE

theorem witness_engine_issues (op : EngOp) : sE.Issues t0 thE 16 (formOf op).pe (formOf op).pn (formOf op).pi op.needs := by
  cases op <;> exact ⟨rfl, rfl, rfl, by decide, by decide, by decide, by decide, by decide⟩
theorem witness_engine_fits (op : EngOp) : (formOf op).rsv = 0 ∧ (formOf op).w1 &&& op.reservedBits = 0 ∧ op.registersFit (formOf op) := by
  cases op <;> exact ⟨rfl, by decide, by simp [EngOp.registersFit, formOf, fE, gatedAct]⟩
theorem witness_engine_operands (op : EngOp) : op.operandFault sE (commandOf sE t0 thE (formOf op) op) = none := by
  cases op <;> decide +kernel
theorem witness_engine_record : sE.backed (thE.reg 4).toNat = true ∧ sE.backed ((thE.reg 4).toNat + 15) = true ∧
    sE.reserved (thE.reg 4).toNat = false ∧ sE.reserved ((thE.reg 4).toNat + 15) = false ∧ (thE.reg 4).toNat % 16 = 0 := by decide

/-- A row engine queue that is full. -/
def sFull : State := withCmds (List.replicate 8 { cmd0 with op := .rstat }) sE

theorem witness_engine_room : (sE.tsq.cmds.filter fun c => c.thread.tile = t0.tile ∧ c.op.engine = .row).length < Engine.row.depth ∧
    Engine.row.depth ≤ (sFull.tsq.cmds.filter fun c => c.thread.tile = t0.tile ∧ c.op.engine = .row).length := by decide
theorem test_engine_queues : (run (.rstat t0 fE) sE).tsq.cmds.map (·.op) = [.rstat] ∧ pcAfter (.vew t0 fE) thE sE = 0x1010 := by decide +kernel
theorem test_engine_blocks : (((run (.rstat t0 fE) sFull).thread? t0).map (·.status)) = some .blocked := by decide +kernel

/-- A BLOCKED thread with its command. -/
def blockedOn (s : State) : State :=
  let u := withThread t0 { th0 with status := .blocked } s
  { u with tsq := { u.tsq with blockedCmd := [(t0, { cmd0 with op := .rstat, id := 40 })] } }

theorem witness_queue_accept : (look t0 (blockedOn sT).tsq.blockedCmd).isSome = true ∧
    (blockedOn sT).queueRoom t0.tile .row = true ∧ (blockedOn sFull).queueRoom t0.tile .row = false := by decide
theorem test_queue_accept : (((run (.queueAccept t0) (blockedOn sT)).thread? t0).map (·.status)) = some .ready ∧
    (run (.queueAccept t0) (blockedOn sFull)).tsq = (blockedOn sFull).tsq := by decide

/-- A queue of a command that waits on counter 2 for 1, behind one that has started. -/
def cmdW : EngCmd := { cmd0 with wait := some (2, 1) }
def sW : State := withCmds [{ cmd0 with id := 4, started := true }, cmdW] sT

theorem witness_start_waits : 2 ^ 31 ≤ (th0.token 2 - 1).toNat ∧ ((th0.setToken 2 1).token 2 - 1).toNat < 2 ^ 31 ∧
    sW.tsq.cmds = [{ cmd0 with id := 4, started := true }] ++ cmdW :: [] := by decide
theorem test_start_waits : (run (.engineCommandStart 5) sW).tsq = sW.tsq ∧
    ((run (.engineCommandStart 5) (withThread t0 (th0.setToken 2 1) sW)).tsq.cmds.map (·.started)) = [true, true] := by decide

/-- A binding that is ON in context 0, and one channel that is not. -/
def sB : State :=
  let s := (sT.rput Bind.STATE 3 2).rput Bind.SHARD_COUNT 3 1
  { s with hub := { s.hub with allocated := [(.binding, 3), (.channel, 4)] } }

theorem witness_start_uapply : sB.resolve .binding (sB.handle .binding 3) = some 3 ∧ sB.isOn .binding 3 = true ∧
    sB.rget Ctx.ATTEMPT 0 ≤ 9 := by decide
def cmdU : EngCmd := { cmd0 with op := .uapply, gs := BitVec.ofNat 64 (sB.handle .binding 3) }
theorem test_start_uapply : ((run (.engineCommandStart 5) (withCmds [cmdU] sB)).update.applies.map fun a => (a.cmd, a.bind, a.attempt, a.passed)) =
    [(5, 3, 9, false)] := by decide
theorem witness_start_crecv : sB.resolve .channel (sB.handle .channel 4) = some 4 ∧ sB.isOn .channel 4 = false := by decide
def cmdR : EngCmd := { cmd0 with op := .crecv, gs := BitVec.ofNat 64 (sB.handle .channel 4) }
def sCrecv : State := withCmds [cmdR] (sB.rput Chan.STATE 4 2)
theorem witness_start_turn : sCrecv.transferTurn cmdR = true ∧ sCrecv.isOn .channel 4 = true ∧ (withCmds [cmdR] sB).transferTurn cmdR = true := by
  decide
theorem test_start_crecv_lands : ((run (.engineCommandStart 5) sCrecv).collect.landings.map fun l => (l.cmd, l.chan, l.shift)) =
    [(5, 4, false)] := by decide +kernel
/-- A hint move behind a demand move that has not started, and one alone. -/
def cmdH : EngCmd := { cmd0 with op := .tmove, w1 := 0x20 }
def sHint : State := withCmds [{ cmd0 with id := 4, op := .tmove }, cmdH] sT
theorem witness_start_hint : sHint.hintTurn 0 = false ∧ (withCmds [cmdH] sT).hintTurn 0 = true ∧ cmdH.w1.getLsbD 5 = true ∧
    { sHint with update := { sHint.update with chunks := [(0, 15)] } }.hintTurn 0 = true := by decide +kernel
theorem test_start_hint : (run (.engineCommandStart 5) sHint).tsq = sHint.tsq ∧
    ((run (.engineCommandStart 5) (withCmds [cmdH] sT)).tsq.cmds.map (·.started)) = [true] := by decide +kernel
theorem test_start_order : (run (.engineCommandStart 5) (withCmds [{ cmd0 with id := 4 }, cmd0] sT)).tsq.cmds.map (·.started) =
    [false, false] := by decide +kernel
theorem test_start_uses_entry : look 0 (run (.engineCommandStart 5) (withCmds [cmd0] { sT with tsq := { sT.tsq with
    caches := [(0, [0, 7])] } })).tsq.caches = some [7, 0] := by decide +kernel
theorem test_start_crecv : look 5 (run (.engineCommandStart 5) (withCmds [cmdR] sB)).tsq.early = some 0x24 := by decide

/-- A started VEW of two FP32 tensors of one element. -/
def aX : Nat := basinOf 0 + 0x10000
def cmdV : EngCmd :=
  { cmd0 with
    started := true, signal := some 1, da := plainAt aX 0 1 1 64, db := plainAt (aX + 0x1000) 0 1 1 64
    dc := plainAt (aX + 0x2000) 0 1 1 64 }
def sV (c : EngCmd) : State := withCmds [c] { sT with mem := [(aX + 2, 0x80), (aX + 3, 0x3F), (aX + 0x1003, 0x40)] }

theorem look_absent {α β : Type} [DecidableEq α] {k : α} : ∀ {l : List (α × β)}, (∀ e ∈ l, e.1 ≠ k) → look k l = none
  | [], _ => rfl
  | e :: l, h => by
    have := h e (List.mem_cons_self ..)
    simp only [look]
    simp [this, look_absent (fun x hx => h x (List.mem_cons_of_mem _ hx))]
/-- Every line answers where no register of a supply has been written and no device has failed. -/
theorem answers {s : State} (hf : s.tiers.failed = []) (hr : (s.regs.all fun e => e.1.tab != .pwrRegion) = true) (x : Nat) :
    s.deadLine x = false := by
  have h : ∀ f i, f.tab = .pwrRegion → s.rget f i = State.reset.rget f i := by
    intro f i e
    simp only [State.rget, lookD]
    have : look ⟨f.tab, i, f.lo⟩ s.regs = none := look_absent fun y hy hk => by
      have := List.all_eq_true.1 hr y hy
      simp [hk, e] at this
    rw [this]; rfl
  have : ∀ g, s.regionUp g = true := fun g => by
    simp only [State.regionUp, State.rbit, h _ g (show PwrRegion.STOP.tab = .pwrRegion from rfl)]; rfl
  have hc : ∀ c, s.clusterUp c = true := fun c => by
    simp only [State.clusterUp, this, h _ _ (show PwrRegion.CGATE.tab = .pwrRegion from rfl)]
    simp [State.rget, State.reset, lookD, look, Fld.default, PwrRegion.CGATE, bit]
  unfold State.deadLine
  split <;> simp [hf, this, hc]
theorem witness_answers : ∀ x, (sV cmdV).deadLine x = false := answers rfl (by decide)

theorem witness_complete : (sV cmdV).tsq.cmds.find? (fun d => d.id == 5) = some cmdV ∧ cmdV.op.engine ∉ [Engine.collective, .update] ∧
    look 5 (sV cmdV).tsq.early = none ∧ Memory.wf (sV cmdV).mem = true ∧ (sV cmdV).tiers.failed = [] ∧
    (sV cmdV).inputReason cmdV = none := by decide +kernel
theorem test_complete_signals : (((run (.engineCommandComplete 5 .agree) (sV cmdV)).thread? t0).map (·.token 1)) = some 1 ∧
    (run (.engineCommandComplete 5 .agree) (sV cmdV)).tsq.cmds = [] := by decide +kernel
def sMove : State := { sV { cmdV with op := .cmove, w1 := 1, gt := 64 } with poison := [aX / 64] }
theorem test_cmove_copies : (run (.engineCommandComplete 5 .agree) sMove).peekNat (aX + 0x2000) 4 = 0x3F800000 ∧
    (run (.engineCommandComplete 5 .agree) sMove).poison = [aX / 64, aX / 64 + 128] := by decide +kernel
/-- A started MMA of one BF16 element at L2. -/
def cmdM : EngCmd := { cmdV with op := .mma, da := plainAt aX 1 1 1 64, db := plainAt (aX + 0x1000) 1 1 1 64, check := 2 }
theorem witness_mismatch : (sV cmdM).tsq.cmds.find? (fun d => d.id == 5) = some cmdM ∧ cmdM.pairNo = none ∧ cmdM.mirror = false ∧
    look 5 (sV cmdM).tsq.early = none ∧ 63 < (sV cmdM).rget Census.W 0 ∧ 59 + 4 < (sV cmdM).rget Census.W 0 ∧
    (sV cmdM).inputReason cmdM = none := by decide +kernel
theorem test_mismatch_named : mismatchOf (sV cmdM) cmdM (.checksum [(59, -1)] false) = some ⟨false, some 59, 1⟩ ∧
    mismatchOf (sV cmdM) cmdM (.checksum [(61, 1)] false) = some ⟨false, none, 0⟩ ∧ mismatchOf (sV cmdV) cmdV (.checksum [(0, 1)] true) = none ∧
    mismatchOf (sV cmdM) cmdM (.checksum [(3, -5), (7, 5)] false) = some ⟨false, none, 0⟩ ∧

    mismatchOf (sV cmdM) cmdM (.residue 63) = some ⟨true, some 63, 0⟩ := by decide
theorem test_mismatch_strikes : ((sV cmdM).noteMismatch cmdM ⟨false, some 59, 1⟩).ras.colStrikes = [((0, 59), 1)] ∧
    ((sV cmdM).noteMismatch cmdM ⟨false, none, 0⟩).ras.tileStrikes = [(0, 1)] ∧
    ((sV cmdM).noteMismatch cmdM ⟨true, some 63, 0⟩).rget Part.DETECTIONS 0 = 1 := by decide +kernel
theorem witness_compute : let a := resolved cmdV.da 0; let w := resolved (plainAt (aX + 2) 1 1 1 64) 0
    a.fmt = fmtFP32 ∧ a.scl = 0 ∧ a.coded = false ∧ a.cen = false ∧ (a.ext1 + 31) / 32 * fmtBits fmtFP32 ≤ a.pitch0 ∧
    w.fmt = fmtBF16 ∧ w.ext0 = 1 ∧ w.ext1 = 1 ∧ a.base % 64 = 0 := by decide

/-! ## Launches -/

/-- A launch of two threads on each of tiles 1,022 and 1,023 in context 0, by a ring's command. -/
def req0 : LaunchReq :=
  { thread := none, cmd := some 2, ctx := 0x10000000, first := 1022, count := 2, threads := 2, entry := 0x1000, arg0 := 4, arg1 := 5
    bytes := List.replicate 48 0, refusal := none }
def taken0 : Taken := { id := 2, ring := 1, op := 0, flags := 0, tag := 77, handle := 0, body := [], bad := false, started := true }
/-- All regions are in partition 0, and context 0 is allocated. -/
def sR : State :=
  let s := sT.rput Part.REGIONS 0 0xFFFFFFFF
  { s with hub := { s.hub with allocated := [(.context, 0)], taken := [taken0] } }
def sQ (r : LaunchReq) (s : State) : State := { s with tsq := { s.tsq with launches := [r] } }

theorem witness_launch : (∀ b ∈ slice req0.bytes 10 6 ++ slice req0.bytes 40 8, b = 0) ∧ req0.first + req0.count ≤ 1024 ∧
    sR.resolve .context req0.ctx.toNat = some 0 ∧ sR.isOn .context 0 = true ∧ sR.paired 0 = false ∧ req0.thread = none ∧
    sR.hub.taken.find? (fun x => x.id == 2) = some taken0 := by decide
theorem witness_launch_tiles : ∀ i < req0.count, (sR.rget Part.REGIONS (sR.rget Ctx.PARTITION 0)).testBit ((req0.first + i) / 32) = true ∧
    sR.tileLive (req0.first + i) = true ∧ sR.role (req0.first + i) ≠ 3 ∧ (sR.pinnedAt (req0.first + i)).length < 16 ∧
    sR.takenSlots (req0.first + i) = [] := by decide +kernel
/-- The reason that a launch is answered with, and the tiles that it reaches. -/
def answerOf (r : LaunchReq) (s : State) : List Nat × List Nat :=
  let u := run .launchAdmit (sQ { r with refusal := s.launchRefusal r.ctx } s)
  (u.hub.completions.map (·.reason), u.tsq.arrivals.map (·.tile))
theorem test_launch_admits : answerOf { req0 with first := 1023, count := 1, threads := 1 } sR = ([0], [1023]) := by decide +kernel
theorem test_launch_refuses : answerOf { req0 with threads := 0 } sR = ([0x11], []) ∧
    answerOf { req0 with ctx := 0 } sR = ([0x10], []) ∧ answerOf { req0 with entry := 4 } sR = ([0x11], []) ∧
    answerOf req0 (sR.rput Ctx.STATE 0 0) = ([0x17], []) ∧ answerOf req0 (sR.rput Part.REGIONS 0 1) = ([0x15], []) := by decide +kernel
/-- Tiles whose first has fifteen or sixteen other contexts pinned. -/
def sPins (n : Nat) : State := { sR with tsq := { sR.tsq with threads := (List.range n).map fun i =>
  (⟨1022, BitVec.ofNat 11 i⟩, { th0 with ctx := BitVec.ofNat 32 (i + 1) }) } }
theorem witness_launch_pins : (sPins 15).pinnedAt 1022 = (List.range 15).map (· + 1) ∧ 0 ∉ (sPins 16).pinnedAt 1022 ∧
    16 ≤ ((sPins 16).pinnedAt 1022).length := by decide +kernel
theorem test_launch_retired : answerOf req0 (sR.rput Census.RETIRED 1023 1) = ([0x16], []) := by decide +kernel
theorem test_launch_cache_full : answerOf req0 (sPins 16) = ([0x19], []) := by decide +kernel

/-- An arrival at tile 3, with and without the context's entry in the cache. -/
def arr0 : Arrival := ⟨3, 3, 0x10000000, [0, 2047], 0x1000, 8, 9⟩
def sA (cache : List Nat) : State := { sR with tsq := { sR.tsq with arrivals := [arr0], caches := [(3, cache)] } }
def sC : State := { sR with tsq := { sR.tsq with fetching := [arr0] } }

theorem witness_arrival : (sA []).tsq.arrivals.find? (fun a => a.tile == 3) = some arr0 ∧ 0 ∈ lookD 3 [] (sA [0]).tsq.caches ∧
    0 ∉ lookD 3 [] (sA []).tsq.caches ∧ sC.tsq.fetching.find? (fun a => a.tile == 3) = some arr0 ∧ arr0.slots.Nodup ∧
    (∀ k ∈ arr0.slots, k < 2048) ∧ sC.resolve .context arr0.ctx.toNat = some 0 := by decide
theorem test_arrival_hits : (((run (.launchTileArrival 3) (sA [0])).thread? ⟨3, 2047⟩).map fun t => (t.reg 0, t.reg 1, t.reg 3, t.pc)) =
    some (1, 3, 9, 0x1000) := by decide
theorem test_arrival_misses : (run (.launchTileArrival 3) (sA [])).tsq.fetching = [arr0] := by decide
theorem test_cache_fill : (((run (.contextCacheFill 3) sC).thread? ⟨3, 0⟩).map (·.reg 0)) = some 0 ∧
    lookD 3 [] (run (.contextCacheFill 3) sC).tsq.caches = [0] := by decide

/-! ## Gates and updates -/

/-- Context 0 alone at its gate, its thread waiting there. -/
def thG (n q : Bool) : Thread := { th0 with status := .waitGate 3 n q }
def sGate (n q : Bool) : State := withThread t0 (thG n q) sG

theorem witness_gate : look 0 (sGate false false).tsq.gates = some gate0 ∧ (sGate false false).gateParts gate0 = [0] ∧
    (sGate false false).atGate 0 = true ∧ (sGate false false).joined 0 = [] ∧ (sGate false false).roundOf 0 = none ∧
    (sGate false false).ownFlags 0 = (false, false) ∧ (sGate true false).ownFlags 0 = (true, false) ∧
    lookD 0 false gate0.contexts = false := by decide
/-- The counters after a gate and what it leaves in g3. -/
def gateEnd (s : State) : Nat × Nat × Option Word :=
  let u := run (.stepGateDecide 0) s
  (u.rget Ctx.STEP 0, u.rget Ctx.ATTEMPT 0, (u.thread? t0).map (·.reg 3))
theorem test_gate_passes : gateEnd ((sGate false false).rput Ctx.ATTEMPT 0 18446744073709551615) = (1, 0, some 1) := by decide
theorem test_gate_fails : gateEnd (sGate true false) = (0, 1, some 0) := by decide

/-- A binding of one place that is ON in context 0, with shard 0 in region 0. -/
def sU : State :=
  let s := (((((((sT.rput Bind.STATE 3 2).rput Bind.DIM0 3 1).rput Bind.DIM1 3 1).rput Bind.SHARD_ROWS 3 1).rput Bind.SHARD_COLS 3 1).rput
    Bind.SHARD_COUNT 3 1).rput Bind.REGION_MASK 3 1).rput Ctx.MASTER_BASE 0 0x100000
  let s := (s.rput Ctx.MOMENT_BASE 0 0x200000).rput Ctx.WORK_BASE 0 0x300000
  { s with hub := { s.hub with allocated := [(.context, 0), (.binding, 3)] } }

def res0 : RedResult := ⟨4, 3, 0, 0, 0, true, 7, [(.fin 1, true)], false⟩
def grad0 : Grad := ⟨3, 0, 0, 0, 7, [0x3F800000], false⟩
def apply0 : UApply := ⟨5, 3, 0, 0, 0, 0, 7, [⟨0, none⟩], true, false, sU.regs.filter fun e => e.1.tab == .bind, 0⟩
def sRes : State := { sU with collect := { sU.collect with results := [res0] } }
/-- Every byte of a sump but `n`, held by gradients of a shard of 262,144 places. -/
def sBig : State := ((sU.rput Bind.SHARD_ROWS 3 512).rput Bind.SHARD_COLS 3 512).rput Bind.DIM0 3 512

theorem witness_sump : sRes.collect.results.find? (fun r => r.toSump && sRes.shardRegion r.bind r.shard == 0) = some res0 ∧
    sRes.gradWanted 3 0 0 0 = true ∧ sRes.sumpUsed 0 + 4 * sRes.places 3 ≤ sumpBytes := by decide
theorem test_sump_write : ((run (.sumpWrite 0) sRes).update.sump.map fun g => (g.data, g.poison)) = [([0x3F800000], true)] ∧
    (run (.sumpWrite 0) sRes).collect.results = [] := by decide +kernel
theorem witness_sump_unwanted : (sRes.rput Bind.STATE 3 0).gradWanted 3 0 0 0 = false ∧ sRes.rbit Chan.CODE_EN 4 = false := by decide
theorem test_sump_drops : (run (.sumpWrite 0) (sRes.rput Bind.STATE 3 0)).collect.results = [] := by decide +kernel
theorem witness_sump_full : sumpBytes < 4 * sBig.places 3 * (sumpBytes / (4 * sBig.places 3)) + 4 * sBig.places 3 := by decide

def sPark : State := { sU with update := { sU.update with sump := [grad0], wanted := [(3, 0)] } }
theorem witness_stage : sPark.isOn .binding 3 = true ∧ sPark.ownsShard 3 0 = true ∧ sPark.isStaged 3 0 = false ∧
    sPark.parked 3 0 = true ∧ sPark.stageBytes 3 ≤ 2 ^ 22 ∧ { sPark with update := { sPark.update with sump := [] } }.hintTurn 0 = true := by
  decide +kernel
theorem test_state_fetch : (run (.stateFetch 3 0) sPark).isStaged 3 0 = true ∧ (run (.stateFetch 3 0) sPark).update.wanted = [] := by decide

/-- A passed UAPPLY with its gradient and its staged shard. -/
def sRule : State :=
  { sU with update := { sU.update with sump := [grad0], staged := [(3, 0, 12)], applies := [apply0] } }
theorem witness_rule : sRule.dueApply 3 0 = some apply0 ∧ sRule.gradFor apply0 0 = some grad0 ∧ sRule.isStaged 3 0 = true ∧
    sRule.rootsReady 3 0 1 = true ∧ sRule.update.ready = [] ∧ sRule.correctionFirst 3 0 0 = false ∧ sRule.commitPoison 3 0 grad0 = false ∧ sRule.wellhead.runs = [] ∧
    (sRule.withBinds apply0.binds).rget Bind.RULE 3 = 0 ∧ ((sRule.withBinds apply0.binds).shardBox 3 0).rows = 1 := by decide
theorem witness_rule_holds : ((sRule.withBinds apply0.binds).ruleOut apply0 0 { grad0 with data := [0x7F800000] }).2 = false ∧
    ((sRule.withBinds apply0.binds).ruleOut apply0 0 grad0).2 = true := by decide +kernel
theorem test_rule_runs : ((run (.updateRuleRun 3 0) sRule).update.ready.map fun n => (n.bind, n.shard, n.step)) = [(3, 0, 0)] := by
  decide +kernel

def new0 : NewState := ⟨5, 3, 0, [], [[0x40000000]], none, 0, 0, 7, 0⟩
def sReady : State := { sRule with update := { sRule.update with ready := [new0] } }
theorem witness_commit : sReady.nextSlot 3 0 = some 0 ∧ (sReady.retained 3 0).slots.length = 4 ∧
    sReady.update.ready.find? (fun r => r.bind == 3 && r.shard == 0) = some new0 ∧ sReady.castHolds 3 0 = false ∧
    sReady.correctionFirst 3 0 0 = false := by decide
/-- The commit in pair mode: the context at L3, its partition with PAIR. -/
def sPaired : State := (sReady.rput Ctx.CHECK (sReady.rget Bind.CONTEXT 3) 3).rput Part.PAIR (sReady.partOf (sReady.rget Bind.CONTEXT 3)) 1
theorem witness_commit_pair : sPaired.paired (sPaired.rget Bind.CONTEXT 3) = true ∧ sPaired.ras.early = [] ∧ sPaired.isOn .binding 3 = true ∧
    sPaired.nextSlot 3 0 = some 0 := by decide
theorem test_commit_pair : ((run (.shardCommit 3 0) sPaired).ras.digests.map fun p => (p.tile, p.number)) =
    [(1024 + sPaired.shardRegion 3 0, (3 * 2 ^ 32) * 2 ^ 16 + ((sPaired.retained 3 0).newestGen + 1) % 65536)] := by decide +kernel

def corr0 : Correction := ⟨3, 0, 1, 0, [[0x3F800000]], true, false⟩
def sCorr : State := { sU with update := { sU.update with corrections := [corr0] } }
theorem witness_correction : sCorr.update.corrections.find? (fun e => e.bind == 3 && e.shard == 0) = some corr0 ∧
    sCorr.paramPoison 3 0 (sCorr.masterBase 3 0) 4 = false ∧ sCorr.castHolds 3 (corr0.step - 1) = false ∧ sCorr.update.applies = [] := by
  decide
theorem witness_correction_finite :
    Mat.finite (Mat.map2 (fun x y => rn (x.add y)) (valsOf (sCorr.readParams 3 0 (sCorr.masterBase 3 0) 4)) (valsOf corr0.delta)) = true := by
  decide +kernel

/-- A KRON shard whose next root job is due, and one whose job is under way. -/
def root0 : RootJob := ⟨0, true, false, [], [], 7, 1⟩
def sRoot (k : RootJob) : State :=
  let s := ((sU.rput Bind.RULE 3 2).rput Bind.ROOT_EVERY 3 1).rput Ctx.STEP 0 2
  { s with update := { s.update with roots := [((3, 0), k)] } }
theorem witness_roots : look (3, 0) (sRoot root0).update.roots = some root0 ∧ (sRoot root0).dueApply 3 0 = none ∧
    1 + (root0.job + 1) * (sRoot root0).rget Bind.ROOT_EVERY 3 ≤ (sRoot root0).rget Ctx.STEP 0 ∧
    (sRoot root0).rget Bind.RULE 3 = 2 := by decide
theorem test_root_job_done : ((look (3, 0) (run (.rootJobDone 3 0) (sRoot { root0 with done := false, held := true })).update.roots).map
    (·.done)) = some true ∧ (run (.rootJobDone 3 0) (sRoot { root0 with done := false, held := true })).rget Bind.HELD_COUNT 3 = 1 := by
  decide
theorem witness_audit : 0 ∈ ({ sRule with update := { sRule.update with auditDue := [0], applies :=
    [{ apply0 with shards := [⟨0, some 0⟩] }] } } : State).update.auditDue ∧ sRule.shardRegion 3 0 = 0 := by decide

/-- A cast of context 0 for a ring's command. -/
def cast0 : CastJob := ⟨0, 1, 0, 0x400000, false, none, some 2, some 0, false, none⟩
def sCast : State :=
  { sU with update := { sU.update with casts := [cast0] }, hub := { sU.hub with taken := [taken0] } }
theorem witness_cast : sCast.castOf 0 = some cast0 ∧ sCast.isOn .context 0 = true ∧ sCast.castSettled cast0 0 = true ∧
    sCast.hub.taken.find? (fun x => x.id == 2) = some taken0 ∧ (sCast.rput Ctx.STATE 0 4).isOn .context 0 = false := by decide +kernel
theorem test_cast_off : (run (.castComplete 0) (sCast.rput Ctx.STATE 0 4)).hub.completions = [⟨1, 77, 0, 0x4D⟩] ∧
    (run (.castComplete 0) (sCast.rput Ctx.STATE 0 4)).update.casts = [] := by decide

/-! ## Collective exchange -/

/-- Channel 5 of three modules, ON for context 0 and binding 3; this module is member 0. -/
def sCh : State :=
  let s := (((((sU.rput Chan.STATE 5 2).rput Chan.BINDING 5 3).rput Chan.MEMBERS 5 3).rput Chan.QUORUM 5 1).rput Chan.DEADLINE 5 10).rput
    FabId.MODULE_ID 0 7
  let s := ((s.rput Chan.ABANDON 5 1).rput Chan.LEASE_TIMEOUT 5 1).rput Chan.LATENESS 5 2
  { s with
    fabric := { s.fabric with members := [(5, [7, 9, 11])] }
    hub := { s.hub with allocated := s.hub.allocated ++ [(.channel, 5)] } }
def heard (f : Frame) (s : State) : State := { s with fabric := { s.fabric with delivered := [f] } }

def frmReq : Frame := { frm 1 with body := [1, 0, 0, 1, 0, 0, 0, 0], gen := 4 }
theorem witness_arrives (op : Nat) : (heard (frm op) sCh).Arrives op (frm op) :=
  ⟨rfl, by simp [State.frontFrame, heard], rfl⟩
theorem test_gather_req : ((run (.gatherReq frmReq) (heard frmReq sCh)).collect.requests.map fun r => (r.src, r.gen, r.explicit, r.copy)) =
    [(9, 4, true, 1)] := by decide

/-- A request to this module from itself, and a slot whose header says generation 4 of step 2. -/
def req1 : GatherReq := ⟨7, 5, 0, 0, true, 4, 0, true, 1, 0, 0, 7, 33, 0x10000000⟩
def sReq (r : GatherReq) : State :=
  { sCh with collect := { sCh.collect with requests := [r] }, update := { sCh.update with
      retained := [((3, 0), ⟨[some 4, none, none, none], [2, 0, 0, 0], [0, 0, 0, 0], 0⟩)] } }
def headed (a : Nat) (s : State) : State :=
  { s with mem := [(a, 4), (a + 2, 0x81), (a + 8, 2)] }
def sServe (r : GatherReq) : State := headed ((sReq r).headAddr 3 0 0) (sReq r)

theorem witness_serve : (sServe req1).collect.requests.find? (fun r => r.chan == 5 && r.member == 0 && r.shard == 0) = some req1 ∧
    (sServe req1).isOn .binding 3 = true ∧ (sServe req1).ownsShard 3 0 = true ∧ ((sServe req1).retained 3 0).slotOf 4 = some 0 ∧
    ((sServe req1).retained 3 0).slotOf 5 = none ∧ (sServe req1).ownsShard 3 1 = false ∧
    let h := readSlotHead ((sServe req1).peek ((sServe req1).headAddr 3 0 0) 64)
    h.valid = true ∧ h.gen = 4 ∧ h.step = 2 ∧ h.step + 0 < 3 := by decide +kernel
/-- The status of the answer to a request, and whether the request still waits. -/
def served (r : GatherReq) (s : State) : List Nat × Nat :=
  let u := run (.gatherServe 5 0 r.shard) s
  (u.fabric.delivered.map (·.status), u.collect.requests.length)
theorem test_serve : served req1 (sServe req1) = ([0], 0) ∧ served { req1 with gen := 5 } (sServe { req1 with gen := 5 }) = ([0x2B], 0) ∧
    served { req1 with shard := 1 } (sServe { req1 with shard := 1 }) = ([0x2C], 0) := by decide +kernel
theorem witness_serve_waits : (sServe req1).gatherWaits req1 = false ∧ (sServe req1).isOn .channel 5 = true ∧
    (sServe { req1 with explicit := false, step := 3 }).gatherWaits { req1 with explicit := false, step := 3 } = true ∧
    (readSlotHead ((sServe req1).peek ((sServe req1).headAddr 3 0 0) 64)).dual = false := by decide +kernel
theorem test_serve_no_copy : served { req1 with copy := 2 } (sServe { req1 with copy := 2 }) = ([0x2C], 0) ∧
    served req1 ((sServe req1).rput Chan.STATE 5 0) = ([], 1) := by decide +kernel
theorem test_serve_waits : served { req1 with explicit := false, step := 3 } (sServe { req1 with explicit := false, step := 3 }) =
    ([], 1) := by decide +kernel

/-- A gather of shard 0 that waits, with its status words at 0x3000. -/
def cmdG : EngCmd := { cmd0 with op := .cgather, started := true, gt := 0x100000000, dd := 0x3000, dc := plainAt aX 1 1 1 64 }
def gather0 : Gather := ⟨5, 0, 1, 0, [], [], [], 0, 0, [], [], false, none⟩
def sGather : State :=
  let s := withCmds [cmdG] sCh
  { s with collect := { s.collect with gathers := [(5, gather0)] } }
def frmData : Frame := { frm 2 with member := 1, status := 0x2B, body := [5, 0, 0, 0] }
def late (n : Nat) (s : State) : State := s.rput TbsTime.ALL 0 n
theorem witness_gather : sGather.tsq.cmds.find? (fun d => d.id == 5) = some cmdG ∧ cmdG.shards = [0] ∧ look 0 gather0.status = none ∧
    leField frmData.body 0 4 = cmdG.id ∧ frmData.status ≠ 0 ∧ (operandOf cmdG.dd).base % 4 = 0 := by decide
theorem test_gather_refused : (run (.gatherData frmData) (heard frmData sGather)).peekNat 0x3000 4 = 0x2B000000 := by decide +kernel

def lease0 : Lease := ⟨9, 5, 0x10000000, 3, 0, 4, 0⟩
def sLease : State := { sCh with collect := { sCh.collect with leases := [lease0] } }
def frmRelease : Frame := { frm 3 with body := [0, 0, 0, 0, 4, 0, 0, 0, 0, 0, 0, 0x10] }
theorem witness_lease : sLease.collect.leases.find? (fun l =>
    l.chan == 5 && (sLease.members 5)[1]? == some l.module_ && l.shard == 0 && l.gen == 4) = some lease0 := by decide
theorem test_lease_release : (run (.leaseRelease frmRelease) (heard frmRelease sLease)).collect.leases = [] := by decide
theorem test_lease_early : (run (.leaseTimeout 5 1 0 4) sLease).collect.leases = [lease0] := by decide

/-- A contribution of one FP32 element. -/
def frmC : Frame := { frm 4 with body := [4, 0, 0, 0, 0, 0, 0, 0, 0, 0, 0x80, 0x3F] }
theorem witness_contribution : (heard frmC sCh).servesShard frmC = true ∧ (heard frmC sCh).servesShard { frmC with shard := 1 } = false ∧
    waitsBehind [] frmC = false ∧ (heard frmC sCh).hasLines frmC = true ∧ (heard frmC sCh).judge frmC = .opens ∧
    1 < (sCh.members 5).length ∧ 0 < sCh.rget Chan.DEADLINE 5 := by decide +kernel
def sRed : State := run (.contribution frmC) (heard frmC sCh)
theorem test_contribution_opens : (sRed.collect.reds.map fun r => (r.shard, r.toSump, r.segs.map (·.fresh))) = [(0, true, [[1]])] := by
  decide +kernel
theorem witness_duplicate : (heard frmC sRed).judge frmC = .duplicate := by decide +kernel
theorem test_contribution_duplicate : ((run (.contribution frmC) (heard frmC sRed)).collect.counts.map fun e => e.2.getD cntDuplicates 0) = [1] := by
  decide +kernel
/-- A segment of another reduction that holds all accumulator lines of its die. -/
def sFullLines (accs : List Acc) : State := { heard frmC sCh with collect := { sCh.collect with reds :=
  [⟨6, 3, 0, 0, 0, 0, true, 7, 0, none, [], [⟨0, accs, [1], none⟩], []⟩] } }
theorem witness_no_lines (accs : List Acc) (h : accs.length = 419392) : (sFullLines accs).hasLines frmC = false := by
  have hd : (sFullLines accs).shardDie 3 0 = 0 := Eq.trans (b := sCh.shardDie 3 0) rfl (by decide +kernel)
  have he : (sFullLines accs).shardElems 3 0 = 1 := Eq.trans (b := sCh.shardElems 3 0) rfl (by decide +kernel)
  have hb : (sFullLines accs).rget Chan.BINDING 5 = 3 := Eq.trans (b := sCh.rget Chan.BINDING 5) rfl (by decide +kernel)
  have hj : (sFullLines accs).staleAttempt frmC = false := Eq.trans (b := sCh.staleAttempt frmC) rfl (by decide +kernel)
  have hr : (sFullLines accs).collect.reds = [⟨6, 3, 0, 0, 0, 0, true, 7, 0, none, [], [⟨0, accs, [1], none⟩], []⟩] := rfl
  have hc : frmC.channel = 5 := rfl
  have hg : frmC.segment = 0 := rfl
  have hs : frmC.shard = 0 := rfl
  have hq : (sFullLines accs).collect.closed = [] := rfl
  have ho : (sFullLines accs).judge frmC = .opens := by
    simp [State.judge, he, hb, hj, hr, hc, hg, hs, hq, Reduction.isFor, segmentCount, ceilDiv, segmentSize]
  simp [State.hasLines, State.linesUsed, Segment.lines, hd, he, hb, ho, hr, hc, hs, hg, h, Verdict.needsLines, segmentLines,
    segmentLen, ceilDiv,
    accLines, segmentSize]
def sWaiting : State := { sCh with collect := { sCh.collect with waitLine := [(0, 0, frmC)] } }
theorem witness_waiting : sWaiting.nextWaiting 0 [] sWaiting.collect.waitLine = some (0, 0, frmC) := by decide +kernel
theorem test_line_grant : (run (.contributionLineGrant 0) sWaiting).collect.waitLine = [] ∧
    (run (.contributionLineGrant 0) sWaiting).collect.reds.length = 1 := by decide +kernel

def red0 : Reduction := ⟨5, 3, 0, 0, 0, 0, true, 7, 0, none, [], [⟨0, [Acc.empty], [1], none⟩], []⟩
def sEnd : State := { sCh with collect := { sCh.collect with reds := [red0] } }
theorem witness_deadline : sEnd.collect.reds.filter (fun r => r.chan == 5 && r.shard == 0) = [red0] ∧
    segmentCount (sEnd.shardElems 3 0) = 1 ∧ sEnd.rget Chan.LATENESS 5 ≠ lateWait ∧ sEnd.rget Chan.QUORUM 5 ≤ 1 ∧
    1 < (sEnd.rput Chan.QUORUM 5 2).rget Chan.QUORUM 5 ∧ 1 < (sEnd.members 5).length ∧
    notPast (sEnd.rget Ctx.ATTEMPT 0) red0.attempt = true := by decide
/-- A channel whose deadline is 0. -/
def sDue : State := sEnd.rput Chan.DEADLINE 5 0
theorem test_deadline : ((run (.reductionDeadline 5 0) sDue).collect.results.map fun v => (v.shard, v.toSump)) = [(0, true)] ∧
    (run (.reductionDeadline 5 0) sDue).collect.reds = [] := by decide +kernel
theorem test_abandon_early : (run (.reductionAbandon 5 0) sEnd).collect.reds.length = 1 := by decide +kernel
theorem test_abandon : (run (.reductionAbandon 5 0) (sEnd.rput Chan.ABANDON 5 0)).collect.reds = [] ∧
    (run (.reductionAbandon 5 0) (sEnd.rput Chan.ABANDON 5 0)).attemptFlags 0 0 = (true, false) := by decide +kernel
def sContrib : State := { sCh.rput Chan.ABANDON 5 0 with collect := { sCh.collect with contribs := [(5, ⟨5, 0, 7, 0, 0, 0, [(0, 2)], [], []⟩)] } }
theorem test_unaccepted : ((look 5 (run (.contribUnaccepted 5 0) sContrib).collect.contribs).map fun e => (e.left, e.codes)) =
    some ([(0, 0)], [(0, 0x2D)]) ∧ (run (.contribUnaccepted 5 0) sContrib).attemptFlags 0 0 = (true, false) := by decide +kernel

def land0 (shift : Bool) : Landing := ⟨5, 5, 1, shift⟩
def sLand (f : Frame) (shift : Bool) : State := { heard f sGather with collect := { sCh.collect with landings := [land0 shift] } }
theorem witness_transfer : (sLand (frm 5) true).collect.landings.find? (fun l => l.chan == 5 && l.member == 1 && l.shift == true) =
    some (land0 true) := by decide
theorem test_shift_lands : (look 5 (run (.shift (frm 5)) (sLand (frm 5) true)).collect.landed).map (·.1) = some false := by decide +kernel
theorem test_send_stays : (run (.send (frm 6)) (sLand (frm 6) true)).collect.landed = [] := by decide +kernel

def frmPost : Frame := { frm 10 with body := [0, 0, 0, 0, 2, 0, 0, 0, 5, 0, 0, 0, 0, 0, 0, 0x10] }
theorem witness_token_post : (heard frmPost sCh).thread? t0 = some th0 ∧ th0.ctx = BitVec.ofNat 32 (leField frmPost.body 12 4) := by
  decide
theorem test_token_post : (((run (.tokenPost frmPost) (heard frmPost sCh)).thread? t0).map (·.token 2)) = some 5 := by decide
def frmFlags : Frame := { frm 11 with body := [3] }
theorem test_gate_flags : (run (.gateFlags frmFlags) (heard frmFlags sCh)).collect.flags = [⟨5, 1, 0, 0, true, true⟩] := by decide
def frmDigest : Frame := { frm 12 with body := [1, 0, 0, 0, 0, 0, 0, 0, 3, 0, 0, 0, 6, 0, 0, 0, 0, 0, 0, 0] }
def sDigest : State := { heard frmDigest sCh with ras := { sCh.ras with digests := [⟨3, 6, 1, 0, 0x10000000, 7, 0⟩] } }
theorem test_digest_agrees : (run (.digest frmDigest) sDigest).ras.digests = [] ∧ (run (.digest frmDigest) sDigest).ras.tileStrikes = [] := by
  decide +kernel
theorem test_bulk : (run (.bulk (frm 13)) (heard (frm 13) sCh)).fabric.delivered = [] := by decide
def frmGrant : Frame := { frm 7 with body := [3, 2, 0, 0, 0, 0, 0, 0] }
def sGrant : State :=
  { heard frmGrant sCh with fabric := { (heard frmGrant sCh).fabric with windows := [(⟨9, 0, 3⟩, [⟨2, none⟩])] } }
theorem test_grant : lookD ⟨9, 0, 3⟩ [] (run (.grant frmGrant) sGrant).fabric.windows = [] := by decide
def sStart : State := { heard (frm 8) (sCh.rput Chan.STATE 5 1) with fabric := { (heard (frm 8) sCh).fabric with hellos := [(5, 11)] } }
theorem witness_hello : sStart.fstate .channel 5 = 1 ∧ 9 ∈ sStart.otherMembers 5 ∧ look (5, 9) sStart.fabric.peerEpoch = none := by decide
theorem test_hello : (run (.hello (frm 8)) sStart).isOn .channel 5 = true := by decide +kernel
def frmReject : Frame := { frm 9 with status := 0x24 }
theorem test_reject : (run (.reject frmReject) (heard frmReject sCh)).rget Chan.REJECTS 5 = 1 ∧
    (run (.reject frmReject) (heard frmReject sCh)).rget Chan.LAST_ERROR 5 = 0x24 := by decide

/-! ## Ports, links and channels -/

/-- Port 3 up, with a C0 and a C3 flit in its queue. -/
def pf (cls : Nat) : PortFlit := ⟨{ flt with cls := cls }, none⟩
def port0 : PortState := (State.reset.port 3)
def withPort (p : PortState) : State :=
  let s := (ready.rput FabPort.STATE 3 2).rput FabPort.WIDTH 3 4
  { s with fabric := { s.fabric with ports := [(3, p)] } }
def port1 : PortState := { port0 with queue := [pf 3, pf 0], credits := [1, 0, 0, 5] }

theorem witness_flit : (withPort port1).portUp 3 = true ∧ (withPort port1).nextClass port1 = some (0, 3, 0, 0) ∧
    port1.queue.find? (fun q => q.flit.cls == 0) = some (pf 0) ∧ port1.forming.length < 4 ∧
    ({ port1 with forming := List.replicate 4 (pf 3) } : PortState).forming.length = 4 := by decide
theorem test_flit_c0_first : ((run (.flitTransmit 3) (withPort port1)).port 3).queue = [pf 3] ∧
    (run (.flitTransmit 3) (withPort port1)).rget FabPort.TX_FLITS 3 = 1 := by decide
theorem test_flit_ends_block : ((run (.flitTransmit 3) (withPort { port1 with forming := List.replicate 4 (pf 3) })).port 3).retry.map
    (fun e => (e.flits.length, e.seq)) = [(5, 0)] := by decide +kernel

/-- A C0 source whose frame waits for a token. -/
def sPol (tokens at_ : Nat) : State :=
  { sCh with fabric := { sCh.fabric with sources := [(0, ⟨[({ frm 10 with cls := 0, dest := 7 }, none)], tokens, at_⟩)] } }
theorem witness_policer : ((sPol 1 0).policer 0).level (sPol 1 0).now = 1 ∧ ((sPol 0 0).policer 0).level (sPol 0 0).now = 0 ∧
    (sPol 1 0).rget FabId.MODULE_ID = 7 := by decide +kernel
theorem test_c0_admit : ((run (.c0Admit 0) (sPol 1 0)).fabric.delivered.map (·.op)) = [10] ∧
    (run (.c0Admit 0) (sPol 0 0)).fabric.delivered = [] := by decide +kernel

/-- A block that the other end sends: five idle flits, and a link word that acknowledges block 0 and returns a C3 credit. -/
def idleFlit : PortFlit := ⟨{ flt with idle := true }, none⟩
def sent (n : Nat) (fs : List PortFlit) : SentBlock := ⟨fs, n, 0, false, 3, 1, 0⟩
def idleBlk : LinkBlock := ⟨(sent 0 (List.replicate 5 idleFlit)).image, 0, 0⟩
def port2 : PortState := { port0 with retry := [sent 0 [pf 3], sent 1 [pf 3]], ackWaits := 3 }
theorem test_crc32c : crc32c [0x31, 0x32, 0x33, 0x34, 0x35, 0x36, 0x37, 0x38, 0x39] = 0xE3069283 := by decide +kernel
theorem test_flit_header : flitHeader ⟨3, true, true, false, false, 0x3FFF, 1, 5, 2, [0, 0]⟩ =
    3 + 4 + 8 + 0x3FFF * 2 ^ 8 + 2 ^ 22 + 5 * 2 ^ 36 + 2 * 2 ^ 51 + 2 * 2 ^ 59 := by decide +kernel
theorem witness_block : (withPort port2).portUp 3 = true ∧ port2.rxLast < 4096 ∧ idleBlk.wf = true ∧ (readBlock idleBlk).intact = true ∧
    (readBlock idleBlk).seq = (port2.rxLast + 1) % 4096 ∧ (readBlock idleBlk).creditCount = 1 ∧
    1 ≠ (port2.rxLast + 1) % 4096 ∧ port2.retry ≠ [] ∧ port2.lastAck + 2000 ≤ ((withPort port2).rput TbsTime.ALL 0 2000).now := by
  decide +kernel
theorem test_block_taken : ((run (.linkBlockReceive 3 idleBlk) (withPort port2)).port 3).retry = [sent 1 [pf 3]] ∧
    ((run (.linkBlockReceive 3 idleBlk) (withPort port2)).port 3).rxLast = 0 := by decide +kernel
theorem test_block_broken : ((run (.linkBlockReceive 3 { idleBlk with uncorrectable := 1 }) (withPort port2)).port 3).nak = true := by
  decide +kernel
theorem test_ack_retrains : (run (.linkAckTimeout 3) ((withPort port2).rput TbsTime.ALL 0 2000)).rget FabPort.STATE 3 = 1 := by
  decide +kernel
theorem test_ack_resends : (run (.linkAckTimeout 3) ((withPort { port2 with ackWaits := 2 }).rput TbsTime.ALL 0 2000)).rget FabPort.RESENT 3 = 2 := by
  decide +kernel
theorem test_port_width : (run (.portTrainingDone 3 7 0 true) ((withPort port0).rput FabPort.STATE 3 1)).rget FabPort.WIDTH 3 = 2 ∧
    (run (.portTrainingDone 3 0 0 true) ((withPort port0).rput FabPort.STATE 3 1)).rget FabPort.STATE 3 = 0 := by decide +kernel
theorem witness_port_bar : (withPort port0).barOpen = true ∧ (withPort port0).rbit SecBoot.READY = true ∧
    (withPort port0).rget FabPort.STATE 3 ≠ 3 ∧ (withPort port0).rget FabPort.STATE 3 ≠ 1 ∧ (withPort port0).rbit FabPort.DISABLE 3 = false := by
  decide
theorem test_port_retrain : (run (.fabPortRetrain 3) (withPort port0)).rget FabPort.RETRAINS 3 = 1 := by decide +kernel
theorem test_port_disable : (run (.fabPortDisable 3 true) (withPort port0)).rget FabPort.STATE 3 = 3 ∧
    (run (.fabPortDisable 3 false) ((withPort port0).rput FabPort.DISABLE 3 1)).rget FabPort.STATE 3 = 1 := by decide +kernel

/-- A flow with one frame held behind a gap. -/
def sGap : State :=
  let s := sCh.rput TbsTime.ALL 0 100000
  { s with fabric := { s.fabric with rx := [(⟨9, 5, 3⟩, ⟨4294967294, [(0, { frm 4 with seq := 4294967295 })]⟩)] } }
theorem test_gap_skipped : ((run (.frameSeqTimeout 9 5 3) sGap).fabric.rx.map fun e => (e.2.next, e.2.held.length)) = [(0, 0)] ∧
    (run (.frameSeqTimeout 9 5 3) sGap).rget Chan.SEQ_GAPS 5 = 1 := by decide +kernel
def sHello : State := (sCh.rput Chan.STATE 5 1).rput TbsTime.ALL 0 10000000000
theorem witness_hello_timeout : sHello.fstate .channel 5 = 1 ∧ sHello.allHeard 5 = false ∧
    lookD 5 0 sHello.fabric.started + 10000000000 ≤ sHello.now := by decide +kernel
theorem test_hello_timeout : (run (.channelHelloTimeout 5) sHello).fstate .channel 5 = 4 := by decide +kernel
theorem witness_links : sCh.rget HubD2d.LINK_30 ≠ 0 ∧ sCh.rget HubD2d.HUB_3 = 2 ∧ (sCh.rget HubD2d.DIE_RETIRED).testBit 3 = false := by decide
theorem test_link_down : (run (.d2dLinkDown 3) sCh).rget HubD2d.LINK_30 = 0 ∧ (run (.d2dLinkDown 3) sCh).rget HubD2d.DETOUR = 8 := by
  decide +kernel
theorem test_link_degraded : (run (.d2dLinkDegraded 7) sCh).rget HubD2d.HUB_3 = 1 := by decide +kernel
/-- Partition 0 with a region on die 3. -/
def sDie : State := sCh.rput Part.REGIONS 0 0x1000000
theorem witness_die : (Kind.context, 0) ∈ sDie.hub.allocated ∧ sDie.isOn .context 0 = true ∧ 24 ∈ sDie.partRegions 0 ∧ 24 / 8 = 3 := by
  decide
theorem test_hub_link_down : (run (.hubLinkDown 3) sDie).rget Ctx.END_REASON 0 = 0x1F ∧
    (run (.hubLinkDown 3) sDie).rget HubD2d.DIE_RETIRED = 8 := by decide +kernel

/-! ## The wellhead's packets -/

/-- Round engine binding 2 of sites 0 and 1, ON for context 0; this module is site 0, and partner 1 is at 10.0.0.1. -/
def sWh : State :=
  let s := (((((sCh.rput Round.STATE 2 2).rput Round.SITES 2 3).rput Partner.VALID 1 1).rput Partner.ADDRESS 1 0xFFFF0A000001).rput
    WhdPort.STATE 0 2).rput WhdPort.LINK_UP 0 1
  let s := (s.rput TbsTime.ALL 0 50000000000).rput WhdPort.PTP_EN 0 1
  { s with hub := { s.hub with allocated := s.hub.allocated ++ [(.round, 2)] }, wellhead := { s.wellhead with
      peers := [(1, ⟨none, none, 20000000000, 49900000000, 4294967295, 8000 * 92, 50000000000⟩)] } }
def pkt : WxpHeader := { wxp with addr := 0xFFFF0A000001, txTime := 3 }

theorem witness_hears : sWh.Hears pkt 2 1 := ⟨by decide, by decide, by decide, by decide +kernel, rfl, rfl, by decide +kernel⟩
theorem witness_not_heard : ({ pkt with sound := false } : WxpHeader).sound = false ∧ sWh.partnerBy 1 = none := by decide +kernel
theorem test_heartbeat : (run (.heartbeat pkt) sWh).rget Partner.PSTATE 1 = 1 ∧
    ((run (.heartbeat pkt) sWh).peer 1).echo = some (3, 50000000000) := by decide +kernel
def pktEcho : WxpHeader := { pkt with echoTime := 49999000000, echoHold := 500000 }
theorem test_round_trip : ((run (.heartbeat pktEcho) sWh).peer 1).rtt = some (500, 250) := by decide +kernel
theorem test_bad_packet : (run (.heartbeat { pkt with sound := false }) sWh).rget Partner.BAD_PACKETS 1 = 1 ∧
    (run (.heartbeat { pkt with reserved := true }) sWh).rget Partner.BAD_PACKETS 1 = 1 := by decide +kernel
theorem test_unknown_address : (run (.heartbeat { pkt with addr := 1 }) sWh).rget WhdPort.RX_DROPPED 0 = 1 := by decide +kernel

def appliedRun : Run := { blankRun with applied := [(0, 12)] }
def withRun (r : Run) (s : State) : State := { s with wellhead := { s.wellhead with runs := [(2, r)] } }
theorem witness_applied : sWh.rget Partner.PSTATE 1 ≠ 3 ∧ sWh.isOn .round 2 = true ∧ look pkt.round ((withRun appliedRun sWh).run 2).applied = some 12 := by
  decide +kernel
theorem test_applied_agrees : (run (.applied pkt 12 0) (withRun appliedRun sWh)).fstate .round 2 = 2 := by decide +kernel
theorem test_applied_differs : (run (.applied pkt 13 0) (withRun appliedRun sWh)).rget Round.END_REASON 2 = 0x56 := by decide +kernel
/-- A digest of the configuration as a word, and one that is not. -/
def digestOf (s : State) : Word := BitVec.ofNat 64 (s.configDigest 2)
theorem test_hello_agrees : (run (.wxpHello pkt (digestOf sWh) 3) sWh).rget Partner.PSTATE 1 = 1 := by decide +kernel
theorem test_hello_differs : (run (.wxpHello pkt (digestOf sWh + 1) 3) sWh).wellhead.queue.map (·.reason) = [0x55] := by decide +kernel
theorem witness_configuration : (digestOf sWh).toNat = sWh.configDigest 2 ∧ (digestOf sWh + 1).toNat ≠ sWh.configDigest 2 := by decide +kernel
def sOff : State := (sWh.rput Round.STATE 2 1).rput Round.JOINER 2 1
theorem witness_join : sOff.isOn .round 2 = false ∧ sOff.Hears pkt 2 1 ∧ sWh.covered 2 = [] ∧ sWh.wellhead.outgoing = [] :=
  ⟨by decide, ⟨by decide, by decide, by decide, by decide +kernel, rfl, rfl, by decide +kernel⟩, by decide +kernel, rfl⟩
theorem test_join_answered : (run (.join pkt (digestOf sOff)) sOff).wellhead.queue.map (·.reason) = [0x59] ∧
    1 ∈ ((run (.join pkt (digestOf sWh)) sWh).run 2).seeding := by decide +kernel
def sJoiner : State := sOff.rput Round.SEED_SITE 2 1
theorem test_status_asks_again : ((run (.status { pkt with reason := 0x59 }) sJoiner).run 2).joinAt = 51000000000 := by decide +kernel

/-- A fragment of two pieces, one of which is here. -/
def asm0 : Assembly := ⟨2, 1, ⟨kindFragment, 1, 0, 0, 0⟩, 77, 2, 16, [(0, List.replicate 8 0)], 0, none, false⟩
def sAsm (a : Assembly) : State := { sWh with wellhead := { sWh.wellhead with assemblies := [a] } }
def ph (n : Nat) : PieceHeader := ⟨kindFragment, 1, n, 2, 0, 0, 16, 77⟩
theorem witness_piece : kindFragment ≤ kindLedger ∧
    (sAsm asm0).wellhead.assemblies.find? (fun a => a.matching 2 1 ⟨(ph 1).kind, (ph 1).origin, pkt.round, 0, 0⟩ 77) = some asm0 ∧
    (look 0 asm0.got).isSome = true ∧ look 1 asm0.got = none ∧ (put 1 [] asm0.got).length = asm0.pieces ∧
    (put 1 [] ({ asm0 with pieces := 3 } : Assembly).got).length < 3 := by decide
theorem test_piece_duplicate : (run (.piece pkt (ph 0) (List.replicate 8 0)) (sAsm asm0)).rget Partner.DUPLICATES 1 = 1 := by decide +kernel
theorem test_piece_wrong_digest : (run (.piece pkt (ph 1) (List.replicate 8 0)) (sAsm asm0)).wellhead.assemblies = [] := by decide +kernel

/-- An object of two pieces on its way to site 1, its first piece acknowledged. -/
def out0 : Outgoing := ⟨2, 1, ⟨kindFragment, 0, 0, 0, 0⟩, 5, List.replicate 16 0, 8, [0], [(0, 0, 1), (1, 0, 1)], none, false, true⟩
def sOut (o : Outgoing) : State := { sWh with wellhead := { sWh.wellhead with outgoing := [o] } }
theorem witness_ack : (sOut out0).wellhead.outgoing.find? (fun q => q.bind == 2 && q.site == 1 && q.key == out0.key && q.queued) = some out0 ∧
    0 < out0.pieces ∧ out0.pieces = 2 := by decide
theorem test_ack : (run (.pieceAck pkt out0.key false [false, true]) (sOut out0)).wellhead.outgoing = [] ∧
    (run (.pieceAck pkt out0.key true []) (sOut out0)).wellhead.outgoing.map (·.acked) = [[]] ∧
    (run (.pieceAck pkt out0.key false [true]) (sOut out0)).wellhead.outgoing.map (·.acked) = [[0]] := by decide +kernel

def ledger0 : Ledger := ⟨2, 0, 0, 9, [1, 2]⟩
def frag0 : Fragment := ⟨2, 0, 1, 0, 0, 8, [3]⟩
def sStore : State := { sWh with wellhead := { sWh.wellhead with ledgers := [ledger0], frags := [frag0] } }
theorem witness_objects : sStore.ledgerOf 2 pkt.round = some ledger0 ∧ sStore.fragment? 2 pkt.round 1 0 0 = some frag0 ∧
    sStore.objectFits 2 2 = true ∧ sStore.objectFits 2 1 = true := by decide +kernel
theorem test_objects_answered : (run (.ledgerReq pkt) sStore).wellhead.outgoing.map (·.digest) = [9] ∧
    (run (.fetch pkt [⟨1, 0, 0⟩]) sStore).wellhead.outgoing.map (·.digest) = [8] := by decide +kernel

/-! ## The wellhead's timers and far ports -/

theorem witness_timers : sWh.bindingTo 1 = some 2 ∧ max (sWh.peer 1).heard (sWh.peer 1).beat + 100000000 ≤ sWh.now ∧
    (sWh.peer 1).heard + 30000000000 ≤ sWh.now ∧ sWh.rget Partner.PSTATE 1 ≤ 1 ∧ sWh.wellhead.runs = [] := by decide +kernel
theorem test_heartbeat_timer : (run (.heartbeatTimer 1) sWh).wellhead.queue.map (·.type) = [typeHeartbeat] := by decide +kernel
theorem test_silent : (run (.partnerSilent 1) sWh).rget Partner.PSTATE 1 = 2 := by decide +kernel
theorem test_ack_timer : (run (.pieceAckTimer 1 asm0.key) (sAsm { asm0 with due := some 49998000000 })).wellhead.queue.map (·.type) =
    [typePieceAck] := by decide +kernel
theorem witness_resend : (sOut out0).wellhead.outgoing.find? (fun o => o.site == 1 && o.key == out0.key && o.queued &&
    !((sOut out0).duePieces o).isEmpty) = some out0 := by decide +kernel
theorem test_resend : (run (.pieceResendTimeout 1 out0.key) (sOut out0)).wellhead.outgoing.map (·.rto) = [some 2000000] ∧
    (run (.pieceResendTimeout 1 out0.key) (sOut out0)).wellhead.queue.length = 1 := by decide +kernel
/-- A FETCH that has waited 8 timeouts, repeated `n` times. -/
def sFetch (n : Nat) : State := withRun { blankRun with fetch := some (0, n) } { sStore with
  wellhead := { sStore.wellhead with ledgers := [ledger0] } }
theorem witness_fetch : ((sFetch 16).run 2).fetch = some (0, 16) ∧
    (sFetch 16).ledgerOf 2 (nextRound ((sFetch 16).rget Round.APPLIED 2)) = some ledger0 := by decide +kernel
theorem test_fetch_gives_up : (run (.fetchTimeout 2) (sFetch 16)).rget Round.END_REASON 2 = 0x5E := by decide +kernel
theorem test_fetch_again : ((run (.fetchTimeout 2) (sFetch 15)).run 2).fetch = some (50000000000, 16) := by decide +kernel
theorem test_join_again : (run (.joinResend 2) sJoiner).wellhead.queue.map (·.type) = [typeJoin] ∧
    ((run (.joinResend 2) sJoiner).run 2).joinAt = 51000000000 := by decide +kernel
def beat0 : WxpOut := ⟨2, 1, typeHeartbeat, 0, 0, false, [], none⟩
def sQueue : State := { sWh with wellhead := { sWh.wellhead with queue := [beat0] } }
theorem witness_pace : sQueue.wellhead.queue.find? (fun q => q.site == 1) = some beat0 ∧ sQueue.pieceLive beat0 = true ∧ sQueue.siteTurn 1 = true ∧
    64 + 0 + sQueue.ipHead 1 ≤ sQueue.mtuTo 1 ∧ 8000 * (64 + 0 + sQueue.ipHead 1) ≤ sQueue.paceTokens 1 := by decide +kernel
theorem test_paced : ((run (.pacedSend 1) sQueue).peer 1).seq = 0 ∧ ((run (.pacedSend 1) sQueue).peer 1).tokens = 0 ∧
    (run (.pacedSend 1) sQueue).wellhead.farOut.length = 1 := by decide +kernel

theorem test_far_port_tags : (run (.farPortControlFrame 0 .neighbourRequest) (sWh.rput WhdPort.VLAN 0 0xE005)).wellhead.farOut =
    [.neighbourReply 0 (some 0x6005)] := by decide +kernel
theorem test_far_port_reserved_type : (run (.farPortControlFrame 0 (.reservedType 0xFFFF0A000001 64)) sWh).rget Partner.BAD_PACKETS 1 = 1 := by
  decide +kernel
theorem test_far_port : (run (.farPortControlFrame 0 .echoRequest) sWh).wellhead.farOut = [.echoReply 0 none] ∧
    (run (.farPortControlFrame 0 .fragment) sWh).rget WhdPort.RX_DROPPED 0 = 1 ∧
    (run (.farPortLinkChange 1 true) sWh).rbit WhdPort.LINK_UP 1 = true := by decide +kernel
theorem test_ptp : (run (.ptpEventMessage 0 0 true) sWh).rbit TbsStatus.PTP_LOCKED = true ∧
    (run (.ptpEventMessage 0 0 true) sWh).wellhead.ptpStamps = [(0, 50000000000)] := by decide +kernel

/-! ## Memory tiers, checks and resets -/

/-- Patrol of the first LPDDR device, with corrected errors in the row of its first line. -/
def sPat (n : Nat) : State :=
  let s := sCh.rput Scrub.PERIOD_H 4 24
  { s with tiers := { s.tiers with rowErrors := if n = 0 then [] else [((16, Config.memRow lpddrBase), n)] } }
def lastHbm : Nat := 0x003000000000 - 64

theorem witness_patrol : memDevOf 0 = some 0 ∧ memDevOf lpddrBase = some 16 ∧ scrubOf 16 = 4 ∧ (sPat 0).rget Scrub.PERIOD_H 4 ≠ 0 ∧
    (sPat 0).deadLine (lineOf lpddrBase * 64) = false ∧ (sPat 0).lastLine (lineOf lpddrBase * 64) = false ∧ (sPat 0).lastLine (lineOf lastHbm * 64) = true ∧
    (sPat 0).rbit Scrub.REPAIR_EN 4 = true := by decide
theorem test_patrol_corrected : (run (.memPatrolRead lpddrBase ⟨false, .wrong 1⟩) (sPat 0)).rget MemDev.CORRECTED 16 = 1 := by decide
theorem test_patrol_poisons : (run (.memPatrolRead lpddrBase ⟨true, .wrong 2⟩) (sPat 0)).poison = [lineOf lpddrBase] := by decide +kernel
theorem test_patrol_stopped : (run (.memPatrolRead lpddrBase ⟨false, .wrong 1⟩) ((sPat 0).rput Scrub.PERIOD_H 4 0)).rget MemDev.CORRECTED 16 = 0 ∧
    (run (.memPatrolRead lpddrBase ⟨true, .wrong 1⟩) ((sPat 0).rput Scrub.PERIOD_H 4 0)).rget MemDev.CORRECTED 16 = 1 := by decide +kernel
theorem test_patrol_pass : (run (.memPatrolRead lastHbm ⟨false, .wrong 0⟩) (sCh.rput Scrub.PERIOD_H 0 24)).rget MemDev.PATROLS 3 = 1 := by decide +kernel
theorem test_device_failed : (run (.memDeviceFailed (.lpddr 15)) sCh).rget MemDev.STATE 31 = 2 ∧
    (run (.memDeviceFailed (.pseudoChannel 15 31)) sCh).rget MemDev.STATE 15 = 2 ∧
    (run (.memDeviceFailed (.lpddr 0)) sCh).deadLine lpddrBase = true := by decide +kernel

def audit0 : Audit := ⟨32, 0, 0, 33, 0x10000000, 7, 0⟩
def sAudit : State := { sCh with ras := { sCh.ras with audits := [audit0], testsDue := [40], digests := [⟨3, 6, 1, 0, 0x10000000, 7, 0⟩] } }
theorem witness_band : sAudit.ras.audits.find? (fun a => a.by_ == 33) = some audit0 ∧ sAudit.inPhase (33 / 32) = false ∧ audit0.tile ≠ audit0.by_ := by
  decide
theorem test_audit_strikes : (run (.auditBandRun 33 false) sAudit).ras.tileStrikes = [(32, 1), (33, 1)] ∧
    (run (.auditBandRun 33 false) sAudit).rget Part.DETECTIONS 0 = 1 := by decide +kernel
theorem test_pair_timeout : (run (.pairTimeout 3 6) (sAudit.rput TbsTime.ALL 0 100000)).ras.digests = [] ∧
    (run (.pairTimeout 3 6) (sAudit.rput TbsTime.ALL 0 99999)).ras.digests.length = 1 := by decide +kernel
theorem witness_test_due : 40 ∈ sAudit.ras.testsDue ∧ sAudit.ras.testing = none ∧ sAudit.partOfRegion (40 / 32) = none := by decide
theorem test_column_test : (run (.columnTest 40) sAudit).ras.testing = some 40 := by decide +kernel
def sTest : State := { sAudit with ras := { sAudit.ras with testing := some 40, tileStrikes := [(40, 2)] } }
theorem test_column_passes : (run (.columnTestDone 40 0) sTest).ras.tileStrikes = [] := by decide +kernel
theorem test_column_bypasses : (run (.columnTestDone 40 (BitVec.twoPow 64 63)) sTest).rget Census.BYPASS 40 = 2 ^ 63 ∧
    (run (.columnTestDone 40 (BitVec.twoPow 64 63)) sTest).rget Census.W 40 = 63 := by decide +kernel

theorem witness_reset : sCh.barOpen = true ∧ sCh.rbit SecBoot.READY = true ∧ sCh.fstate .partition 0 = 2 ∧ sCh.resetting 0 = false ∧
    sCh.fstate .partition 31 = 0 ∧ 0 ∈ sCh.partContexts 0 ∧ sCh.isOn .context 0 = true ∧ sCh.isEnding .context 0 = false := by decide
theorem test_reset : (run (.rasPartReset 0) sCh).fstate .context 0 = 3 ∧ (run (.rasPartReset 0) sCh).rget Ctx.END_REASON 0 = 0x1C ∧
    (run (.rasPartReset 0) sCh).tsq.threads = [] := by decide +kernel
theorem test_reset_off : (run (.rasPartReset 31) sCh).rget HubRwlRefused.LAST_REFUSED = 0x36 := by decide +kernel
theorem test_test_start : (run (.rasTestStart (40 + 1024)) sCh).ras.testing = some 40 := by decide +kernel
theorem test_log_tail : (run (.rasLogTailWrite 1) ((sCh.rput RasLog.TAIL 0 65535).rput RasLog.HEAD 0 1)).rget RasLog.TAIL = 1 := by
  decide +kernel
def sReset (died : Bool) : State := { sCh with ras := { sCh.ras with resets := [(0, died)] } }
theorem test_reset_end : (run (.partitionResetEnd 0) (sReset false)).rget Part.END_REASON 0 = 0x1C ∧
    (run (.partitionResetEnd 0) (sReset true)).rget Part.END_REASON 0 = 0x1F ∧
    (run (.partitionResetEnd 0) (sReset true)).fstate .partition 0 = 4 := by decide +kernel
theorem test_handshake : sCh.partOfRegion 31 = none ∧ (run (.handshakeTimeout 31 0) sCh).rbit PwrRegion.STOPPED 31 = true := by
  decide +kernel

/-! ## Command rings and functions -/

/-- Ring 1 at level 1, with one command taken. -/
def cmdOf (op handle : Nat) (body : List Byte) : Taken := ⟨2, 1, op, 0, 77, handle, body, false, false⟩
def sTk (x : Taken) : State :=
  let s := sCh.rput Ring.PRIV 1 1
  { s with hub := { s.hub with taken := [x] } }
def bodyOf (bs : List Byte) : List Byte := bs ++ List.replicate (48 - bs.length) 0
def code (u : State) : List (Nat × Nat) := u.hub.completions.map fun c => (c.handle, c.reason)

theorem witness_command (x : Taken) (h2 : (sTk x).startable x = true) : (sTk x).nextCommand = some x := by
  simp [State.nextCommand, sTk] at *; exact h2
theorem witness_startable : (sTk (cmdOf opNop 0 (bodyOf []))).nextCommand = some (cmdOf opNop 0 (bodyOf [])) ∧
    (sTk (cmdOf opCreate 0 (bodyOf [1, 0xFF, 0xFF]))).nextCommand = some (cmdOf opCreate 0 (bodyOf [1, 0xFF, 0xFF])) := by decide +kernel
theorem test_nop : code (run (.nop 1) (sTk (cmdOf opNop 0 (bodyOf [])))) = [(0, 0)] ∧
    code (run (.nop 1) (sTk (cmdOf opNop 9 (bodyOf [])))) = [(9, 0x04)] := by decide +kernel
theorem test_ring_launch : (run (.launch 1) (sTk (cmdOf opLaunch 0 (bodyOf [0, 0, 0, 0x10])))).tsq.launches.length = 1 := by decide +kernel
theorem test_create : code (run (.create 1) (sTk (cmdOf opCreate 0 (bodyOf [1, 0xFF, 0xFF])))) = [(0x10000001, 0)] ∧
    code (run (.create 1) (sTk (cmdOf opCreate 0 (bodyOf [1, 0, 0])))) = [(0, 0x05)] := by decide +kernel
/-- A channel's handle and its state. -/
def hCh : Nat := sCh.handle .channel 5
theorem witness_control : sCh.resolve .channel hCh = some 5 ∧ Kind.channel.ctlLevel ≤ 1 ∧ sCh.objectLevel .channel 5 ≤ 1 ∧
    sCh.named .channel 5 = false ∧ Kind.channel.created = true ∧ (sCh.rput Chan.STATE 5 0).checkEnable .channel 5 1 = some 0x22 := by
  decide +kernel
theorem test_enable_on : code (run (.enable 1) (sTk (cmdOf opEnable hCh (bodyOf [])))) = [(hCh, 0)] ∧
    code (run (.enable 1) ((sTk (cmdOf opEnable hCh (bodyOf []))).rput Chan.STATE 5 4)) = [(hCh, 5)] := by decide +kernel
theorem test_enable_checked : code (run (.enable 1) ((sTk (cmdOf opEnable hCh (bodyOf []))).rput Chan.STATE 5 0)) = [(hCh, 0x22)] := by
  decide +kernel
/-- A rule binding's state is entered when its checks pass. -/
def hPt : Nat := sCh.handle .partition 1
def sEnable : State := ((sTk (cmdOf opEnable hPt (bodyOf []))).rput Part.REGIONS 1 2).rput Part.AUDIT_SHIFT 1 6
theorem witness_enable : sEnable.resolve .partition hPt = some 1 ∧ sEnable.checkEnable .partition 1 1 = none ∧
    sEnable.fstate .partition 1 = 0 := by decide +kernel
theorem test_enable_starts : (run (.enable 1) sEnable).fstate .partition 1 = 1 ∧ (run (.enable 1) sEnable).hub.waiters.length = 1 := by
  decide +kernel
theorem test_disable : (run (.disable 1) (sTk (cmdOf opDisable hCh (bodyOf [])))).fstate .channel 5 = 3 ∧
    code (run (.disable 1) ((sTk (cmdOf opDisable hCh (bodyOf []))).rput Chan.STATE 5 4)) = [(hCh, 0)] := by decide +kernel
theorem test_disable_partition : code (run (.disable 1) (sTk (cmdOf opDisable (sCh.handle .partition 0) (bodyOf [])))) =
    [(sCh.handle .partition 0, 0x35)] := by decide +kernel
theorem test_destroy : code (run (.destroy 1) (sTk (cmdOf opDestroy hCh (bodyOf [])))) = [(hCh, 0x09)] ∧
    (run (.destroy 1) ((sTk (cmdOf opDestroy hCh (bodyOf []))).rput Chan.STATE 5 0)).handle .channel 5 = hCh + 65536 := by decide +kernel
theorem test_cast_command : (run (.cast 1) (sTk (cmdOf opCast 0x10000000 (bodyOf [1, 0, 0, 0])))).update.casts.length = 1 ∧
    code (run (.cast 1) (sTk (cmdOf opCast 0x10000000 (bodyOf [0, 0, 0, 0])))) = [(0x10000000, 0x4D)] := by decide +kernel

theorem witness_functions : fnOf 1 0 = some (.context, 0) ∧ fnOf 9 127 = some (.ring, 127) ∧ fnOf 9 128 = none ∧
    (sCh.rput Chan.STATE 5 3).stopReady .channel 5 = true ∧ sCh.abortAsked .partition 0 = false ∧
    (sCh.rput Part.STATE 0 1).startReady .partition 0 = true := by decide +kernel
theorem test_start_done : (run (.functionStartDone Kind.partition.code 0) (sCh.rput Part.STATE 0 1)).fstate .partition 0 = 2 := by
  decide +kernel
theorem test_stop_done : (run (.functionStopDone Kind.channel.code 5) (sCh.rput Chan.STATE 5 3)).fstate .channel 5 = 0 := by decide +kernel
def sStopping : State := { sCh.rput Chan.STATE 5 3 with hub := { sCh.hub with ending := [⟨.channel, 5⟩] } }
theorem test_stop_fault : (run (.functionStopDone Kind.channel.code 5) sStopping).fstate .channel 5 = 4 := by decide +kernel
def sAbort : State := { sCh.rput Chan.STATE 5 1 with hub := { sCh.hub with aborting := [(.channel, 5)] } }
theorem test_abort : (run (.startAbort Kind.channel.code 5) sAbort).fstate .channel 5 = 3 := by decide +kernel

/-- Ring 1 ON with one entry, a NOP, at its base. -/
def sRing : State :=
  let s := ((((sCh.rput Ring.STATE 1 2).rput Ring.CMD_LOG2 1 6).rput Ring.CPL_LOG2 1 6).rput Ring.CMD_BASE 1 0x1000).rput Ring.CPL_BASE 1 0x2000
  let s := (s.rput Ring.CMD_TAIL 1 1).rput Ring.CPL_TAIL 1 64
  { s.rput Ring.CPL_HEAD 1 63 with mem := [(hostBase + 0x1004, 77)], hub := { s.hub with completions := [⟨1, 77, 9, 5⟩] } }
theorem witness_take : sRing.nextRing = some 1 ∧ sRing.linkUp = true ∧ sRing.poisoned (hostBase + 0x1000) 64 = false ∧
    leField (sRing.peek (hostBase + 0x1000) 64) 0 1 = 0 := by decide +kernel
theorem test_take : (run .ringCommandTake sRing).rget Ring.CMD_HEAD 1 = 1 ∧ (run .ringCommandTake sRing).hub.taken.map (·.tag) = [77] := by
  decide +kernel
theorem witness_post : sRing.hub.completions.find? (fun c => c.ring == 1) = some ⟨1, 77, 9, 5⟩ ∧ sRing.cplRoom 1 = true ∧
    Memory.wf sRing.mem = true := by decide
theorem test_post : (run (.completionPost 1) sRing).rget Ring.CPL_TAIL 1 = 65 ∧
    (run (.completionPost 1) sRing).peek (hostBase + 0x2008) 4 = [5, 0, 0, 0] := by decide +kernel
def sEvent : State :=
  let s := (sRing.rput EvtCtrl.EN 0 1).rput EvtCtrl.RING 0 1
  { s with hub := { s.hub with events := [⟨0x10000000, 4, 0x1D⟩] } }
theorem test_event_post : (run .functionEventPost sEvent).peek (hostBase + 0x2008) 4 = [0x1D, 1, 4, 0] := by decide +kernel
def sMod : State :=
  let s := (sRing.rput Ring.IRQ_EN 1 1).rput Ring.VECTOR 1 2047
  { s with hub := { s.hub with unsignalled := [(1, 2, 0)] } }
theorem test_moderation : (run (.interruptModerationTimeout 1) (sMod.rput Msix.MASK 2047 0)).msixOut.map (·.vector) = [2047] ∧
    (run (.interruptModerationTimeout 1) (sMod.rput Msix.MASK 2047 1)).rbit MsixPba.PENDING 2047 = true := by decide +kernel
theorem witness_ring_check : (sRing.rput Ring.STATE 1 0).checkRing 1 = none ∧ (sRing.rput Ring.CMD_LOG2 1 5).checkRing 1 = some 0x08 ∧
    ahead 64 0 ≤ 2 ^ sRing.rget Ring.CMD_LOG2 1 ∧ 2 ^ sRing.rget Ring.CMD_LOG2 1 < ahead 65 0 ∧ ahead 64 63 ≤ ahead 64 63 := by decide +kernel
theorem test_ring_enable : (run (.ringEnable 1) (sRing.rput Ring.STATE 1 0)).fstate .ring 1 = 1 ∧
    (run (.ringEnable 1) ((sRing.rput Ring.STATE 1 0).rput SecBoot.READY 0 0)).rget Ring.LAST_REASON 1 = 0x0A ∧
    (run (.ringEnable 1) ((sRing.rput Ring.STATE 1 0).rput Ring.CMD_LOG2 1 5)).rget Ring.LAST_REASON 1 = 0x08 := by decide +kernel
theorem test_ring_disable : (run (.ringDisable 1) sRing).fstate .ring 1 = 3 := by decide +kernel
theorem test_doorbells : (run (.cmdTailDoorbell 1 64) sRing).rget Ring.CMD_TAIL 1 = 64 ∧
    (run (.cmdTailDoorbell 1 65) sRing).rget Ring.LAST_REASON 1 = 0x0D ∧ (run (.cplHeadDoorbell 1 64) sRing).rget Ring.CPL_HEAD 1 = 64 := by
  decide +kernel

/-! ## Registers and sessions -/

theorem witness_places : placeOf 0x210000 = .reg .fabPort 0 0 ∧ placeOf 0x108 = .empty ∧ placeOf 0x200080 = .window .chan 0 ∧
    placeOf 0x700000 = .reg .rasLog 0 0 ∧ placeOf 0x301FF8 = .reg .partner 63 7 ∧ placeOf 0x300800 = .reg .whdPort 0 0 := by decide
theorem witness_windows : sCh.isAllocated .context (sCh.rget CtxSel.INDEX) = true ∧ sCh.isAllocated .channel (sCh.rget ChanSel.INDEX) = false ∧
    sCh.ownerOff .whdPort 0 = true ∧ (sCh.rput WhdPort.STATE 0 2).ownerOff .whdPort 0 = false := by decide
/-- IPV4 and its prefix are in word 2 of far port 0. -/
theorem test_register_write : (run (.registerWrite 0x300810 8 0x180A000001) sCh).rget WhdPort.IPV4 0 = 0x0A000001 ∧
    (run (.registerWrite 0x300810 8 0x180A000001) sCh).rget WhdPort.V4_PREFIX 0 = 24 := by decide +kernel
theorem test_register_locked : (run (.registerWrite 0x300810 8 1) (sCh.rput WhdPort.STATE 0 2)).rget HubRwlRefused.COUNT = 1 ∧
    (run (.registerWrite 0x300810 8 1) (sCh.rput WhdPort.STATE 0 2)).rget WhdPort.IPV4 0 = 0 := by decide +kernel
theorem test_window_absent : (run (.registerWrite 0x200080 8 1) sCh).rget HubRwlRefused.LAST_REFUSED = 0x10 := by decide +kernel
theorem test_selector : (run (.fabChanSel 5) sCh).rget ChanSel.INDEX = 5 ∧
    look .chan (run (.fabChanSel 5) sCh).hub.snapshots = some (sCh.image .chan 5) := by decide +kernel
theorem test_reads_clear : (run .hubRwlRefusedRead (sCh.rput HubRwlRefused.COUNT 0 3)).rget HubRwlRefused.COUNT = 0 ∧
    (run .pwrInputRead (sCh.rput PwrInput.PEAK 0 3)).rget PwrInput.PEAK = 0 ∧
    (run .hubEvtCtrlRead (sCh.rput EvtCtrl.DROPPED 0 3)).rget EvtCtrl.DROPPED = 0 := by decide +kernel
def thSys : Thread := (th0.setReg 1 0x300810).setReg 2 5
theorem test_syswr : (run (.syswr t0 fS) (withThread t0 thSys (sCh.rput Ctx.PRIV 0 1))).rget WhdPort.IPV4 0 = 5 := by decide +kernel

theorem witness_events : ∀ f ∈ Tab.evtStatus.fields, sCh.rget f < 2 := by decide
theorem test_event_clears : (run (.hubEvtStatusWrite (BitVec.twoPow 64 Evt.OBSERVE.lo)) (sCh.rput Evt.OBSERVE 0 1)).rbit Evt.OBSERVE = false ∧
    (run (.hubEvtStatusWrite 0) (sCh.rput Evt.OBSERVE 0 1)).rbit Evt.OBSERVE = true := by decide +kernel
theorem witness_history : (sCh.rput Ctx.GAUGE_COUNT 0 1).ownerOff .gauge 0 = false ∧ sCh.ownerOff .gauge 16383 = true := by decide +kernel
theorem test_history : (run (.clearHistory 16383) (sCh.rput Gau.HIST_COUNT 16383 4)).rget Gau.HIST_COUNT 16383 = 0 ∧
    (run (.clearHistory 0) (sCh.rput Ctx.GAUGE_COUNT 0 1)).tsq.clearing = [0] := by decide +kernel
theorem witness_rung : sCh.fstate .context 0 ≠ 0 ∧ sCh.fstate .context 65535 = 0 ∧ sCh.rget Ctx.LADDER_LO 0 ≤ 3 ∧
    (sCh.rput Ctx.LADDER_HI 0 2).rget Ctx.LADDER_HI 0 < 3 ∧ 3 ≤ (sCh.rput Ctx.LADDER_HI 0 3).rget Ctx.LADDER_HI 0 := by decide
theorem test_rung : ((run (.gauRungSet 0x70000) (sCh.rput Ctx.LADDER_HI 0 3)).rungOf 0).pending = some 3 ∧
    ((run (.gauRungSet 0x7FFFF) sCh).rungOf 65535).rung = 3 ∧
    (run (.gauRungSet 0x70000) (sCh.rput Ctx.LADDER_HI 0 2)).rget HubRwlRefused.LAST_REFUSED = 0x11 := by decide +kernel
theorem test_region_stop : (run (.pwrRegionStop 31 true) sCh).rbit PwrRegion.STOPPED 31 = true ∧
    (run (.pwrRegionStop 31 false) (sCh.rput PwrRegion.STOP 31 1)).rbit PwrRegion.STOP 31 = false := by decide +kernel
theorem test_cgate : (run (.pwrRegionCgate 31 0x80) sCh).rget PwrRegion.CGATE 31 = 0x80 := by decide +kernel
theorem test_adjust : (run (.tbsAdj (-5)) sCh).power.pending = -5 ∧ (run (.tbsAdj 2000000) (sCh.rput TbsStatus.STEP_FWD 0 1)).now = 2000000 ∧
    (run (.tbsAdj 1000000) (sCh.rput TbsStatus.STEP_FWD 0 1)).power.pending = 1000000 := by decide +kernel

/-- Trace session 3 ON and ARMED, with host marks, linked triggers and its export ring. -/
def sTr : State :=
  let s := (((sCh.rput Trace.STATE 3 2).rput Trace.CAPTURE 3 1).rput Trace.TRIG_SRC 3 17).rput Trace.POST_FILL 3 0
  let s := ((s.rput Trace.EXP_BASE 3 0x10000).rput Trace.EXP_LOG2 3 10).rput Trace.EXPORT_MODE 3 1
  { s with obs := { s.obs with linked := [(3, 0)] } }
theorem test_mark_triggers : (run (.obsMarkTrigger 8) sTr).rget Trace.CAPTURE 3 = 3 ∧
    (run (.obsMarkTrigger 8) (sTr.rput Trace.POST_FILL 3 4)).rget Trace.CAPTURE 3 = 2 := by decide +kernel
theorem test_linked_triggers : (run (.linkedTrigger 3 0) sTr).rget Trace.CAPTURE 3 = 3 := by decide +kernel
theorem test_arm : (run (.traceArm 3) (sTr.rput Trace.CAPTURE 3 3)).rget Trace.CAPTURE 3 = 1 ∧
    (run (.traceArm 3) (sTr.rput Trace.CAPTURE 3 2)).rget Trace.LAST_ERROR 3 = 0x75 := by decide +kernel
def sMark : State := (sTr.rput Trace.STATE 0 2).rput Trace.CAPTURE 0 1
theorem test_host_mark : ((run (.hostMark 6) sMark).traceBuf 0).recs.map (·.a) = [6] := by decide +kernel
def rec0 : TraceRec := ⟨0x14, 0, 0xFFFF, 0, 9, 0, 6, 0⟩
def buf0 : TraceBuf := { recs := [rec0], written := 3, exported := 2, left := 0, gapStops := [], stalled := false, lost := none }
def sExp (b : TraceBuf) : State := { sTr with obs := { sTr.obs with bufs := [(3, b)] } }
theorem witness_export : ((sExp buf0).traceBuf 3).recs[2 + 1 - 3]? = some rec0 ∧ (sExp buf0).ringReach 0x10000 = true ∧
    ((sExp buf0).rput Trace.EXP_BASE 3 hostBase |>.rput HubLink.SPEED 0 0).ringReach hostBase = false := by decide +kernel
theorem test_export : (run (.traceExport 3) (sExp buf0)).peek 0x10010 8 = [0, 0, 0, 0, 6, 0, 0, 0] ∧
    (run (.traceExport 3) (sExp buf0)).rget Trace.EXP_HEAD 3 = 1 := by decide +kernel
theorem test_export_after : (run (.traceExport 3) (((sExp buf0).rput Trace.EXPORT_MODE 3 0).rput Trace.CAPTURE 3 3)).rget Trace.CAPTURE 3 = 5 := by
  decide +kernel
def sam0 : Sampler := ⟨[1, 2, 3, 4, 5, 6], 0, 1000, false, []⟩
def sSam : State :=
  let s := (((sCh.rput Sample.STATE 63 2).rput Sample.RING_BASE 63 0x20000).rput Sample.RING_LOG2 63 6).rput TbsTime.ALL 0 1000
  { s with obs := { s.obs with samplers := [(63, sam0)] } }
theorem witness_sample : look 63 sSam.obs.samplers = some sam0 ∧ sam0.endTime ≤ sSam.now ∧ sSam.isOn .sample 63 = true ∧
    sSam.ringReach 0x20000 = true ∧ 2 ^ 6 ≤ (64 + 2 ^ 32 - 0) % 2 ^ 32 := by decide +kernel
theorem test_sample : (run (.samplePeriodEnd 63) sSam).peek 0x20010 16 = [1, 0, 0, 0, 0, 0, 0, 0, 2, 0, 0, 0, 0, 0, 0, 0] ∧
    (run (.samplePeriodEnd 63) (sSam.rput Sample.HEAD 63 64)).rget Sample.MERGED 63 = 1 := by decide +kernel

/-! ## Security operations and the cistern -/

def op0 (op addr len arg : Nat) : OpRun := ⟨op, addr, len, arg, none, false⟩
/-- A security operation that runs. -/
def sSec (o : OpRun) : State := { sCh with security := { sCh.security with op := some o } }
def secReason (c : Instr) (o : OpRun) : Option Nat := ((run c (sSec o)).security.op.bind (·.reason))

def sSecDirty (o : OpRun) : State := { sSec o with poison := [hostBase / 64] }
theorem witness_sec : (sSecDirty (op0 1 0 4 0)).hostBytes 0 4 = none ∧ (sSec (op0 2 0x1000 4 0)).cisState = 0 := by decide +kernel
theorem test_update_address : ((run .fwUpdate (sSecDirty (op0 1 0 4 0))).security.op.bind (·.reason)) = some 0x97 := by decide +kernel
theorem test_cfg_erase : secReason .cfgErase (op0 3 0 0 0) = some 0 ∧ (run .cfgErase (sSec (op0 3 0 0 0))).cistern.cfg = .empty 0 := by
  decide +kernel
theorem test_unlock : (run .debugUnlock (sSec (op0 4 0 0 0))).rbit SecState.DEBUG_UNLOCKED = true := by decide +kernel
theorem test_raise : (run .raiseFloor (sSec (op0 5 0 0 255))).fuses.svnFloor = 255 ∧
    secReason .raiseFloor (op0 5 0 0 256) = some 0x96 := by decide +kernel
theorem test_rekey : (run .rekey (sSec (op0 6 0 0 0))).fuses.epoch = 1 ∧
    ((run .rekey { sSec (op0 6 0 0 0) with fuses := ⟨0, 15, false⟩ }).security.op.bind (·.reason)) = some 0x96 := by decide +kernel
theorem test_restore : secReason .factoryRestore (op0 7 0 0 0) = some 0 ∧
    (run .factoryRestore (sSec (op0 7 0 0 0))).cistern.cfg = .torn := by decide +kernel
theorem test_sec_complete : (run .secOpComplete (sSec { op0 5 0 0 0 with reason := some 0x96 })).rget SecOp.REASON = 0x96 := by decide +kernel
def sKey : State := { sCh with security := { sCh.security with orders := [5] } }
theorem test_key : (run .identityKeyDerived sKey).security.identity = true ∧
    (run .identityKeyDerived sKey).cistern.keyEpoch = some 0 := by decide +kernel

/-- Mould 5, committed, of four bytes, in superblock 9. -/
def body0 : MouldBody := ⟨[1, 2, 3, 4], 0, []⟩
def sb0 (use : SbUse) : Superblock := ⟨use, 7, 0, 98000, false⟩
def sMould : State :=
  let s := sCh.rput Mould.STATE 5 2
  { s with cistern := { s.cistern with bodies := [(5, body0)], used := [5], sbs := [(9, sb0 (.mould 5 0))] } }
def sCis (o : OpRun) : State := { sMould with cis := { sMould.cis with op := some o } }
def cisReason (c : Instr) (o : OpRun) : Option Nat := ((run c (sCis o)).cis.op.bind (·.reason))

theorem witness_mould : look 5 sMould.cistern.bodies = some body0 ∧ sMould.rget Mould.STATE 5 ≠ 1 ∧ body0.bytes.length ≤ 4 ∧
    sMould.backed 0x4000 = true ∧ sMould.backed (0x4000 + 4 - 1) = true ∧ sMould.inUse 9 = true ∧ 9 < sbCount ∧
    (sMould.rput Mould.STATE 6 1).rget Mould.STATE 6 = 1 ∧ look 6 sMould.cistern.bodies = none := by decide +kernel
theorem test_mould_read : (run .mouldRead (sCis (op0 1 0x4000 4 5))).peek 0x4000 4 = [1, 2, 3, 4] ∧
    cisReason .mouldRead (op0 1 0x4000 4 6) = some 0x8A := by decide +kernel
theorem test_mould_delete : (run .mouldDelete (sCis (op0 3 0 0 5))).rget Mould.STATE 5 = 4 ∧
    ((run .mouldDelete (sCis (op0 3 0 0 5))).sb 9).use = .erasing 5 ∧ cisReason .mouldDelete (op0 3 0 0 6) = some 0x8A := by decide +kernel
theorem test_mould_write_unsound : cisReason .mouldWrite (op0 2 0x4000 64 0) = some 0x8A := by decide +kernel
theorem test_cis_complete : (run .cisOpComplete (sCis { op0 3 0 0 5 with reason := some 0x8A })).rget CisOp.REASON = 0x8A := by decide +kernel
def write0 : MouldWrite := ⟨6, 0, 1, 4, 0, false, body0, .op⟩
def sWrite : State := { sMould with cis := { sMould.cis with writes := [write0] } }
theorem witness_mould_commit : sWrite.cis.writes.find? (fun x => x.index == write0.index) = some write0 ∧ sWrite.rget CisCtrl.KEEP = 0 := by
  decide +kernel
theorem test_mould_commit : (run (.mouldCommit 6) sWrite).rget Mould.STATE 6 = 2 ∧ (run (.mouldCommit 6) sWrite).rget Mould.SERIAL 6 = 1 := by
  decide +kernel
def sErase : State :=
  let s := sMould.rput Mould.STATE 5 4
  { s with cistern := { s.cistern with sbs := [(9, sb0 (.erasing 5))] } }
theorem test_mould_erased : (run (.mouldEraseDone 5) sErase).rget Mould.STATE 5 = 0 ∧ ((run (.mouldEraseDone 5) sErase).sb 9).erases = 8 := by
  decide +kernel
/-- The patrol has read the system area and comes to superblock 9. -/
def sPatrol : State := { sMould with cis := { sMould.cis with patrolled := List.range 7 } }
theorem witness_cis_patrol : sPatrol.nextPatrol = some 9 ∧ sMould.nextPatrol = some 0 := by decide +kernel
theorem test_cis_patrol : ((run (.cisPatrol 9 .clean) sPatrol).sb 9).due = true ∧ ((run (.cisPatrol 9 .clean) sPatrol).sb 9).reads = 100048 := by
  decide +kernel
/-- A MOULD_READ that meets a lost codeword: the mould is DAMAGED, and the operation completes with 0x89 (16, R513, R529). -/
theorem test_mould_lost : let s := run (.cisPatrol 9 .lost) (sCis (op0 1 0x4000 4 5))
    s.rget Mould.STATE 5 = 3 ∧ ((run .mouldRead s).cis.op.bind (·.reason)) = some 0x89 := by decide +kernel
theorem witness_reads_mould : (sCis (op0 1 0x4000 4 5)).readsMould 9 = true ∧ sMould.readsMould 9 = false := by decide +kernel
/-- Two writes of HIGH_SVN; when the newer copy is lost, the older one counts (16, R511). -/
theorem test_copies : (((sMould.writeItem (.svn 3)).writeItem (.svn 5)).loseCopy .svn true).highSvn = 3 ∧
    ((((sMould.writeItem (.svn 3)).writeItem (.svn 5)).loseCopy .svn true).loseCopy .svn true).highSvn = 255 := by decide +kernel
theorem test_channel_lost : (run (.cisChannelLost (some 15)) sWrite).cisState = 2 ∧ (run (.cisChannelLost none) sWrite).cis.writes = [] := by
  decide +kernel

/-! ## Start, power, time and pins -/

def sDark (h : Option StopCause) : State := { sCh with power := { sCh.power with running := false, holdUp := h } }
def sUp : State := { sCh with power := { sCh.power with perst := false } }

theorem test_power_fail : (run (.powerFail 33999) sUp).power.holdUp = some .powerFail ∧ (run (.powerFail 33999) sUp).tsq.threads = [] ∧
    (run (.powerFail 34000) sUp).power.running = true := by decide +kernel
theorem test_over_voltage : (run (.overVoltageStop 46001) sUp).power.holdUp = some .overVoltage ∧
    (run (.overVoltageStop 46000) sUp).power.running = true := by decide +kernel
theorem test_thermtrip : (run .thermtrip sUp).power.thermtrip = true ∧ (run .thermtrip sUp).linkUp = false := by decide +kernel
theorem test_thermtrip_clears : (run (.powerFail 0) { sDark none with power := { (sDark none).power with thermtrip := true } }).power.thermtrip = false := by
  decide +kernel
theorem test_hold_up_end : ((run .holdUpEnd (sDark (some .powerFail))).cistern.torn.map (·.cause)) = some .powerFail := by decide +kernel
theorem test_power_good : (run .powerGood (sDark none)).power.running = true ∧ (run .powerGood (sDark none)).booted 1 = false := by decide +kernel
theorem test_perst : (run (.perstNAssert true) sUp).power.perst = true ∧ ((run (.perstNAssert true) sUp).cistern.torn.map (·.cause)) = some .reset ∧
    (run .perstNDeassert { sUp with power := { sUp.power with perst := true } }).power.perst = false := by decide +kernel
/-- A boot at which orders `ns` are complete. -/
def sBoot (ns : List Nat) : State := { sUp with security := { sUp.security with orders := ns } }
theorem witness_orders : (sBoot []).orderReady 1 = true ∧ (sBoot [1]).orderReady 3 = true ∧ (sBoot [1, 2]).orderReady 4 = true ∧
    (sBoot [1, 2, 3, 4, 5, 6, 7, 8, 9]).orderReady 10 = true ∧ (sBoot [2]).booted 2 = true := by decide +kernel
theorem test_order_ten : (run (.bootOrderComplete 10) ((sBoot [1, 2, 3, 4, 5, 6, 7, 8, 9]).rput SecBoot.READY 0 0)).rbit SecBoot.READY = true := by
  decide +kernel
def sNoImage : State := { sBoot [1, 2] with cistern := { sUp.cistern with image := none } }
theorem test_host_load : (run (.bootOrderComplete 4) sNoImage).rbit SecBoot.HOST_LOAD = true := by decide +kernel

theorem test_input_band : (run (.inputBandChange 35999) sUp).rbit PwrStatus.LOW_INPUT = true ∧ (run (.inputBandChange 36000) sUp).rbit PwrStatus.LOW_INPUT = false ∧
    (run (.inputBandChange 44001) sUp).rbit PwrStatus.HIGH_INPUT = true := by decide +kernel
theorem witness_cap : sUp.rget PwrStatus.VCAP ≤ 760 ∧ 560 ≤ sUp.rget PwrStatus.VCAP ∧ sUp.capW < 65535 ∧ 100 * 0 < 98 * sUp.capW := by decide +kernel
theorem test_cap : (run (.capTick 65535) sUp).rget PwrStatus.VCAP = 755 ∧ (run (.capTick 65535) sUp).rbit PwrStatus.CAP_ACTIVE = true ∧
    (run (.capTick 0) (sUp.rput PwrStatus.VCAP 0 758)).rget PwrStatus.VCAP = 760 := by decide +kernel
def sFloor : State := { sUp.rput TbsTime.ALL 0 10000000 with power := { sUp.power with floorAt := some 0, above := true } }
theorem test_cap_unmet : (run .capUnmet sFloor).rbit PwrStatus.CAP_UNMET = true ∧
    (run .capUnmet (sFloor.rput TbsTime.ALL 0 9999999)).rbit PwrStatus.CAP_UNMET = false := by decide +kernel
theorem witness_thermal : sUp.tjLimit < 255 ∧ sUp.ceilingStood 31 100000 = true ∧ sUp.ceiling 31 ≤ 760 ∧
    0 + 2 ≤ sUp.tjLimit := by decide +kernel
theorem test_thermal : (run (.thermalTick 31 255) sUp).ceiling 31 = 755 ∧ (run (.thermalTick 31 255) sUp).rbit PwrStatus.THERMAL_ACTIVE = true ∧
    (run (.thermalTick 31 255) (run (.thermalTick 31 255) sUp)).ceiling 31 = 755 := by decide +kernel
theorem test_rail : (run (.railStep 31) (sUp.rput PwrRegion.VAPPLIED 31 700)).rget PwrRegion.VAPPLIED 31 = 705 := by decide +kernel
theorem test_reference : (run .refLost sUp).rbit TbsStatus.REF_LOST = true ∧ (run .refReturn (run .refLost sUp)).rbit TbsStatus.REF_LOST = false := by
  decide +kernel
theorem test_presence : (run .presenceAssert (sBoot [2])).rbit SecState.PRESENCE = true ∧ (run .sealBroken (sBoot [2])).fuses.broken = true := by
  decide +kernel
def sPresent : State := { (sBoot [2]).rput SecState.PRESENCE 0 1 with security := { (sBoot [2]).security with present := true } }
theorem test_presence_window : (run .presenceDeassert sPresent).security.windowEnd = 30000000000 ∧
    (run .presenceWindowExpire (run .presenceDeassert sPresent)).rbit SecState.PRESENCE = true ∧
    (run .presenceWindowExpire { sPresent with security := { sPresent.security with present := false } }).rbit SecState.PRESENCE = false := by
  decide +kernel
theorem test_debug : (run (.debugAccess .halt) (sUp.rput SecState.DEBUG_UNLOCKED 0 1)).security.halted = true ∧
    (run (.debugAccess (.scan 0)) (sUp.rput SecState.DEBUG_UNLOCKED 0 1)).security.debug = [] ∧
    List.length (run (.debugAccess (.scan 0)) { sUp with fuses := ⟨0, 0, true⟩ }).security.debug = 1 := by decide +kernel
theorem test_pins : (run (.debugHalt true) sUp).security.dbgLow = true ∧ (run (.dynamicAddressAssignment 0x21) sUp).security.i3c = 0x21 ∧
    (run .tbsSlewDone (sUp.rput TbsStatus.SLEWING 0 1)).rbit TbsStatus.SLEWING = false := by decide +kernel

/-! ## The host link and the SPDM responder -/

def sDown : State := (sBoot [1, 3]).rput HubLink.SPEED 0 0
theorem test_link_trains : (run (.hostLinkTrained 16 2) sDown).linkUp = true ∧ (run (.hostLinkTrained 16 2) sDown).rget HubLink.RETRAINS = 1 := by
  decide +kernel
theorem test_link_degrades : (run (.hostLinkDegraded 8 1) sUp).rget HubLink.WIDTH = 8 ∧ (run .hostLinkDown sUp).linkUp = false := by decide +kernel
def dec0 : HdmDecoder := ⟨0x1000, 0x1000, 1⟩
theorem test_decoders : (run (.cxlCacheMemEnable true true [dec0]) sUp).link.decoders = [some dec0, none] := by decide +kernel
/-- A decoder maps 0x1000 to the first 4 KiB of HBM. -/
def sHdm : State := { sUp.rput HubLink.MEM_EN 0 1 with link := { sUp.link with decoders := [some dec0, none] } }
theorem witness_hdm : sHdm.memOpen = true ∧ sHdm.hdmAddress 0x1FC0 = some 0xFC0 ∧ sHdm.hdmAddress 0x2000 = none ∧ sHdm.hdmAddress 0xFC0 = none := by
  decide +kernel
theorem test_hdm_unmapped : exec (.hdmRead 0x2000) sHdm = .fault .unmapped := by rfl
theorem test_hdm_write : (run (.hdmWrite 0x1FC0 [7] true true) sHdm).peek 0xFC0 1 = [7] ∧
    (run (.hdmWrite 0x1FC0 [7] true true) sHdm).poison = [63] ∧ (run (.hdmRead 0x1FC0) sHdm).tiers.snoop = [63] := by decide +kernel
/-- An established session, and key sets. -/
def sKeys (k : IdeKeys) : State :=
  { sUp with
    link := { sUp.link with ide := [((.io, .transmit), k), ((.io, .receive), k)] }
    security := { sUp.security with spdm := { sUp.security.spdm with sessions := [(9, true)] } } }
theorem witness_keys : (sKeys ⟨some false, some true, none, false⟩).ideKm = true ∧
    ((sKeys ⟨some false, some true, none, false⟩).keys .io .receive).current ≠ some true := by decide +kernel
theorem test_key_prog : (run (.keyProg .io .receive true) (sKeys ⟨some false, none, none, false⟩)).keys .io .receive = ⟨some false, some true, none, false⟩ ∧
    ((run (.keyProg .io .receive false) (sKeys ⟨some false, none, none, false⟩)).security.spdm.out.map (·.error)) = [some 3] := by decide +kernel
theorem test_key_go : (run (.kSetGo .io .receive) (sKeys ⟨some false, some true, none, false⟩)).keys .io .receive = ⟨some true, none, some false, false⟩ ∧
    ((run (.kSetGo .io .transmit) (sKeys ⟨some false, some true, none, false⟩)).keys .io .transmit).waiting = true := by decide +kernel
theorem test_key_switch : (run (.ideKeySwitch .io) (sKeys ⟨some false, some true, none, true⟩)).keys .io .transmit = ⟨some true, none, none, false⟩ := by
  decide +kernel
theorem test_item : (run (.cxlItemReceive .io ⟨true, true⟩) (sKeys ⟨some true, none, some false, false⟩)).keys .io .receive = ⟨some true, none, none, false⟩ ∧
    (run (.cxlItemReceive .io ⟨false, false⟩) (sKeys ⟨some true, none, none, false⟩)).rget HubLink.IDE_FAILS = 1 := by decide +kernel

def q0 : SpdmRef := ⟨false, 0⟩
def sSpdm : State :=
  { sKeys ⟨none, none, none, false⟩ with
    security := { sUp.security with
      identity := false, spdm := { sUp.security.spdm with negotiated := true, sessions := [(9, true), (8, false)] } }
    cistern := { sUp.cistern with cert := some [1, 2, 3] } }
/-- The error and the bytes of the answer to a request. -/
def told (c : Instr) : List (Nat × Option Nat × List Byte) :=
  (run c sSpdm).security.spdm.out.map fun r => (r.request, r.error, r.bytes)
theorem witness_spdm : sSpdm.hears q0 = true ∧ sSpdm.hears ⟨true, 9⟩ = true ∧ sSpdm.established 9 = true ∧
    sSpdm.security.spdm.negotiated = true ∧ sSpdm.cistern.cert = some [1, 2, 3] ∧ look 8 sSpdm.security.spdm.sessions = some false := by decide +kernel
theorem test_version : told (.getVersion q0) = [(0x84, none, [0x12, 0x13])] ∧ told (.getCapabilities q0) = [(0xE1, none, [])] := by decide +kernel
theorem test_algorithms : told (.negotiateAlgorithms q0 0x13 true) = [(0xE3, none, [])] ∧
    told (.negotiateAlgorithms q0 0x11 true) = [(0xE3, some 0x41, [])] := by decide +kernel
theorem test_certificate : told (.getCertificate q0 1 1 5) = [(0x82, none, [2, 3])] ∧
    told (.getCertificate q0 2 0 5) = [(0x82, some 0x01, [])] := by decide +kernel
theorem test_measurements : told (.getMeasurements q0 0 false []) = [(0xE0, none, [5])] ∧
    told (.getMeasurements q0 6 true (List.replicate 32 0)) = [(0xE0, some 0x01, [])] := by decide +kernel
theorem test_busy_before_key : told (.keyExchange q0 7 true) = [(0xE4, some 0x03, [])] := by decide +kernel
theorem test_sessions : told (.spdmHeartbeat q0 9) = [(0xE8, none, [])] ∧ told (.keyUpdate q0 9) = [(0xE9, none, [])] ∧
    told (.endSession q0 9) = [(0xEC, none, [])] ∧ told (.finish q0 8 false) = [(0xE5, some 0x01, [])] := by decide +kernel
theorem test_set_certificate : told (.setCertificate q0 1 [9]) = [(0xEE, some 0x01, [])] := by decide +kernel

/-! ## The whole block -/

theorem test_step_front : step { sCh with pending := [.bulk (frm 13), .refLost] } =
    exec (.bulk (frm 13)) { sCh with pending := [.refLost] } := rfl
theorem test_step_idle : (match step sUp with
    | .next u => u.now
    | _ => 0) = 1 := by decide +kernel
theorem witness_sound : State.reset.Sound :=
  ⟨by decide, by decide, by decide, fun _ h => (List.not_mem_nil h).elim, fun _ h => nomatch h⟩
theorem witness_fuses : State.reset.Sound ∧ ∃ u, step State.reset = .next u := ⟨witness_sound, _, rfl⟩
theorem witness_footprint : ends .refLost State.reset = true := by decide +kernel

end Sys2Proof.Tests
end

section
/-!
Proofs about scalar instructions that write a register or a predicate of their thread: the integer and predicate
instructions (12, R385) and the reads of gauges and of the far exchange (12, R411, R412).
-/
namespace Sys2Proof.Machine

/-! ## Integer and predicate instructions (12, R385) -/

section
variable {s : State} {t : ThreadRef} {th : Thread} {f : FormS}

/-- An instruction that writes one general register goes on with its value in g[DST]. -/
theorem State.Leaves.of_regWrite {c : Instr} {defined : Bool} {value : Thread → Word} {v : Word}
    (hi : s.Issues t th 8 f.pe f.pn f.pi 0) (hc : exec c s = regWrite t f defined value s) (hd : defined = true)
    (hv : value th = v) : s.Leaves c t ((th.setReg f.dst v).advance 8) :=
  .of_scalar hi hc hd (by rw [hv]; rfl)

/-! What each instruction leaves in its thread, under a function code that it defines. -/

theorem iadd_leaves (hi : s.Issues t th 8 f.pe f.pn f.pi 0) (hfn : fnLow f ≤ 4) :
    s.Leaves (.iadd t f) t ((th.setReg f.dst (addResult (fnLow f) (opA f th) (opB f th))).advance 8) :=
  .of_regWrite hi rfl (decide_eq_true hfn) rfl

theorem ilogic_leaves (hi : s.Issues t th 8 f.pe f.pn f.pi 0) (hfn : fnLow f ≤ 3) :
    s.Leaves (.ilogic t f) t ((th.setReg f.dst (logicResult (fnLow f) (opA f th) (opB f th))).advance 8) :=
  .of_regWrite hi rfl (decide_eq_true hfn) rfl

theorem ishift_leaves (hi : s.Issues t th 8 f.pe f.pn f.pi 0) (hfn : fnLow f ≤ 3) :
    s.Leaves (.ishift t f) t ((th.setReg f.dst (shiftResult (fnLow f) (opA f th) (opB f th))).advance 8) :=
  .of_regWrite hi rfl (decide_eq_true hfn) rfl

theorem imovi_leaves (hi : s.Issues t th 8 f.pe f.pn f.pi 0) (hfn : fnLow f ≤ 1) :
    s.Leaves (.imovi t f) t ((th.setReg f.dst (moviResult (fnLow f) (th.reg f.dst) f.imm)).advance 8) :=
  .of_regWrite hi rfl (decide_eq_true hfn) rfl

theorem icmp_leaves (hi : s.Issues t th 8 f.pe f.pn f.pi 0) (hfn : fnLow f ≤ 5) (hp : f.dst.toNat < 8) :
    s.Leaves (.icmp t f) t ((th.setPred (low3 f.dst) (compareResult (fnLow f) (opA f th) (opB f th))).advance 8) :=
  .of_scalar hi rfl (by simp [isPred, hfn, hp]) rfl

/-- PLOGIC goes on when the predicates that its FN uses exist (R376). -/
theorem plogic_leaves (hi : s.Issues t th 8 f.pe f.pn f.pi 0) (hfn : fnLow f ≤ 4) (hp : f.dst.toNat < 8)
    (h1 : fnLow f < 4 → f.src1.toNat < 8) (h2 : fnLow f < 3 → f.src2.toNat < 8) :
    s.Leaves (.plogic t f) t ((th.setPred (low3 f.dst) (plogicResult f th)).advance 8) := by
  have hd : plogicDefined f = true := by
    simp only [plogicDefined, isPred, Bool.and_eq_true, Bool.or_eq_true, decide_eq_true_eq]
    omega
  exact .of_scalar hi rfl hd rfl

/-! A result that the table gives is the one that the model computes, under a function code that it defines. -/

theorem addResult_of_table {fn : Nat} {a b v : Word} (h : (fn = 0 ∧ v = a + b) ∨ (fn = 1 ∧ v = a - b) ∨ (fn = 2 ∧ v = a * b) ∨
    (fn = 3 ∧ v = BitVec.ofInt 64 (a.toInt * b.toInt / 2 ^ 64)) ∨
    (fn = 4 ∧ v = BitVec.ofNat 64 (a.toNat * b.toNat / 2 ^ 64))) : fn ≤ 4 ∧ addResult fn a b = v := by
  rcases h with ⟨rfl, rfl⟩ | ⟨rfl, rfl⟩ | ⟨rfl, rfl⟩ | ⟨rfl, rfl⟩ | ⟨rfl, rfl⟩ <;> exact ⟨by decide, rfl⟩

theorem logicResult_of_table {fn : Nat} {a b v : Word} (h : (fn = 0 ∧ v = a &&& b) ∨ (fn = 1 ∧ v = a ||| b) ∨
    (fn = 2 ∧ v = a ^^^ b) ∨ (fn = 3 ∧ v = a &&& ~~~b)) : fn ≤ 3 ∧ logicResult fn a b = v := by
  rcases h with ⟨rfl, rfl⟩ | ⟨rfl, rfl⟩ | ⟨rfl, rfl⟩ | ⟨rfl, rfl⟩ <;> exact ⟨by decide, rfl⟩

theorem shiftResult_of_table {fn : Nat} {a b v : Word} (h : (fn = 0 ∧ v = a <<< (b.toNat % 64)) ∨ (fn = 1 ∧ v = a >>> (b.toNat % 64)) ∨
    (fn = 2 ∧ v = a.sshiftRight (b.toNat % 64)) ∨ (fn = 3 ∧ v = a.rotateLeft (b.toNat % 64))) :
    fn ≤ 3 ∧ shiftResult fn a b = v := by
  rcases h with ⟨rfl, rfl⟩ | ⟨rfl, rfl⟩ | ⟨rfl, rfl⟩ | ⟨rfl, rfl⟩ <;> exact ⟨by decide, rfl⟩

theorem moviResult_of_table {fn : Nat} {old : Word} {imm : BitVec 32} {v : Word}
    (h : (fn = 0 ∧ v = imm.signExtend 64) ∨ (fn = 1 ∧ v = imm ++ old.truncate 32)) : fn ≤ 1 ∧ moviResult fn old imm = v := by
  rcases h with ⟨rfl, rfl⟩ | ⟨rfl, rfl⟩ <;> exact ⟨by decide, rfl⟩

/-- The orders of the integers and of the naturals are those of the signed and unsigned comparisons of words. -/
theorem compareResult_of_table {fn : Nat} {a b : Word} {v : Bool} (h : (fn = 0 ∧ (v = true ↔ a = b)) ∨ (fn = 1 ∧ (v = true ↔ a ≠ b)) ∨
    (fn = 2 ∧ (v = true ↔ a.toInt < b.toInt)) ∨ (fn = 3 ∧ (v = true ↔ b.toInt ≤ a.toInt)) ∨
    (fn = 4 ∧ (v = true ↔ a.toNat < b.toNat)) ∨ (fn = 5 ∧ (v = true ↔ b.toNat ≤ a.toNat))) :
    fn ≤ 5 ∧ compareResult fn a b = v := by
  rw [Bool.eq_iff_iff]
  rcases h with ⟨rfl, hv⟩ | ⟨rfl, hv⟩ | ⟨rfl, hv⟩ | ⟨rfl, hv⟩ | ⟨rfl, hv⟩ | ⟨rfl, hv⟩ <;>
    simp [compareResult, hv, BitVec.slt, BitVec.ult]

theorem plogicResult_of_table {v : Bool} (h : (fnLow f = 0 ∧ v = (th.pred (low3 f.src1) && th.pred (low3 f.src2))) ∨
    (fnLow f = 1 ∧ v = (th.pred (low3 f.src1) || th.pred (low3 f.src2))) ∨
    (fnLow f = 2 ∧ v = (th.pred (low3 f.src1) ^^ th.pred (low3 f.src2))) ∨ (fnLow f = 3 ∧ v = !th.pred (low3 f.src1)) ∨
    (fnLow f = 4 ∧ v = (opA f th).getLsbD (f.imm.toNat % 64))) : fnLow f ≤ 4 ∧ plogicResult f th = v := by
  rcases h with ⟨hfn, rfl⟩ | ⟨hfn, rfl⟩ | ⟨hfn, rfl⟩ | ⟨hfn, rfl⟩ | ⟨hfn, rfl⟩ <;> simp [plogicResult, hfn]

end

/-- Settles O1: each instruction leaves the model's result, which is the table's. -/
theorem integerInstructionsCompute : Obligations.IntegerInstructionsCompute := by
  intro s t th f hi
  refine ⟨fun v h => ?_, fun v h => ?_, fun v h => ?_, fun v h hp => ?_, fun v h => ?_, fun v h hp h1 h2 => ?_⟩
  · obtain ⟨hfn, rfl⟩ := addResult_of_table h
    exact iadd_leaves hi hfn
  · obtain ⟨hfn, rfl⟩ := logicResult_of_table h
    exact ilogic_leaves hi hfn
  · obtain ⟨hfn, rfl⟩ := shiftResult_of_table h
    exact ishift_leaves hi hfn
  · obtain ⟨hfn, rfl⟩ := compareResult_of_table h
    exact icmp_leaves hi hfn hp
  · obtain ⟨hfn, rfl⟩ := moviResult_of_table h
    exact imovi_leaves hi hfn
  · obtain ⟨hfn, rfl⟩ := plogicResult_of_table h
    exact plogic_leaves hi hfn hp h1 h2

/-! ## Gauge and exchange reads (12, R411, R412) -/

section
variable {s : State} {t : ThreadRef} {th : Thread} {f : FormS}

/-- A fetch moves no rung. -/
theorem State.fetched_rungOf (n c : Nat) : (s.fetched t th n).rungOf c = s.rungOf c := by
  obtain ⟨-, -, hrungs⟩ := (s.fetched_only t th n).2.1 .gates (by simp)
  simp only [State.rungOf, hrungs]

/-- A fetch moves no round engine binding. -/
theorem State.fetched_roundOf (n c : Nat) : (s.fetched t th n).roundOf c = s.roundOf c := by
  simp (disch := decide) only [State.roundOf, State.isAllocated, State.fetched_hub, State.fetched_isOn, State.fetched_rget]

theorem exchangeResult_fetched (n fn c : Nat) : exchangeResult (s.fetched t th n) fn c = exchangeResult s fn c := by
  simp (disch := decide) only [exchangeResult, State.fetched_roundOf, State.fetched_rget]

theorem gaugeField_tab (fn : Nat) : (gaugeField fn).tab = .gauge := by
  unfold gaugeField
  split <;> rfl

theorem gread_leaves (hi : s.Issues t th 8 f.pe f.pn f.pi 0) (hfn : f.fn.toNat ≤ 7)
    (hcount : (immNum f).toNat < s.rget Ctx.GAUGE_COUNT th.ctxIx) :
    s.Leaves (.gread t f) t ((th.setReg f.dst
      (BitVec.ofNat 64 (s.rget (gaugeField f.fn.toNat) (s.rget Ctx.GAUGE_BASE th.ctxIx + (immNum f).toNat)))).advance 8) := by
  apply State.Leaves.of_scalar hi rfl (decide_eq_true hfn)
  have hfield : ∀ i, (s.fetched t th 8).rget (gaugeField f.fn.toNat) i = s.rget (gaugeField f.fn.toNat) i :=
    fun i => State.fetched_rget (by rw [gaugeField_tab]; decide)
  simp (disch := decide) only [State.fetched_rget, hfield, hcount, if_true, State.retire]

theorem grung_leaves (hi : s.Issues t th 8 f.pe f.pn f.pi 0) :
    s.Leaves (.grung t f) t ((th.setReg f.dst (BitVec.ofNat 64 (s.rungOf th.ctxIx).rung)).advance 8) := by
  apply State.Leaves.of_scalar hi rfl rfl
  simp only [State.fetched_rungOf, State.retire]

theorem xstat_leaves (hi : s.Issues t th 8 f.pe f.pn f.pi 0) (hfn : f.fn.toNat ≤ 2) :
    s.Leaves (.xstat t f) t ((th.setReg f.dst (exchangeResult s f.fn.toNat th.ctxIx)).advance 8) := by
  apply State.Leaves.of_scalar hi rfl (decide_eq_true hfn)
  simp only [exchangeResult_fetched, State.retire]

/-- The gauge fields in the order of their function codes (R411). -/
theorem gaugeField_of_table {fn : Nat} {fld : Fld} (h : [Gau.LAST_OBSERVED, Gau.LAST_ZEROS, Gau.LAST_UNDER, Gau.LAST_SATS,
    Gau.LAST_NONFINITE, Gau.LAST_AMAX, Gau.LAST_ATTEMPT, Gau.TRIP_RUN][fn]? = some fld) :
    fn ≤ 7 ∧ gaugeField fn = fld := by
  obtain ⟨hlt, rfl⟩ := List.getElem?_eq_some_iff.mp h
  change fn < 8 at hlt
  interval_cases fn <;> exact ⟨by decide, rfl⟩

/-- Binding `m` is a round engine binding that is ON for context `c`. -/
def State.ServesRound (s : State) (c m : Nat) : Prop :=
  s.isAllocated .round m = true ∧ s.isOn .round m = true ∧ s.rget Round.CONTEXT m = c

theorem State.roundOf_eq_none {c : Nat} (h : ∀ m, m < 64 → ¬ s.ServesRound c m) : s.roundOf c = none := by
  simpa [State.roundOf, State.ServesRound] using h

theorem State.lt_and_servesRound_of_roundOf {c m : Nat} (h : s.roundOf c = some m) : m < 64 ∧ s.ServesRound c m := by
  have hm := List.mem_range.mp (List.mem_of_find?_eq_some h)
  have hp := List.find?_some h
  simp only [Bool.and_eq_true, beq_iff_eq] at hp
  obtain ⟨⟨ha, ho⟩, hc⟩ := hp
  exact ⟨hm, ha, ho, hc⟩

/-- The only binding that serves a context is the one that the model finds. -/
theorem State.roundOf_eq_some {c n : Nat} (hn : n < 64) (h : ∀ m, m < 64 → (s.ServesRound c m ↔ m = n)) :
    s.roundOf c = some n := by
  cases hr : s.roundOf c with
  | none =>
    have := List.find?_eq_none.mp hr n (List.mem_range.mpr hn)
    obtain ⟨ha, ho, hc⟩ := (h n hn).mpr rfl
    simp [ha, ho, hc] at this
  | some m =>
    obtain ⟨hm, hserves⟩ := State.lt_and_servesRound_of_roundOf hr
    rw [(h m hm).mp hserves]

theorem exchangeResult_of_table {c n r : Nat} {fn : BitVec 4} (hr : s.roundOf c = some n)
    (h : (fn = 0 ∧ r = s.rget Round.ROUND n) ∨ (fn = 1 ∧ r = s.rget Round.APPLIED n) ∨ (fn = 2 ∧ r = s.rget Round.STATE n)) :
    fn.toNat ≤ 2 ∧ exchangeResult s fn.toNat c = BitVec.ofNat 64 r := by
  rcases h with ⟨rfl, rfl⟩ | ⟨rfl, rfl⟩ | ⟨rfl, rfl⟩ <;> simp [exchangeResult, hr]

end

/-- Settles O10: a fetch moves none of the fields that GREAD, GRUNG and XSTAT read. -/
theorem gaugeAndExchangeReads : Obligations.GaugeAndExchangeReads := by
  intro s t th f hi
  refine ⟨fun fld hfld hcount => ?_, grung_leaves hi, fun n r hn hserves hr => ?_, fun hnone hfn => ?_⟩
  · obtain ⟨hfn, rfl⟩ := gaugeField_of_table hfld
    exact gread_leaves hi hfn hcount
  · obtain ⟨hfn, hv⟩ := exchangeResult_of_table (State.roundOf_eq_some hn hserves) hr
    exact hv ▸ xstat_leaves hi hfn
  · have hv : exchangeResult s f.fn.toNat th.ctxIx = BitVec.allOnes 64 := by
      simp only [exchangeResult, State.roundOf_eq_none (c := th.ctxIx) hnone]
    exact hv ▸ xstat_leaves hi hfn

end Sys2Proof.Machine
end
